-- ==== Sys2Proof/Word.lean ====
section
/-! DEFINITION. Words: the bit-vector types of the machine and a half-open range of naturals. -/

namespace Sys2Proof

/-- One byte of memory. -/
abbrev Byte := BitVec 8
/-- One lane of a vector register, a mask register, a modifier word (spec/05 R80). -/
abbrev W32 := BitVec 32
/-- A scalar register (spec/05 R80). -/
abbrev W64 := BitVec 64
/-- A virtual address: 56 bits (spec/01 R11). -/
abbrev VA := BitVec 56
/-- An instruction word: 96 bits (spec/03 R39). -/
abbrev IWord := BitVec 96

end Sys2Proof
end

