-- ==== Sys2Proof/Machine/Map.lean ====
section
/-! DEFINITION. Map: finite maps by natural key, held as a list of key and value pairs with strictly rising keys, so that
equal maps are equal lists; and the default-valued maps (a register file, a memory) that list no key at its default. -/

namespace Sys2Proof

/-- A finite map from naturals; its canonical form is `SMap.wf`. -/
abbrev SMap (α : Type) := List (Nat × α)

namespace SMap

variable {α : Type}

def get? (m : SMap α) (k : Nat) : Option α :=
  match m with
  | [] => none
  | (k', v) :: t => if k = k' then some v else get? t k

def set (m : SMap α) (k : Nat) (v : α) : SMap α :=
  match m with
  | [] => [(k, v)]
  | (k', v') :: t =>
    if k < k' then (k, v) :: (k', v') :: t else if k = k' then (k, v) :: t else (k', v') :: set t k v

def erase (m : SMap α) (k : Nat) : SMap α :=
  match m with
  | [] => []
  | (k', v') :: t => if k = k' then erase t k else (k', v') :: erase t k

/-- The value at a key, or the default of an unlisted key. -/
def getD (m : SMap α) (d : α) (k : Nat) : α := (m.get? k).getD d

/-- Write a value; the default value unlists its key. -/
def setD [DecidableEq α] (m : SMap α) (d : α) (k : Nat) (v : α) : SMap α := if v = d then m.erase k else m.set k v

/-- Change the value at a listed key. -/
def modify (m : SMap α) (k : Nat) (f : α → α) : SMap α :=
  match m.get? k with
  | some v => m.set k (f v)
  | none => m

def has (m : SMap α) (k : Nat) : Bool := (m.get? k).isSome

/-- Keep the entries whose key and value satisfy `p`. -/
def filterE (m : SMap α) (p : Nat → α → Bool) : SMap α := m.filter fun e => p e.1 e.2

/-- Apply `f` to every value. -/
def mapV (m : SMap α) (f : Nat → α → α) : SMap α := m.map fun e => (e.1, f e.1 e.2)

/-- The lowest key from `lo` up to `lo + n` that is not listed. -/
def freeKey (m : SMap α) (lo n : Nat) : Option Nat := ((List.range n).map (lo + ·)).find? fun k => !m.has k

/-- One more than the highest key. -/
def nextKey (m : SMap α) : Nat := m.foldl (fun a e => max a (e.1 + 1)) 0

/-- Canonical form: keys strictly rising. -/
def wf (m : SMap α) : Bool :=
  match m with
  | [] => true
  | (k, _) :: t => t.all (fun e => decide (k < e.1)) && wf t

/-- Canonical form of a default-valued map: keys strictly rising, and no entry at the default. -/
def wfD [DecidableEq α] (m : SMap α) (d : α) : Bool := m.wf && m.all fun e => decide (e.2 ≠ d)

end SMap

/-- Fold over the lanes of a mask in ascending order (spec/08 R170). -/
def foldLanes {β : Type} (mask : BitVec 32) (b : β) (f : β → Nat → β) : β :=
  (List.range 32).foldl (fun b l => if mask.getLsbD l then f b l else b) b

/-- The lanes of a mask, ascending. -/
def lanesOf (mask : BitVec 32) : List Nat := (List.range 32).filter fun l => mask.getLsbD l

/-- The mask with the lanes that satisfy `p`. -/
def maskOf (p : Nat → Bool) : BitVec 32 :=
  (List.range 32).foldl (fun m l => if p l then m ||| BitVec.ofNat 32 (2 ^ l) else m) 0

/-- Population count. -/
def popCount (n width : Nat) : Nat := ((List.range width).filter fun i => n.testBit i).length

/-- The lowest lane of a mask. -/
def lowLane (mask : BitVec 32) : Option Nat := (List.range 32).find? fun l => mask.getLsbD l

/-- Bits [hi:lo] of a natural. -/
def bitsN (x hi lo : Nat) : Nat := x / 2 ^ lo % 2 ^ (hi + 1 - lo)

/-- Sign extension of the low `w` bits of `x` to an integer. -/
def sextI (w x : Nat) : Int :=
  let y := x % 2 ^ w
  if 2 * y < 2 ^ w then (y : Int) else (y : Int) - 2 ^ w

/-- The low `w` bits of an integer, as a natural. -/
def wrapN (w : Nat) (x : Int) : Nat := (x % 2 ^ w).toNat

end Sys2Proof
end

