-- ==== Sys2Proof/Syntax.lean ====
section
/-! DEFINITION. Syntax: operand and type codes, one payload per instruction format (spec/03 R39 to R44), and Instr,
one constructor per row of spec/opcode_table.json. An instruction row carries the payload of its format; an event row
carries the unit it happens in and what arrives with it. -/

namespace Sys2Proof

/-- Operand kinds of spec/03 R45. -/
inductive Opnd where
  | v (n : Fin 256)   -- vector register
  | s (n : Fin 64)    -- scalar register
  | k (n : Fin 16)    -- mask register; k0 reads as the active mask
  | c (n : Fin 8)     -- condition flag
  | b (n : Fin 4)     -- latch, source only
  | zr                -- 348: reads zero, writes are discarded; the filler of an unused field
  | imm               -- 349: the IMM field
  deriving DecidableEq, Repr, Inhabited

/-- Type codes T and T2 of spec/03 R47. -/
inductive Ty where
  | n8 | i8 | n16 | i16 | n32 | i32 | n64 | i64
  | bf16 | f16 | f32 | e4m3 | e5m2 | e2m1b | v2i16 | v2n16
  deriving DecidableEq, Repr, Inhabited

/-- Rounding codes RM of spec/03 R48; code 7 is reserved and never decodes. -/
inductive Rm where
  | rne | rtz | rup | rdn | rna | sr | dyn
  deriving DecidableEq, Repr, Inhabited

/-- Scope codes of spec/03 R43. -/
inductive Scope where
  | grp | team | clu | dev | dom | sys
  deriving DecidableEq, Repr, Inhabited

/-- Order codes of spec/03 R43. -/
inductive Order where
  | plain | acq | rel | ar
  deriving DecidableEq, Repr, Inhabited

/-- Access widths of spec/03 R43, in bytes. -/
inductive Width where
  | w1 | w2 | w4 | w8 | w16
  deriving DecidableEq, Repr, Inhabited

/-- Atomic operations, OPC of spec/09 R194. -/
inductive AtomOp where
  | add | min | max | and | or | xor | exch | cas
  deriving DecidableEq, Repr, Inhabited

/-- Atomic operand kinds, KIND of spec/09 R194. -/
inductive AtomKind where
  | unsigned | signed | float
  deriving DecidableEq, Repr, Inhabited

/-- Branch conditions of spec/03 R44. -/
inductive Cond where
  | always | cset | cclr | kz | knz
  deriving DecidableEq, Repr, Inhabited

/-- Formats R and I (spec/03 R41, R42). `fmtI` is FMT = 1; then `imm` is the immediate, the short modifier gives
`ty rm sat`, and the fields of the format-R modifier word are their defaults. -/
structure AluW where
  fmtI : Bool := false
  g : Fin 16 := 0
  gn : Bool := false
  ws : Bool := false
  dst : Opnd := .zr
  a : Opnd := .zr
  b : Opnd := .zr
  c : Opnd := .zr
  fn : Fin 8 := 0
  ty : Ty := .n8
  rm : Rm := .rne
  sat : Bool := false
  t2 : Ty := .n8
  na : Bool := false
  aa : Bool := false
  nb : Bool := false
  ab : Bool := false
  nc : Bool := false
  ac : Bool := false
  xm : BitVec 12 := 0
  imm : BitVec 32 := 0
  deriving DecidableEq, Repr, Inhabited

/-- Format M (spec/03 R43): the control code and the ATOP field (spec/09 R194) are read by position, so the operand
field they stand in is `zr` here. `sub` is FN[33:32]: the cache hint, or the sub-operation of a synchronisation row. -/
structure MemW where
  g : Fin 16 := 0
  gn : Bool := false
  ws : Bool := false
  dst : Opnd := .zr
  a : Opnd := .zr
  b : Opnd := .zr
  c : Opnd := .zr
  width : Width := .w4
  order : Order := .plain
  sub : Fin 4 := 0
  scope : Scope := .grp
  scale : Fin 5 := 0
  opc : AtomOp := .add
  kind : AtomKind := .unsigned
  off : BitVec 32 := 0
  deriving DecidableEq, Repr, Inhabited

/-- Formats E and S (spec/03 R40): operands and an IMM whose fields the entry lays out. -/
structure EngW where
  g : Fin 16 := 0
  gn : Bool := false
  ws : Bool := false
  dst : Opnd := .zr
  a : Opnd := .zr
  b : Opnd := .zr
  c : Opnd := .zr
  imm : BitVec 32 := 0
  deriving DecidableEq, Repr, Inhabited

/-- Format B (spec/03 R44). `foff` is SPLIT's fusion-line offset, read by position from SRCC (spec/07 R156). -/
structure BrW where
  g : Fin 16 := 0
  gn : Bool := false
  ws : Bool := false
  dst : Opnd := .zr
  a : Opnd := .zr
  b : Opnd := .zr
  foff : BitVec 10 := 0
  cond : Cond := .always
  lineOff : BitVec 29 := 0
  slot : Fin 5 := 0
  deriving DecidableEq, Repr, Inhabited

/-- A transfer unit of a core whose page Shento maps (spec/10 R223). -/
inductive XferUnit where
  | stream (engine : Nat)
  | bcpy (id : Nat)
  | pen
  | coll (id : Nat)
  deriving DecidableEq, Repr

/-- An edit of a parked group's registers that the trap handler makes through Shento before Resume (spec/03 R57). -/
inductive RegEdit where
  | v (reg : Fin 256) (lane : Fin 32) (x : BitVec 32)
  | s (reg : Fin 64) (x : BitVec 64)
  | k (reg : Fin 16) (x : BitVec 32)
  | c (reg : Fin 8) (x : Bool)
  | fsr (x : BitVec 32)
  | sig (x : BitVec 32)               -- of the parked fragment
  | rgnpc (x : BitVec 56)
  | penwin (x : BitVec 10)
  deriving DecidableEq, Repr

/-- What Shento pre-empts, saves or resumes (spec/23 R392): a team with its cluster, or a whole context. -/
inductive Preemptee where
  | team (t : Nat)
  | ctx (c : Nat)
  deriving DecidableEq, Repr

/-- An access to the reserve word of a port that reserves nothing (spec/18 R318). -/
inductive PortAcc where
  | amo | load | store
  deriving DecidableEq, Repr

/-- Such an access of a context's conductor. -/
structure PortTry where
  ctx : Nat
  acc : PortAcc
  deriving DecidableEq, Repr

/-- What a conductor writes to its port (spec/18 R318): a command or nothing yet, with a slot that it reserves now or, by its
ticket, has reserved before. -/
structure PortWrite where
  cmd : Option (BitVec 512)
  ticket : Option Nat
  deriving DecidableEq, Repr

/-- An Access Register abstract command (spec/25 R413). -/
structure AccReg where
  regno : BitVec 16
  aarsize : Fin 8
  write : Bool
  transfer : Bool
  postexec : Bool
  value : BitVec 64
  deriving DecidableEq, Repr

/-- An Access Memory abstract command (spec/25 R413); `size` is log2 of the bytes. -/
structure AccMem where
  virt : Bool
  size : Fin 5
  write : Bool
  addr : BitVec 64
  value : BitVec 128
  deriving DecidableEq, Repr

/-- The matching COLL of another module and the source bytes it gives (spec/24 R399 to R401). -/
structure PeerIssue where
  module : Fin 64
  fn : Fin 4
  desc : BitVec 512
  src : List (BitVec 8)
  deriving DecidableEq, Repr

/-- What a cold boot finds (spec/26 R434): the public key, the two images, their signatures and versions, and Shento's configuration. -/
structure BootImage where
  key : List (BitVec 8)
  stage1 : List (BitVec 8)
  sig1 : List (BitVec 8)
  version : BitVec 32
  shento : List (BitVec 8)
  sigS : List (BitVec 8)
  shver : BitVec 32
  config : List (BitVec 8)
  deriving DecidableEq, Repr

/-- One constructor per row of spec/opcode_table.json: the instruction rows in the table's order, then the event rows. -/
inductive Instr where
  /-- NOP (R86). Occupies one issue slot and has no effect; latches written by earlier slots are kept. -/
  | nop
  /-- UDF (R50). Always traps as RI, whatever its fields hold. -/
  | udf
  /-- IADD (R87). Integer add per active lane, with optional saturation and packed forms. -/
  | iadd (w : AluW)
  /-- ISUB (R87). Integer subtract per active lane, with optional saturation. -/
  | isub (w : AluW)
  /-- IMUL (R87). Integer multiply, or with HI the upper half of the exact product. -/
  | imul (w : AluW)
  /-- IMAD (R87). Integer multiply-add a × b + c per active lane. -/
  | imad (w : AluW)
  /-- IDIV (R88). Integer division truncated toward zero, with the division-by-zero and overflow cases decided; it never traps. -/
  | idiv (w : AluW)
  /-- IREM (R88). Integer remainder that takes the dividend's sign, with the special cases decided. -/
  | irem (w : AluW)
  /-- IMIN (R87). Integer minimum per active lane. -/
  | imin (w : AluW)
  /-- IMAX (R87). Integer maximum per active lane. -/
  | imax (w : AluW)
  /-- IABS (R87). Integer absolute value of the SRCB source. -/
  | iabs (w : AluW)
  /-- INEG (R87). Integer negation of the SRCB source. -/
  | ineg (w : AluW)
  /-- AND (R89). Bitwise AND per active lane. -/
  | andI (w : AluW)
  /-- OR (R89). Bitwise OR per active lane. -/
  | orI (w : AluW)
  /-- XOR (R89). Bitwise exclusive OR per active lane. -/
  | xorI (w : AluW)
  /-- ANDN (R89). Bitwise a AND NOT b per active lane. -/
  | andn (w : AluW)
  /-- SHL (R90). Shift left by an unsigned amount; gives 0 when the amount reaches the width. -/
  | shl (w : AluW)
  /-- SHR (R90). Logical or arithmetic shift right according to the type's signedness. -/
  | shr (w : AluW)
  /-- ROT (R90). Rotate left by the amount modulo the width. -/
  | rot (w : AluW)
  /-- BFX (R91). Extracts a bit field given by offset and width, sign-extending it for signed types. -/
  | bfx (w : AluW)
  /-- BFI (R91). Inserts a bit field of a into b under a control word. -/
  | bfi (w : AluW)
  /-- POPC (R92). Counts the set bits of the source. -/
  | popc (w : AluW)
  /-- CLZ (R92). Counts the leading zero bits of the source. -/
  | clz (w : AluW)
  /-- BREV (R92). Reverses the bits of the source. -/
  | brev (w : AluW)
  /-- PERM (R93). Byte permute from an eight-byte pool under selector nibbles, with sign replication. -/
  | perm (w : AluW)
  /-- ICMP (R94). Integer compare under FN, writing mask bits of the active lanes or a condition flag. -/
  | icmp (w : AluW)
  /-- SEL (R95). Selects a or b per lane by mask bits, or by a flag in the scalar form. -/
  | sel (w : AluW)
  /-- LEA (R96). Forms an address as a + idx(b) × 2^shift, or base plus an immediate offset. -/
  | lea (w : AluW)
  /-- MOV (R97). Copies the SRCB source among vector, scalar, mask and flag kinds. -/
  | mov (w : AluW)
  /-- DP4I (R98). Four-byte integer dot product accumulated into c. -/
  | dp4i (w : AluW)
  /-- SAD (R98). Sum of absolute differences of bytes, halves or words. -/
  | sad (w : AluW)
  /-- SRD (R99). Reads a special register into a scalar or vector destination. -/
  | srd (w : EngW)
  /-- SWR (R99). Writes a writable special register, FSR or PENWIN, from a scalar source. -/
  | swr (w : EngW)
  /-- FADD (R116). Floating-point add, rounded once. -/
  | fadd (w : AluW)
  /-- FSUB (R116). Floating-point subtract, rounded once. -/
  | fsub (w : AluW)
  /-- FMUL (R116). Floating-point multiply, rounded once. -/
  | fmul (w : AluW)
  /-- FFMA (R116). Fused multiply-add a × b + c with one rounding. -/
  | ffma (w : AluW)
  /-- FMIN (R117). Floating-point minimum with the NaN and signed-zero rules; sets no flag. -/
  | fmin (w : AluW)
  /-- FMAX (R117). Floating-point maximum with the NaN and signed-zero rules; sets no flag. -/
  | fmax (w : AluW)
  /-- FCMP (R118). Floating-point compare under FN, writing mask bits or a flag; ordered relations raise NV on NaN. -/
  | fcmp (w : AluW)
  /-- FCLASS (R119). Writes a one-hot class word for the source value. -/
  | fclass (w : AluW)
  /-- FRCP (R120). Correctly rounded reciprocal. -/
  | frcp (w : AluW)
  /-- FRSQ (R120). Correctly rounded reciprocal square root. -/
  | frsq (w : AluW)
  /-- FSQRT (R120). Correctly rounded square root. -/
  | fsqrt (w : AluW)
  /-- FDIV (R120). Correctly rounded division with the special cases decided. -/
  | fdiv (w : AluW)
  /-- FEXP2 (R121). Correctly rounded 2^b. -/
  | fexp2 (w : AluW)
  /-- FLOG2 (R121). Correctly rounded log2 b. -/
  | flog2 (w : AluW)
  /-- FSIN (R121). Correctly rounded sin(π·b). -/
  | fsin (w : AluW)
  /-- FCOS (R121). Correctly rounded cos(π·b). -/
  | fcos (w : AluW)
  /-- FRND (R122). Rounds to an integral value of the same type, raising NX when the value changes. -/
  | frnd (w : AluW)
  /-- FDP2 (R123). Two-element bf16 or f16 dot product plus c into f32, rounded once. -/
  | fdp2 (w : AluW)
  /-- FDP4 (R123). Four-element e4m3 or e5m2 dot product plus c into f32, rounded once. -/
  | fdp4 (w : AluW)
  /-- FCOPYS (R124). Gives |a| with the sign of b. -/
  | fcopys (w : AluW)
  /-- FLDEXP (R124). Rounds a × 2^n. -/
  | fldexp (w : AluW)
  /-- FFREXP (R124). Gives the normalised fraction or the exponent of b. -/
  | ffrexp (w : AluW)
  /-- CVT (R126). Float-to-float conversion with element positions and merging through SRCA. -/
  | cvt (w : AluW)
  /-- CVTI (R127). Float-to-integer conversion with range and NaN handling. -/
  | cvti (w : AluW)
  /-- CVTF (R128). Integer-to-float conversion. -/
  | cvtf (w : AluW)
  /-- QPACK (R130). Quantises 32 lanes into one e2m1b block, choosing the scale and extra value under its mode. -/
  | qpack (w : AluW)
  /-- QUNPK (R131). Decodes an e2m1b block into one element per active lane. -/
  | qunpk (w : AluW)
  /-- RNG (R133). Writes the keyed counter generator value F(K, C). -/
  | rng (w : AluW)
  /-- RNGF (R134). Writes F(K, C) scaled to an f32 in [0, 1). -/
  | rngf (w : AluW)
  /-- KOP (R102). Bitwise mask operation under FN on the active lanes' bits. -/
  | kop (w : AluW)
  /-- KPOP (R103). Counts the set bits of a mask over the active lanes. -/
  | kpop (w : AluW)
  /-- KFFS (R103). Finds the lowest set bit of a mask over the active lanes. -/
  | kffs (w : AluW)
  /-- VOTE (R104). All, any or uniform vote of a mask into a flag. -/
  | vote (w : AluW)
  /-- SHFL (R105). Lane shuffle by index, up, down or xor. -/
  | shfl (w : AluW)
  /-- RDLANE (R106). Copies one lane of a vector register into a scalar register. -/
  | rdlane (w : AluW)
  /-- WRLANE (R106). Writes a scalar into one lane of a vector register when that lane is active. -/
  | wrlane (w : AluW)
  /-- GRED (R107). Group reduction over the active lanes, with f32 add combined over a fixed tree. -/
  | gred (w : AluW)
  /-- GSCAN (R107). Inclusive or exclusive prefix over the active lanes. -/
  | gscan (w : AluW)
  /-- MATCH (R108). Writes to each active lane the mask of active lanes holding an equal value. -/
  | matchI (w : AluW)
  /-- BR (R156). Branch, always or on a flag or mask condition, under the TM check. -/
  | br (w : BrW)
  /-- CALL (R156). Writes the return code pointer and transfers control. -/
  | call (w : BrW)
  /-- SPLIT (R141). Divides the fragment's lanes by a mask, forking a new fragment or running the split serialised. -/
  | split (w : BrW)
  /-- RET (R157). Transfers control to the code pointer in a scalar register. -/
  | ret (w : EngW)
  /-- JMPI (R157). Indirect jump to the code pointer in a scalar register. -/
  | jmpi (w : EngW)
  /-- FUSE (R158). Meets the innermost fusion point: fuses, waits for the sibling, or runs the serialised complement. -/
  | fuse (w : EngW)
  /-- EXIT (R159). Ends the guarded active lanes, with the conservation check and any serialised complement. -/
  | exit (w : EngW)
  /-- YIELD (R160). Ends the fragment's issue of its line and restarts its age. -/
  | yield (w : EngW)
  /-- TRAPI (R161). Traps as TRAPI with the given code. -/
  | trapi (w : EngW)
  /-- BRK (R415). Traps as BRK with the given code, or halts the group when a debugger is attached. -/
  | brk (w : EngW)
  /-- RGN (R420). Opens an idempotent region by setting RGNPC to this slot. -/
  | rgn (w : EngW)
  /-- RGN_CLOSE (R420). Closes the idempotent region by clearing RGNPC. -/
  | rgnClose (w : EngW)
  /-- SIGCHK (R423). Checks the fragment signature against a constant and resets it, raising SIGNAT on a mismatch. -/
  | sigchk (w : EngW)
  /-- TBAR (R149). Arrives at a team barrier and waits for its generation unless arrive-only. -/
  | tbar (w : EngW)
  /-- CJOIN (R162). Makes the team a member of its cluster when its slot is free. -/
  | cjoin (w : EngW)
  /-- CLEAVE (R153). Leaves the cluster, revoking window mappings to the team's scratchpad. -/
  | cleave (w : EngW)
  /-- CBAR (R151). Arrives at the cluster barrier and waits unless arrive-only. -/
  | cbar (w : EngW)
  /-- RBSUR (R162). Surrenders register blocks to the partition pool after their writes land. -/
  | rbsur (w : EngW)
  /-- RBCLM (R162). Claims register blocks from the pool, waiting in arrival order. -/
  | rbclm (w : EngW)
  /-- MWAIT (R203). Waits until a memory word satisfies a comparison, parking the fragment otherwise. -/
  | mwait (w : MemW)
  /-- SOBJ_BAR (R205). Initialises a synchronisation object as a barrier with EXPECT arrivals. -/
  | sobjBar (w : MemW)
  /-- SOBJ_SEM (R205). Initialises a synchronisation object as a semaphore. -/
  | sobjSem (w : MemW)
  /-- SOBJ_CELL (R205). Initialises a synchronisation object as a cell with zeroed data. -/
  | sobjCell (w : MemW)
  /-- SOBJ_INV (R205). Invalidates a synchronisation object, releasing waiters as lost or dropping a gated task. -/
  | sobjInv (w : MemW)
  /-- SARV (R205). Arrives at a barrier object, advancing the generation and releasing passed waiters at EXPECT. -/
  | sarv (w : MemW)
  /-- SARV_POST (R206). Adds units to a semaphore, granting queued takes in order. -/
  | sarvPost (w : MemW)
  /-- SWAIT (R205). Waits for a barrier generation to pass a token. -/
  | swait (w : MemW)
  /-- SWAIT_TAKE (R206). Takes units of a semaphore, parking until its turn and enough value. -/
  | swaitTake (w : MemW)
  /-- SWAIT_TRY (R206). Takes semaphore units without parking, failing when it cannot be met at once. -/
  | swaitTry (w : MemW)
  /-- CNTA_SIG (R333). Signals a dependence counter with n, firing its task when an armed count reaches zero or below. -/
  | cntaSig (w : MemW)
  /-- CNTA_ARM (R333). Arms a dependence counter with n and no task. -/
  | cntaArm (w : MemW)
  /-- FENCE_ACQ (R208). Acquire fence at a scope. -/
  | fenceAcq (w : EngW)
  /-- FENCE_REL (R208). Release fence at a scope that also waits for the side log. -/
  | fenceRel (w : EngW)
  /-- FENCE_AR (R208). Acquire-release fence at a scope that also waits for the side log. -/
  | fenceAr (w : EngW)
  /-- RSIG (R222). Hands a ring slot back to its stream engine. -/
  | rsig (w : EngW)
  /-- RWAIT (R222). Waits until a ring slot is the group's, completing as an acquire. -/
  | rwait (w : EngW)
  /-- LD (R188). Per-lane global load after the per-lane checks. -/
  | ld (w : MemW)
  /-- ST (R188). Per-lane global store; translation-faulting lanes go to the side log. -/
  | st (w : MemW)
  /-- LDS (R190). Scratchpad load, parking on an absent line. -/
  | lds (w : MemW)
  /-- STS (R190). Scratchpad store, with read-modify-write for sub-word widths. -/
  | sts (w : MemW)
  /-- LDC (R191). Load from a peer's scratchpad through a cluster-window slot. -/
  | ldc (w : MemW)
  /-- STC (R191). Store to a peer's scratchpad through a cluster-window slot. -/
  | stc (w : MemW)
  /-- PREF (R192). Prefetches lines under a cache hint, dropping lanes that would need a check. -/
  | pref (w : MemW)
  /-- LDSC (R189). One global load from a wholly scalar address. -/
  | ldsc (w : MemW)
  /-- STSC (R189). One global store from a wholly scalar address. -/
  | stsc (w : MemW)
  /-- CCTL_CLEAN (R193). Writes dirty LLC copies of a range to HBM. -/
  | cctlClean (w : EngW)
  /-- CCTL_INVAL (R193). Drops the issuing core's L1 copies of a range. -/
  | cctlInval (w : EngW)
  /-- CCTL_CINV (R193). Cleans and invalidates a range. -/
  | cctlCinv (w : EngW)
  /-- ATOM (R195). Global atomic read-compute-write under OPC, returning the old value. -/
  | atom (w : MemW)
  /-- ATOMS (R198). Scratchpad atomic under OPC. -/
  | atoms (w : MemW)
  /-- BINS (R196). Atomic bit-field insert under a mask. -/
  | bins (w : MemW)
  /-- BFFCS (R196). Atomically sets the lowest clear bit and returns its index. -/
  | bffcs (w : MemW)
  /-- BPLS (R196). Atomically sets mask bits when the popcount stays within a limit. -/
  | bpls (w : MemW)
  /-- RED (R197). Atomic reduction without a result; faulting lanes enter the side log. -/
  | red (w : MemW)
  /-- CPL_IN (R212). Per-lane copy from global memory to scratchpad, clearing destination presence bits. -/
  | cplIn (w : EngW)
  /-- CPL_OUT (R212). Per-lane copy from scratchpad to global memory. -/
  | cplOut (w : EngW)
  /-- CPSEAL (R214). Seals the group's CPLs since the last seal into one stamped batch. -/
  | cpseal (w : EngW)
  /-- SEPROG (R220). Loads a stream engine with a tensor layout record, or refuses it with a reason. -/
  | seprog (w : EngW)
  /-- SECTL_START (R221). Starts a Loaded or Stopped stream engine. -/
  | sectlStart (w : EngW)
  /-- SECTL_STOP (R221). Stops a stream engine, through Stopping when Running. -/
  | sectlStop (w : EngW)
  /-- SECTL_QUERY (R221). Returns the stream engine status word. -/
  | sectlQuery (w : EngW)
  /-- BCPY (R224). Starts a bulk two-dimensional copy from a descriptor, registering its ranges. -/
  | bcpy (w : EngW)
  /-- MMA (R244). Accepts one matrix step on an accumulator. -/
  | mma (w : EngW)
  /-- MLOOP (R245). Accepts N matrix steps with incremented operand offsets. -/
  | mloop (w : EngW)
  /-- MLOOPM (R246). Accepts n steps against the held quad B into consecutive accumulators. -/
  | mloopm (w : EngW)
  /-- MQB (R247). Stages the group's quarter of the quad B operand. -/
  | mqb (w : EngW)
  /-- MFENCE (R248). Closes the group's matrix operations into a numbered batch. -/
  | mfence (w : EngW)
  /-- MBWAIT (R249). Waits until a batch completes, as an acquire. -/
  | mbwait (w : EngW)
  /-- ACCNEW (R250). Rebinds an accumulator name to a fresh zeroed tile. -/
  | accnew (w : EngW)
  /-- ACCLD (R251). Loads an accumulator tile from scratchpad. -/
  | accld (w : EngW)
  /-- ACCST (R252). Stores an accumulator tile to scratchpad with rounding and optional scale. -/
  | accst (w : EngW)
  /-- ACCRD (R253). Reads accumulator rows or columns into vector registers. -/
  | accrd (w : EngW)
  /-- ACCWR (R253). Writes vector registers into accumulator rows or columns. -/
  | accwr (w : EngW)
  /-- NEVAL (R282). Hands each active lane's inputs to the Pen for network evaluation. -/
  | neval (w : EngW)
  /-- NHLD_PRE (R283). Preloads a key's weights into a slot. -/
  | nhldPre (w : EngW)
  /-- NHLD_DROP (R283). Launches the key's open tile and frees its slot after current tiles complete. -/
  | nhldDrop (w : EngW)
  /-- NSTAT (R284). Waits for NEVAL delivery and writes or clears the Pen fault-mask bits. -/
  | nstat (w : EngW)
  /-- VAPP (R352). Appends vertices to the Fold's open generation and returns their indices. -/
  | vapp (w : EngW)
  /-- VCONN (R353). Computes a connection or emission weight, G and CSEQ. -/
  | vconn (w : EngW)
  /-- VMERGE (R354). Computes a merge weight and K when the vertices lie within the radius. -/
  | vmerge (w : EngW)
  /-- VRWGT (R355). Recomputes a strategy's weight under the current census. -/
  | vrwgt (w : EngW)
  /-- VLD (R356). Reads vertex fields, the census or the Fold marks. -/
  | vld (w : EngW)
  /-- VGEN_OPEN (R357). Opens a new generation and publishes the census. -/
  | vgenOpen (w : EngW)
  /-- VGEN_CLOSE (R357). Closes the open generation, publishes the census and checks retirement. -/
  | vgenClose (w : EngW)
  /-- VGEN_OPEN_INIT (R360). Turns a free object into a Fold and registers its arena Hasp entries. -/
  | vgenOpenInit (w : EngW)
  /-- VGEN_CLOSE_FREE (R357). Frees a Fold and drops its arena Hasp entries. -/
  | vgenCloseFree (w : EngW)
  /-- VPIN_PIN (R358). Adds one to the pin count of a vertex's generation. -/
  | vpinPin (w : EngW)
  /-- VPIN_UNPIN (R358). Subtracts one from a pin count, possibly retiring generations. -/
  | vpinUnpin (w : EngW)
  /-- TRACE (R306). Starts a ray per active lane in a claimed ray slot. -/
  | trace (w : EngW)
  /-- TRRES_ACCEPT (R298). Accepts the waiting candidate if acceptable and continues the walk. -/
  | trresAccept (w : EngW)
  /-- TRRES_REJECT (R298). Drops the waiting candidate and continues the walk. -/
  | trresReject (w : EngW)
  /-- TRRES_COMMIT (R298). Commits the candidate if acceptable and ends the walk. -/
  | trresCommit (w : EngW)
  /-- TQRY (R308). Starts a radius, knn or keys tree query per active lane. -/
  | tqry (w : EngW)
  /-- TQNEXT (R309). Waits for and writes up to n query results. -/
  | tqnext (w : EngW)
  /-- TRSTAT (R310). Reads traversal slot counts and the group's traversal counters. -/
  | trstat (w : EngW)
  /-- TEXS (R373). Samples a texture with level selection and filtering. -/
  | texs (w : EngW)
  /-- TEXL (R377). Loads one decoded texel of a level. -/
  | texl (w : EngW)
  /-- TEXQ (R377). Returns a texture level's size, level count and format. -/
  | texq (w : EngW)
  /-- TLSUB (R368). Submits one tile list to the tile engine. -/
  | tlsub (w : EngW)
  /-- TLFLUSH (R370). Submits every non-empty tile of the grid and then resets the bin table. -/
  | tlflush (w : EngW)
  /-- SPSUB (R374). Submits a splat list to the die's splat unit. -/
  | spsub (w : EngW)
  /-- FOUT (R378). Records each active lane's fragment colour. -/
  | fout (w : EngW)
  /-- LAUNCH (R334). Reads a launch record and queues the launch as a release at .dev. -/
  | launch (w : EngW)
  /-- TASKPUB (R334). Copies a task into the task store and arms its gate counter. -/
  | taskpub (w : EngW)
  /-- RECALLOC (R335). Allocates one pool record per active lane, all or none. -/
  | recalloc (w : EngW)
  /-- RECEMIT (R336). Adds records to a node's open batch, launching a full batch. -/
  | recemit (w : EngW)
  /-- SYSCALL_NODE_CREATE (R337). Shento creates a work-graph node from a descriptor. -/
  | syscallNodeCreate (w : EngW)
  /-- SYSCALL_NODE_FLUSH (R337). Launches a node's open batch now. -/
  | syscallNodeFlush (w : EngW)
  /-- SYSCALL_NODE_DELETE (R337). Frees a node number when nothing is outstanding. -/
  | syscallNodeDelete (w : EngW)
  /-- SYSCALL_WAKE (R337). Hands a value to the conductor as a WAKE packet does. -/
  | syscallWake (w : EngW)
  /-- SYSCALL_UNASSIGNED (R337). An unassigned service answers all ones. -/
  | syscallUnassigned (w : EngW)
  /-- TILENX (R266). Team rendezvous that gives up the tile and takes the next one or a split. -/
  | tilenx (w : EngW)
  /-- TILENX_EXIT (R266). Team rendezvous that gives up the tile and retires the team. -/
  | tilenxExit (w : EngW)
  /-- PROG (R407). Adds one to a context progress counter. -/
  | prog (w : EngW)
  /-- HALT (R414). Stops the team for the debugger, or posts a DEBUG record for the handler. -/
  | halt (w : EngW)
  /-- PMCAP_START (R406). Opens the group's capture window on eight counters. -/
  | pmcapStart (w : EngW)
  /-- PMCAP_STOP (R406). Closes the capture window and writes its record. -/
  | pmcapStop (w : EngW)
  /-- COLL_ALL_REDUCE (R400). Issues an all-reduce collective on the module. -/
  | collAllReduce (w : EngW)
  /-- COLL_REDUCE_SCATTER (R400). Issues a reduce-scatter collective. -/
  | collReduceScatter (w : EngW)
  /-- COLL_ALL_GATHER (R400). Issues an all-gather collective. -/
  | collAllGather (w : EngW)
  /-- COLL_BROADCAST (R400). Issues a broadcast collective. -/
  | collBroadcast (w : EngW)
  /-- MWAIT_REEVALUATE (R203). Re-reads a parked MWAIT's word at a write to it or every 1,024 cycles, releasing it when satisfied. -/
  | mwaitReevaluate (frag : Nat)
  /-- MWAIT_TIMEOUT (R203). Expiry of a parked MWAIT's timeout releases it with cD = 1. -/
  | mwaitTimeout (frag : Nat)
  /-- SYNC_REQUEST_RETRY (R201). A refused synchronisation-engine request is retried with its ticket until accepted. -/
  | syncRequestRetry (frag : Nat)
  /-- SIDE_LOG_PERFORM (R181). A side-log entry performs once its page is mapped, in program order. -/
  | sideLogPerform (core : Nat) (mappable : Bool)
  /-- LONG_LATENCY_WRITE_LAND (R144). A long-latency result lands in its registers, releasing Blocked fragments. -/
  | longLatencyWriteLand (group id : Nat)
  /-- CPL_LINE_LAND (R213). A transfer lands; a line whose pending count returns to 0 becomes present. -/
  | cplLineLand (core id : Nat)
  /-- CPSEAL_STAMP_WRITE (R214). Writes a batch's stamp once all its transfers have landed. -/
  | cpsealStampWrite (core id : Nat)
  /-- STREAM_SLOT_TAKE (R218). The engine takes the next slot in tile order when it is ready, as an acquire. -/
  | streamSlotTake (core engine : Nat)
  /-- STREAM_TILE_COMPLETE (R218). A fill tile lands (slot full) or a drain tile is read (slot empty), as a release. -/
  | streamTileComplete (core engine : Nat)
  /-- STREAM_STOP_COMPLETE (R215). A Stopping engine's engine-owned slots finish and it becomes Stopped. -/
  | streamStopComplete (core engine : Nat)
  /-- TRANSFER_XLATE_SERVICE (R223). Shento maps a page on which an engine transfer was parked, and the transfer continues. -/
  | transferXlateService (core : Nat) (unit : XferUnit) (map : List (Nat × BitVec 64))
  /-- BCPY_COMPLETE (R224). The copy finishes and its stamp is written. -/
  | bcpyComplete (core id : Nat)
  /-- HINGE_COPY_EXPIRE (R227). A Hinge drops its combined line copy 2 µs after arrival. -/
  | hingeCopyExpire (hinge line : Nat)
  /-- MATRIX_STEP (R229). One step adds its exact product sum into the accumulator tile with one rounding. -/
  | matrixStep (core id : Nat)
  /-- BATCH_COMPLETE (R240). A batch completes when its operations and earlier batches have, releasing waiters. -/
  | batchComplete (group : Nat)
  /-- PEN_WINDOW_EXPIRE (R274). A tile launches when its gather window ends. -/
  | penWindowExpire (core tile : Nat)
  /-- PEN_SLOT_FILL (R275). A weight slot is filled by one load of the descriptor and weights. -/
  | penSlotFill (core tile : Nat)
  /-- PEN_TILE_SCATTER (R278). A tile completes and scatters results or faulted NaNs to its lanes. -/
  | penTileScatter (core tile : Nat)
  /-- FOLD_INIT_TIMEOUT (R340). An INIT that still cannot place its arena entries after 65,536 cycles fails with DETAIL 6. -/
  | foldInitTimeout (frag : Nat)
  /-- RAY_WALK (R294). The traversal unit walks the ray's structure, offering and committing candidates. -/
  | rayWalk (core ray : Nat)
  /-- RAY_DELIVER (R294). The walk delivers a shader, hit, miss or error record to the lane's registers. -/
  | rayDeliver (core ray : Nat)
  /-- RAY_SPILL_TIMEOUT (R300). A ray or query waiting 4,096 cycles after delivery is spilled and its slot freed. -/
  | raySpillTimeout (core ray : Nat)
  /-- RAY_FETCH_XLATE_SERVICE (R301). Shento maps a page on which a ray's fetch was parked, and the walk goes on. -/
  | rayFetchXlateService (core ray : Nat) (map : List (Nat × BitVec 64))
  /-- QUERY_RESULTS_READY (R304). A query's walk makes further results ready or ends. -/
  | queryResultsReady (core ray : Nat)
  /-- TILE_RASTERISE (R363). The tile engine sorts a tile's entries and rasterises them with depth tests. -/
  | tileRasterise (die : Nat)
  /-- FRAGMENT_GROUP_DISPATCH (R365). Packed passing fragments are dispatched as one-group teams. -/
  | fragmentGroupDispatch (die core : Nat)
  /-- PIXEL_BLEND (R366). A contribution is blended into the target in key order once its lane has exited. -/
  | pixelBlend (die : Nat)
  /-- TILE_ENGINE_XLATE_SERVICE (R369). Shento maps a page on which a submission was parked; unmappable accesses are skipped. -/
  | tileEngineXlateService (die : Nat) (map : List (Nat × BitVec 64))
  /-- SUBMISSION_COMPLETE (R368). A submission's writes are performed and its stamp is written. -/
  | submissionComplete (die : Nat)
  /-- SPLAT_RENDER (R375). The splat unit composites sorted splats per pixel until transmittance stops. -/
  | splatRender (die : Nat)
  /-- DRAW_PREEMPT (R371). The tile engine finishes its current tile and saves its queue and pending blends. -/
  | drawPreempt (die : Nat)
  /-- WORKGRAPH_BATCH_TIMEOUT (R336). A batch launches partial TIMEOUT µs after its first record. -/
  | workgraphBatchTimeout (ctx node : Nat)
  /-- SYSCALL_ANSWER (R337). Shento's answer is written to sD and releases the parked fragment as an acquire. -/
  | syscallAnswer (frag : Nat)
  /-- FAULT_RECORD_POST (R58). A waiting fault record enters the fault ring once space frees. -/
  | faultRecordPost (ctx : Nat)
  /-- XLATE_SERVICE (R386). Shento services a precise XLATE by mapping the page and resuming, or posts a PROT record. -/
  | xlateService (frag : Nat) (map : List (Nat × BitVec 64))
  /-- TRAP_RESUME (R57). The handler resumes a parked fragment at its slot with shadow replay. -/
  | trapResume (frag : Nat) (edits : List RegEdit)
  /-- TRAP_SKIP (R57). The handler skips the faulting instruction and continues at the next slot. -/
  | trapSkip (frag : Nat)
  /-- TRAP_KILL (R57). The handler kills the whole team. -/
  | trapKill (frag : Nat)
  /-- SPLIT_REQUEST (R261). An idle core presents a split request; the arbiter splits the largest Drover or refuses. -/
  | splitRequest (launch core : Nat)
  /-- DROVER_DISPATCH (R260). A Drover dispatches its next tile to a core that can accept a team. -/
  | droverDispatch (drover : Nat)
  /-- TEAM_RETIRE (R154). A team whose groups are Gone retires once its accesses, side log and engine work have drained. -/
  | teamRetire (team : Nat)
  /-- TILE_DONE (R263). A tile counts as done and leaves its Drover's list, possibly freeing the Drover. -/
  | tileDone (drover tile : Nat)
  /-- LAUNCH_BEGIN (R258). The launch path checks the record and route tables and takes the first Drover of the origin's die. -/
  | launchBegin (launch : Nat) (ox oy : Nat)
  /-- OPP_STABLE (R328). The rectangle's islands stabilise at the granted operating point and dispatch may begin. -/
  | oppStable (launch : Nat) (granted : Fin 16)
  /-- LAUNCH_COMPLETE (R321). A launch completes: its stamp is written and DONE is signalled. -/
  | launchComplete (launch : Nat)
  /-- KICK_WRITE (R314). A write of a queue's new tail to its kick register exposes packets. -/
  | kickWrite (fn : Fin 64) (q : Fin 16) (tail : BitVec 32)
  /-- HOST_PACKET_NOP (R315). A NOP packet is consumed with no effect. -/
  | hostPacketNop (fn : Fin 64) (q : Fin 16)
  /-- HOST_PACKET_START (R315). Starts the context's conductor at ADDR with ARG and VALUE. -/
  | hostPacketStart (fn : Fin 64) (q : Fin 16)
  /-- HOST_PACKET_WAKE (R315). Hands ARG to the conductor's next wait call, waiting while 64 wakes are pending. -/
  | hostPacketWake (fn : Fin 64) (q : Fin 16)
  /-- HOST_PACKET_STOP (R315). Ends the conductor, filling its unwritten slots with NOPs. -/
  | hostPacketStop (fn : Fin 64) (q : Fin 16)
  /-- HOST_PACKET_WAIT (R315). Holds the queue until a word satisfies CMP against VALUE. -/
  | hostPacketWait (fn : Fin 64) (q : Fin 16)
  /-- QUEUE_WAIT_SATISFIED (R315). The held WAIT's word satisfies its comparison and the queue moves on, as an acquire. -/
  | queueWaitSatisfied (fn : Fin 64) (q : Fin 16)
  /-- HOST_PACKET_STAMP (R315). Writes VALUE to ADDR as a release once earlier packets have taken effect. -/
  | hostPacketStamp (fn : Fin 64) (q : Fin 16)
  /-- QUEUE_RESET (R316). Shento resets a halted queue. -/
  | queueReset (fn : Fin 64) (q : Fin 16)
  /-- PORT_RESERVE (R318). AMOADD.D of 1 to the reserve word returns a ticket and reserves a slot, or all ones; with a ticket, the
  conductor writes its command into the slot it reserved under that ticket before. -/
  | portReserve (ctx : Nat) (pc : BitVec 64) (put : PortWrite)
  /-- PORT_RESERVE_REFUSED (R318). Any other AMO or operand on the reserve word returns all ones; a load returns the number of
  free slots, and a store is ignored. -/
  | portReserveRefused (access : PortTry)
  /-- PORT_NOP (R320). A NOP command is consumed and completes at once. -/
  | portNop (ctx : Nat)
  /-- PORT_LAUNCH (R319). A LAUNCH command is consumed by reading its range record. -/
  | portLaunch (ctx : Nat)
  /-- PORT_TASK (R320). A TASK command is placed in the task store and arms its gate. -/
  | portTask (ctx : Nat)
  /-- PORT_STAMP (R320). A STAMP command queues its write. -/
  | portStamp (ctx : Nat)
  /-- PORT_STAMP_WRITE (R320). The queued stamp is written once every earlier command of the port has completed. -/
  | portStampWrite (ctx : Nat)
  /-- CONDUCTOR_COUNTER_SIGNAL (R324). A conductor AMOADD.D to a counter acts as CNTA.sig at .sys. -/
  | conductorCounterSignal (ctx : Nat) (addr : BitVec 64) (n : Nat)
  /-- CONDUCTOR_WAIT (R317). The conductor's Shento wait call moves it to Waiting until a wake is pending. -/
  | conductorWait (ctx : Nat)
  /-- COLL_START (R401). A collective starts once every member has issued. -/
  | collStart (core : Nat) (id : Nat) (peers : List PeerIssue)
  /-- COLL_COMPLETE (R401). A module's DST holds the result and its stamp is written, or the mismatch is reported. -/
  | collComplete (core : Nat) (id : Nat)
  /-- REMOTE_STORE_FAIL (R398). An undeliverable remote store is discarded and the group parks under a PROT record. -/
  | remoteStoreFail (group : Nat)
  /-- TLB_INVALIDATE (R385). Shento invalidates an (ASID, range) on every agent, completing after old-translation accesses perform. -/
  | tlbInvalidate (asid : Nat) (lo hi : BitVec 56)
  /-- COMPUTE_PREEMPT (R392). A pre-emption request stops each fragment's issue at its next line boundary. -/
  | computePreempt (who : Preemptee)
  /-- CONTEXT_SAVE (R393). Once issued work drains, the team's save set is stored. -/
  | contextSave (who : Preemptee)
  /-- CONTEXT_RESUME (R395). A saved team is restored on cores that can accept it. -/
  | contextResume (who : Preemptee) (core : Nat)
  /-- CONTEXT_ABORT (R391). A context is aborted: teams killed, conductor stopped, queues halted, Drovers freed. -/
  | contextAbort (ctx : Nat)
  /-- FUNCTION_LEVEL_RESET (R391). A function reset aborts the function's contexts, or all for the physical function. -/
  | functionLevelReset (fn : Fin 64)
  /-- HALTREQ (R412). The debugger halts a group at its next line boundary. -/
  | haltreq (hart : Nat)
  /-- RESUMEREQ (R412). The debugger resumes a halted group at its slot with shadow replay. -/
  | resumereq (hart : Nat)
  /-- ACCESS_REGISTER (R413). Debug abstract command that reads or writes a halted group's register. -/
  | accessRegister (hart : Nat) (cmd : AccReg)
  /-- ACCESS_MEMORY (R413). Debug abstract command that reads or writes memory under the group's ASID. -/
  | accessMemory (hart : Nat) (cmd : AccMem)
  /-- DEBUG_BREAKPOINT_SET (R415). The debugger sets one of up to eight code breakpoints through Shento. -/
  | debugBreakpointSet (ctx : Nat) (n : Fin 8) (at_ : Option (BitVec 64))
  /-- COUNTER_EVENT_CONFIG (R403). Shento loads event codes into the cores' counters. -/
  | counterEventConfig (counter : Fin 48) (code : Fin 12)
  /-- TRIAL_START (R408). Shento starts a causal trial from a descriptor or refuses it. -/
  | trialStart (ctx : Nat) (desc : BitVec 512)
  /-- TRIAL_EPOCH_END (R409). An epoch ends; every group's delay count is reset to the trial's. -/
  | trialEpochEnd (ctx : Nat) (ns : Nat)
  /-- SHEPHERD_DECISION (R426). The Shepherd resumes, restarts, kills or aborts each frozen group. -/
  | shepherdDecision (group : Nat)
  /-- HBM_SCRUB (R416). Shento scrubs HBM, correcting or poisoning blocks. -/
  | hbmScrub (block : Nat) (correctable : Bool)
  /-- PAGE_RETIRE (R430). Shento migrates and retires a physical page with a failing row. -/
  | pageRetire (page target : Nat) (ptes : List (Nat × BitVec 64))
  /-- ENERGY_WINDOW (R432). At each 1 ms window boundary energy is charged and the planner admits launches and adjusts operating points. -/
  | energyWindow (cycles : List (Nat × Nat × Nat))
  /-- ENERGY_BUDGET_SET (R432). The physical function's driver sets a function's energy budget through Shento. -/
  | energyBudgetSet (fn : Fin 64) (watts : Nat)
  /-- SPLAT_TMIN_WRITE (R374). Shento writes the context's transmittance stop, storing the reset for invalid values. -/
  | splatTminWrite (ctx : Nat) (v : BitVec 32)
  /-- REGISTER_WRITE (R277). A write to a register with no behaviour of its own, such as the Pen control register. -/
  | registerWrite (core : Nat) (v : BitVec 32)
  /-- MODULE_SLEEP (R433). The module sleeps whole, keeping no state. -/
  | moduleSleep
  /-- COLD_BOOT (R434). The boot ROM verifies and loads the first stage and Shento, or holds the module in recovery. -/
  | coldBoot (img : BootImage)
  /-- ATTESTATION_EXTEND (R435). Extends an attestation register with a measurement. -/
  | attestationExtend (n : Fin 8) (m : BitVec 256)
  /-- ATTESTATION_REPORT (R436). Answers a nonce with an LMS-signed report after advancing the leaf counter. -/
  | attestationReport (nonce : BitVec 256)
  /-- PACKET_REFETCH (R316). The device fetches a packet whose SEQ did not match again, up to 64 times within 4 µs, halting the queue when the tries run out. -/
  | packetRefetch (fn : Fin 64) (q : Fin 16)
  /-- QUEUE_CREATE (R314). Shento creates a host queue ring of 2^m packets for a function at its driver's request. -/
  | queueCreate (fn : Fin 64) (q : Fin 16) (m : Nat) (base : BitVec 56) (host : Bool) (ctx : Nat)
  /-- CONTEXT_CREATE (R390). Shento creates a context and the device loads its context descriptor, rings and ASID. -/
  | contextCreate (ctx : Nat) (desc : BitVec 512)
  /-- DOMAIN_CONFIGURE (R397). The host's management software configures a load-store domain, assigning module ids and the member set. -/
  | domainConfigure (id : Fin 64) (members : BitVec 64)
  /-- DOMAIN_MEMBER_LEAVE (R399). A member module leaves the domain or is reset, ending the domain and leaving started collectives waiting. -/
  | domainMemberLeave (m : Fin 64)
  /-- POWER_LOSS (R436). The module loses power abruptly, losing all volatile state while the one-time-programmable leaf counter survives. -/
  | powerLoss
  deriving DecidableEq, Repr

end Sys2Proof
end

