-- ==== Sys2Proof/WellFormed.lean ====
section
/-! DEFINITION. WellFormed: the decode checks of spec/03 R51 steps 3 and 4 on a structured instruction, each with the
DETAIL of R55, and the register footprints that the line rules (R36), the allocation check (R46) and the scoreboard
(spec/07 R144) read. -/

namespace Sys2Proof

/-- DETAIL of an RI trap, spec/03 R55. -/
inductive RiDetail where
  | major      -- 0: FMT 6 or 7, or unassigned major
  | format     -- 1: FMT not one of the major's formats
  | function   -- 2: FN not assigned
  | operand    -- 3: reserved, ill-kinded or unused-but-not-zr operand code
  | scalar     -- 4: scalar-execution rule broken
  | modifier   -- 5: reserved modifier, width, order, scope, scale, condition or slot value
  | suppress   -- 6: WS on an instruction that may not suppress
  deriving DecidableEq, Repr

/-- The DETAIL number of R55. -/
def RiDetail.code : RiDetail → Nat
  | .major => 0 | .format => 1 | .function => 2 | .operand => 3 | .scalar => 4 | .modifier => 5 | .suppress => 6

namespace Opnd
def isV : Opnd → Bool | .v _ => true | _ => false
def isS : Opnd → Bool | .s _ => true | _ => false
def isK : Opnd → Bool | .k _ => true | _ => false
def isC : Opnd → Bool | .c _ => true | _ => false
def isB : Opnd → Bool | .b _ => true | _ => false
def isZr : Opnd → Bool | .zr => true | _ => false
def isImm : Opnd → Bool | .imm => true | _ => false
end Opnd

namespace Ty
/-- Width of a type in bits (spec/03 R47); packed types count as 32. -/
def bits : Ty → Nat
  | .n8 | .i8 | .e4m3 | .e5m2 => 8
  | .n16 | .i16 | .bf16 | .f16 => 16
  | .n64 | .i64 => 64
  | .e2m1b => 4
  | .n32 | .i32 | .f32 | .v2i16 | .v2n16 => 32
def is64 (t : Ty) : Bool := t.bits == 64
/-- The types whose fill in a scalar destination is a sign (spec/05 R80, R95). The rules name the fill for signed and for unsigned
types; DESIGN CHOICE: a float type counts as unsigned here, so that MOV and SEL with one write zeros to bits [63:32] (log 41). -/
def signed : Ty → Bool
  | .i8 | .i16 | .i32 | .i64 | .v2i16 => true
  | _ => false
def isInt : Ty → Bool
  | .n8 | .i8 | .n16 | .i16 | .n32 | .i32 | .n64 | .i64 => true
  | _ => false
def packed : Ty → Bool | .v2i16 | .v2n16 => true | _ => false
/-- f32, f16, bf16: the types of the float arithmetic entries (spec/06). -/
def isFp : Ty → Bool | .f32 | .f16 | .bf16 => true | _ => false
/-- The five float formats of spec/04 R59. -/
def isFloat : Ty → Bool | .f32 | .f16 | .bf16 | .e4m3 | .e5m2 => true | _ => false
end Ty

/-- Operand kinds an entry accepts in a field. A latch is accepted wherever its writer's destination could stand
(spec/03 R34); its shape is checked when the line is known. -/
inductive Kd where
  | v       -- any vector register, or a latch
  | vp      -- an even vector register: a pair
  | vb      -- the base of a block of vector registers
  | s       -- scalar register, or a latch
  | sp      -- an even scalar register: a pair
  | sb      -- the base of a scalar block
  | k       -- mask register, or a latch
  | kd      -- mask register other than k0: a destination
  | c       -- condition flag
  | z       -- zr
  | i       -- the immediate
  deriving DecidableEq, Repr

/-- Does operand `o` fit kind `d`? -/
def Kd.fits (d : Kd) (o : Opnd) : Bool :=
  match d, o with
  | .v, .v _ | .v, .b _ => true
  | .vp, .v n => n.val % 2 == 0
  | .vb, .v _ => true
  | .s, .s _ | .s, .b _ => true
  | .sp, .s n => n.val % 2 == 0
  | .sb, .s _ => true
  | .k, .k _ | .k, .b _ => true
  | .kd, .k n => n.val != 0
  | .c, .c _ | .c, .b _ => true
  | .z, .zr => true
  | .i, .imm => true
  | _, _ => false

def fitsAny (ds : List Kd) (o : Opnd) : Bool := ds.any (·.fits o)

/-! ## Rows of formats R and I -/

/-- The majors of formats R and I, by number (spec/03 R49). -/
def Instr.aluMajor : Instr → Option (Nat × AluW)
  | .iadd w => some (0x01, w) | .isub w => some (0x02, w) | .imul w => some (0x03, w) | .imad w => some (0x04, w)
  | .idiv w => some (0x05, w) | .irem w => some (0x06, w) | .imin w => some (0x07, w) | .imax w => some (0x08, w)
  | .iabs w => some (0x09, w) | .ineg w => some (0x0A, w) | .andI w => some (0x0B, w) | .orI w => some (0x0C, w)
  | .xorI w => some (0x0D, w) | .andn w => some (0x0E, w) | .shl w => some (0x0F, w) | .shr w => some (0x10, w)
  | .rot w => some (0x11, w) | .bfx w => some (0x12, w) | .bfi w => some (0x13, w) | .popc w => some (0x14, w)
  | .clz w => some (0x15, w) | .brev w => some (0x16, w) | .perm w => some (0x17, w) | .icmp w => some (0x18, w)
  | .sel w => some (0x19, w) | .lea w => some (0x1A, w) | .mov w => some (0x1B, w) | .dp4i w => some (0x1C, w)
  | .sad w => some (0x1D, w)
  | .fadd w => some (0x20, w) | .fsub w => some (0x21, w) | .fmul w => some (0x22, w) | .ffma w => some (0x23, w)
  | .fmin w => some (0x24, w) | .fmax w => some (0x25, w) | .fcmp w => some (0x26, w) | .fclass w => some (0x27, w)
  | .frcp w => some (0x28, w) | .frsq w => some (0x29, w) | .fsqrt w => some (0x2A, w) | .fdiv w => some (0x2B, w)
  | .fexp2 w => some (0x2C, w) | .flog2 w => some (0x2D, w) | .fsin w => some (0x2E, w) | .fcos w => some (0x2F, w)
  | .frnd w => some (0x30, w) | .fdp2 w => some (0x31, w) | .fdp4 w => some (0x32, w) | .fcopys w => some (0x33, w)
  | .fldexp w => some (0x34, w) | .ffrexp w => some (0x35, w)
  | .cvt w => some (0x40, w) | .cvti w => some (0x41, w) | .cvtf w => some (0x42, w) | .qpack w => some (0x43, w)
  | .qunpk w => some (0x44, w) | .rng w => some (0x45, w) | .rngf w => some (0x46, w)
  | .kop w => some (0x50, w) | .kpop w => some (0x51, w) | .kffs w => some (0x52, w) | .vote w => some (0x53, w)
  | .shfl w => some (0x54, w) | .rdlane w => some (0x55, w) | .wrlane w => some (0x56, w) | .gred w => some (0x57, w)
  | .gscan w => some (0x58, w) | .matchI w => some (0x59, w)
  | _ => none

/-- Majors whose SRCC is an operand: in format I they carry no short modifier (spec/03 R42, spec/05 R83). -/
def aluThreeSrc (m : Nat) : Bool :=
  [0x04, 0x13, 0x17, 0x19, 0x1C, 0x23, 0x31, 0x32, 0x44].contains m

/-- Majors that take format R only (spec/06 R111, spec/05 R106). -/
def aluFormatROnly (m : Nat) : Bool := (0x40 ≤ m && m ≤ 0x46) || m == 0x55

/-- The format-I default type (spec/03 R42). -/
def aluDefaultTy (m : Nat) : Ty := if 0x20 ≤ m && m ≤ 0x35 then .f32 else .i32

/-- One-source majors, whose source is SRCB (spec/05 R84, spec/06 R111). -/
def aluOneSrc (m : Nat) : Bool :=
  [0x09, 0x0A, 0x14, 0x15, 0x16, 0x1B, 0x27, 0x28, 0x29, 0x2A, 0x2C, 0x2D, 0x2E, 0x2F, 0x30, 0x35,
   0x51, 0x52, 0x53].contains m

/-- Number of assigned function codes (spec/03 R49). -/
def aluFns (m : Nat) : Nat :=
  if m == 0x18 then 6 else if m == 0x26 then 8 else if m == 0x50 then 6 else if m == 0x53 then 3
  else if m == 0x54 then 4 else if m == 0x57 || m == 0x58 then 6 else 1

namespace AluW
/-- Executes once, as a scalar operation (spec/03 R46): the destination is a scalar register. -/
def scalarDst (w : AluW) : Bool := w.dst.isS
def guarded (w : AluW) : Bool := w.g != 0 || w.gn
end AluW

/-- A data source of an arithmetic entry: vector, scalar, zr or latch; the immediate only in SRCB of format I. -/
def dataSrc (wide immOk : Bool) (o : Opnd) : Bool :=
  match o with
  | .v n => if wide then n.val % 2 == 0 else true
  | .s _ | .zr | .b _ => true
  | .imm => immOk
  | _ => false

/-- A data destination: vector register (a pair for a 64-bit type), scalar register, or zr. -/
def dataDst (wide : Bool) (o : Opnd) : Bool :=
  match o with
  | .v n => if wide then n.val % 2 == 0 else true
  | .s _ | .zr => true
  | _ => false

/-- A source of an entry whose result is a scalar register or a flag: what the entry takes, or a vector register, which breaks
the scalar rule (DETAIL 4) and is no wrong kind (spec/03 R46, spec/05 R81). -/
def scalarSrc (ok : Bool) (o : Opnd) : Bool := ok || o.isV

/-- Entries that take the rounding code .sr (spec/06 R113, R116, R125 to R130). -/
def aluTakesSr (m : Nat) : Bool := [0x20, 0x21, 0x22, 0x23, 0x31, 0x32, 0x40, 0x42, 0x43].contains m

/-- Scalar execution (spec/03 R46, spec/05 R81): no guard, and no vector register among the sources. -/
def scalarOk (w : AluW) : Bool := !w.guarded && !w.a.isV && !w.b.isV && !w.c.isV

/-- Types an arithmetic entry accepts in T. -/
def aluTypeOk (m : Nat) (w : AluW) : Bool :=
  let t := w.ty
  if m == 0x01 || m == 0x02 || m == 0x03 || m == 0x07 || m == 0x08 then t.isInt || t.packed
  else if m == 0x04 || m == 0x05 || m == 0x06 then t.isInt
  else if m == 0x09 || m == 0x0A then [Ty.i8, .i16, .i32, .i64, .v2i16].contains t
  else if 0x0B ≤ m && m ≤ 0x0E then t.isInt
  else if m == 0x0F || m == 0x10 then t.isInt || t.packed
  else if m == 0x11 then t.isInt
  else if m == 0x12 || m == 0x13 || m == 0x14 || m == 0x15 || m == 0x16 then [Ty.i32, .n32, .i64, .n64].contains t
  else if m == 0x17 then t == .n32 || t == .i32
  else if m == 0x18 then t.isInt
  else if m == 0x19 || m == 0x1B then true
  else if m == 0x1A then t == .n64 || t == .n32 || (w.fmtI && false)
  else if m == 0x1C then t == .i32 || t == .n32
  else if m == 0x1D then t == .n8 || t == .v2n16 || t == .n32
  else if m == 0x27 then t.isFloat
  else if 0x2C ≤ m && m ≤ 0x2F then t == .f32
  else if m == 0x31 then t == .bf16 || t == .f16
  else if m == 0x32 then t == .e4m3 || t == .e5m2
  else if 0x20 ≤ m && m ≤ 0x35 then t.isFp
  else if m == 0x40 || m == 0x42 then t.isFloat
  else if m == 0x41 then t.isInt
  else if m == 0x43 then t == .e2m1b
  else if m == 0x44 then t.isFp
  else if m == 0x45 then t == .n64 || t == .n32
  else if m == 0x46 then t == .f32
  else if 0x50 ≤ m && m ≤ 0x53 then t == .n8
  else if m == 0x54 || m == 0x55 || m == 0x56 || m == 0x59 then true
  else if m == 0x57 || m == 0x58 then
    [Ty.i32, .n32, .i64, .n64].contains t || (t == .f32 && w.fn.val < 3)
  else false

/-- Operand checks of the arithmetic majors (spec/03 R51 step 3): DETAIL 3, then the scalar rules, DETAIL 4. -/
def aluOperands (m : Nat) (w : AluW) : Option RiDetail :=
  let w64 := w.ty.is64 && aluTypeOk m w   -- no operand has a type that its entry does not take
  let imm := w.fmtI
  let unary := aluOneSrc m
  let kinds : Bool :=
    if m == 0x18 || m == 0x26 then      -- ICMP, FCMP: mask or flag destination (spec/05 R94)
      (Kd.kd.fits w.dst || w.dst.isC) && dataSrc w64 false w.a && dataSrc w64 imm w.b && w.c.isZr
    else if m == 0x19 then              -- SEL (R95)
      dataDst w64 w.dst && dataSrc w64 false w.a && dataSrc w64 imm w.b &&
        (if w.dst.isS then w.c.isC || w.c.isB else w.c.isK || w.c.isB)
    else if m == 0x1B then              -- MOV (R97)
      w.a.isZr && w.c.isZr &&
        (match w.dst with
         | .v _ => dataDst w64 w.dst && dataSrc w64 imm w.b
         | .s _ => dataSrc false imm w.b || w.b.isK || w.b.isC
         | .k n => n.val != 0 && (w.b.isK || w.b.isS || w.b.isZr || w.b.isB || (w.b.isImm && imm))
         | .c _ => scalarSrc (w.b.isC || w.b.isS || w.b.isZr || w.b.isB || (w.b.isImm && imm)) w.b
         | _ => false)
    else if m == 0x50 then              -- KOP (R102)
      Kd.kd.fits w.dst && w.c.isZr &&
        (if w.fn.val < 4 then w.a.isK || w.a.isB || w.a.isZr else w.a.isZr) &&
        (w.b.isK || w.b.isB || w.b.isZr || (w.b.isImm && imm))
    else if m == 0x51 || m == 0x52 then -- KPOP, KFFS (R103)
      w.dst.isS && w.a.isZr && w.c.isZr && scalarSrc (w.b.isK || w.b.isB || w.b.isZr || (w.b.isImm && imm)) w.b
    else if m == 0x53 then              -- VOTE (R104)
      w.dst.isC && w.a.isZr && w.c.isZr && scalarSrc (w.b.isK || w.b.isB || w.b.isZr || (w.b.isImm && imm)) w.b
    else if m == 0x54 then              -- SHFL (R105)
      dataDst w64 w.dst && !w.dst.isS && dataSrc w64 false w.a && w.c.isZr && dataSrc false imm w.b &&
        (w.fn.val == 0 || !w.b.isV)
    else if m == 0x55 then              -- RDLANE (R106)
      w.dst.isS && w.a.isZr && w.c.isZr && scalarSrc (w.b.isS || w.b.isZr || w.b.isB) w.b &&
        (!w64 || w.xm.toNat % 2 == 0)
    else if m == 0x56 then              -- WRLANE (R106)
      dataDst w64 w.dst && !w.dst.isS && (w.a.isS || w.a.isZr || w.a.isB) &&
        (w.b.isS || w.b.isZr || w.b.isB || (w.b.isImm && imm)) && w.c.isZr
    else if m == 0x57 || m == 0x58 || m == 0x59 then   -- GRED, GSCAN, MATCH (R107, R108)
      dataDst (w64 && m != 0x59) w.dst && !w.dst.isS && dataSrc w64 false w.a && w.b.isZr && w.c.isZr
    else if m == 0x40 then              -- CVT (spec/06 R125)
      dataDst false w.dst && (if w.ty.bits ≤ 16 then dataSrc false false w.a else w.a.isZr) &&
        dataSrc false false w.b && w.c.isZr
    else if m == 0x41 then              -- CVTI
      dataDst w64 w.dst && (if w.ty.bits ≤ 16 then dataSrc false false w.a else w.a.isZr) &&
        dataSrc false false w.b && w.c.isZr
    else if m == 0x42 then              -- CVTF: a 64-bit source is a pair
      dataDst false w.dst && (if w.ty.bits ≤ 16 then dataSrc false false w.a else w.a.isZr) &&
        dataSrc w.t2.is64 false w.b && w.c.isZr
    else if m == 0x43 then              -- QPACK (R130)
      (w.dst.isV || w.dst.isZr) && dataSrc false false w.a && w.c.isZr &&
        (if w.xm.toNat / 256 % 4 == 2 then w.b.isS || w.b.isB else w.b.isZr)
    else if m == 0x44 then              -- QUNPK (R131)
      (w.dst.isV || w.dst.isZr) && w.a.isZr && dataSrc false false w.b && (w.c.isS || w.c.isZr || w.c.isB)
    else if m == 0x45 || m == 0x46 then -- RNG, RNGF (R133, R134): key and counter are 64-bit
      dataDst w64 w.dst && dataSrc true false w.a && dataSrc true false w.b && w.c.isZr
    else if m == 0x1A then              -- LEA (R96): the base is of type T, the index 32-bit
      dataDst w64 w.dst && dataSrc w64 false w.a && dataSrc false imm w.b && w.c.isZr
    else if m == 0x0F || m == 0x10 || m == 0x11 || m == 0x12 then  -- shifts, BFX: the amount is 32-bit in a vector
      dataDst w64 w.dst && dataSrc w64 false w.a && dataSrc false imm w.b && w.c.isZr
    else if m == 0x13 then              -- BFI: the control word is 32-bit in a vector
      dataDst w64 w.dst && dataSrc w64 false w.a && dataSrc w64 imm w.b && dataSrc false false w.c
    else if m == 0x14 || m == 0x15 then -- POPC, CLZ: count destination of the type's width
      dataDst w64 w.dst && w.a.isZr && dataSrc w64 imm w.b && w.c.isZr
    else
      dataDst w64 w.dst && (if unary then w.a.isZr else dataSrc w64 false w.a) && dataSrc w64 imm w.b &&
        (if aluThreeSrc m then dataSrc w64 false w.c else w.c.isZr)
  let immPlace : Bool := !w.fmtI || w.b.isImm
  let random : Bool :=                  -- spec/06 R113: the random pair's base is even in a vector instruction
    !aluTakesSr m || w.rm != .sr || w.dst.isS || w.xm.toNat % 2 == 0
  if !(kinds && immPlace && random) then some .operand
  else if (w.dst.isS || w.dst.isC) && !scalarOk w then some .scalar
  else none

/-- Rounding codes accepted (spec/05 R83, spec/06 R116 to R131). -/
def aluRmOk (m : Nat) (w : AluW) : Bool :=
  if m == 0x57 || m == 0x58 then w.rm == .rne || (w.ty == .f32 && w.rm != .sr)
  else if aluTakesSr m then !(w.fmtI && w.rm == .sr)
  else if (0x28 ≤ m && m ≤ 0x30) || m == 0x34 || m == 0x41 || m == 0x44 then w.rm != .sr
  else w.rm == .rne

def aluSatOk (m : Nat) (w : AluW) : Bool :=
  !w.sat ||
  (if m == 0x01 || m == 0x02 || m == 0x04 || m == 0x09 || m == 0x0A || m == 0x1C then true
   else if m == 0x03 then !w.xm.getLsbD 0
   else (0x20 ≤ m && m ≤ 0x23) || (0x28 ≤ m && m ≤ 0x2F) || m == 0x31 || m == 0x32 || m == 0x34 ||
     m == 0x40 || m == 0x41 || m == 0x42 || m == 0x44)

def aluT2Ok (m : Nat) (w : AluW) : Bool :=
  if m == 0x32 then w.t2 == .e4m3 || w.t2 == .e5m2
  else if m == 0x40 || m == 0x41 then w.t2.isFloat
  else if m == 0x42 then w.t2.isInt
  else if m == 0x43 then w.t2 == .f32
  else if m == 0x44 then w.t2 == .e2m1b
  else w.t2 == .n8

/-- Negate and absolute bits accepted (spec/06 R112, R116 to R124). -/
def aluNegOk (m : Nat) (w : AluW) : Bool :=
  let A := w.na || w.aa
  let B := w.nb || w.ab
  let C := w.nc || w.ac
  if m == 0x20 || m == 0x21 || m == 0x22 || m == 0x24 || m == 0x25 || m == 0x26 || m == 0x2B then !C
  else if m == 0x23 then true
  else if m == 0x28 || m == 0x29 || m == 0x2A || (0x2C ≤ m && m ≤ 0x30) then !A && !C
  else if m == 0x31 || m == 0x32 then !w.aa && !w.ab
  else !A && !B && !C

/-- XM bits the entry defines (spec/03 R41). -/
def aluXmOk (m : Nat) (w : AluW) : Bool :=
  let x := w.xm.toNat
  if m == 0x03 then x == 0 || (x == 1 && !w.ty.packed)
  else if m == 0x1A then if w.fmtI then x == 0 else x % 8 < 5 && x < 16
  else if m == 0x1C then x < 4
  else if m == 0x35 then x < 2
  else if m == 0x55 then x < 256
  else if m == 0x58 then x < 2
  else
    let rnd : Bool := if w.rm == .sr then (!w.dst.isS || x % 256 < 64) else x % 256 == 0
    if m == 0x40 || m == 0x41 || m == 0x42 then
      let pos (t : Ty) (p : Nat) : Bool := if t.bits == 8 then true else if t.bits == 16 then p < 2 else p == 0
      rnd && pos w.ty (x / 256 % 4) && pos w.t2 (x / 1024)
    else if m == 0x43 then rnd && x / 256 < 3
    else if [0x20, 0x21, 0x22, 0x23, 0x31, 0x32].contains m then rnd && x < 256
    else x == 0

/-- Immediates whose value is checked (spec/06 R111): a 16-bit float immediate. DESIGN CHOICE: FLDEXP (major 0x34) is exempt, since
its immediate is n, the low 32 bits read as i32 (R124), and no float (log 52). -/
def aluImmOk (m : Nat) (w : AluW) : Bool :=
  if w.fmtI && 0x20 ≤ m && m ≤ 0x35 && (w.ty == .f16 || w.ty == .bf16) && m != 0x34
  then w.imm.toNat < 65536 else true

/-- Modifier checks (spec/03 R51 step 4), DETAIL 5. -/
def aluMods (m : Nat) (w : AluW) : Bool :=
  aluTypeOk m w && aluRmOk m w && aluSatOk m w && aluT2Ok m w && aluNegOk m w && aluXmOk m w && aluImmOk m w

/-- WS may be set (spec/05 R80): not on a 64-bit vector destination. DESIGN CHOICE: an arithmetic word whose destination is zr counts as
an instruction with a register result (spec/03 R35), so that it may carry WS = 1; zr in a 64-bit entry counts as a vector pair
(log 52). -/
def aluWsOk (w : AluW) (m : Nat) : Bool :=
  !w.ws || w.dst.isS || !(w.ty.is64 && (w.dst.isV || w.dst.isZr) && !(m == 0x42 || m == 0x59))

/-- Fields that stand at their defaults when the format does not carry them, so that one word has one term. -/
def aluCanonical (m : Nat) (w : AluW) : Bool :=
  w.fn.val < aluFns m &&
  (if w.fmtI then
    !aluFormatROnly m && w.t2 == .n8 && !w.na && !w.aa && !w.nb && !w.ab && !w.nc && !w.ac && w.xm == 0 &&
      (!aluThreeSrc m || (w.ty == aluDefaultTy m && w.rm == .rne && !w.sat))
   else w.imm == 0)

/-! ## Rows of format M -/

/-- Where the control code and the ATOP field stand (spec/09 R183). -/
inductive MemLay where
  | ctlC   -- control in SRCC
  | ctlD   -- control in DST
  | atop   -- ATOP in SRCB, with the scope
  | red    -- ATOP in SRCB, control in DST
  deriving DecidableEq, Repr

/-- The rows of format M: major, sub-operation where the row fixes one, layout. -/
def Instr.memRow : Instr → Option (Nat × Option (Fin 4) × MemLay × MemW)
  | .mwait w => some (0x76, none, .ctlC, w)
  | .sobjBar w => some (0x78, some 0, .ctlC, w) | .sobjSem w => some (0x78, some 1, .ctlC, w)
  | .sobjCell w => some (0x78, some 2, .ctlC, w) | .sobjInv w => some (0x78, some 3, .ctlC, w)
  | .sarv w => some (0x79, some 0, .ctlC, w) | .sarvPost w => some (0x79, some 1, .ctlC, w)
  | .swait w => some (0x7A, some 0, .ctlC, w) | .swaitTake w => some (0x7A, some 1, .ctlC, w)
  | .swaitTry w => some (0x7A, some 2, .ctlC, w)
  | .cntaSig w => some (0x7B, some 0, .ctlC, w) | .cntaArm w => some (0x7B, some 1, .ctlC, w)
  | .ld w => some (0x80, none, .ctlC, w) | .st w => some (0x81, none, .ctlD, w)
  | .lds w => some (0x82, none, .ctlC, w) | .sts w => some (0x83, none, .ctlD, w)
  | .ldc w => some (0x84, none, .ctlC, w) | .stc w => some (0x85, none, .ctlD, w)
  | .pref w => some (0x86, none, .ctlC, w)
  | .ldsc w => some (0x87, none, .ctlC, w) | .stsc w => some (0x88, none, .ctlD, w)
  | .atom w => some (0xA0, none, .atop, w) | .atoms w => some (0xA1, none, .atop, w)
  | .bins w => some (0xA2, none, .atop, w) | .bffcs w => some (0xA3, none, .atop, w)
  | .bpls w => some (0xA4, none, .atop, w) | .red w => some (0xA5, none, .red, w)
  | _ => none

def Width.bytes : Width → Nat | .w1 => 1 | .w2 => 2 | .w4 => 4 | .w8 => 8 | .w16 => 16

/-- A data register of the width (spec/09 R185): a pair or quad is aligned. -/
def memData (w : Width) (scalarOk : Bool) (o : Opnd) : Bool :=
  match o with
  | .v n => match w with | .w8 => n.val % 2 == 0 | .w16 => n.val % 4 == 0 | _ => true
  | .s n => scalarOk && (match w with | .w16 => n.val % 2 == 0 | _ => true)
  | .b _ => w.bytes ≤ 4 || (scalarOk && w.bytes ≤ 8)
  | _ => false

/-- An atomic operand group (spec/09 R195, R196): doubled for cas, bins and bpls. -/
def atomData (w : Width) (dbl : Bool) (o : Opnd) : Bool :=
  match o with
  | .v n => match w with
    | .w8 => if dbl then n.val % 4 == 0 else n.val % 2 == 0
    | _ => if dbl then n.val % 2 == 0 else true
  | .s n => !dbl || n.val < 63
  | .zr => !dbl
  | .b _ => !dbl && w.bytes ≤ 8
  | _ => false

def globalBase (o : Opnd) : Bool := fitsAny [.vp, .s] o
def scratchBase (o : Opnd) : Bool := fitsAny [.v, .s] o
def indexOk (o : Opnd) : Bool := fitsAny [.v, .s, .z] o

/-- Operand checks of format M: DETAIL 3, then 4 (spec/09 R183, R189, R202). -/
def memOperands (m : Nat) (sub : Nat) (w : MemW) : Option RiDetail :=
  let dbl := (w.opc == .cas && (m == 0xA0 || m == 0xA1)) || m == 0xA2 || m == 0xA4
  let guarded := w.g != 0 || w.gn
  let flag (o : Opnd) : Bool := w.dst.isC || o.isZr
  let once := !guarded && w.a.isS || (!guarded && w.a.isB)
  if m == 0x80 then
    if !(memData w.width true w.dst && !w.dst.isB && globalBase w.a && indexOk w.b && w.c.isZr)
    then some .operand else if w.dst.isS then some .scalar else none
  else if m == 0x81 then
    if !(w.dst.isZr && globalBase w.a && indexOk w.b && (memData w.width true w.c || w.c.isZr)) then some .operand else none
  else if m == 0x82 then
    if !(memData w.width true w.dst && !w.dst.isB && scratchBase w.a && indexOk w.b && w.c.isZr)
    then some .operand else if w.dst.isS then some .scalar else none
  else if m == 0x83 then
    if !(w.dst.isZr && scratchBase w.a && indexOk w.b && (memData w.width true w.c || w.c.isZr)) then some .operand else none
  else if m == 0x84 then
    if !(memData w.width true w.dst && !w.dst.isB && fitsAny [.s] w.a && scratchBase w.b && w.c.isZr)
    then some .operand else if w.dst.isS then some .scalar else none
  else if m == 0x85 then
    if !(w.dst.isZr && fitsAny [.s] w.a && scratchBase w.b && (memData w.width true w.c || w.c.isZr))
    then some .operand else none
  else if m == 0x86 then
    if !(w.dst.isZr && globalBase w.a && indexOk w.b && w.c.isZr) then some .operand else none
  else if m == 0x87 then
    if !(memData w.width true w.dst && !w.dst.isB && fitsAny [.v, .s] w.a && indexOk w.b && w.c.isZr)
    then some .operand
    else if w.a.isV || w.b.isV || (w.dst.isS && guarded) then some .scalar else none
  else if m == 0x88 then
    if !(w.dst.isZr && fitsAny [.v, .s] w.a && indexOk w.b && (memData w.width true w.c && !w.c.isV || w.c.isZr)) then some .operand
    else if w.a.isV || w.b.isV || guarded then some .scalar else none
  else if m == 0xA0 || m == 0xA2 || m == 0xA3 || m == 0xA4 || m == 0xA1 then
    let base := if m == 0xA1 then scratchBase w.a else globalBase w.a
    let data := if m == 0xA3 then w.c.isZr else atomData w.width dbl w.c
    if !((w.dst.isZr || (memData w.width true w.dst && !w.dst.isB)) && base && w.b.isZr && data) then some .operand
    else if w.dst.isS && (guarded || w.a.isV || w.c.isV) then some .scalar else none
  else if m == 0xA5 then
    if !(w.dst.isZr && globalBase w.a && w.b.isZr && atomData w.width false w.c) then some .operand else none
  else if m == 0x76 then
    if !(flag w.dst && (match w.b with | .s n => n.val < 63 | _ => false) && w.c.isZr && fitsAny [.v, .s] w.a)
    then some .operand else if !once then some .scalar else none
  else if m == 0x78 then
    if !(flag w.dst && w.c.isZr && fitsAny [.v, .s] w.a && (if sub < 2 then fitsAny [.s] w.b || w.b.isZr && false else w.b.isZr))
    then some .operand else if !once then some .scalar else none
  else if m == 0x79 then
    if !((if sub == 0 then w.dst.isS || w.dst.isZr else flag w.dst) && w.c.isZr && fitsAny [.v, .s] w.a &&
        (if sub == 0 then w.b.isZr else fitsAny [.s] w.b))
    then some .operand else if !once then some .scalar else none
  else if m == 0x7A then
    if !(flag w.dst && w.c.isZr && fitsAny [.v, .s] w.a && fitsAny [.s] w.b)
    then some .operand else if !once then some .scalar else none
  else                                  -- CNTA (spec/18 R332)
    if !(flag w.dst && w.c.isZr && fitsAny [.s] w.a && fitsAny [.s] w.b)
    then some .operand else if guarded then some .scalar else none

/-- Widths, orders, scopes, scale, hint and atomic codes accepted (spec/09 R183, R190, R194, R198): DETAIL 5. -/
def memMods (m : Nat) (w : MemW) : Bool :=
  let wn := w.width.bytes
  let widths : Bool :=
    if m == 0x86 then true
    else if 0x80 ≤ m && m ≤ 0x88 then true
    else if m == 0xA1 then wn ≤ 8
    else if m == 0xA3 then wn == 8
    else if m == 0xA0 || m == 0xA2 || m == 0xA4 || m == 0xA5 then wn == 4 || wn == 8
    else wn == 8
  let orders : Bool :=
    if m == 0x80 || m == 0x87 || m == 0x82 || m == 0x84 then w.order == .plain || w.order == .acq
    else if m == 0x81 || m == 0x88 || m == 0x83 || m == 0x85 || m == 0xA5 then w.order == .plain || w.order == .rel
    else if m == 0x86 then w.order == .plain
    else if 0xA0 ≤ m && m ≤ 0xA4 then true
    else if m == 0x76 then w.order == .plain || w.order == .acq
    else w.order == .plain
  let scopes : Bool :=
    if m == 0x82 || m == 0x83 || m == 0x84 || m == 0x85 || m == 0xA1
    then w.scope == .grp || w.scope == .team || w.scope == .clu else true
  let scales : Bool :=
    w.scale == 0 || (m == 0x80 || m == 0x81 || m == 0x82 || m == 0x83 || m == 0x86 || m == 0x87 || m == 0x88)
  let subs : Bool :=
    if 0xA0 ≤ m then w.sub == 0 else if m == 0x76 then w.sub.val < 3 else true
  let atomic : Bool :=
    if m == 0xA0 || m == 0xA1 || m == 0xA5 then
      (w.kind != .float || (w.width == .w4 && [AtomOp.add, .min, .max, .exch, .cas].contains w.opc)) &&
        !(m == 0xA5 && w.opc == .cas) && (m != 0xA1 || w.kind != .float || w.width == .w4)
    else w.opc == .add && w.kind == .unsigned
  widths && orders && scopes && scales && subs && atomic

/-! ## Rows of formats E and S -/

/-- What the entry of an E or S row fixes: major, function code, accepted kinds of the four operand fields, whether a
guard may select lanes, the IMM bits that may be non-zero, and further checks on IMM. -/
structure EngSig where
  op : Nat
  fmtE : Bool
  fn : Nat := 0
  dst : List Kd := [.z]
  a : List Kd := [.z]
  b : List Kd := [.z]
  c : List Kd := [.z]
  guard : Bool := false
  mask : Nat := 0
  extra : Bool := true      -- a further IMM check, already decided for this instruction (DETAIL 5)
  kindsExtra : Bool := true -- a further operand check (DETAIL 3)

/-- IMM[hi:lo] of a word. -/
def immF (x : BitVec 32) (hi lo : Nat) : Nat := x.toNat / 2 ^ lo % 2 ^ (hi + 1 - lo)

def matTyOk (t : Nat) : Bool := [8, 9, 11, 12, 13, 0, 1].contains t

/-- A source block of `n` vector registers: a latch holds one register (spec/03 R34), so that it may stand for a block of one. -/
def vBlock (n : Nat) : Kd := if n = 1 then .v else .vb

/-- The signature of each E and S row, with the entry's own checks. DESIGN CHOICE: zr does not stand for a destination that an entry
writes as vD|sD or sD alone: SRD here, and KPOP, KFFS and RDLANE in `aluOperands`, refuse it with DETAIL 3, while the arithmetic
entries take it (spec/03 R45, spec/05 R80, R99; log 52). -/
def Instr.engRow : Instr → Option (EngSig × EngW)
  -- format S
  | .srd w => some ({
      op := 0x1E, fmtE := false, dst := if w.imm.getLsbD 8 then [.vp, .s] else [.v, .s], guard := true,
      mask := 0x1FF, extra := decide (immF w.imm 7 0 ≤ 0x14) && !(w.dst.isS && w.imm.getLsbD 8) }, w)
  | .swr w => some ({
      op := 0x1F, fmtE := false, a := [.v, .s, .z], mask := 0xFF,
      extra := immF w.imm 7 0 == 0x11 || immF w.imm 7 0 == 0x14 }, w)
  | .ret w => some ({ op := 0x62, fmtE := false, a := [.s] }, w)
  | .jmpi w => some ({ op := 0x63, fmtE := false, a := [.s] }, w)
  | .fuse w => some ({ op := 0x65, fmtE := false }, w)
  | .exit w => some ({ op := 0x66, fmtE := false, guard := true }, w)
  | .yield w => some ({ op := 0x67, fmtE := false }, w)
  | .rgn w => some ({ op := 0x68, fmtE := false, mask := 1, extra := !w.imm.getLsbD 0 }, w)
  | .rgnClose w => some ({ op := 0x68, fmtE := false, mask := 1, extra := w.imm.getLsbD 0 }, w)
  | .sigchk w => some ({ op := 0x69, fmtE := false, mask := 0xFFFFFFFF }, w)
  | .trapi w => some ({ op := 0x6A, fmtE := false, mask := 0xFFFFFFFF }, w)
  | .brk w => some ({ op := 0x6B, fmtE := false, mask := 0xFFFFFFFF }, w)
  | .tbar w => some ({ op := 0x70, fmtE := false, mask := 0xFF1F, extra := decide (immF w.imm 15 8 ≤ 32) }, w)
  | .cjoin w => some ({ op := 0x71, fmtE := false, dst := [.c, .z] }, w)
  | .cleave w => some ({ op := 0x72, fmtE := false }, w)
  | .cbar w => some ({ op := 0x73, fmtE := false, mask := 0x10 }, w)
  | .rbsur w => some ({ op := 0x74, fmtE := false, mask := 0xF }, w)
  | .rbclm w => some ({ op := 0x75, fmtE := false, mask := 0xF }, w)
  | .fenceAcq w => some ({ op := 0x7C, fmtE := false, fn := 0, mask := 7, extra := decide (immF w.imm 2 0 < 6) }, w)
  | .fenceRel w => some ({ op := 0x7C, fmtE := false, fn := 1, mask := 7, extra := decide (immF w.imm 2 0 < 6) }, w)
  | .fenceAr w => some ({ op := 0x7C, fmtE := false, fn := 2, mask := 7, extra := decide (immF w.imm 2 0 < 6) }, w)
  | .cctlClean w => some ({ op := 0x89, fmtE := false, fn := 0, a := [.s], b := [.s] }, w)
  | .cctlInval w => some ({ op := 0x89, fmtE := false, fn := 1, a := [.s], b := [.s] }, w)
  | .cctlCinv w => some ({ op := 0x89, fmtE := false, fn := 2, a := [.s], b := [.s] }, w)
  | .launch w => some ({ op := 0xEC, fmtE := false, dst := [.c, .z], a := [.s] }, w)
  | .taskpub w => some ({ op := 0xED, fmtE := false, dst := [.c, .z], a := [.s] }, w)
  | .recalloc w => some ({ op := 0xEE, fmtE := false, dst := [.vp], a := [.s], guard := true, mask := 7 }, w)
  | .recemit w => some ({ op := 0xEF, fmtE := false, a := [.s], b := [.vp], guard := true }, w)
  | .tilenx w => some ({ op := 0xF0, fmtE := false, dst := [.c] }, w)
  | .tilenxExit w => some ({ op := 0xF0, fmtE := false, dst := [.z] }, w)
  | .syscallNodeCreate w => some ({ op := 0xF6, fmtE := false, dst := [.s, .z], a := [.s, .z], mask := 0xFFFF, extra := w.imm == 0 }, w)
  | .syscallNodeFlush w => some ({ op := 0xF6, fmtE := false, dst := [.s, .z], a := [.s, .z], mask := 0xFFFF, extra := w.imm == 1 }, w)
  | .syscallNodeDelete w => some ({ op := 0xF6, fmtE := false, dst := [.s, .z], a := [.s, .z], mask := 0xFFFF, extra := w.imm == 2 }, w)
  | .syscallWake w => some ({ op := 0xF6, fmtE := false, dst := [.s, .z], a := [.s, .z], mask := 0xFFFF, extra := w.imm == 3 }, w)
  | .syscallUnassigned w => some ({ op := 0xF6, fmtE := false, dst := [.s, .z], a := [.s, .z], mask := 0xFFFF, extra := decide (4 ≤ w.imm.toNat) }, w)
  | .prog w => some ({ op := 0xF7, fmtE := false, mask := 0xF }, w)
  | .pmcapStart w => some ({ op := 0xF8, fmtE := false, fn := 0, dst := [.c, .z], a := [.s], b := [.s] }, w)
  | .pmcapStop w => some ({ op := 0xF8, fmtE := false, fn := 1, dst := [.c, .z] }, w)
  | .halt w => some ({ op := 0xF9, fmtE := false }, w)
  -- format E
  | .rsig w => some ({ op := 0x7D, fmtE := true, b := [.s, .z], mask := 0xF01, extra := w.b.isZr || immF w.imm 11 8 == 0 }, w)
  | .rwait w => some ({ op := 0x7E, fmtE := true, dst := [.c, .z], b := [.s, .z], mask := 0xF01, extra := w.b.isZr || immF w.imm 11 8 == 0 }, w)
  | .cplIn w => some ({
      op := 0xB0, fmtE := true, a := [.vp, .s], b := [.v, .s], guard := true, mask := 0x1F,
      extra := immF w.imm 1 0 != 3 && !w.imm.getLsbD 2 }, w)
  | .cplOut w => some ({
      op := 0xB0, fmtE := true, a := [.vp, .s], b := [.v, .s], guard := true, mask := 0x1F,
      extra := immF w.imm 1 0 != 3 && w.imm.getLsbD 2 }, w)
  | .cpseal w => some ({ op := 0xB1, fmtE := true, a := [.s], b := [.s], mask := 7, extra := decide (immF w.imm 2 0 < 6) }, w)
  | .seprog w => some ({ op := 0xB2, fmtE := true, dst := [.c], a := [.s], mask := 1 }, w)
  | .sectlStart w => some ({ op := 0xB3, fmtE := true, fn := 0, mask := 1 }, w)
  | .sectlStop w => some ({ op := 0xB3, fmtE := true, fn := 1, mask := 1 }, w)
  | .sectlQuery w => some ({ op := 0xB3, fmtE := true, fn := 2, dst := [.s], mask := 1 }, w)
  | .bcpy w => some ({ op := 0xB4, fmtE := true, a := [.s] }, w)
  | .collAllReduce w => some ({ op := 0xB5, fmtE := true, fn := 0, a := [.s] }, w)
  | .collReduceScatter w => some ({ op := 0xB5, fmtE := true, fn := 1, a := [.s] }, w)
  | .collAllGather w => some ({ op := 0xB5, fmtE := true, fn := 2, a := [.s] }, w)
  | .collBroadcast w => some ({ op := 0xB5, fmtE := true, fn := 3, a := [.s] }, w)
  | .mma w =>
    let e := immF w.imm 7 4 == 13 || immF w.imm 11 8 == 13
    some ({
      op := 0xC0, fmtE := true, a := [.s], b := [.s, .z], c := [vBlock (if w.b.isZr then 1 else 2), .z], mask := 0x3FFF,
      extra := matTyOk (immF w.imm 7 4) && matTyOk (immF w.imm 11 8) && immF w.imm 13 12 != 3 && (e || immF w.imm 13 12 == 0),
      kindsExtra := if e then !w.c.isZr else w.c.isZr }, w)
  | .mloop w =>
    let e := immF w.imm 7 4 == 13 || immF w.imm 11 8 == 13
    some ({
      op := 0xC1, fmtE := true, dst := [.s, .z], a := [.s], b := [.s], c := [.s], mask := 0xFFFFFF,
      extra := matTyOk (immF w.imm 7 4) && matTyOk (immF w.imm 11 8), kindsExtra := !w.dst.isB && (if e then w.dst.isS else w.dst.isZr) }, w)
  | .mloopm w =>
    let e := immF w.imm 7 4 == 13 || immF w.imm 11 8 == 13
    some ({
      op := 0xC2, fmtE := true, dst := [.s, .z], a := [.s], c := [.s], mask := 0xFFFF,
      extra := matTyOk (immF w.imm 7 4) && matTyOk (immF w.imm 11 8) && decide (immF w.imm 3 0 + immF w.imm 15 12 ≤ 15),
      kindsExtra := !w.dst.isB && (if e then w.dst.isS else w.dst.isZr) }, w)
  | .mqb w =>
    let e := immF w.imm 7 4 == 13
    some ({
      op := 0xC3, fmtE := true, a := [.vp], b := [.v, .z], mask := 0xF0, extra := matTyOk (immF w.imm 7 4),
      kindsExtra := if e then !w.b.isZr else w.b.isZr }, w)
  | .mfence w => some ({ op := 0xC4, fmtE := true, dst := [.s] }, w)
  | .mbwait w => some ({ op := 0xC5, fmtE := true, a := [.s, .z], mask := 0xFFFFFFFF, extra := w.a.isZr || w.imm == 0 }, w)
  | .accnew w => some ({ op := 0xC6, fmtE := true, mask := 0xF }, w)
  | .accld w => some ({ op := 0xC7, fmtE := true, a := [.s], mask := 0xFF, extra := immF w.imm 7 4 == 10 || immF w.imm 7 4 == 5 }, w)
  | .accst w =>
    let t := immF w.imm 7 4
    let t2 := immF w.imm 11 8
    let rm := immF w.imm 14 12
    let fl := [8, 9, 10].contains t
    some ({
      op := 0xC8, fmtE := true, a := [.s], b := [.s, .z], mask := 0x1FFFF,
      extra := ((t2 == 10 && (fl || t == 11 || t == 12)) && rm != 5 && rm != 7) || (t2 == 5 && fl && rm != 5 && rm != 7) ||
        (t2 == 5 && [5, 3, 1, 2, 0].contains t && rm == 0 && !w.imm.getLsbD 16),
      kindsExtra := if w.imm.getLsbD 16 then w.b.isS || w.b.isB else w.b.isZr }, w)
  | .accrd w => some ({
      op := 0xC9, fmtE := true, dst := [.vb], guard := true, mask := 0x7FFF,
      extra := decide (immF w.imm 8 4 + immF w.imm 13 9 + 1 ≤ 32) }, w)
  | .accwr w => some ({
      op := 0xCA, fmtE := true, a := [vBlock (immF w.imm 13 9 + 1)], guard := true, mask := 0x7FFF,
      extra := decide (immF w.imm 8 4 + immF w.imm 13 9 + 1 ≤ 32) }, w)
  | .neval w => some ({ op := 0xD0, fmtE := true, dst := [.vb], a := [.vp], b := [vBlock (immF w.imm 4 0 + 1)], guard := true, mask := 0x3FF }, w)
  | .nhldPre w => some ({ op := 0xD1, fmtE := true, fn := 0, a := [.s] }, w)
  | .nhldDrop w => some ({ op := 0xD1, fmtE := true, fn := 1, a := [.s] }, w)
  | .nstat w => some ({ op := 0xD2, fmtE := true, dst := [.kd], mask := 1 }, w)
  | .vapp w => some ({ op := 0xD4, fmtE := true, dst := [.vb], a := [.s], b := [.vb], guard := true, mask := 3 }, w)
  | .vconn w => some ({ op := 0xD5, fmtE := true, dst := [.vb], a := [.s], b := [.vb], guard := true, mask := 1 }, w)
  | .vmerge w => some ({ op := 0xD6, fmtE := true, dst := [.vb], a := [.s], b := [.vb], guard := true }, w)
  | .vrwgt w => some ({ op := 0xD7, fmtE := true, dst := [.vb], a := [.s], b := [.vb], guard := true, mask := 3, extra := immF w.imm 1 0 != 3 }, w)
  | .vld w => some ({
      op := 0xD8, fmtE := true, dst := [.vb], a := [.s], b := [.v, .z], guard := true, mask := 0xF,
      extra := immF w.imm 3 0 != 15,
      kindsExtra := if immF w.imm 3 0 == 13 || immF w.imm 3 0 == 14 then w.b.isZr else !w.b.isZr }, w)
  | .vgenOpen w => some ({ op := 0xD9, fmtE := true, fn := 0, dst := [.c, .z], a := [.s], b := [.s], c := [.s], mask := 1, extra := !w.imm.getLsbD 0 }, w)
  | .vgenOpenInit w => some ({ op := 0xD9, fmtE := true, fn := 0, dst := [.c, .z], a := [.s], b := [.s], c := [.s], mask := 1, extra := w.imm.getLsbD 0 }, w)
  | .vgenClose w => some ({ op := 0xD9, fmtE := true, fn := 1, dst := [.c, .z], a := [.s], b := [.s], c := [.s], mask := 1, extra := !w.imm.getLsbD 0 }, w)
  | .vgenCloseFree w => some ({ op := 0xD9, fmtE := true, fn := 1, dst := [.c, .z], a := [.s], b := [.z], c := [.z], mask := 1, extra := w.imm.getLsbD 0 }, w)
  | .vpinPin w => some ({ op := 0xDA, fmtE := true, fn := 0, a := [.s], b := [.v], guard := true }, w)
  | .vpinUnpin w => some ({ op := 0xDA, fmtE := true, fn := 1, a := [.s], b := [.v], guard := true }, w)
  | .trace w => some ({
      op := 0xDC, fmtE := true, dst := [.vb], a := [.vb], b := [.s], guard := true, mask := 0xFFF,
      extra := !(w.imm.getLsbD 8 && w.imm.getLsbD 9) }, w)
  | .trresAccept w => some ({ op := 0xDD, fmtE := true, fn := 0, dst := [.vb], a := [.v, .z], guard := true }, w)
  | .trresReject w => some ({ op := 0xDD, fmtE := true, fn := 1, dst := [.vb], a := [.v, .z], guard := true }, w)
  | .trresCommit w => some ({ op := 0xDD, fmtE := true, fn := 2, dst := [.vb], a := [.v, .z], guard := true }, w)
  | .tqry w => some ({
      op := 0xDE, fmtE := true, a := [.vb], b := [.s], guard := true, mask := 0x81F,
      extra := immF w.imm 1 0 != 3 && (immF w.imm 1 0 == 1 || immF w.imm 4 2 == 0) }, w)
  | .tqnext w => some ({ op := 0xDF, fmtE := true, dst := [.vb], guard := true, mask := 7 }, w)
  | .trstat w => some ({ op := 0xE0, fmtE := true, dst := [.v, .s], guard := true, mask := 0xFF, extra := decide (immF w.imm 7 0 ≤ 8) }, w)
  | .texs w => some ({ op := 0xE4, fmtE := true, dst := [.vb], a := [.s], b := [.vb], c := [.s], guard := true, mask := 1 }, w)
  | .texl w => some ({ op := 0xE5, fmtE := true, dst := [.vb], a := [.s], b := [.vb], guard := true }, w)
  | .texq w => some ({ op := 0xE6, fmtE := true, dst := [.s], a := [.s], mask := 0xF }, w)
  | .tlsub w => some ({ op := 0xE7, fmtE := true, a := [.s], b := [.s], c := [.sp], mask := 7, extra := decide (immF w.imm 2 0 < 6) }, w)
  | .tlflush w => some ({ op := 0xE8, fmtE := true, a := [.s], c := [.sp], mask := 7, extra := decide (immF w.imm 2 0 < 6) }, w)
  | .fout w => some ({ op := 0xE9, fmtE := true, a := [.vb], guard := true }, w)
  | .spsub w => some ({ op := 0xEA, fmtE := true, a := [.s], c := [.sp], mask := 7, extra := decide (immF w.imm 2 0 < 6) }, w)
  | _ => none

/-- Operand checks of E and S rows. A DST field never holds a latch (spec/03 R45); DESIGN CHOICE: that covers MLOOP and MLOOPM,
whose sD in DST is a source, so that a latch there is DETAIL 3 (log 52). TRSTAT's scalar form and an SRD into a scalar
execute once; CCTL and SWR take no vector source (DETAIL 4). -/
def engOperands (sg : EngSig) (w : EngW) : Option RiDetail :=
  let guarded := w.g != 0 || w.gn
  if !(fitsAny sg.dst w.dst && !w.dst.isB && fitsAny sg.a w.a && fitsAny sg.b w.b && fitsAny sg.c w.c && sg.kindsExtra)
  then some .operand
  else if guarded && (!sg.guard || ((sg.op == 0x1E || sg.op == 0xE0) && w.dst.isS)) then some .scalar
  else if sg.op == 0x1F && w.a.isV then some .scalar
  else if sg.op == 0xE0 && w.dst.isS && immF w.imm 7 0 == 8 then some .scalar
  else none

def engMods (sg : EngSig) (w : EngW) : Bool :=
  sg.extra && (w.imm.toNat &&& (0xFFFFFFFF - sg.mask)) == 0

/-! ## Rows of format B -/

def Instr.brRow : Instr → Option (Nat × BrW)
  | .br w => some (0x60, w) | .call w => some (0x61, w) | .split w => some (0x64, w)
  | _ => none

def brOperands (m : Nat) (w : BrW) : Option RiDetail :=
  let tested : Bool :=
    match w.cond with
    | .always => w.a.isZr
    | .cset | .cclr => w.a.isC || w.a.isB
    | .kz | .knz => w.a.isK || w.a.isB
  let ok : Bool :=
    if m == 0x60 then w.dst.isZr && w.b.isZr && tested
    else if m == 0x61 then (w.dst.isS || w.dst.isZr) && w.a.isZr && w.b.isZr
    else w.dst.isZr && w.a.isZr && (w.b.isK || w.b.isB)
  if !ok then some .operand else if w.g != 0 || w.gn then some .scalar else none

/-- Conditions accepted: BR any, CALL and SPLIT only "always" (spec/07 R156). -/
def brMods (m : Nat) (w : BrW) : Bool := m == 0x60 || w.cond == .always

/-! ## The check of one instruction -/

/-- The first decode check of R51 steps 3 and 4 that the instruction fails, with its DETAIL; none when it passes. DESIGN CHOICE: a
CALL whose destination is zr has no register result, so that WS = 1 on it is DETAIL 6 (spec/03 R35; log 52). -/
def Instr.check (i : Instr) : Option RiDetail :=
  match i.aluMajor with
  | some (m, w) =>
    (aluOperands m w).orElse fun _ =>
      if !aluMods m w then some .modifier else if !aluWsOk w m then some .suppress else none
  | none =>
  match i.memRow with
  | some (m, sub, _, w) =>
    (memOperands m (sub.getD w.sub).val w).orElse fun _ =>
      if !memMods m w then some .modifier else if w.ws then some .suppress else none
  | none =>
  match i.engRow with
  | some (sg, w) =>
    (engOperands sg w).orElse fun _ =>
      if !engMods sg w then some .modifier else if w.ws then some .suppress else none
  | none =>
  match i.brRow with
  | some (m, w) =>
    (brOperands m w).orElse fun _ =>
      if !brMods m w then some .modifier else if w.ws && !w.dst.isS then some .suppress else none
  | none => none

/-- Is this row an instruction of the 96-bit encoding (an event row is not)? -/
def Instr.isWord (i : Instr) : Bool :=
  i == .nop || i == .udf || i.aluMajor.isSome || i.memRow.isSome || i.engRow.isSome || i.brRow.isSome

/-- Fields that the encoding of the row does not carry stand at their defaults, so that one word has one term. -/
def Instr.canonical (i : Instr) : Bool :=
  (match i.aluMajor with | some (m, w) => aluCanonical m w | none => true) &&
  (match i.memRow with
   | some (_, sub, lay, w) =>
     (match sub with | some x => w.sub == x | none => true) &&
     (match lay with
      | .ctlC => w.c.isZr && w.opc == .add && w.kind == .unsigned
      | .ctlD => w.dst.isZr && w.opc == .add && w.kind == .unsigned
      | .atop => w.b.isZr && w.scale == 0
      | .red => w.b.isZr && w.dst.isZr)
   | none => true) &&
  (match i.brRow with | some (m, w) => m == 0x64 || w.foff == 0 | none => true)

/-- Well-formed: an instruction of the encoding that passes the decode checks and carries only what its word carries. -/
def WellFormed (i : Instr) : Prop := i.isWord = true ∧ i.canonical = true ∧ i.check = none

end Sys2Proof
end

