-- ==== Sys2Proof/Machine/Num.lean ====
section
/-! DEFINITION. Num: the float formats, exact values, rounding with its flags, and the blocked e2m1 format (spec/04). -/

namespace Sys2Proof.Machine

/-! ## Formats (R59) -/

/-- A float format. `e4` is e4m3, which has no infinity; `flush` says that FTZ reaches it (R71). -/
structure Fmt where
  eb : Nat
  mb : Nat
  bias : Nat
  e4 : Bool := false
  flush : Bool := true
  deriving DecidableEq, Repr

def Fmt.f32 : Fmt := { eb := 8, mb := 23, bias := 127 }
def Fmt.f16 : Fmt := { eb := 5, mb := 10, bias := 15 }
def Fmt.bf16 : Fmt := { eb := 8, mb := 7, bias := 127 }
def Fmt.e5m2 : Fmt := { eb := 5, mb := 2, bias := 15, flush := false }
def Fmt.e4m3 : Fmt := { eb := 4, mb := 3, bias := 7, e4 := true, flush := false }

/-- The format of a float type. -/
def fmtOf (t : Ty) : Fmt :=
  match t with
  | .bf16 => .bf16 | .f16 => .f16 | .e4m3 => .e4m3 | .e5m2 => .e5m2 | _ => .f32

namespace Fmt
def width (f : Fmt) : Nat := 1 + f.eb + f.mb
def signBit (f : Fmt) (neg : Bool) : Nat := if neg then 2 ^ (f.eb + f.mb) else 0
/-- The canonical NaN. -/
def nan (f : Fmt) : Nat := if f.e4 then 0x7F else (2 ^ f.eb - 1) * 2 ^ f.mb + 2 ^ (f.mb - 1)
/-- Infinity, or the canonical NaN of e4m3. -/
def inf (f : Fmt) (neg : Bool) : Nat := if f.e4 then 0x7F else f.signBit neg + (2 ^ f.eb - 1) * 2 ^ f.mb
/-- The largest finite magnitude. -/
def max (f : Fmt) (neg : Bool) : Nat :=
  f.signBit neg + (if f.e4 then 0x7E else (2 ^ f.eb - 1) * 2 ^ f.mb - 1)
end Fmt

/-! ## Values -/

/-- A float value: NaN, an infinity, or the exact (−1)^neg × m × 2^e. -/
inductive FVal where
  | nan
  | inf (neg : Bool)
  | fin (neg : Bool) (m : Nat) (e : Int)
  deriving DecidableEq, Repr

namespace FVal
def isNan : FVal → Bool | .nan => true | _ => false
def isInf : FVal → Bool | .inf _ => true | _ => false
def isZero : FVal → Bool | .fin _ m _ => m == 0 | _ => false
def neg : FVal → Bool | .inf n => n | .fin n _ _ => n | .nan => false
def flip : FVal → FVal | .inf n => .inf !n | .fin n m e => .fin (!n) m e | .nan => .nan
def abs : FVal → FVal | .inf _ => .inf false | .fin _ m e => .fin false m e | .nan => .nan
end FVal

/-- The value of a code; `ftz` reads a subnormal as zero of its sign (R71). -/
def Fmt.dec (f : Fmt) (ftz : Bool) (x : Nat) : FVal :=
  let neg := x.testBit (f.eb + f.mb)
  let e := x / 2 ^ f.mb % 2 ^ f.eb
  let m := x % 2 ^ f.mb
  if e == 0 then .fin neg (if ftz && f.flush then 0 else m) (1 - (f.bias : Int) - f.mb)
  else if f.e4 then (if e == 15 && m == 7 then .nan else .fin neg (m + 8) ((e : Int) - 10))
  else if e == 2 ^ f.eb - 1 then (if m == 0 then .inf neg else .nan)
  else .fin neg (m + 2 ^ f.mb) ((e : Int) - f.bias - f.mb)

/-! ## Flags and modes (R66, R68) -/

def flNX : Nat := 1
def flUF : Nat := 2
def flOF : Nat := 4
def flDZ : Nat := 8
def flNV : Nat := 16

/-- A rounding mode; under .sr with its random operand. -/
inductive Mode where
  | rne | rtz | rup | rdn | rna
  | sr (u : Nat)
  deriving DecidableEq, Repr

/-- Codes 0 to 4. -/
def Mode.ofNat (n : Nat) : Mode :=
  match n with | 1 => .rtz | 2 => .rup | 3 => .rdn | 4 => .rna | _ => .rne

/-- Random bits that a .sr rounding uses (R67): the least k ≥ 1 with 2^k × rem / d an integer, capped at 64. -/
def srBits (rem d : Nat) : Nat :=
  ((List.range 63).map (· + 1)).find? (fun k => rem * 2 ^ k % d == 0) |>.getD 64

/-- Does the magnitude (n + (rem + δ) / d) units round up by one unit? `sticky` says 0 < δ < 1; else δ = 0. -/
def roundsUp (md : Mode) (neg : Bool) (n rem d : Nat) (sticky : Bool) : Bool :=
  if rem == 0 && !sticky then false else
  match md with
  | .rne => decide (d < 2 * rem) || (2 * rem == d && (sticky || n % 2 == 1))
  | .rtz => false
  | .rup => !neg
  | .rdn => neg
  | .rna => decide (d ≤ 2 * rem)
  | .sr u =>
    let k := if sticky then 64 else srBits rem d
    decide (2 ^ k ≤ rem * 2 ^ k / d + u % 2 ^ k)

def bitLen (n : Nat) : Nat := if n == 0 then 0 else n.log2 + 1

/-- ⌊log2 (num / den)⌋, for num ≠ 0. -/
def floorLog2 (num den : Nat) : Int :=
  let e : Int := (bitLen num : Int) - bitLen den
  if num * 2 ^ (-e).toNat < den * 2 ^ e.toNat then e - 1 else e

/-- Round the magnitude (num + δ) / den to a format, with the flags raised (R66 to R73). -/
def Fmt.round (f : Fmt) (md : Mode) (sat ftz neg : Bool) (num den : Nat) (sticky : Bool) : Nat × Nat :=
  if num == 0 then (f.signBit neg, 0) else
  let e := floorLog2 num den
  let emin : Int := 1 - f.bias
  let q : Int := (if emin < e then e else emin) - f.mb
  let n0 := num * 2 ^ (-q).toNat
  let d := den * 2 ^ q.toNat
  let n := n0 / d
  let rem := n0 % d
  let inexact := rem != 0 || sticky
  let r := n + (if roundsUp md neg n rem d sticky then 1 else 0)
  let fl := if inexact then (if e < emin then flNX + flUF else flNX) else 0
  let code := r + (q - (emin - f.mb)).toNat * 2 ^ f.mb
  if (f.max false) < code then
    let toInf : Bool := match md with
      | .rtz => false
      | .rup => !neg
      | .rdn => neg
      | _ => true
    (if toInf && !sat then f.inf neg else f.max neg, fl ||| flOF ||| flNX)
  else if ftz && f.flush && code < 2 ^ f.mb && code != 0 then (f.signBit neg, fl ||| flUF ||| flNX)
  else (f.signBit neg + code, fl)

/-- Round a value to a format (R72, R74): NaN is the canonical NaN without a flag. -/
def Fmt.ofVal (f : Fmt) (md : Mode) (sat ftz : Bool) (x : FVal) : Nat × Nat :=
  match x with
  | .nan => (f.nan, 0)
  | .inf neg => if f.e4 then (if sat then (f.max neg, flNX) else (f.nan, flNV)) else (f.inf neg, 0)
  | .fin neg m e => f.round md sat ftz neg (m * 2 ^ e.toNat) (2 ^ (-e).toNat) false

/-- Round to an integer of `w` bits (R74). -/
def toInt (md : Mode) (signed : Bool) (w : Nat) (x : FVal) : Int × Nat :=
  let lo : Int := if signed then -(2 ^ (w - 1)) else 0
  let hi : Int := if signed then 2 ^ (w - 1) - 1 else 2 ^ w - 1
  match x with
  | .nan => (0, flNV)
  | .inf neg => (if neg then lo else hi, flNV)
  | .fin neg m e =>
    let d := 2 ^ (-e).toNat
    let n0 := m * 2 ^ e.toNat
    let n := n0 / d
    let r := n + (if roundsUp md neg n (n0 % d) d false then 1 else 0)
    let y : Int := if neg then -(r : Int) else r
    if y < lo || hi < y then (if neg then lo else hi, flNV) else (y, if n0 % d == 0 then 0 else flNX)

/-! ## Exact operations (R75, R115) -/

/-- A product; the flag says 0 × ∞. -/
def mulVal (a b : FVal) : FVal × Bool :=
  match a, b with
  | .nan, _ | _, .nan => (.nan, false)
  | .inf n, .inf n' => (.inf (n != n'), false)
  | .inf n, .fin n' m _ | .fin n' m _, .inf n => if m == 0 then (.nan, true) else (.inf (n != n'), false)
  | .fin n m e, .fin n' m' e' => (.fin (n != n') (m * m') (e + e'), false)

/-- A fixed-point integer for a finite value at scale 2^e0. -/
def FVal.atScale (x : FVal) (e0 : Int) : Int :=
  match x with
  | .fin n m e =>
    let v : Int := (m * 2 ^ (e - e0).toNat : Nat)
    if n then -v else v
  | _ => 0

def FVal.exp : FVal → Int | .fin _ _ e => e | _ => 0

/-- An exact sum (R75); the flag says infinities of opposite sign, beside a NaN too. `rdn` gives the sign of a cancelled sum. -/
def sumVals (rdn : Bool) (ts : List FVal) : FVal × Bool :=
  let p := ts.any fun t => t.isInf && !t.neg
  let n := ts.any fun t => t.isInf && t.neg
  if p && n then (.nan, true)
  else if ts.any FVal.isNan then (.nan, false)
  else if p || n then (.inf n, false)
  else
    let e0 := ts.foldl (fun e t => if t.exp < e then t.exp else e) 0
    let x : Int := ts.foldl (fun a t => a + t.atScale e0) 0
    if x == 0 then (.fin (if ts.all FVal.neg then true else if ts.all fun t => !t.neg then false else rdn) 0 e0, false)
    else (.fin (decide (x < 0)) x.natAbs e0, false)

/-- A dot product plus addends, rounded once. 0 × ∞ and ∞ − ∞ raise NV whatever the other operands are: R60 excepts the
operations that R68 lists from its rule for NaN operands (R75, spec/06 R116; log 8). -/
def Fmt.dot (f : Fmt) (md : Mode) (sat ftz : Bool) (prods : List (FVal × FVal)) (adds : List FVal) : Nat × Nat :=
  let ps := prods.map fun p => mulVal p.1 p.2
  let s := sumVals (md == .rdn) (ps.map (·.1) ++ adds)
  let r := f.ofVal md sat ftz s.1
  (r.1, r.2 ||| (if s.2 || ps.any (·.2) then flNV else 0))

/-- Order of two values that are not NaN: −0 equals +0. -/
def ltVal (a b : FVal) : Bool :=
  match a, b with
  | .inf n, .inf n' => n && !n'
  | .inf n, _ => n
  | _, .inf n => !n
  | a, b =>
    let e0 := if a.exp < b.exp then a.exp else b.exp
    decide (a.atScale e0 < b.atScale e0)

def eqVal (a b : FVal) : Bool :=
  match a, b with
  | .inf n, .inf n' => n == n'
  | .inf _, _ | _, .inf _ => false
  | .nan, _ | _, .nan => false
  | a, b =>
    let e0 := if a.exp < b.exp then a.exp else b.exp
    a.atScale e0 == b.atScale e0

/-- Minimum or maximum of two codes of a format (R117): the other operand when one is NaN; −0 lies below +0. -/
def Fmt.minmax (f : Fmt) (ftz isMax : Bool) (a b : Nat) : Nat :=
  let x := f.dec ftz a
  let y := f.dec ftz b
  let put (v : FVal) : Nat := (f.ofVal .rne false false v).1
  if x.isNan then put y
  else if y.isNan then put x
  else
    let less := ltVal x y || (eqVal x y && x.neg && !y.neg)
    put (if less != isMax then x else y)

/-! ## Blocked E2M1 (R61 to R63) -/

/-- Magnitude of a regular code, in halves. -/
def e2m1Half (c : Nat) : Nat :=
  match c % 8 with
  | 0 => 0 | 1 => 1 | 2 => 2 | 3 => 3 | 4 => 4 | 5 => 6 | 6 => 8 | _ => 12

/-- The exact value of an element with scale byte S and extra byte X (R62). DESIGN CHOICE: with X the e4m3 code of −0 the code 0b1000
decodes to −0, where R62 gives the element the exact real X × 2^(S − 127) and says that −0 has no code (log 40). -/
def e2m1Val (code sByte xByte : Nat) : FVal :=
  let s : Int := (sByte : Int) - 127
  if sByte == 0xFF then .nan
  else if code % 16 == 8 then
    match Fmt.e4m3.dec false xByte with
    | .fin n m e => .fin n m (e + s)
    | v => v
  else .fin (8 < code % 16) (e2m1Half code) (s - 1)

/-- A candidate of R63: its value in units of 2^(s − 40), its code, and whether it is the extra value. -/
structure E2Cand where
  v : Int
  code : Nat
  extra : Bool
  deriving DecidableEq, Repr

/-- The candidates, regular ones first. -/
def e2Cands (xByte : Nat) : List E2Cand :=
  let reg := ((List.range 16).filter (· != 8)).map fun c =>
    { v := (if 8 < c then -1 else 1) * (e2m1Half c : Int) * 2 ^ 39, code := c, extra := false }
  match Fmt.e4m3.dec false xByte with
  | .fin n m e => reg ++ [{ v := (if n then -1 else 1) * (m : Int) * 2 ^ (e + 40).toNat, code := 8, extra := true }]
  | _ => reg

/-- Write a value into an element of a block with scale 2^s and extra byte X; the code and the flags (R63, R66, R67). The
value is not NaN. Three points are the model's readings (log 40): an extra value equal to a regular candidate (X = 0 under .xnone)
counts as that candidate, so that m of R67 is taken from r and not 64; a .rna tie between a regular candidate and the extra value goes
to the larger magnitude, as R66 has it, since R63's other rule speaks of ties to even; and 7 × 2^s that becomes the extra value
raises NX alone, as R63 words it, where the table of R73 shows OF and NX beside both results. -/
def e2Write (md : Mode) (s : Int) (xByte : Nat) (x : FVal) : Nat × Nat :=
  let cs := e2Cands xByte
  let best (p : E2Cand → E2Cand → Bool) (l : List E2Cand) : Option E2Cand :=
    l.foldl (fun b c => match b with | none => some c | some b' => if p c b' then some c else b) none
  let top := (best (fun c b => b.v < c.v) cs).getD ⟨0, 0, false⟩
  let bot := (best (fun c b => c.v < b.v) cs).getD ⟨0, 0, false⟩
  match x with
  | .nan => (0, flNV)
  | .inf n => ((if n then bot else top).code, flNX)
  | .fin n m e =>
    -- both sides in units of 2^(s − k): a common scale fine enough for x and for the candidates
    let k : Int := if s - 40 < e then s - 40 else e
    let xv : Int := (FVal.fin n m e).atScale k
    let up : Nat := 2 ^ (s - 40 - k).toNat
    let lo := best (fun c b => b.v < c.v) (cs.filter fun c => c.v * up ≤ xv)
    let hi := best (fun c b => c.v < b.v) (cs.filter fun c => xv ≤ c.v * up)
    let pick : E2Cand :=
      match lo, hi with
      | some l, some h =>
        if l.v == h.v then l else
        let dl := xv - l.v * up
        let dh := h.v * up - xv
        if dl == 0 then l else if dh == 0 then h else
        let small := if l.v.natAbs < h.v.natAbs then l else h
        let big := if l.v.natAbs < h.v.natAbs then h else l
        match md with
        | .rne =>
          if dl < dh then l else if dh < dl then h
          else if l.extra then h else if h.extra then l else if l.code % 2 == 0 then l else h
        | .rtz => small
        | .rup => h
        | .rdn => l
        | .rna => if dl < dh then l else if dh < dl then h else big
        | .sr u =>
          let rem := (if big.code == h.code then dl else dh).toNat
          let d := (dl + dh).toNat
          let b := if l.extra || h.extra then 64 else srBits rem d
          if 2 ^ b ≤ rem * 2 ^ b / d + u % 2 ^ b then big else small
      | some l, none => l
      | none, some h => h
      | none, none => top
    let exact := pick.v * up == xv
    let ovf := !pick.extra && e2m1Half pick.code == 12 && decide (7 * 2 ^ 40 * (up : Int) ≤ xv.natAbs)
    (pick.code, if exact then 0 else if ovf then flOF + flNX else flNX)

end Sys2Proof.Machine
end

