-- ==== Sys2Proof/Config.lean ====
section
/-! DEFINITION. Configuration: the values the manual leaves open, as opaque constants no proof can see into.
Each is applied to the operands it depends on, or to a plain counter of State (`State.free`). -/

namespace Sys2Proof.Config

/-- Cycles that pass between two reads of a core's CLOCK: timing is left open (spec/05 R100; log 12). -/
opaque elapsed : Nat → BitVec 64
/-- Energy an island spends in a 1 ms window, in microjoules (spec/26 R431; log 13). -/
opaque energy : (window island : Nat) → Nat
/-- Whether the transparent code of a BC1 block has alpha 0 or 1: the Khronos specification has both forms (spec/21 R372;
log 14). -/
opaque bc1Opaque : Bool
/-- The LMS signature of an attestation report with a leaf (spec/26 R436; log 15). -/
opaque lmsSign : (leaf : Nat) → (message : List Byte) → BitVec 22624
/-- The measurement of register 2 at boot: its layout is left open (spec/26 R435; log 15). -/
opaque bootMeasure : (config : List Byte) → (keyHash : BitVec 256) → (minVer : BitVec 32) →
  (retiredCores repairs retiredPages : List Nat) → BitVec 256
/-- The rounding of a transcendental result that the enclosures of Machine/Real.lean do not decide
(never known to occur; spec/06 R121; log 16): `true` takes the upper neighbour. -/
opaque undecided : (op : Nat) → (arg : Nat) → Bool
/-- Private bytes of a spilled ray record, bytes 8 to 255 (spec/16 R300; log 17). -/
opaque spillByte : (n offset : Nat) → Byte
/-- A count of events on a core that the manual's counters observe but no rule computes (spec/25 R403; log 18). -/
opaque eventCount : (code n : Nat) → Nat
/-- The value a load returns that the rules leave open (a race, R175; an interrupted transfer; log 19). -/
opaque freeWord : (n : Nat) → BitVec 64
/-- How many route entries a core has for cluster windows: the spec gives no number (spec/12 R259; log 46). -/
opaque routeEntries : Nat
/-- How much of a window's energy a function has been charged when the planner asks for the n-th time, and how many windows a launch
is held at most: the spec promises that none waits forever and gives no number (spec/26 R432; log 13). -/
opaque spent : (n : Nat) → Nat
opaque patience : Nat
/-- Whether Shento's own private choice numbered n is yes (planner grants, spec/26 R432; log 20). -/
opaque choice : (n : Nat) → Bool

end Sys2Proof.Config
end

