-- ==== Sys2Proof/Decode.lean ====
section
/-! DEFINITION. Decode: from a 96-bit word to an instruction or the RI DETAIL that refuses it (spec/03 R39 to R51), and
the encoder written from the same tables. A memory control code or an ATOP field is read by position (R43, R194). -/

namespace Sys2Proof

/-! ## The fields of the word -/

/-- The fields of R39. -/
structure Fields where
  op : BitVec 8
  fmt : BitVec 3
  g : BitVec 4
  gn : BitVec 1
  dst : BitVec 10
  ws : BitVec 1
  a : BitVec 10
  b : BitVec 10
  c : BitVec 10
  fn : BitVec 7
  imm : BitVec 32
  deriving DecidableEq, Repr

/-- Take the word apart (R39). -/
def Fields.ofWord (w : IWord) : Fields :=
  { op := w.extractLsb' 88 8, fmt := w.extractLsb' 85 3, g := w.extractLsb' 81 4, gn := w.extractLsb' 80 1,
    dst := w.extractLsb' 70 10, ws := w.extractLsb' 69 1, a := w.extractLsb' 59 10, b := w.extractLsb' 49 10,
    c := w.extractLsb' 39 10, fn := w.extractLsb' 32 7, imm := w.extractLsb' 0 32 }

/-- Put the word together (R39). -/
def Fields.word (f : Fields) : IWord :=
  f.op ++ f.fmt ++ f.g ++ f.gn ++ f.dst ++ f.ws ++ f.a ++ f.b ++ f.c ++ f.fn ++ f.imm

/-! ## Codes -/

/-- Operand codes (R45). -/
def Opnd.ofCode (x : BitVec 10) : Option Opnd :=
  let n := x.toNat
  if n < 256 then some (.v (Fin.ofNat 256 n))
  else if n < 320 then some (.s (Fin.ofNat 64 (n - 256)))
  else if n < 336 then some (.k (Fin.ofNat 16 (n - 320)))
  else if n < 344 then some (.c (Fin.ofNat 8 (n - 336)))
  else if n < 348 then some (.b (Fin.ofNat 4 (n - 344)))
  else if n == 348 then some .zr
  else if n == 349 then some .imm
  else none

def Opnd.code : Opnd → BitVec 10
  | .v n => BitVec.ofNat 10 n.val
  | .s n => BitVec.ofNat 10 (256 + n.val)
  | .k n => BitVec.ofNat 10 (320 + n.val)
  | .c n => BitVec.ofNat 10 (336 + n.val)
  | .b n => BitVec.ofNat 10 (344 + n.val)
  | .zr => 348
  | .imm => 349

/-- Type codes (R47). -/
def Ty.ofCode (n : BitVec 4) : Ty :=
  match n.toNat with
  | 0 => .n8 | 1 => .i8 | 2 => .n16 | 3 => .i16 | 4 => .n32 | 5 => .i32 | 6 => .n64 | 7 => .i64
  | 8 => .bf16 | 9 => .f16 | 10 => .f32 | 11 => .e4m3 | 12 => .e5m2 | 13 => .e2m1b | 14 => .v2i16 | _ => .v2n16

def Ty.code : Ty → BitVec 4
  | .n8 => 0 | .i8 => 1 | .n16 => 2 | .i16 => 3 | .n32 => 4 | .i32 => 5 | .n64 => 6 | .i64 => 7
  | .bf16 => 8 | .f16 => 9 | .f32 => 10 | .e4m3 => 11 | .e5m2 => 12 | .e2m1b => 13 | .v2i16 => 14 | .v2n16 => 15

/-- Rounding codes (R48); 7 is reserved. -/
def Rm.ofCode (n : BitVec 3) : Option Rm :=
  match n.toNat with
  | 0 => some .rne | 1 => some .rtz | 2 => some .rup | 3 => some .rdn | 4 => some .rna | 5 => some .sr | 6 => some .dyn
  | _ => none

def Rm.code : Rm → BitVec 3
  | .rne => 0 | .rtz => 1 | .rup => 2 | .rdn => 3 | .rna => 4 | .sr => 5 | .dyn => 6

/-- Width, order, scope and scale codes (R43). -/
def Width.ofCode (n : BitVec 3) : Option Width :=
  match n.toNat with
  | 0 => some .w1 | 1 => some .w2 | 2 => some .w4 | 3 => some .w8 | 4 => some .w16 | _ => none

def Width.code : Width → BitVec 3
  | .w1 => 0 | .w2 => 1 | .w4 => 2 | .w8 => 3 | .w16 => 4

def Order.ofCode (n : BitVec 2) : Order :=
  match n.toNat with | 0 => .plain | 1 => .acq | 2 => .rel | _ => .ar

def Order.code : Order → BitVec 2
  | .plain => 0 | .acq => 1 | .rel => 2 | .ar => 3

def Scope.ofCode (n : BitVec 3) : Option Scope :=
  match n.toNat with
  | 0 => some .grp | 1 => some .team | 2 => some .clu | 3 => some .dev | 4 => some .dom | 5 => some .sys | _ => none

def Scope.code : Scope → BitVec 3
  | .grp => 0 | .team => 1 | .clu => 2 | .dev => 3 | .dom => 4 | .sys => 5

def scaleOfCode (n : BitVec 3) : Option (Fin 5) :=
  match n.toNat with
  | 0 => some 0 | 1 => some 1 | 2 => some 2 | 3 => some 3 | 4 => some 4 | _ => none

def AtomOp.ofCode (n : BitVec 4) : Option AtomOp :=
  match n.toNat with
  | 0 => some .add | 1 => some .min | 2 => some .max | 3 => some .and | 4 => some .or | 5 => some .xor
  | 6 => some .exch | 7 => some .cas | _ => none

def AtomOp.code : AtomOp → BitVec 4
  | .add => 0 | .min => 1 | .max => 2 | .and => 3 | .or => 4 | .xor => 5 | .exch => 6 | .cas => 7

def AtomKind.ofCode (n : BitVec 2) : Option AtomKind :=
  match n.toNat with | 0 => some .unsigned | 1 => some .signed | 2 => some .float | _ => none

def AtomKind.code : AtomKind → BitVec 2
  | .unsigned => 0 | .signed => 1 | .float => 2

/-- Branch conditions (R44). -/
def Cond.ofCode (n : BitVec 3) : Option Cond :=
  match n.toNat with
  | 0 => some .always | 1 => some .cset | 2 => some .cclr | 3 => some .kz | 4 => some .knz | _ => none

def Cond.code : Cond → BitVec 3
  | .always => 0 | .cset => 1 | .cclr => 2 | .kz => 3 | .knz => 4

/-- The memory control code of R43: scope [9:7], index scale [6:4], zero [3:0]. -/
def controlOf (x : BitVec 10) : Option (Scope × Fin 5) :=
  match Scope.ofCode (x.extractLsb' 7 3), scaleOfCode (x.extractLsb' 4 3) with
  | some s, some k => if x.extractLsb' 0 4 = 0 then some (s, k) else none
  | _, _ => none

def control (s : Scope) (k : Fin 5) : BitVec 10 := s.code ++ BitVec.ofNat 3 k.val ++ (0 : BitVec 4)

/-- The ATOP field of R194. -/
def atopOf (x : BitVec 10) : Option (Scope × AtomOp × AtomKind) :=
  match Scope.ofCode (x.extractLsb' 7 3), AtomOp.ofCode (x.extractLsb' 3 4), AtomKind.ofCode (x.extractLsb' 1 2) with
  | some s, some o, some k => if x.getLsbD 0 then none else some (s, o, k)
  | _, _, _ => none

def atop (s : Scope) (o : AtomOp) (k : AtomKind) : BitVec 10 := s.code ++ o.code ++ k.code ++ (0 : BitVec 1)

/-! ## The opcode map (R49) -/

def aluCtor (op : Nat) : Option (AluW → Instr) :=
  match op with
  | 0x01 => some .iadd
  | 0x02 => some .isub
  | 0x03 => some .imul
  | 0x04 => some .imad
  | 0x05 => some .idiv
  | 0x06 => some .irem
  | 0x07 => some .imin
  | 0x08 => some .imax
  | 0x09 => some .iabs
  | 0x0A => some .ineg
  | 0x0B => some .andI
  | 0x0C => some .orI
  | 0x0D => some .xorI
  | 0x0E => some .andn
  | 0x0F => some .shl
  | 0x10 => some .shr
  | 0x11 => some .rot
  | 0x12 => some .bfx
  | 0x13 => some .bfi
  | 0x14 => some .popc
  | 0x15 => some .clz
  | 0x16 => some .brev
  | 0x17 => some .perm
  | 0x18 => some .icmp
  | 0x19 => some .sel
  | 0x1A => some .lea
  | 0x1B => some .mov
  | 0x1C => some .dp4i
  | 0x1D => some .sad
  | 0x20 => some .fadd
  | 0x21 => some .fsub
  | 0x22 => some .fmul
  | 0x23 => some .ffma
  | 0x24 => some .fmin
  | 0x25 => some .fmax
  | 0x26 => some .fcmp
  | 0x27 => some .fclass
  | 0x28 => some .frcp
  | 0x29 => some .frsq
  | 0x2A => some .fsqrt
  | 0x2B => some .fdiv
  | 0x2C => some .fexp2
  | 0x2D => some .flog2
  | 0x2E => some .fsin
  | 0x2F => some .fcos
  | 0x30 => some .frnd
  | 0x31 => some .fdp2
  | 0x32 => some .fdp4
  | 0x33 => some .fcopys
  | 0x34 => some .fldexp
  | 0x35 => some .ffrexp
  | 0x40 => some .cvt
  | 0x41 => some .cvti
  | 0x42 => some .cvtf
  | 0x43 => some .qpack
  | 0x44 => some .qunpk
  | 0x45 => some .rng
  | 0x46 => some .rngf
  | 0x50 => some .kop
  | 0x51 => some .kpop
  | 0x52 => some .kffs
  | 0x53 => some .vote
  | 0x54 => some .shfl
  | 0x55 => some .rdlane
  | 0x56 => some .wrlane
  | 0x57 => some .gred
  | 0x58 => some .gscan
  | 0x59 => some .matchI
  | _ => none

/-- The row of a format-M major and sub-operation; an unassigned sub-operation takes the major's first row, whose
modifier check refuses it. -/
def memCtor (op sub : Nat) : Option (MemW → Instr) :=
  match op with
  | 0x76 => some .mwait
  | 0x78 => some (if sub == 0 then .sobjBar else if sub == 1 then .sobjSem else if sub == 2 then .sobjCell else .sobjInv)
  | 0x79 => some (if sub == 1 then .sarvPost else .sarv)
  | 0x7A => some (if sub == 1 then .swaitTake else if sub == 2 then .swaitTry else .swait)
  | 0x7B => some (if sub == 1 then .cntaArm else .cntaSig)
  | 0x80 => some .ld | 0x81 => some .st | 0x82 => some .lds | 0x83 => some .sts | 0x84 => some .ldc | 0x85 => some .stc
  | 0x86 => some .pref | 0x87 => some .ldsc | 0x88 => some .stsc
  | 0xA0 => some .atom | 0xA1 => some .atoms | 0xA2 => some .bins | 0xA3 => some .bffcs | 0xA4 => some .bpls
  | 0xA5 => some .red
  | _ => none

/-- Sub-operations assigned to a major whose rows differ by them (R202 to R206, spec/18 R333). -/
def memSubOk (op sub : Nat) : Bool :=
  if op == 0x79 || op == 0x7B then sub < 2 else if op == 0x7A then sub < 3 else true

def memLay (op : Nat) : MemLay :=
  match op with
  | 0x81 | 0x83 | 0x85 | 0x88 => .ctlD
  | 0xA0 | 0xA1 | 0xA2 | 0xA3 | 0xA4 => .atop
  | 0xA5 => .red
  | _ => .ctlC

def engCtor (op fn : Nat) (dst : Opnd) (imm : BitVec 32) : Option (EngW → Instr) :=
  match op, fn with
  | 0x1E, 0 => some .srd
  | 0x1F, 0 => some .swr
  | 0x62, 0 => some .ret
  | 0x63, 0 => some .jmpi
  | 0x65, 0 => some .fuse
  | 0x66, 0 => some .exit
  | 0x67, 0 => some .yield
  | 0x68, 0 => some (if imm.getLsbD 0 then .rgnClose else .rgn)
  | 0x69, 0 => some .sigchk
  | 0x6A, 0 => some .trapi
  | 0x6B, 0 => some .brk
  | 0x70, 0 => some .tbar
  | 0x71, 0 => some .cjoin
  | 0x72, 0 => some .cleave
  | 0x73, 0 => some .cbar
  | 0x74, 0 => some .rbsur
  | 0x75, 0 => some .rbclm
  | 0x7C, 0 => some .fenceAcq
  | 0x7C, 1 => some .fenceRel
  | 0x7C, 2 => some .fenceAr
  | 0x89, 0 => some .cctlClean
  | 0x89, 1 => some .cctlInval
  | 0x89, 2 => some .cctlCinv
  | 0xEC, 0 => some .launch
  | 0xED, 0 => some .taskpub
  | 0xEE, 0 => some .recalloc
  | 0xEF, 0 => some .recemit
  | 0xF0, 0 => some (if dst.isZr then .tilenxExit else .tilenx)
  | 0xF6, 0 => some (if imm == 0 then .syscallNodeCreate else if imm == 1 then .syscallNodeFlush else
      if imm == 2 then .syscallNodeDelete else if imm == 3 then .syscallWake else .syscallUnassigned)
  | 0xF7, 0 => some .prog
  | 0xF8, 0 => some .pmcapStart
  | 0xF8, 1 => some .pmcapStop
  | 0xF9, 0 => some .halt
  | 0x7D, 0 => some .rsig
  | 0x7E, 0 => some .rwait
  | 0xB0, 0 => some (if imm.getLsbD 2 then .cplOut else .cplIn)
  | 0xB1, 0 => some .cpseal
  | 0xB2, 0 => some .seprog
  | 0xB3, 0 => some .sectlStart
  | 0xB3, 1 => some .sectlStop
  | 0xB3, 2 => some .sectlQuery
  | 0xB4, 0 => some .bcpy
  | 0xB5, 0 => some .collAllReduce
  | 0xB5, 1 => some .collReduceScatter
  | 0xB5, 2 => some .collAllGather
  | 0xB5, 3 => some .collBroadcast
  | 0xC0, 0 => some .mma
  | 0xC1, 0 => some .mloop
  | 0xC2, 0 => some .mloopm
  | 0xC3, 0 => some .mqb
  | 0xC4, 0 => some .mfence
  | 0xC5, 0 => some .mbwait
  | 0xC6, 0 => some .accnew
  | 0xC7, 0 => some .accld
  | 0xC8, 0 => some .accst
  | 0xC9, 0 => some .accrd
  | 0xCA, 0 => some .accwr
  | 0xD0, 0 => some .neval
  | 0xD1, 0 => some .nhldPre
  | 0xD1, 1 => some .nhldDrop
  | 0xD2, 0 => some .nstat
  | 0xD4, 0 => some .vapp
  | 0xD5, 0 => some .vconn
  | 0xD6, 0 => some .vmerge
  | 0xD7, 0 => some .vrwgt
  | 0xD8, 0 => some .vld
  | 0xD9, 0 => some (if imm.getLsbD 0 then .vgenOpenInit else .vgenOpen)
  | 0xD9, 1 => some (if imm.getLsbD 0 then .vgenCloseFree else .vgenClose)
  | 0xDA, 0 => some .vpinPin
  | 0xDA, 1 => some .vpinUnpin
  | 0xDC, 0 => some .trace
  | 0xDD, 0 => some .trresAccept
  | 0xDD, 1 => some .trresReject
  | 0xDD, 2 => some .trresCommit
  | 0xDE, 0 => some .tqry
  | 0xDF, 0 => some .tqnext
  | 0xE0, 0 => some .trstat
  | 0xE4, 0 => some .texs
  | 0xE5, 0 => some .texl
  | 0xE6, 0 => some .texq
  | 0xE7, 0 => some .tlsub
  | 0xE8, 0 => some .tlflush
  | 0xE9, 0 => some .fout
  | 0xEA, 0 => some .spsub
  | _, _ => none

def brCtor (op : Nat) : Option (BrW → Instr) :=
  match op with
  | 0x60 => some .br | 0x61 => some .call | 0x64 => some .split
  | _ => none

def isEMajor (op : Nat) : Bool :=
  [0x7D, 0x7E, 0xB0, 0xB1, 0xB2, 0xB3, 0xB4, 0xB5, 0xC0, 0xC1, 0xC2, 0xC3, 0xC4, 0xC5, 0xC6, 0xC7, 0xC8, 0xC9, 0xCA, 0xD0, 0xD1, 0xD2, 0xD4, 0xD5, 0xD6, 0xD7, 0xD8, 0xD9, 0xDA, 0xDC, 0xDD, 0xDE, 0xDF, 0xE0, 0xE4, 0xE5, 0xE6, 0xE7, 0xE8, 0xE9, 0xEA].contains op

def isSMajor (op : Nat) : Bool :=
  [0x1E, 0x1F, 0x62, 0x63, 0x65, 0x66, 0x67, 0x68, 0x69, 0x6A, 0x6B, 0x70, 0x71, 0x72, 0x73, 0x74, 0x75, 0x7C, 0x89, 0xEC, 0xED, 0xEE, 0xEF, 0xF0, 0xF6, 0xF7, 0xF8, 0xF9].contains op

/-- Assigned majors (R49, R50), but for NOP and UDF. -/
def majorAssigned (op : Nat) : Bool :=
  (aluCtor op).isSome || (memCtor op 0).isSome || (brCtor op).isSome || isEMajor op || isSMajor op

/-- The formats of a major (R49). -/
def formatOk (op fmt : Nat) : Bool :=
  if (aluCtor op).isSome then fmt == 0 || (fmt == 1 && !aluFormatROnly op)
  else if (memCtor op 0).isSome then fmt == 2
  else if isEMajor op then fmt == 3
  else if (brCtor op).isSome then fmt == 4
  else fmt == 5

/-! ## Decoding -/

/-- Finish a decode: operand checks first, then the modifier fields that hold no assigned value, then the row's own. -/
def finishDecode (checked : Bool) (i : Instr) (fieldsOk : Bool) : Except RiDetail Instr :=
  if !checked then .ok i else
  match i.check with
  | some .operand => .error .operand
  | some .scalar => .error .scalar
  | r => if !fieldsOk then .error .modifier else match r with | some d => .error d | none => .ok i

def bitB (x : BitVec 1) : Bool := x == 1

/-- Formats R and I (R41, R42). -/
def decodeAlu (checked : Bool) (f : Fields) (mk : AluW → Instr) : Except RiDetail Instr :=
  let op := f.op.toNat
  let fmtI := f.fmt == 1
  if !(f.fn.toNat < aluFns op) then .error .function else
  let short := fmtI && !aluThreeSrc op
  match Opnd.ofCode f.dst, Opnd.ofCode f.a, Opnd.ofCode f.b, (if short then some .zr else Opnd.ofCode f.c) with
  | some dst, some a, some b, some c =>
    let w0 : AluW := {
      fmtI := fmtI, g := Fin.ofNat 16 f.g.toNat, gn := bitB f.gn, ws := bitB f.ws, dst := dst, a := a, b := b,
      c := c, fn := Fin.ofNat 8 f.fn.toNat }
    if fmtI then
      let rm := if short then Rm.ofCode (f.c.extractLsb' 3 3) else some .rne
      let w := { w0 with
        ty := if short then Ty.ofCode (f.c.extractLsb' 6 4) else aluDefaultTy op
        rm := rm.getD .rne
        sat := short && f.c.getLsbD 2
        imm := f.imm }
      finishDecode checked (mk w) (rm.isSome && (!short || f.c.extractLsb' 0 2 == 0))
    else
      let m := f.imm
      let rm := Rm.ofCode (m.extractLsb' 25 3)
      let w := { w0 with
        ty := Ty.ofCode (m.extractLsb' 28 4), rm := rm.getD .rne, sat := m.getLsbD 24, t2 := Ty.ofCode (m.extractLsb' 20 4)
        na := m.getLsbD 19, aa := m.getLsbD 18, nb := m.getLsbD 17, ab := m.getLsbD 16, nc := m.getLsbD 15, ac := m.getLsbD 14
        xm := m.extractLsb' 0 12 }
      finishDecode checked (mk w) (rm.isSome && m.extractLsb' 12 2 == 0)
  | _, _, _, _ => .error .operand

/-- Format M (R43, R194): FN holds width [6:4], order [3:2], hint or sub-operation [1:0]. -/
def decodeMem (checked : Bool) (f : Fields) : Except RiDetail Instr :=
  let op := f.op.toNat
  let sub := (f.fn.extractLsb' 0 2).toNat
  let lay := memLay op
  let dst : Option Opnd := match lay with | .ctlD | .red => some .zr | _ => Opnd.ofCode f.dst
  let b : Option Opnd := match lay with | .atop | .red => some .zr | _ => Opnd.ofCode f.b
  let c : Option Opnd := match lay with | .ctlC => some .zr | _ => Opnd.ofCode f.c
  let ctl : Option (Scope × Fin 5) := match lay with
    | .ctlC => controlOf f.c
    | .ctlD | .red => controlOf f.dst
    | .atop => (atopOf f.b).map fun x => (x.1, 0)
  let at_ : Option (AtomOp × AtomKind) := match lay with
    | .atop => (atopOf f.b).map (·.2)
    | .red => (atopOf f.b).bind fun x => if x.1 = .grp then some x.2 else none
    | _ => some (.add, .unsigned)
  let width := Width.ofCode (f.fn.extractLsb' 4 3)
  match memCtor op sub, dst, Opnd.ofCode f.a, b, c with
  | some mk, some dst, some a, some b, some c =>
    let w : MemW := {
      g := Fin.ofNat 16 f.g.toNat, gn := bitB f.gn, ws := bitB f.ws, dst := dst, a := a, b := b, c := c,
      width := width.getD .w4, order := Order.ofCode (f.fn.extractLsb' 2 2), sub := Fin.ofNat 4 sub,
      scope := (ctl.map (·.1)).getD .grp, scale := (ctl.map (·.2)).getD 0,
      opc := (at_.map (·.1)).getD .add, kind := (at_.map (·.2)).getD .unsigned, off := f.imm }
    finishDecode checked (mk w) (width.isSome && ctl.isSome && at_.isSome && memSubOk op sub)
  | _, _, _, _, _ => .error .operand

/-- Formats E and S. -/
def decodeEng (checked : Bool) (f : Fields) : Except RiDetail Instr :=
  match engCtor f.op.toNat f.fn.toNat .zr 0 with
  | none => .error .function
  | some _ =>
  match Opnd.ofCode f.dst, Opnd.ofCode f.a, Opnd.ofCode f.b, Opnd.ofCode f.c with
  | some dst, some a, some b, some c =>
    match engCtor f.op.toNat f.fn.toNat dst f.imm with
    | none => .error .function
    | some mk =>
      finishDecode checked (mk {
        g := Fin.ofNat 16 f.g.toNat, gn := bitB f.gn, ws := bitB f.ws, dst := dst, a := a, b := b, c := c,
        imm := f.imm }) true
  | _, _, _, _ => .error .operand

/-- Format B (R44); SPLIT's fusion-line offset stands in SRCC (spec/07 R156). R44 names no SRCA for a reserved condition: the
field is checked as that of "always", so that any other code in it is DETAIL 3 before the condition's DETAIL 5 (log 39). -/
def decodeBr (checked : Bool) (f : Fields) (mk : BrW → Instr) : Except RiDetail Instr :=
  let isSplit := f.op == 0x64
  let cond := Cond.ofCode (f.fn.extractLsb' 4 3)
  let slot := (f.imm.extractLsb' 0 3).toNat
  match Opnd.ofCode f.dst, Opnd.ofCode f.a, Opnd.ofCode f.b, (if isSplit then some .zr else Opnd.ofCode f.c) with
  | some dst, some a, some b, some c =>
    if !c.isZr then .error .operand else
    let w : BrW := {
      g := Fin.ofNat 16 f.g.toNat, gn := bitB f.gn, ws := bitB f.ws, dst := dst, a := a, b := b,
      foff := if isSplit then f.c else 0, cond := cond.getD .always, lineOff := f.imm.extractLsb' 3 29,
      slot := Fin.ofNat 5 slot }
    finishDecode checked (mk w) (cond.isSome && f.fn.extractLsb' 0 4 == 0 && slot < 5)
  | _, _, _, _ => .error .operand

/-- Decode a word, with or without the checks of an instruction's operands and modifiers (R51 steps 3 and 4). UDF decodes
whatever its fields hold: it is an instruction that traps (R50). -/
def readFields (checked : Bool) (f : Fields) : Except RiDetail Instr :=
  let op := f.op.toNat
  let fmt := f.fmt.toNat
  if op == 0xFF then .ok .udf
  else if 6 ≤ fmt && op != 0 then .error .major
  else if op == 0 then            -- a wrong FMT of NOP is DETAIL 1, 6 and 7 among them (spec/05 R86)
    if fmt != 0 then .error .format
    else if f.g == 0 && f.gn == 0 && f.dst == 0 && f.ws == 0 && f.a == 0 && f.b == 0 && f.c == 0 && f.fn == 0 && f.imm == 0
    then .ok .nop else .error .modifier
  else if !majorAssigned op then .error .major
  else if !formatOk op fmt || (fmt == 1 && f.b != 349) then .error .format
  else match aluCtor op with
  | some mk => decodeAlu checked f mk
  | none => match brCtor op with
  | some mk => decodeBr checked f mk
  | none => if (memCtor op 0).isSome then decodeMem checked f else decodeEng checked f

/-- Decode a word (R51 steps 1 to 4). -/
def decodeFields (f : Fields) : Except RiDetail Instr := readFields true f

def decode (w : IWord) : Except RiDetail Instr := decodeFields (Fields.ofWord w)

/-! ## Encoding -/

def bv1 (x : Bool) : BitVec 1 := if x then 1 else 0

def encodeAlu (op : Nat) (w : AluW) : Fields :=
  let short : BitVec 10 := w.ty.code ++ w.rm.code ++ bv1 w.sat ++ (0 : BitVec 2)
  let m : BitVec 32 := w.ty.code ++ w.rm.code ++ bv1 w.sat ++ w.t2.code ++ bv1 w.na ++ bv1 w.aa ++ bv1 w.nb ++ bv1 w.ab ++
    bv1 w.nc ++ bv1 w.ac ++ (0 : BitVec 2) ++ w.xm
  { op := BitVec.ofNat 8 op, fmt := if w.fmtI then 1 else 0, g := BitVec.ofNat 4 w.g.val, gn := bv1 w.gn, dst := w.dst.code,
    ws := bv1 w.ws, a := w.a.code, b := w.b.code, c := if w.fmtI && !aluThreeSrc op then short else w.c.code,
    fn := BitVec.ofNat 7 w.fn.val, imm := if w.fmtI then w.imm else m }

def encodeMem (op : Nat) (w : MemW) : Fields :=
  let lay := memLay op
  let ctl := control w.scope w.scale
  { op := BitVec.ofNat 8 op, fmt := 2, g := BitVec.ofNat 4 w.g.val, gn := bv1 w.gn,
    dst := match lay with | .ctlD | .red => ctl | _ => w.dst.code
    ws := bv1 w.ws, a := w.a.code,
    b := match lay with | .atop => atop w.scope w.opc w.kind | .red => atop .grp w.opc w.kind | _ => w.b.code
    c := match lay with | .ctlC => ctl | _ => w.c.code
    fn := w.width.code ++ w.order.code ++ BitVec.ofNat 2 w.sub.val, imm := w.off }

def encodeEng (sg : EngSig) (w : EngW) : Fields :=
  { op := BitVec.ofNat 8 sg.op, fmt := if sg.fmtE then 3 else 5, g := BitVec.ofNat 4 w.g.val, gn := bv1 w.gn,
    dst := w.dst.code, ws := bv1 w.ws, a := w.a.code, b := w.b.code, c := w.c.code, fn := BitVec.ofNat 7 sg.fn,
    imm := w.imm }

def encodeBr (op : Nat) (w : BrW) : Fields :=
  { op := BitVec.ofNat 8 op, fmt := 4, g := BitVec.ofNat 4 w.g.val, gn := bv1 w.gn, dst := w.dst.code, ws := bv1 w.ws,
    a := w.a.code, b := w.b.code, c := if op == 0x64 then w.foff else 348,
    fn := w.cond.code ++ (0 : BitVec 4), imm := w.lineOff ++ BitVec.ofNat 3 w.slot.val }

/-- The fields of an instruction's word. An event row has no word; it gets the NOP word's fields, and is not well-formed. -/
def fieldsOf (i : Instr) : Fields :=
  match i with
  | .udf => { op := 0xFF, fmt := 0, g := 0, gn := 0, dst := 0, ws := 0, a := 0, b := 0, c := 0, fn := 0, imm := 0 }
  | _ =>
    match i.aluMajor with
    | some (m, w) => encodeAlu m w
    | none => match i.memRow with
    | some (m, _, _, w) => encodeMem m w
    | none => match i.engRow with
    | some (sg, w) => encodeEng sg w
    | none => match i.brRow with
    | some (m, w) => encodeBr m w
    | none => { op := 0, fmt := 0, g := 0, gn := 0, dst := 0, ws := 0, a := 0, b := 0, c := 0, fn := 0, imm := 0 }

def encode (i : Instr) : IWord := (fieldsOf i).word

/-- What the decoder reads from the word whose bits are `w` (bits above `nbits` are zero); every word is 96 bits. -/
def decodeTableWord (nbits w : Nat) : Option Instr :=
  match decode (BitVec.ofNat 96 (w % 2 ^ nbits)) with
  | .ok i => some i
  | .error _ => none

/-! ## Latches in a line (R34) -/

/-- The operand a latch is checked as: a register of its writer's kind. A 64-bit source may not be a latch of lanes, so
the vector register is an odd one (spec/05 R80). R34 gives no shape for a writer whose destination is zr: it is taken as a
vector (log 39). -/
def latchRep (dst : Opnd) : Opnd :=
  match dst with
  | .s _ => .s 1
  | .k _ => .k 1
  | .c _ => .c 0
  | _ => .v 1

/-- What the latch of a slot that holds `i` is checked as; none when `i` has no register result that a slot may read. -/
def Instr.latchDst (i : Instr) : Option Opnd :=
  match i.aluMajor, i with
  | some (_, w), _ => some (latchRep w.dst)
  | none, .call w => if w.dst.isS then some (latchRep w.dst) else none
  | none, _ => none

/-- Does the operand field a, b or c (0, 1, 2) of the word hold an operand code? The other fields are read by position. -/
def Fields.operandField (f : Fields) (n : Nat) : Bool :=
  let op := f.op.toNat
  match f.fmt.toNat with
  | 1 => n == 0 || (n == 2 && aluThreeSrc op)
  | 2 =>
    match memLay op with
    | .ctlC => n < 2
    | .ctlD => true
    | .atop | .red => n != 1
  | 4 => n < 2
  | _ => true

/-- The word with every latch code replaced by what the latch is checked as. -/
def Fields.substLatches (f : Fields) (shape : Nat → Option Opnd) : Fields :=
  let sub (n : Nat) (x : BitVec 10) : BitVec 10 :=
    if f.operandField n && decide (344 ≤ x.toNat) && decide (x.toNat < 348) then
      match shape (x.toNat - 344) with
      | some o => o.code
      | none => x
    else x
  { f with a := sub 0 f.a, b := sub 1 f.b, c := sub 2 f.c }

/-- Decode a word that stands in a line: a latch passes the operand checks that its writer's destination would pass. -/
def decodeIn (f : Fields) (shape : Nat → Option Opnd) : Except RiDetail Instr :=
  match decodeFields (f.substLatches shape) with
  | .error .operand => .error .operand
  | .error .scalar => .error .scalar
  | _ => decodeFields f

end Sys2Proof
end

