-- ==== Sys2Proof/Machine/State.lean ====
section
/-! DEFINITION. State: every piece of state the manual gives the module, as plain data, and State.reset. Maps list only what
differs from their default; a fragment, group, team, launch or engine that does not exist is not listed. -/

namespace Sys2Proof.Machine

/-! ## How a step ends -/

/-- Why a step stops. -/
inductive Fault where
  /-- Raised by `runSlot` when an instruction row is executed and no fragment is current (spec/07 R139). Safe: the manual
  gives an instruction no meaning outside a fragment. -/
  | noFragment
  deriving DecidableEq, Repr

/-- Why an instruction has no meaning here. -/
inductive Refusal where
  /-- Raised by a refused arm of `exec`: the row is not modelled yet. Safe. -/
  | notModelled (mnemonic : String)
  deriving DecidableEq, Repr

/-- Cause codes (spec/03 R52). -/
inductive Cause where
  | none | ri | combo | line | target | align | xlate | prot | hasp | spad | window | syncobj | pen | fold | trav | unit
  | trapi | brk | signat | uncorr | launch | claim | split | debug | preempt
  deriving DecidableEq, Repr

/-! ## Fragments and groups -/

/-- What a latch holds: the shape of its writer's destination (spec/03 R34). -/
inductive Latch where
  | vec (lanes : SMap W32)
  | sc (x : W64)
  | mask (x : W32)
  | flag (x : Bool)
  deriving DecidableEq, Repr

/-- Why a fragment is Parked (spec/07 R140). -/
inductive Wait where
  /-- A precise trap, with the handler (R53, R57): its record, and whether its fragment was inside its slot. -/
  | trap (r : BitVec 512) (inLine : Bool)
  | bound                                      -- an imprecise record, at a line boundary (spec/08 R182, spec/10 R223)
  | halt                                       -- HALT without a debugger (spec/25 R414)
  | frozen                                     -- consumed an error or failed a check: with the Shepherd (spec/26 R425)
  | absent                                     -- an absent scratchpad line (spec/08 R168)
  | bar (id : Nat) (gen : Nat)                 -- TBAR (R149)
  | cbar (gen : Nat)                           -- CBAR (R151)
  | claim (n : Nat)                            -- RBCLM (R146)
  | mwait (addr cmp : Nat) (value : W64) (left : Nat) (timed : Bool)   -- MWAIT with the cycles left (spec/09 R203)
  | token (obj va : Nat) (t : W32)             -- SWAIT, with its address (spec/09 R202, R205)
  | take (obj va : Nat) (n : W64)              -- SWAIT.take (spec/09 R206)
  | lost (va : Nat)                            -- either, its object invalidated while the team was saved (spec/09 R207)
  | quad                                       -- MMA or MLOOPM without a staged quad (spec/11 R235)
  | batch (b : W32)                            -- MBWAIT (spec/11 R249)
  | nstat (upto : Nat)                         -- NSTAT, waiting for evaluations with lower numbers (spec/14 R284)
  | ring (e slot : Nat)                        -- RWAIT (spec/10 R222)
  | tilenx (exit : Bool)                       -- TILENX (spec/12 R266)
  | syscall (arg : W64)                        -- SYSCALL with its argument (spec/18 R337)
  | foldInit                                   -- VGEN.open.init without arena entries (spec/19 R340)
  | query                                      -- TQNEXT (spec/16 R309)
  deriving DecidableEq, Repr

/-- Fragment states (spec/07 R140). -/
inductive FragSt where
  | ready | issuing | blocked | parked (w : Wait) | fusing | gone
  deriving DecidableEq, Repr

/-- The sources of a Fold operation that waits, as they stood at its issue (spec/20 R359): they may be overwritten since. -/
structure Held where
  key : Nat                         -- the Fold
  v : SMap W32
  s : SMap W64
  k : SMap W32
  latches : SMap Latch
  deriving DecidableEq, Repr

/-- A fragment: a split-table entry (spec/07 R139), with the line it issues (spec/03 R29). -/
structure Frag where
  group : Nat
  line : VA := 0                    -- PC: line address and slot
  slot : Fin 5 := 0
  mask : W32 := 0                   -- active mask
  st : FragSt := .ready
  chain : List Nat := []            -- pending fusion points, innermost first
  sig : W32 := 0xFFFFFFFF           -- signature (spec/26 R421)
  last : Nat := 0                   -- issue stamp: lower has gone longer without issuing (R143)
  wait : Nat := 0                   -- lines others have issued while it was Ready (R143, log 5)
  uid : Nat := 0                    -- the model's own: which fragment this is, whatever entry it holds
  visit : Nat := 0                  -- the model's own: the pass over its line, kept when the line is resumed; 0 outside a line
  buf : BitVec 512 := 0             -- the fetched line
  entry : Fin 5 := 0                -- the slot at which control entered the line
  done : BitVec 5 := 0              -- slots executed since control entered the line
  latches : SMap Latch := []        -- b0 to b3; unlisted is invalid (R34)
  lost : SMap Latch := []           -- the latches lost when the fragment parked, which a resumption rebuilds (R38)
  replay : Bool := false            -- the line is resumed: latches are rebuilt (R38)
  stall : Bool := false             -- the slot waits at issue
  noBrk : Bool := false             -- a breakpoint does not fire at the next issue (spec/25 R415)
  stopAt : Bool := false            -- stops at its next line boundary: an imprecise record, a pre-emption or a halt
  hold : Bool := false              -- parked at its point, under an imprecise record, once what it waits for ends (spec/14 R280)
  woken : Bool := false             -- its slot has waited for absent scratchpad lines (spec/08 R168)
  held : Option Held := none        -- a Fold operation at its slot has issued and waits
  ticket : Option Nat := none       -- the synchronisation engine's refusal ticket (spec/09 R201)
  paired : Bool := false            -- the slot issues as a member of a pair (spec/03 R54)
  checkTm : Bool := false           -- the entry slot's TM bit is still to be checked (spec/03 R33)
  deriving DecidableEq, Repr

/-- A pending fusion point (spec/07 R139, R141); a serialised one is also a record of the group's split spill area. -/
structure FusePoint where
  line : VA                         -- fusion line
  mask : W32                        -- mask active at the split
  serial : Bool := false
  target : VA := 0
  tslot : Fin 5 := 0
  e : W32 := 0                      -- lanes of the complement
  ran : Bool := false               -- the complement has run or is running
  arrivedT : W32 := 0               -- lanes that arrived first
  exited : W32 := 0                 -- lanes of the split that exited since
  deriving DecidableEq, Repr

/-- A register that an outstanding write names (spec/07 R144). -/
inductive Reg where
  | v (n : Nat) | s (n : Nat) | k (n : Nat) | c (n : Nat) | fsr | rgnpc | penwin
  /-- SIG, of the fragment with this number of the model's own. -/
  | sig (uid : Nat)
  deriving DecidableEq, Repr

/-- A special register: the line rules of R36 are of v, s, k and c registers. -/
def Reg.special : Reg → Bool
  | .fsr | .rgnpc | .penwin | .sig _ => true
  | _ => false

/-- An imprecise record to post when an instruction's last lane is delivered (spec/14 R280, spec/16 R311, spec/19 R351). -/
structure Report where
  cause : Cause
  detail : Nat
  lanes : W32
  active : W32
  line : VA
  slot : Fin 5
  addr : Nat
  info : Nat
  paired : Bool := false
  deriving DecidableEq, Repr

/-- A load through the cluster window that waits at the peer until its lines are present (spec/08 R168). -/
structure PeerRead where
  team : Nat
  width : Nat
  lanes : List (Nat × Nat)          -- lane and offset
  dst : Nat
  deriving DecidableEq, Repr

/-- An outstanding long-latency write (spec/03 R35, spec/07 R144). -/
structure Pend where
  frag : Nat
  uid : Nat := 0                    -- of the fragment
  visit : Nat := 0                  -- the pass over its line in which it was issued
  regs : List Reg                   -- the registers it will write
  parts : Nat := 0                  -- side-log entries that have still to give it values (spec/08 R181)
  bad : Bool := false               -- it carries a poisoned word (spec/26 R417)
  ready : Bool := true              -- the values are known and may land
  load : Bool := false              -- a load, which a restart discards (spec/26 R419)
  lanes : Option W32 := none        -- of a NEVAL, the lanes not yet delivered: each is written alone (spec/14 R278)
  vs : List (Nat × W32) := []       -- values by 32 × register + lane
  ss : List (Nat × W64) := []
  ks : List (Nat × W32) := []
  cs : List (Nat × Bool) := []
  report : Option Report := none    -- posted when it lands
  peer : Option PeerRead := none
  deriving DecidableEq, Repr

/-- A capture window (spec/25 R404, R405). -/
structure Capture where
  addr : W64
  sel : W64
  intr : W32 := 0
  start : W64                       -- code pointer of the opening PMCAP
  base : List W64                   -- counter values at the start of the interval, cycles first
  sum : List W64                    -- sums over earlier intervals
  deriving DecidableEq, Repr

/-- An UNCORR or SIGNAT event as the error log names it (spec/26 R428). -/
structure ErrEvent where
  kind : Nat := 1
  array : Nat := 0
  pa : Nat := 0
  deriving DecidableEq, Repr

/-- A group: its registers and what else belongs to it (spec/07 R137). -/
structure Group where
  team : Nat
  idx : Nat                         -- GROUPID
  slot : Nat := 0                   -- its group slot within its partition of the core (spec/25 R412)
  blocks : Nat := 1                 -- register blocks held (R136)
  v : SMap W32 := []                -- by 32 × register + lane
  s : SMap W64 := []
  k : SMap W32 := []                -- k1 to k15; k0 holds nothing (spec/03 R45)
  c : BitVec 8 := 0                 -- c0 to c7
  fsr : W32 := 0                    -- spec/04 R68
  rgnpc : VA := 0                   -- spec/26 R418
  penwin : BitVec 10 := 64          -- spec/05 R100
  penFault : W32 := 0               -- Pen fault mask (spec/14 R279)
  laneSet : W32 := 0xFFFFFFFF       -- lanes active at dispatch (R159)
  exited : W32 := 0
  fps : SMap FusePoint := []
  nextFp : Nat := 0
  pend : SMap Pend := []
  nextPend : Nat := 0
  spillVA : VA := 0                 -- SPILL: trace spill area (spec/05 R100)
  capture : Option Capture := none
  debt : Nat := 0                   -- Lg of a causal trial (spec/25 R409)
  halted : Bool := false            -- halted by the debugger (spec/25 R412)
  stopCause : Cause := .none        -- why it last stopped: DEBUG (R412) or PREEMPT (spec/03 R58, spec/23 R392)
  openCpl : List Nat := []          -- transfers since the last CPSEAL (spec/10 R214)
  batch : W32 := 0                  -- MFENCE batch counter: the number of the last closed batch (spec/11 R240)
  batches : List (W32 × List Nat) := []    -- closed batches that have not completed, oldest first, with their operations
  openOps : List Nat := []          -- matrix operations since the last MFENCE that have not completed
  travCtr : SMap W64 := []          -- traversal counters (spec/16 R310)
  travTrap : W32 := 0               -- lanes whose latest TRACE or TQRY carries TRAP (spec/16 R311)
  events : Nat := 0                 -- UNCORR and SIGNAT events since the region was opened (spec/26 R426)
  frozen : Bool := false            -- raised such an event, which the Shepherd has not decided (spec/26 R425)
  error : ErrEvent := {}            -- the last such event
  colour : SMap (List W32) := []    -- recorded fragment colours by lane (spec/21 R378)
  lost : Option (Nat × Report) := none     -- with its fragment, a store that the domain's links could not deliver (spec/24 R398)
  badV : SMap Bool := []            -- vector words hit by an uncorrectable error, by 32 × register + lane (spec/26 R416)
  badR : List Reg := []             -- scalar, mask, flag and special registers so hit
  deriving DecidableEq, Repr

/-! ## Teams -/

/-- A team barrier (spec/07 R149). -/
structure Bar where
  gen : Nat := 0
  arrived : Nat := 0
  count : Nat := 0
  deriving DecidableEq, Repr

/-- A tile that a team has given up, with what had been issued before (spec/12 R266). -/
structure GivenTile where
  tile : Nat
  cmd : Nat                         -- engine commands of the team with lower numbers
  sub : Nat                         -- submissions with lower numbers
  gone : List Nat := []             -- groups that had become Gone, whose accesses may still be under way
  deriving DecidableEq, Repr

/-- A team (spec/07 R137, R146 to R154; spec/12 R255, R260). -/
structure Team where
  core : Nat                        -- 12 × row + column
  ctx : Nat
  launch : Nat
  num : W32 := 0                    -- TEAMID
  ngroups : Nat := 1
  drover : Option Nat := none
  tile : Option Nat := none         -- the tile it holds
  tx : W32 := 0                     -- TILEX, TILEY, TILEZ, TILEIDX
  ty : W32 := 0
  tz : W32 := 0
  ti : W32 := 0
  coreslot : Nat := 0
  cluster : W32 := 0                -- CLUSTERID
  nslots : Nat := 1
  member : Bool := false            -- of its cluster (R152)
  joined : Nat := 0                 -- the first cluster barrier generation that counts it
  param : VA := 0
  prio : Nat := 0
  fixedLen : Nat := 0               -- program-visible scratchpad bytes
  base : Nat := 0                   -- where the allocation starts in the core's scratchpad (spec/10 R209)
  splitSpill : Bool := true         -- a 512-byte split spill area per group
  tspl : Bool := false              -- a trace spill area per group
  scr : SMap Byte := []             -- scratchpad; unlisted reads zero (spec/08 R166)
  scrPoison : SMap Bool := []       -- poisoned scratchpad words (spec/26 R417)
  absent : SMap Nat := []           -- pending transfers of an absent 128-byte line (spec/08 R168)
  pool : SMap Nat := []             -- free blocks by partition (R146)
  claims : List (Nat × Nat) := []   -- waiting claims in arrival order: group, blocks
  bars : SMap Bar := []
  acc : Nat := 0                    -- accumulator names (spec/11 R236)
  saved : Bool := false             -- pre-empted and saved (spec/23 R393)
  saving : Bool := false
  haltedBy : Option Nat := none     -- the fragment whose HALT holds the team (spec/25 R414)
  /-- Given-up tiles whose work has not drained (spec/12 R266). -/
  tilesDone : List GivenTile := []
  fragTeam : Bool := false          -- a fragment group of the tile engine (spec/21 R365)
  deriving DecidableEq, Repr

/-- A cluster of a launch: its barrier (spec/07 R151). -/
structure Cluster where
  gen : Nat := 0
  arrived : List Nat := []          -- groups that have arrived
  late : List Nat := []             -- groups of teams counted from the next generation that have arrived
  deriving DecidableEq, Repr

/-! ## Core engines -/

/-- A Hasp table entry (spec/10 R209). -/
structure Hasp where
  wlock : Bool
  scratch : Bool
  owner : Nat
  tag : Nat
  asid : Nat
  team : Nat := 0                   -- the team whose scratchpad a scratchpad range lies in
  first : Nat
  last : Nat
  deriving DecidableEq, Repr

/-- The operand values of an atomic's lane: v, and the second group (cas's v2, BINS's mask, BPLS's limit; spec/09 R195,
R196). -/
structure AtomArgs where
  v : Nat
  v2 : Nat := 0
  deriving DecidableEq, Repr

/-- What a side-log entry does when it performs (spec/08 R181). -/
inductive SideOp where
  | store (bytes : List (Nat × Byte))                                        -- virtual address and byte
  | red (op : AtomOp) (kind : AtomKind) (width : Nat) (ops : List (Nat × W64))
  /-- A store into a team's scratchpad: offset and byte. -/
  | scr (team : Nat) (bytes : List (Nat × Byte))
  /-- An atomic of a major, on memory or (ATOMS) on the team's scratchpad: lane, address and operands; its outstanding write, unless DST is zr. -/
  | atom (major : Nat) (w : MemW) (pend : Option Nat) (ops : List (Nat × Nat × AtomArgs))
  deriving DecidableEq, Repr

/-- A side-log entry. -/
structure SideLog where
  group : Nat
  frag : Nat
  report : Report                   -- posted when its page cannot be mapped (R182)
  op : SideOp
  deriving DecidableEq, Repr

/-- A stream engine (spec/10 R215, R218, R221). -/
structure Stream where
  st : Nat := 0                     -- 0 Idle, 1 Loaded, 2 Running, 3 Stopping, 4 Stopped, 5 Done, 6 Faulted
  owner : Option Nat := none        -- team
  group : Nat := 0                  -- the group that executed SEPROG
  frag : Nat := 0
  id : Nat := 0                     -- the number of the SEPROG among the core's engine commands
  report : Option Report := none    -- names the SEPROG in a record of R223
  tlr : BitVec 512 := 0
  cursor : Nat := 0                 -- the next tile to take
  slots : SMap Nat := []            -- 0 empty, 1 engine-owned, 2 full
  slotTile : SMap Nat := []         -- the tile of an engine-owned slot
  done : Nat := 0
  reason : Nat := 0
  parked : Option Nat := none       -- the address a transfer waits on
  entries : SMap (List Nat) := []   -- Hasp entries by slot
  auto : Bool := false              -- stopped by a pre-emption while Running: it runs again (spec/23 R392)
  deriving DecidableEq, Repr

/-- The transfers of a CPL on one scratchpad line (spec/10 R213). -/
structure Xfer where
  group : Nat
  frag : Nat
  report : Report
  team : Nat
  cmd : Nat                         -- the CPL it belongs to
  isIn : Bool
  line : Nat                        -- scratchpad line
  width : Nat
  moves : List (Nat × Nat × Nat)    -- memory type, physical address, scratchpad offset, in write order
  deriving DecidableEq, Repr

/-- A CPL whose transfers have not all landed: its Hasp entries. -/
structure CplCmd where
  entries : List Nat
  deriving DecidableEq, Repr

/-- A sealed batch of CPLs (spec/10 R214). -/
structure SealBatch where
  group : Nat
  ctx : Nat
  xfers : List Nat
  addr : Nat
  value : W64
  scope : Nat
  deriving DecidableEq, Repr

/-- A bulk copy (spec/10 R224). -/
structure Bulk where
  group : Nat
  frag : Nat
  report : Report
  ctx : Nat
  desc : BitVec 512
  entries : List Nat
  copied : Nat := 0                 -- bytes copied, at a 128-byte boundary (spec/10 R225)
  failed : Bool := false            -- ended under R223: its stamp is not written
  ready : Bool := false             -- copied; its stamp follows those of the group's earlier copies
  locked : Bool := true             -- its ranges are registered; not yet, after a resumption (spec/10 R225)
  parked : Option Nat := none
  deriving DecidableEq, Repr

/-- A translation held in a TLB (spec/23 R384). -/
structure TlbEntry where
  asid : Nat
  va : Nat                          -- first byte of the page
  size : Nat                        -- bytes
  pte : BitVec 64
  pteAddr : Nat
  deriving DecidableEq, Repr

/-! ## Synchronisation objects, contexts, launches and queues -/

/-- What a synchronisation object is (spec/09 R200, spec/18 R322, spec/19 R338). -/
inductive ObjKind where
  | bar (gen expect arrived : W32)
  | sem (value : W64)
  /-- `task` is the launch number of the gated task; `scope` the widest scope signalled. -/
  | counter (count : Int) (armed : Bool) (task : Option Nat) (sigs : W64) (scope : Nat)
  | cell (data : SMap W64)          -- words 1 to 7
  | fold                            -- its state stands in `State.folds`
  deriving DecidableEq, Repr

/-- A synchronisation object that is not free. -/
structure Obj where
  kind : ObjKind
  waiters : List Nat := []          -- parked fragments, in arrival order
  poisoned : Bool := false          -- spec/26 R417
  deriving DecidableEq, Repr

/-- A causal trial (spec/25 R408 to R410). -/
structure Trial where
  desc : BitVec 512
  epoch : Nat := 0
  gd : Nat := 0                     -- Gd, in 1/100 ns
  gdOn : Nat := 0                   -- Gd accrued in on epochs
  toff : Nat := 0
  ton : Nat := 0
  base : List W64 := []             -- progress counters at the start of the epoch
  noff : List W64 := []
  non : List W64 := []
  deriving DecidableEq, Repr

/-- A work-graph node (spec/18 R330, R336). -/
structure GNode where
  desc : BitVec 512
  alloc : List Nat := []            -- allocated record indexes
  emitted : List Nat := []          -- of those, emitted and not yet returned
  batch : List Nat := []            -- the open batch, in emit order
  batchPc : W64 := 0                -- the RECEMIT that added its first record
  batchLaunch : Nat := 0            -- the launch that issued it
  seq : W32 := 0                    -- batches so far
  deriving DecidableEq, Repr

/-- A context (spec/23 R390, spec/18 R317 to R320). -/
structure Ctx where
  root : Nat
  asid : Nat
  fn : Nat
  st : Nat := 1                     -- STATE: 0 free, 1 running, 2 saving, 3 saved, 4 resuming, 5 aborted
  frsz : Nat
  rrsz : Nat
  fring : Nat
  rring : Nat
  ftail : W32 := 0
  fhead : W32 := 0
  rtail : W32 := 0
  rhead : W32 := 0
  dropped : W32 := 0
  held : List (BitVec 512) := []    -- fault records waiting for the ring (spec/03 R58), oldest first
  brks : SMap W64 := []             -- code breakpoints by number (spec/25 R415)
  debugger : Bool := false          -- a debugger is attached
  progress : SMap W64 := []         -- progress counters (spec/25 R407)
  trial : Option Trial := none
  tmin : W32 := 0x3B800000          -- the splat transmittance stop (spec/21 R374)
  -- the conductor (spec/18 R317) and its port
  cond : Nat := 0                   -- 0 Stopped, 1 Running, 2 Waiting
  condPc : W64 := 0
  condSp : W64 := 0
  condA0 : W64 := 0
  condRet : W64 := 0                -- what its last access to its port, to a counter or to Shento returned (spec/18 R318, R324)
  condFaults : Nat := 0             -- access faults that Shento has delivered to it
  wakes : List W64 := []
  ticket : Nat := 0                 -- next ticket of the reserve word
  consumed : Nat := 0               -- next slot to consume, by ticket
  slots : SMap (BitVec 512) := []   -- written slots by number
  slotPc : SMap W64 := []           -- PC of the AMOADD.D that reserved a slot
  portOpen : List Nat := []         -- accepted commands that have not completed, by ticket
  stamps : List (Nat × BitVec 512) := []   -- queued STAMP commands by ticket
  pcCount : List (W64 × W32) := []  -- commands reserved from each PC (R329)
  lq : List Nat := []               -- the launch queue (R331): launches whose record has not been read
  tasks : SMap Nat := []            -- the task store: entry to launch number (R334)
  nodes : SMap GNode := []
  deriving DecidableEq, Repr

/-- A launch (spec/12 R254 to R263, spec/18 R320, R321, R329). -/
structure Launch where
  ctx : Nat
  cmd : BitVec 512                  -- the command, launch or task record
  recVa : Nat := 0
  image : Option (Option Nat) := none  -- the range record as read at the issue; none inside: it could not be read (spec/12 R254)
  record : BitVec 1024 := 0            -- the device's copy of the range record
  st : Nat := 0                     -- 0 task in the store, 1 queued, 2 accepted, 3 stabilising, 4 dispatching, 5 complete
  n : Nat := 0                      -- tiles
  namePc : W64 := 0
  nameSeq : W32 := 0
  ox : Nat := 0
  oy : Nat := 0
  accepted : Nat := 0               -- acceptance number (spec/18 R327)
  nextTeam : Nat := 0
  refused : List Nat := []          -- cores that present no further request (spec/12 R261)
  waiting : List Nat := []          -- cores whose request waits for a free Drover
  port : Option Nat := none         -- the ticket of the port command
  node : Option Nat := none         -- the work-graph node of a batch
  batch : List Nat := []            -- record indexes of the batch
  pcCount : List (W64 × W32) := []  -- commands accepted from each code pointer of this launch (R329)
  acq : Nat := 0                    -- the widest scope among the signals a firing absorbed (R325)
  reuse : List (Nat × Nat × Nat) := []     -- reuse-hint ranges: base, length, hint (spec/23 R388)
  held : Option Nat := none         -- the energy window in which it was held back (spec/26 R432)
  waits : Nat := 0                  -- how many windows it has been held back
  opp : Option Nat := none          -- the operating point that the planner has granted it (spec/18 R328)
  drained : Bool := false           -- complete; its teams have not all retired
  deriving DecidableEq, Repr

/-- A Drover (spec/12 R260, R263). -/
structure Drover where
  launch : Nat
  home : Nat                        -- core
  next : Nat
  last : Nat                        -- end of the range
  gen : Nat := 0
  tiles : List (Nat × Nat) := []    -- in-flight tiles with the team that holds each
  saved : Bool := false
  deriving DecidableEq, Repr

/-- A host queue (spec/18 R314 to R316). -/
structure Queue where
  m : Nat
  base : Nat
  host : Bool                       -- the ring stands in host memory
  ctx : Nat
  head : W32 := 0
  tail : W32 := 0
  seq : W64 := 1                    -- the consumption number of the next packet
  tries : Nat := 0                  -- fetches of the next packet that did not match
  halted : Bool := false
  held : Bool := false              -- a WAIT holds the queue
  deriving DecidableEq, Repr

/-- A function (spec/24 R396, spec/26 R431). -/
structure Fun where
  budget : Nat := 0                 -- watts
  charged : W64 := 0                -- µJ, at byte 8 of the status page
  msix : List Nat := []             -- raised MSI-X vectors, newest first
  table : SMap (BitVec 128) := []   -- the MSI-X table: address, data, mask; an unlisted entry is masked (spec/24 R396)
  pending : SMap Bool := []         -- the pending-bit array
  sent : List (W64 × W32) := []     -- messages sent: address and data, newest first
  window : Nat := 0                 -- µJ charged in the last window
  overs : Nat := 0                  -- windows in a row in which it exceeded its budget (spec/26 R432)
  deriving DecidableEq, Repr

/-! ## The matrix engine (spec/11) -/

/-- A staged quarter of a quad's B (R234): eight columns of eight words, and their scale words. -/
structure Quarter where
  ty : Ty
  words : SMap W32 := []            -- by 8 × column + word
  scales : SMap W32 := []           -- by column
  deriving DecidableEq, Repr

/-- An accepted operation on accumulators (R237). -/
inductive MKind where
  /-- Steps of MMA, MLOOP or MLOOPM: tile of each step, operands in scratchpad or the operation's B latch. -/
  | steps (ta tb : Ty) (tiles : List Nat) (a astr ainc : Nat) (quad : Bool) (b bstr binc : Nat)
      (latch : SMap W32) (bsel : Nat) (stream : Bool) (sa sainc sb sbinc : Nat) (ascale bscale : SMap W32)
  | load (tile off str : Nat)
  | store (tile off str : Nat) (t t2 : Ty) (rm : Nat) (sat : Bool) (scale : Option W32)
  | read (tile : Nat) (pend : Nat) (first n : Nat) (col : Bool) (reg : Nat) (lanes : W32)
  | write (tile : Nat) (first n : Nat) (col : Bool) (lanes : W32) (words : SMap W32)
  deriving DecidableEq, Repr

/-- A team's scratchpad as it stood when an operation that reads it was accepted. -/
structure ScrImage where
  bytes : SMap Byte
  poison : SMap Bool
  absent : SMap Nat                 -- lines that were absent: they are read as they land
  deriving DecidableEq, Repr

/-- An operation that the sequencer has accepted. -/
structure MOp where
  group : Nat
  team : Nat
  kind : MKind
  next : Nat := 0                   -- the next step
  entries : List Nat := []
  image : Option ScrImage := none   -- what it reads: the bytes as they stood at its acceptance (spec/13 R268)
  deriving DecidableEq, Repr

/-- The accumulators of a team (R236): tiles, names, the staged quarters by group number. -/
structure Acc where
  tiles : SMap (SMap W32) := []     -- element 32 × row + column of each physical tile; unlisted is 0
  names : SMap Nat := []            -- the tile of each name; unlisted is the tile of the same number
  stage : SMap Quarter := []
  waiters : List Nat := []          -- fragments parked on an incomplete staging, in acceptance order
  poison : SMap Bool := []          -- word pairs hit by an uncorrectable error, by 512 × tile + element / 2 (spec/26 R416)
  deriving DecidableEq, Repr

/-! ## The Pen (spec/14) -/

/-- A NEVAL whose lanes have not all been delivered (R278 to R280). -/
structure Neval where
  group : Nat
  frag : Nat
  uid : Nat := 0
  line : VA
  slot : Fin 5
  paired : Bool := false
  mask : W32                        -- active mask at the NEVAL
  nin : Nat
  nout : Nat
  dst : Nat
  trap : Bool
  pend : Nat
  left : W32                        -- lanes not delivered
  faulted : W32 := 0
  detail : Nat := 4
  handles : SMap W64 := []          -- by lane
  deriving DecidableEq, Repr

/-- A row of a gather tile. -/
structure PenRow where
  neval : Nat
  lane : Nat
  inputs : List Nat                 -- bf16 patterns
  bad : Bool := false               -- hit by an uncorrectable error (R275)
  deriving DecidableEq, Repr

/-- A gather tile (R273, R274). -/
structure PenTile where
  handle : Nat
  ctx : Nat
  opener : Nat                      -- the group whose lane opened it
  penwin : Nat
  opened : Nat                      -- opening order
  ends : Nat                        -- cycle at which its window ends
  rows : List PenRow := []
  st : Nat := 0                     -- 0 open, 1 launched and waiting for a slot, 2 running from `slot`
  slot : Nat := 0
  fault : Option Nat := none        -- a DETAIL of R279 for every row
  deriving DecidableEq, Repr

/-- A weight slot that holds a network (R275, R276). -/
structure PenSlot where
  handle : Nat
  asid : Nat
  desc : BitVec 512
  image : List Byte
  used : Nat := 0                   -- last use
  drop : Bool := false              -- dropped: freed once its tiles complete
  ready : Bool := false             -- the filling load has been performed
  entries : List Nat := []          -- its Hasp entries while the load runs
  deriving DecidableEq, Repr

/-! ## The traversal unit (spec/16) -/

/-- An extended real. -/
inductive XR where
  | ninf | fin (x : Rat) | pinf
  deriving DecidableEq, Repr

/-- The ray as one instance level sees it (R292, R295); of a query, its centre. -/
structure RFrame where
  o : List W32                      -- origin, three f32
  d : List W32                      -- direction
  depth : Nat := 0                  -- instances entered
  shoff : W32 := 0
  inst : W32 := 0xFFFFFFFF
  deriving DecidableEq, Repr

/-- What the walk does next, or will return to (R294, R296). -/
structure RItem where
  kind : Nat                        -- 0 follow a child reference, 1 fetch a box node, 2 go on inside a triangle block
  addr : Nat                        -- the node that holds the reference, the box node, or the block
  ref : W64 := 0
  level : Nat := 0
  ix : Nat := 0                     -- child index
  near : Rat := 0                   -- entry parameter, or squared distance of a query
  frame : RFrame
  first : Nat := 0                  -- the next entry of a block
  deriving DecidableEq, Repr

/-- A candidate or committed hit (R294, R306). -/
structure RHit where
  t : XR
  u : Rat := 0
  v : Rat := 0
  prim : W32 := 0
  inst : W32 := 0xFFFFFFFF
  sh : W32 := 0
  mat : W32 := 0
  kind : Nat := 0
  front : Bool := false
  axis : Nat := 0
  deriving DecidableEq, Repr

/-- What the walk will deliver next. -/
inductive RDeliver where
  | shader (c : RHit) | hit | miss | error (detail addr : Nat)
  deriving DecidableEq, Repr

/-- A TRRES or TQNEXT that waits for a lane's ray or query (R307, R309). -/
structure RWait where
  cmd : Nat
  fn : Nat := 0                     -- TRRES: 0 accept, 1 reject, 2 commit
  t : Option W32 := none
  n : Nat := 0                      -- results asked for
  deriving DecidableEq, Repr

/-- A query's result: squared distance, walk order, key and payload. -/
structure QRes where
  dist : Rat
  order : Nat
  key : W32
  payload : W32
  deriving DecidableEq, Repr

/-- A ray or tree query that has not ended, in a slot or spilled (R299, R300). -/
structure Ray where
  query : Bool
  group : Nat
  lane : Nat
  cmd : Nat                         -- the instruction that delivers next
  phase : Nat := 0                  -- 0 walking, 1 waiting for TRRES, 2 waiting for TQNEXT
  root : Nat := 0
  flags : BitVec 12 := 0            -- IMM of the TRACE or TQRY
  tmin : W32 := 0
  tmax : W32 := 0
  tcur : XR := .ninf
  best : Option RHit := none        -- the committed hit
  cand : Option RHit := none        -- the waiting candidate
  frame : RFrame
  cur : Option RItem := none        -- what the walk does next
  stack : List RItem := []          -- children still to visit, next first
  live : Nat := 0                   -- how many of them the short stack holds; the others have been dropped
  trail : W64 := 0                  -- the restart trail
  nodes : SMap Nat := []            -- the box node last fetched at each level
  redo : List Nat := []             -- box nodes that a re-descent has still to fetch again
  started : Bool := false
  out : Option RDeliver := none
  parked : Option Nat := none       -- the address of a fetch that waits for Shento
  waiting : List RWait := []
  rho2 : Option Rat := none         -- squared radius; none for +∞
  lo : W32 := 0
  hi : W32 := 0
  results : List QRes := []         -- ready and not delivered, in delivery order
  seen : Nat := 0                   -- entries met, for walk order
  ended : Bool := false             -- the query's walk has ended
  err : Option (Nat × Nat) := none  -- DETAIL and address of a query's error
  deriving DecidableEq, Repr

/-- A TRACE, TRRES or TQNEXT whose lanes have not all been delivered (R305, R311). -/
structure TravCmd where
  group : Nat
  frag : Nat
  line : VA
  slot : Fin 5
  paired : Bool := false
  mask : W32
  dst : Nat
  pend : Nat
  left : W32
  errs : SMap (Nat × Nat) := []     -- by lane: DETAIL and address of an error delivered under TRAP
  deriving DecidableEq, Repr

/-! ## Folds (spec/19) -/

/-- A live generation (R343). -/
structure FoldGen where
  num : Nat
  base : W32
  pins : Nat := 0
  closed : Bool := false
  deriving DecidableEq, Repr

/-- A Fold (R338). -/
structure Fold where
  ctx : Nat
  beta : Bool
  arena : Nat
  cap : Nat
  open_ : Bool := false
  gens : List FoldGen := []         -- live generations, oldest first
  gen : Nat := 0                    -- newest generation, modulo 2^16
  hwm : Nat := 0
  next : Nat := 0
  nl : W32 := 0
  ne : W32 := 0
  radius : W32 := 0
  cseq : W32 := 0
  deriving DecidableEq, Repr

/-! ## The tile engine and the splat unit (spec/21) -/

/-- A submission that has not completed (R367 to R371, R374). -/
structure Submission where
  kind : Nat                        -- 0 TLSUB, 1 TLFLUSH, 2 SPSUB
  core : Nat
  group : Nat
  team : Nat
  launch : Nat
  ctx : Nat
  bsdVa : Nat := 0
  bsd : BitVec 512 := 0             -- the bin-set or splat descriptor as read at issue
  rtd : BitVec 512 := 0
  tiles : List Nat := []            -- tiles not yet rasterised
  done : Bool := false              -- every tile rasterised, or the splats rendered
  zeroed : Bool := false            -- a flush has reset its table
  num : Nat := 0                    -- its number among the submissions of the module
  locked : Bool := true             -- its ranges are registered; not yet, after a resumption
  addr : W64
  value : W64
  scope : Nat
  entries : List Nat := []
  bad : Option Nat := none          -- first bad address (R369)
  parked : Option Nat := none       -- the address that waits for Shento
  skips : List Nat := []            -- pages that could not be mapped
  deriving DecidableEq, Repr

/-- A fragment that has passed its test (R364, R365). -/
structure Pixel where
  x : Nat
  y : Nat
  b1 : W32
  b2 : W32
  z : W32
  deriving DecidableEq, Repr

/-- A packed fragment group not yet dispatched (R365). -/
structure FragGroup where
  sub : Nat
  tile : Nat
  pos : Nat                         -- position in key order
  draw : BitVec 256                 -- the draw-table entry
  drawIx : Nat
  prim : Nat
  user : W64
  px : List Pixel
  first : Nat                       -- contribution number of lane 0
  deriving DecidableEq, Repr

/-- A contribution to a pixel (R366), in the order of the fragments' keys. -/
structure Contrib where
  sub : Nat
  x : Nat
  y : Nat
  blend : Nat
  unord : Option Nat                -- the draw of an unordered entry
  group : Option Nat := none        -- the fragment group, once dispatched
  lane : Nat := 0
  colour : Option (List W32) := none
  exitAt : Option Nat := none       -- exit order
  deriving DecidableEq, Repr

/-- The tile engine of a die. -/
structure TileEng where
  subs : SMap Submission := []      -- in acceptance order
  groups : List FragGroup := []
  contribs : SMap Contrib := []
  nextSub : Nat := 0
  nextContrib : Nat := 0
  nextExit : Nat := 0               -- how many exits of fragment-group lanes it has learnt of, in exit order (R366)
  stopped : List Nat := []          -- contexts whose submissions a draw-level pre-emption holds (R371)
  deriving DecidableEq, Repr

/-! ## Collectives, cores and the module -/

/-- A COLL issued on this module that has not completed (spec/24 R401). -/
structure Coll where
  group : Nat
  frag : Nat
  report : Report
  ctx : Nat
  fn : Nat
  desc : BitVec 512
  entries : List Nat
  started : Bool := false
  mismatch : Bool := false
  result : List Byte := []
  locked : Bool := true             -- its ranges are registered; not yet, after a resumption
  parked : Option Nat := none
  bad : List Nat := []              -- offsets of poisoned bytes of the result (spec/26 R417)
  deriving DecidableEq, Repr

/-- A saved team's engine state: its save area (spec/23 R393). -/
structure Save where
  seals : SMap SealBatch := []
  bulks : SMap Bulk := []
  colls : SMap Coll := []
  streams : SMap Stream := []
  travCmds : SMap TravCmd := []
  deriving DecidableEq, Repr

/-- What one core holds beyond its teams (spec/01 R8). -/
structure Core where
  clock : W64 := 0                  -- CLOCK (spec/05 R100)
  ctrs : SMap W64 := []             -- the 48 counters (spec/25 R403)
  hasp : SMap Hasp := []            -- 64 entries (spec/10 R209)
  side : List SideLog := []         -- 64 entries, oldest first (spec/08 R181)
  streams : SMap Stream := []       -- engines 0 and 1 (spec/10 R215)
  xfers : SMap Xfer := []
  cpls : SMap CplCmd := []
  seals : SMap SealBatch := []
  bulks : SMap Bulk := []
  colls : SMap Coll := []
  mops : SMap MOp := []             -- the sequencer: accepted operations in acceptance order (spec/11 R237)
  nevals : SMap Neval := []
  penTiles : SMap PenTile := []
  penSlots : SMap PenSlot := []     -- 8 weight slots (spec/14 R275)
  penPrio : BitVec 2 := 0           -- Pen control register (spec/14 R277)
  penAsks : List Nat := []          -- addresses that the Pen has asked Shento to map (spec/14 R279)
  rays : SMap Ray := []             -- 256 ray slots (spec/16 R299)
  travCmds : SMap TravCmd := []
  tlb : List TlbEntry := []         -- 256 entries, newest first (spec/23 R384)
  l1 : List Nat := []               -- lines of 128 bytes in the L1 data cache, newest first (spec/01 R8, spec/09 R186)
  icache : List Nat := []           -- fetch lines of 64 bytes in the instruction cache, newest first (spec/01 R8)
  nextId : Nat := 0                 -- the next engine command number
  frozen : Bool := false            -- issue stopped by a freeze (spec/26 R425)
  deriving DecidableEq, Repr

/-- The debug core of a die: the result of its last abstract command (spec/01 R9, spec/25 R413). -/
structure DbgCore where
  cmderr : Nat := 0
  data : BitVec 128 := 0
  deriving DecidableEq, Repr

/-- Attestation and boot state of the control complex of die 0, on-package flash and the fuses (spec/26 R434 to R436). -/
structure Boot where
  aregs : SMap (BitVec 256) := []   -- eight attestation registers; zero at cold boot
  leaf : Nat := 0                   -- LMS leaf counter (one-time programmable)
  keyHash : BitVec 256 := 0         -- fused hash of the public key
  minVer : W32 := 0                 -- fused minimum version
  serial : W64 := 0
  fwVer : W32 := 0
  shVer : W32 := 0
  recovery : Bool := false          -- held in recovery
  report : List Byte := []          -- the last attestation report
  retiredCores : List Nat := []     -- flash: retired cores, repaired rows, retired pages (R429, R430)
  repairs : List Nat := []
  retiredPages : List Nat := []
  fenced : List Nat := []           -- fenced mesh positions (R429)
  placed : Nat := 0                 -- how many of the retirements the last reset has acted on (R429)
  rows : List Nat := []             -- flash: rows to be repaired at the next reset, by 256 KiB page (R430)
  retiring : List Nat := []         -- pages with such a row, which Shento has still to retire (R430)
  deriving DecidableEq, Repr

/-- An error that strikes an array of the module (spec/26 R416), or another input that no row of the opcode table names: an input, as
the events of `State.agenda` are. -/
inductive Upset where
  | corrected (array core pa : Nat)      -- corrected; of a core's arrays 0x01 to 0x04, `core` is that core
  | vreg (group word : Nat)              -- 0x01: 32 × register + lane
  | reg (group : Nat) (r : Reg)          -- 0x02
  | scratch (team word : Nat)            -- 0x03: a 32-bit word
  | accum (team pair : Nat)              -- 0x04: 512 × tile + element / 2
  | l1 (core line : Nat)                 -- 0x05: a line held by a core's L1
  | fetch (group : Nat)                  -- 0x06, the refetch failing too
  | llc (pa : Nat)                       -- 0x07: a 64-bit word of a line that the home die's LLC holds
  | hbm (block : Nat)                    -- 0x08: 32 bytes
  | object (key : Nat)                   -- 0x09
  | penSlot (core slot : Nat)            -- 0x0A
  | penRow (core tile row : Nat)         -- a gathered row's inputs (spec/14 R275)
  | entry (group : Nat)                  -- 0x0B: an entry that the group owns
  | tlb (core va : Nat)                  -- 0x0C
  | control (ctx : Option Nat)           -- 0x0D: a line of a context's code or data; none: a clean line
  | shento                               -- 0x0D: a line of Shento's own
  | reproduced (core array : Nat)        -- a scrub reproduces a logged uncorrectable error of an array 0x01 to 0x04 of the core (R429)
  | tlb2 (die va : Nat)                  -- 0x0C: an entry of the die's second-level TLB
  | msixWrite (fn entry : Nat) (x : BitVec 128)      -- no error: a function's driver writes an entry of its MSI-X table (spec/24 R396)
  deriving DecidableEq, Repr

/-- The module KW-G9-384, its host's memory and its domain's, as the module sees them. -/
structure State where
  g9 : Bool := true                 -- G9; false is the G9S (spec/00 R2)
  mem : SMap Byte := []             -- module HBM by physical address; unlisted reads 0 (log 1)
  hostMem : SMap Byte := []         -- host memory (MT 2)
  domMem : SMap Byte := []          -- the domain's other modules by PA[51:0] with the module id in [51:46] (spec/24 R397)
  poison : SMap Bool := []          -- poisoned 8-byte words of HBM, by address / 8 (spec/26 R416, R417)
  upsets : List Upset := []         -- the errors that strike next, in order, and other inputs without a row of their own
  agenda : List Instr := []         -- the events that happen next, in order: which unit or outside agent moves
  turns : List Nat := []            -- the partitions that issue next: 4 × core + partition
  units : Bool := false             -- the model's own: whether the units move before the next issue
  cur : Option Nat := none          -- the fragment that issues
  free : Nat := 0                   -- the model's own: how many free values have been taken
  stamp : Nat := 0                  -- issue order
  time : W64 := 0                   -- the module's 1 GHz reference, ns since reset (spec/25 R408)
  cores : SMap Core := []
  frags : SMap Frag := []           -- by 64 × (4 × core + partition) + split-table entry (spec/07 R139)
  groups : SMap Group := []         -- by 32 × team + GROUPID
  teams : SMap Team := []
  accs : SMap Acc := []             -- accumulators by team (spec/11 R236)
  spilled : SMap Ray := []          -- spilled rays and queries by 32 × group + lane (spec/16 R300)
  clusters : SMap Cluster := []     -- by 1024 × launch + CLUSTERID
  savedRays : List Nat := []        -- walking rays spilled by a save (spec/16 R302)
  saves : SMap Save := []           -- save areas by team (spec/23 R393)
  launches : SMap Launch := []
  nextLaunch : Nat := 0
  nextTeam : Nat := 0
  nextFrag : Nat := 1               -- the model's own: the next fragment's uid
  accepted : Nat := 0               -- launches accepted so far (spec/18 R327)
  drovers : SMap Drover := []       -- by 32 × die + number (spec/12 R260)
  ctxs : SMap Ctx := []
  objs : SMap Obj := []             -- by 2^32 × die + number (spec/09 R200)
  folds : SMap Fold := []           -- by the same key
  objCount : SMap Nat := []         -- objects of each die, as Shento sets it; unlisted is 131,072
  syncBusy : SMap Nat := []         -- refusals a die's synchronisation engine will still give (spec/09 R201)
  tileEngs : SMap TileEng := []     -- by die
  subCount : Nat := 0               -- submissions accepted so far
  tlb2 : SMap (List TlbEntry) := [] -- second-level TLBs by die (spec/23 R384)
  llc : SMap (List (Nat × Bool)) := []     -- lines of 128 bytes in each die's LLC, newest first, and whether dirty (spec/01 R9)
  hinges : List (Nat × Nat × Nat) := []    -- combined line copies: hinge, source team, line (spec/10 R227)
  deadHinges : List Nat := []       -- Hinges out of service (spec/12 R259)
  uncore : SMap W64 := []           -- the dies' uncore counters, which Shento reads (spec/25 R403)
  evCodes : SMap Nat := []          -- event codes of the counters; unlisted is code i for i ≤ 11, else 0 (spec/25 R403)
  funs : SMap Fun := []             -- functions 0 to 63
  queues : SMap Queue := []         -- by 16 × function + queue
  halts : SMap W64 := []            -- queue halts of each function since its reset (spec/24 R396)
  domOn : Bool := false             -- a load-store domain is configured (spec/24 R397)
  domId : Fin 64 := 0
  domMembers : W64 := 0
  domDown : W64 := 0                -- modules that the links do not reach (spec/24 R398)
  energy : SMap W64 := []           -- µJ counters of the 256 islands (spec/26 R431)
  opps : SMap Nat := []             -- operating point of each core island (spec/18 R328)
  grants : SMap Nat := []           -- the highest point granted to each (spec/26 R432)
  lowered : SMap Nat := []          -- points by which the planner holds each below its grant
  window : Nat := 0                 -- the planner's 1 ms window
  errLog : List (BitVec 512) := []  -- error log, newest first (spec/26 R428)
  debugs : SMap DbgCore := []       -- the debug cores, by die
  errCounts : SMap Nat := []        -- events by KIND, ARRAY and PA since reset (spec/26 R428)
  softRows : List (Nat × Nat) := [] -- corrected HBM errors of the last 24 hours: row, by 256 KiB page, and time (spec/26 R430)
  boot : Boot := {}
  asleep : Bool := false            -- the module sleeps or has no power: only a cold boot wakes it (spec/26 R433)
  deriving DecidableEq, Repr

/-- The module right after reset: nothing resident, every register at its reset value. -/
def State.reset : State := {}

end Sys2Proof.Machine
end

