-- ==== Sys2Proof/Machine/Ops.lean ====
section
/-! DEFINITION. Ops: the named operations over registers, memory, translation, fault records, traps and the position of a
fragment. Every meaning is written over these. -/

namespace Sys2Proof.Machine

/-! ## Small accessors -/

def State.core (s : State) (k : Nat) : Core := s.cores.getD {} k
def State.putCore (s : State) (k : Nat) (c : Core) : State := { s with cores := s.cores.setD {} k c }
def State.modCore (s : State) (k : Nat) (f : Core → Core) : State := s.putCore k (f (s.core k))
def State.putFrag (s : State) (k : Nat) (f : Frag) : State := { s with frags := s.frags.set k f }
def State.modFrag (s : State) (k : Nat) (f : Frag → Frag) : State := { s with frags := s.frags.modify k f }
def State.putGroup (s : State) (k : Nat) (g : Group) : State := { s with groups := s.groups.set k g }
def State.modGroup (s : State) (k : Nat) (f : Group → Group) : State := { s with groups := s.groups.modify k f }
def State.putTeam (s : State) (k : Nat) (t : Team) : State := { s with teams := s.teams.set k t }
def State.modTeam (s : State) (k : Nat) (f : Team → Team) : State := { s with teams := s.teams.modify k f }
def State.modCtx (s : State) (k : Nat) (f : Ctx → Ctx) : State := { s with ctxs := s.ctxs.modify k f }
def State.acc (s : State) (t : Nat) : Acc := s.accs.getD {} t
def State.putAcc (s : State) (t : Nat) (a : Acc) : State := { s with accs := s.accs.setD {} t a }
def State.fun_ (s : State) (k : Nat) : Fun := s.funs.getD {} k
def State.modFun (s : State) (k : Nat) (f : Fun → Fun) : State := { s with funs := s.funs.setD {} k (f (s.fun_ k)) }
def State.tileEng (s : State) (d : Nat) : TileEng := s.tileEngs.getD {} d
def State.modTileEng (s : State) (d : Nat) (f : TileEng → TileEng) : State :=
  { s with tileEngs := s.tileEngs.setD {} d (f (s.tileEng d)) }

/-- Take a free value's number (the values are opaque constants of Config). -/
def State.takeFree (s : State) : Nat × State := (s.free, { s with free := s.free + 1 })

/-- Insert in order. -/
def insertBy {α : Type} (le : α → α → Bool) (x : α) : List α → List α
  | [] => [x]
  | y :: t => if le y x then y :: insertBy le x t else x :: y :: t

def sortBy {α : Type} (le : α → α → Bool) (l : List α) : List α := l.foldl (fun a x => insertBy le x a) []

/-- Mesh geometry (spec/01 R7). -/
def coreX (k : Nat) : Nat := k % 12
def coreY (k : Nat) : Nat := k / 12
def dieOf (k : Nat) : Nat := 2 * (coreY k / 8) + coreX k / 6
def State.dies (s : State) : Nat := if s.g9 then 4 else 2
def State.rows (s : State) : Nat := if s.g9 then 16 else 8

/-- Is the module awake, and not held in recovery (spec/26 R433, R434)? Otherwise the host and Shento reach nothing of it. -/
def State.up (s : State) : Bool := !s.asleep && !s.boot.recovery

/-- Which module a physical address belongs to is decided by the memory type; HBM is 384 GiB, or half (spec/01 R11). -/
def State.hbmBytes (s : State) : Nat := if s.g9 then 384 * 2 ^ 30 else 192 * 2 ^ 30

/-- The die that homes an HBM address: each die has two stacks of 48 GiB (spec/01 R9). The spec gives no map from address to die:
here the dies' 96 GiB ranges follow one another in die order (log 42). -/
def homeDie (pa : Nat) : Nat := pa / (96 * 2 ^ 30)

/-- The keys of a group's live fragments, of a team's groups and of a core's teams. -/
def State.fragsOf (s : State) (gid : Nat) : List Nat :=
  (s.frags.filter fun e => e.2.group == gid && e.2.st != .gone).map (·.1)
def State.groupsOf (s : State) (tid : Nat) : List Nat := (s.groups.filter fun e => e.2.team == tid).map (·.1)
def State.teamsOn (s : State) (core : Nat) : List Nat :=
  (s.teams.filter fun e => e.2.core == core && !e.2.saved).map (·.1)
/-- A group is live while it has a fragment that is not Gone (spec/07 R147). -/
def State.live (s : State) (gid : Nat) : Bool := !(s.fragsOf gid).isEmpty
def State.liveGroups (s : State) (tid : Nat) : List Nat := (s.groupsOf tid).filter (s.live ·)

/-- Partition of a split-table key, and the entry reported as FRAG (spec/07 R139). -/
def fragPart (fid : Nat) : Nat := fid / 64
def fragEntry (fid : Nat) : Nat := fid % 64
def fragCore (fid : Nat) : Nat := fid / 256

/-- The code pointer of a slot (spec/07 R155). -/
def codePtr (line : VA) (slot : Fin 5) : W64 := line.zeroExtend 64 ||| BitVec.ofNat 64 slot.val

/-! ## Caches (spec/01 R8, R9; spec/09 R186)

A cache holds no value of its own here, since every access performs on the memory behind it (log 51): a line is held or not, and in
an LLC it is clean or dirty. -/

/-- Lines of an L1 data cache, of an instruction cache and of an LLC. -/
def l1Lines : Nat := 2 ^ 17 / 128
def icacheLines : Nat := 2 ^ 16 / 64
def llcLines : Nat := 96 * 2 ^ 20 / 128

/-- Allocate an item in a cache of `n` places: a full one loses its oldest line, and `first` marks the new one first to go. -/
def allocate {α : Type} (n : Nat) (held : α → Bool) (x : α) (first : Bool) (l : List α) : List α :=
  if l.any held then l else if first then l.take (n - 1) ++ [x] else x :: l.take (n - 1)

/-- Allocate an HBM address's line in the LLC of its home die. -/
def State.llcHold (s : State) (pa : Nat) (first : Bool) : State :=
  let ln := pa / 128
  { s with llc := s.llc.setD [] (homeDie pa) (allocate llcLines (fun e => e.1 == ln) (ln, false) first (s.llc.getD [] (homeDie pa))) }

/-- Place the line of an access of type-0 memory as its hint says (R186): 0 in both caches, 1 in both and first to go, 2 in the LLC
only, 3 in neither. -/
def State.place (s : State) (core hint mt pa : Nat) : State :=
  if mt != 0 || 3 ≤ hint then s else
  let s := s.llcHold pa (hint == 1)
  if hint == 2 then s else
  s.modCore core fun c => { c with l1 := allocate l1Lines (fun e => e == pa / 128) (pa / 128) (hint == 1) c.l1 }

/-- Mark the LLC lines that a write of `n` bytes meets as dirty, where the LLC holds them. -/
def State.llcWrite (s : State) (pa n : Nat) : State :=
  if s.llc.isEmpty then s else
  { s with llc := s.llc.mapV fun _ l => l.map fun e => (e.1, e.2 || (decide (128 * e.1 < pa + n) && decide (pa < 128 * e.1 + 128))) }

/-! ## Raw memory -/

/-- What an unlisted byte of a memory reads as (log 1). -/
def memDefault : Byte := 0

def memByte (m : SMap Byte) (a : Nat) : Byte := m.getD memDefault a
def setByte (m : SMap Byte) (a : Nat) (b : Byte) : SMap Byte := m.setD memDefault a b

/-- `n` bytes from `a`, little-endian (spec/00 R4). -/
def readLE (m : SMap Byte) (a : Nat) : Nat → Nat
  | 0 => 0
  | n + 1 => (memByte m a).toNat + 256 * readLE m (a + 1) n

def writeLE (m : SMap Byte) (a : Nat) : Nat → Nat → SMap Byte
  | 0, _ => m
  | n + 1, x => writeLE (setByte m a (BitVec.ofNat 8 x)) (a + 1) n (x / 256)

/-- Can an address of memory type 3 be reached: is its target module this one, or a member of the domain (spec/24 R398)? -/
def State.reach (s : State) (pa : Nat) : Bool :=
  let m := pa / 2 ^ 46 % 64
  s.domOn && s.domMembers.getLsbD m && !s.domDown.getLsbD m

/-- The address in this module's HBM that an access reaches, if it does. -/
def State.ownHbm (s : State) (mt pa : Nat) : Option Nat :=
  if mt < 2 then some pa
  else if mt == 3 && s.reach pa && pa / 2 ^ 46 % 64 == s.domId.val then some (pa % 2 ^ 46)
  else none

/-- Read and write physical bytes under a memory type (spec/23 R383, spec/24 R397). A target that cannot be reached gives and
takes nothing. -/
def State.physRead (s : State) (mt pa n : Nat) : Nat :=
  if mt < 2 then readLE s.mem pa n
  else if mt == 2 then readLE s.hostMem pa n
  else if !s.reach pa then 0
  else if pa / 2 ^ 46 % 64 == s.domId.val then readLE s.mem (pa % 2 ^ 46) n
  else readLE s.domMem pa n

/-- Poison marks that a write of `n` bytes at `pa` clears: those of the words it replaces whole (spec/26 R417). -/
def clearPoison (p : SMap Bool) (pa n : Nat) : SMap Bool :=
  (List.range (n / 8 + 2)).foldl (fun p i =>
    let w := pa / 8 + i
    if pa ≤ 8 * w ∧ 8 * w + 8 ≤ pa + n then p.setD false w false else p) p

def State.physWrite (s : State) (mt pa n x : Nat) : State :=
  if mt < 2 then
    let s := if mt == 0 then s.llcWrite pa n else s
    { s with mem := writeLE s.mem pa n x, poison := clearPoison s.poison pa n }
  else if mt == 2 then { s with hostMem := writeLE s.hostMem pa n x }
  else if !s.reach pa then s
  else if pa / 2 ^ 46 % 64 == s.domId.val then
    { s.llcWrite (pa % 2 ^ 46) n with mem := writeLE s.mem (pa % 2 ^ 46) n x, poison := clearPoison s.poison (pa % 2 ^ 46) n }
  else { s with domMem := writeLE s.domMem pa n x }

/-- Does any poisoned word of HBM meet the range? -/
def State.poisoned (s : State) (mt pa n : Nat) : Bool :=
  (s.ownHbm mt pa).any fun pa => (List.range (n / 8 + 2)).any fun i =>
    let w := pa / 8 + i
    decide (8 * w < pa + n) && s.poison.getD false w

/-- The first poisoned word that meets the range, by its address in this module's HBM. -/
def State.poisonWord (s : State) (mt pa n : Nat) : Option Nat :=
  (s.ownHbm mt pa).bind fun pa => (((List.range (n / 8 + 2)).map (pa / 8 + ·)).find? fun w =>
    decide (8 * w < pa + n) && s.poison.getD false w).map (8 * ·)

/-- Does a write of the range consume a poisoned word: one it replaces only in part (spec/26 R417)? -/
def State.partPoisoned (s : State) (mt pa n : Nat) : Bool :=
  (s.ownHbm mt pa).any fun pa => (List.range (n / 8 + 2)).any fun i =>
    let w := pa / 8 + i
    decide (8 * w < pa + n) && !(decide (pa ≤ 8 * w) && decide (8 * w + 8 ≤ pa + n)) && s.poison.getD false w

/-! ## Translation (spec/23) -/

/-- What an access does at the leaf (R381). -/
inductive AccKind where
  | read | write | atomic | fetch
  deriving DecidableEq, Repr

/-- The outcome of a translation. -/
inductive XRes where
  | ok (pa mt : Nat)
  | fault (detail level : Nat)      -- XLATE
  | prot (info : Nat)               -- PROT
  deriving DecidableEq, Repr

/-- The page size of a leaf at each level (R379). -/
def leafBits (level : Nat) : Nat := if level == 1 then 36 else if level == 2 then 27 else 18

/-- The index of a level (R379). -/
def walkIndex (va level : Nat) : Nat :=
  if level == 0 then va / 2 ^ 45 % 2048 else if level == 1 then va / 2 ^ 36 % 512
  else if level == 2 then va / 2 ^ 27 % 512 else va / 2 ^ 18 % 512

/-- A malformed entry (R381). -/
def pteBad (hbm : Nat) (pte level : Nat) : Bool :=
  let leaf := pte.testBit 1
  bitsN pte 63 52 != 0 || bitsN pte 11 10 != 0 || (leaf && level == 0) || (!leaf && level == 3) ||
  (if leaf then
    bitsN pte 17 12 != 0 || (level == 1 && bitsN pte 35 18 != 0) || (level == 2 && bitsN pte 26 18 != 0) ||
      (bitsN pte 7 6 < 2 && decide (hbm < bitsN pte 51 18 * 2 ^ 18 + 2 ^ leafBits level))
   else bitsN pte 9 2 != 0)

/-- The walk (R379 to R381): a leaf with its address and level, or the DETAIL and level at which it stopped. A poisoned entry is
never used as an address (spec/26 R417): its read cannot be performed, DETAIL 2 of R386 (log 23). -/
def walk (mem : SMap Byte) (poison : SMap Bool) (hbm : Nat) (table va level : Nat) : Nat → Except (Nat × Nat) (Nat × Nat × Nat)
  | 0 => .error (1, level)
  | fuel + 1 =>
    let a := table + 8 * walkIndex va level
    if hbm < a + 8 || poison.getD false (a / 8) then .error (2, level) else
    let pte := readLE mem a 8
    if !pte.testBit 0 then .error (0, level)
    else if pteBad hbm pte level then .error (1, level)
    else if pte.testBit 1 then .ok (pte, a, level)
    else walk mem poison hbm (bitsN pte 51 12 * 4096) va (level + 1) fuel

/-- A translation found in a TLB. -/
def tlbFind (l : List TlbEntry) (asid va : Nat) : Option TlbEntry :=
  l.find? fun e => e.asid == asid && decide (e.va ≤ va) && decide (va < e.va + e.size)

/-- The leaf for an address: from the core's TLB, the die's, or a walk (R384). -/
def State.leafFor (s : State) (core : Nat) (cx : Ctx) (va : Nat) : Except (Nat × Nat) TlbEntry :=
  match tlbFind (s.core core).tlb cx.asid va with
  | some e => .ok e
  | none =>
  match tlbFind (s.tlb2.getD [] (dieOf core)) cx.asid va with
  | some e => .ok e
  | none =>
  match walk s.mem s.poison s.hbmBytes cx.root va 0 4 with
  | .error e => .error e
  | .ok (pte, a, level) =>
    let sz := 2 ^ leafBits level
    .ok { asid := cx.asid, va := va / sz * sz, size := sz, pte := BitVec.ofNat 64 pte, pteAddr := a }

/-- The level at which the walk of an address stops: that of its leaf (R386). -/
def State.leafLevel (s : State) (core : Nat) (cx : Ctx) (va : Nat) : Nat :=
  match s.leafFor core cx va with
  | .ok e => if e.size == 2 ^ leafBits 1 then 1 else if e.size == 2 ^ leafBits 2 then 2 else 3
  | .error (_, l) => l

/-- Permission at the leaf (R381). -/
def leafPerm (pte : Nat) (k : AccKind) : Option Nat :=
  match k with
  | .read => if pte.testBit 2 then none else some 0
  | .write => if pte.testBit 3 then none else some 0
  | .atomic => if pte.testBit 3 && pte.testBit 5 then none else some 0
  | .fetch => if 2 ≤ bitsN pte 7 6 then some 2 else if pte.testBit 4 then none else some 0

/-- Translate an address of a context on a core (R381). A read or an atomic of another module's memory that cannot be reached
fails as PROT with INFO[5] = 1 (spec/24 R398). -/
def State.xl (s : State) (core : Nat) (cx : Ctx) (va : Nat) (k : AccKind) : XRes :=
  match s.leafFor core cx va with
  | .error (d, l) => .fault d l
  | .ok e =>
    match leafPerm e.pte.toNat k with
    | some i => .prot i
    | none =>
      let pa := bitsN e.pte.toNat 51 18 * 2 ^ 18 + (va - e.va)
      let mt := bitsN e.pte.toNat 7 6
      if mt == 3 && (k == .read || k == .atomic) && !s.reach pa then .prot 32 else .ok pa mt

/-- What keeps an engine's access from performing: its cause, DETAIL and INFO (spec/23 R386), and its address. -/
structure XErr where
  cause : Cause
  detail : Nat := 0
  info : Nat := 0
  addr : Nat
  arr : Nat := 8                    -- of a poisoned word: its array and physical address (spec/26 R428)
  pa : Nat := 0
  deriving DecidableEq, Repr

/-- The error of an access, if its translation gives one. -/
def State.xlErr (s : State) (core : Nat) (cx : Ctx) (a : Nat) (write : Bool) : Option XErr :=
  match s.xl core cx a (if write then .write else .read) with
  | .fault d l => some { cause := .xlate, detail := d, info := l + (if write then 4 else 0), addr := a }
  | .prot i => some { cause := .prot, info := i, addr := a }
  | .ok _ _ => none

/-- Would a store of an address be lost: its module cannot be reached (spec/24 R398)? -/
def State.storeLost (s : State) (core : Nat) (cx : Ctx) (va : Nat) : Bool :=
  match s.xl core cx va .write with
  | .ok pa mt => mt == 3 && !s.reach pa
  | _ => false

/-- The agents outside the cores, which hold no TLB here (log 25). -/
def devAgent : Nat := 255

/-- What performing an access leaves behind: the translation in the TLBs (R384), ACC, and DIRTY for a write, set in the
entry (R382), and the line in the caches that its hint names: the home die's LLC where an access carries none (log 51). -/
def State.touch (s : State) (core : Nat) (cx : Ctx) (va : Nat) (write : Bool) (hint : Nat := 2) : State :=
  match s.leafFor core cx va with
  | .error _ => s
  | .ok e =>
    let s := s.place core hint (bitsN e.pte.toNat 7 6) (bitsN e.pte.toNat 51 18 * 2 ^ 18 + (va - e.va))
    let old := memByte s.mem (e.pteAddr + 1)
    let new := old ||| 1 ||| (if write then 2 else 0)
    let s := { s with mem := setByte s.mem (e.pteAddr + 1) new }
    if core == devAgent then s else
    let add (n : Nat) (l : List TlbEntry) : List TlbEntry :=
      if (tlbFind l cx.asid va).isSome then l else (e :: l).take n
    let s := s.modCore core fun c => { c with tlb := add 256 c.tlb }
    { s with tlb2 := s.tlb2.setD [] (dieOf core) (add 4096 (s.tlb2.getD [] (dieOf core))) }

/-- First byte and size of the synchronisation aperture (spec/08 R165). -/
def apertureBase : Nat := 0x00FFFF0000000000
def inAperture (va : Nat) : Bool := decide (apertureBase ≤ va) && decide (va < 2 ^ 56)
/-- Does a range meet the aperture? -/
def meetsAperture (va n : Nat) : Bool := n != 0 && decide (apertureBase < va + n) && decide (va < 2 ^ 56)

/-- Read `n` bytes at a virtual address, each byte under its own page's translation; an untranslated byte reads 0. -/
def State.vread (s : State) (core : Nat) (cx : Ctx) (va : Nat) : Nat → Nat
  | 0 => 0
  | n + 1 =>
    (match s.xl core cx va .read with
     | .ok pa mt => s.physRead mt pa 1
     | _ => 0) + 256 * State.vread s core cx (va + 1) n

/-- Write `n` bytes at a virtual address, by aligned 8-byte words, each under its own page's translation. -/
def State.vwriteGo (core : Nat) (cx : Ctx) : Nat → Nat → Nat → Nat → State → State
  | 0, _, _, _, s => s
  | fuel + 1, va, n, x, s =>
    if n == 0 then s else
    let k := min n (8 - va % 8)
    State.vwriteGo core cx fuel (va + k) (n - k) (x / 2 ^ (8 * k)) <|
      match s.xl core cx va .write with
      | .ok pa mt => (s.touch core cx va true).physWrite mt pa k (x % 2 ^ (8 * k))
      | _ => s

def State.vwrite (s : State) (core : Nat) (cx : Ctx) (va n x : Nat) : State := State.vwriteGo core cx n va n x s

/-- Write an element that does not cross a page: at most 16 aligned bytes. -/
def State.vstore (s : State) (core : Nat) (cx : Ctx) (va n x : Nat) (hint : Nat := 2) : State :=
  match s.xl core cx va .write with
  | .ok pa mt => (s.touch core cx va true hint).physWrite mt pa n x
  | _ => s

/-- Is a 256 KiB page retired, or to be retired: no such page is mapped again (spec/26 R430)? -/
def State.pageRetired (s : State) (page : Nat) : Bool := s.boot.retiredPages.contains page || s.boot.retiring.contains page

/-- The first page from `p` on that may be mapped. -/
def State.goodPage (s : State) (p : Nat) : Nat :=
  (((List.range (s.boot.retiredPages.length + s.boot.retiring.length + 1)).map fun i => (p + i) % (s.hbmBytes / 2 ^ 18)).find? fun q =>
    !s.pageRetired q).getD p

/-- Shento maps the page of an address where the walk meets no valid entry: tables and page stand at physical addresses of its
choice (log 19). -/
def State.mapPage (va : Nat) : Nat → Nat → Nat → State → State
  | 0, _, _, s => s
  | fuel + 1, table, level, s =>
    let a := table + 8 * walkIndex va level
    let pte := readLE s.mem a 8
    if pte.testBit 0 then
      (if pte.testBit 1 then s else State.mapPage va fuel (bitsN pte 51 12 * 4096) (level + 1) s)
    else
      let (n, s) := s.takeFree
      let x := (Config.freeWord n).toNat
      let page := s.goodPage (x % (s.hbmBytes / 2 ^ 18)) * 2 ^ 18
      if level == 3 then s.physWrite 0 a 8 (15 + page)
      else
        let t := page + x / 2 ^ 32 % 64 * 4096
        State.mapPage va fuel t (level + 1) ((s.physWrite 0 t 4096 0).physWrite 0 a 8 (1 + t))

/-! ## Counters (spec/25 R403) -/

/-- The event code of a counter. -/
def State.evCode (s : State) (i : Nat) : Nat := (s.evCodes.get? i).getD (if i ≤ 11 then i else 0)

/-- Count `n` events of a code on a core. -/
def State.countEv (s : State) (core code n : Nat) : State :=
  s.modCore core fun c =>
    { c with ctrs := (List.range 48).foldl (fun m i =>
        if s.evCode i == code then m.setD 0 i (m.getD 0 i + BitVec.ofNat 64 n) else m) c.ctrs }

/-- Read a counter: code 0 counts the cycles since it was loaded, which the stored part has had subtracted; events that no rule
computes are added from Config (log 18). -/
def State.readCtr (s : State) (core i : Nat) : W64 :=
  let base := (s.core core).ctrs.getD 0 i
  let c := s.evCode i
  if c == 0 then base + (s.core core).clock
  else if c == 3 || c == 4 || c == 5 || c == 6 then base + BitVec.ofNat 64 (Config.eventCount c s.free) else base

/-! ## Causes and fault records (spec/03 R52 to R58) -/

/-- Cause numbers (R52). -/
def Cause.code : Cause → Nat
  | .none => 0 | .ri => 1 | .combo => 2 | .line => 3 | .target => 4 | .align => 5 | .xlate => 6 | .prot => 7 | .hasp => 8
  | .spad => 9 | .window => 10 | .syncobj => 11 | .pen => 12 | .fold => 13 | .trav => 14 | .unit => 15 | .trapi => 16
  | .brk => 17 | .signat => 18 | .uncorr => 19 | .launch => 20 | .claim => 21 | .split => 22 | .debug => 23 | .preempt => 24

/-- The fields of a fault record that differ from record to record (R54). SEQ is given when it enters the ring. -/
structure RecInfo where
  cause : Cause
  detail : Nat := 0
  slot : Nat := 0
  paired : Bool := false
  line : Nat := 0
  lanes : Nat := 0
  active : Nat := 0
  addr : Nat := 0
  namePc : Nat := 0
  nameSeq : Nat := 0
  teamId : Nat := 0
  groupId : Nat := 0
  frag : Nat := 0
  info : Nat := 0
  deriving DecidableEq, Repr

/-- The record as R54 lays it out, SEQ zero. -/
def RecInfo.bits (r : RecInfo) : BitVec 512 :=
  BitVec.ofNat 512 (r.cause.code + r.slot % 8 * 2 ^ 8 + (if r.paired then 2 ^ 11 else 0) + r.detail % 256 * 2 ^ 16 +
    r.line % 2 ^ 56 * 2 ^ 64 + r.lanes % 2 ^ 32 * 2 ^ 128 + r.active % 2 ^ 32 * 2 ^ 160 + r.addr % 2 ^ 56 * 2 ^ 192 +
    r.namePc % 2 ^ 64 * 2 ^ 256 + r.nameSeq % 2 ^ 32 * 2 ^ 320 + r.teamId % 2 ^ 32 * 2 ^ 352 + r.groupId % 32 * 2 ^ 384 +
    r.frag % 64 * 2 ^ 389 + r.info % 2 ^ 64 * 2 ^ 448)

def Ctx.ringFull (c : Ctx) : Bool := (c.ftail - c.fhead).toNat == 2 ^ c.frsz

/-- Enter a record in the fault ring (spec/23 R390): written before the tail advances. -/
def State.enterRing (s : State) (cx : Nat) (c : Ctx) (r : BitVec 512) : State :=
  let seq := c.ftail + 1
  let full := r.toNat + seq.toNat * 2 ^ 32
  let s := s.physWrite 0 (c.fring + 64 * (c.ftail.toNat % 2 ^ c.frsz)) 64 full
  s.modCtx cx fun c => { c with ftail := seq }

/-- Post a fault record given by its bits: into the ring, or held while the ring is full (R58). -/
def State.postBits (s : State) (cx : Nat) (r : BitVec 512) : State :=
  match s.ctxs.get? cx with
  | none => s
  | some c =>
    if c.ringFull || !c.held.isEmpty then s.modCtx cx fun c => { c with held := c.held ++ [r] }
    else s.enterRing cx c r

/-- Post a fault record. -/
def State.post (s : State) (cx : Nat) (r : RecInfo) : State := s.postBits cx r.bits

/-- Shento or the handler has consumed a record: the head advances, and a held record enters (R58, log 22). -/
def State.consumeRecord (s : State) (cx : Nat) : State :=
  match s.ctxs.get? cx with
  | none => s
  | some c =>
    if c.fhead == c.ftail then s else
    let c' := { c with fhead := c.fhead + 1 }
    let s := s.modCtx cx fun _ => c'
    match c'.held with
    | [] => s
    | r :: rest => (s.modCtx cx fun c => { c with held := rest }).enterRing cx { c' with held := rest } r

/-- A launch's two-level name (spec/18 R329). -/
def State.launchName (s : State) (l : Nat) : Nat × Nat :=
  match s.launches.get? l with
  | some x => (x.namePc.toNat, x.nameSeq.toNat)
  | none => (0, 0)

/-! ## The executing fragment -/

/-- The fragment that executes, with its group and team. -/
structure Here where
  fid : Nat
  gid : Nat
  tid : Nat
  f : Frag
  g : Group
  t : Team
  cx : Ctx
  deriving DecidableEq, Repr

/-- The view of a fragment. -/
def State.hereOf (s : State) (fid : Nat) : Option Here :=
  match s.frags.get? fid with
  | none => none
  | some f =>
  match s.groups.get? f.group with
  | none => none
  | some g =>
  match s.teams.get? g.team with
  | none => none
  | some t =>
  match s.ctxs.get? t.ctx with
  | none => none
  | some cx => some { fid := fid, gid := f.group, tid := g.team, f := f, g := g, t := t, cx := cx }

/-- The fragment that executes now. -/
def State.here (s : State) : Option Here := s.cur.bind s.hereOf

def Here.core (h : Here) : Nat := h.t.core

/-! ## Lines, slots and pairing (spec/03 R29 to R33) -/

/-- Slot `j`'s word and the line word of a fetched line. -/
def lineSlot (buf : BitVec 512) (j : Nat) : IWord := BitVec.ofNat 96 (buf.toNat / 2 ^ (96 * j))
def lineWord (buf : BitVec 512) : Nat := bitsN buf.toNat 511 480
def lineTM (buf : BitVec 512) (slot : Nat) : Bool := (lineWord buf).testBit (27 + slot)
def linePT (buf : BitVec 512) : Nat := bitsN (lineWord buf) 26 24

/-- The first slots of the pairs that PT names (R31). -/
def ptPairs (pt : Nat) : List Nat :=
  match pt with
  | 1 => [0] | 2 => [1] | 3 => [2] | 4 => [3] | 5 => [0, 2] | 6 => [1, 3] | 7 => [0, 3] | _ => []

/-! ## The record of a precise trap -/

/-- The fields that name the fragment (R54). -/
def State.recOf (s : State) (h : Here) (r : RecInfo) : RecInfo :=
  let (pc, seq) := s.launchName h.t.launch
  { r with
    slot := h.f.slot.val, paired := h.f.paired, line := h.f.line.toNat, active := h.f.mask.toNat, namePc := pc, nameSeq := seq
    teamId := h.t.num.toNat, groupId := h.g.idx, frag := fragEntry h.fid }

/-- A waiting ray's spill record: header word, then bytes that only the traversal unit reads (spec/16 R300). -/
def State.spillHeader (s : State) (gid lane : Nat) (r : Ray) : State :=
  match s.groups.get? gid with
  | none => s
  | some g =>
  match s.teams.get? g.team with
  | none => s
  | some t =>
  match s.ctxs.get? t.ctx with
  | none => s
  | some cx =>
    let a := g.spillVA.toNat + 256 * lane
    let head := 1 + (if r.query then 2 else 0) + r.phase * 4
    let (n, s) := s.takeFree
    let body := (List.range 248).foldr (fun i x => (Config.spillByte n (8 + i)).toNat + 256 * x) 0
    (s.vwrite t.core cx a 8 head).vwrite t.core cx (a + 8) 248 body

/-- A record no longer holds a ray or query. -/
def State.clearSpill (s : State) (gid lane : Nat) : State :=
  match (s.groups.get? gid).bind fun g => (s.teams.get? g.team).bind fun t => (s.ctxs.get? t.ctx).map fun cx => (g, t, cx) with
  | some (g, t, cx) => s.vwrite t.core cx (g.spillVA.toNat + 256 * lane) 8 0
  | none => s

/-- Spill the rays in slots of a core that satisfy `p` (spec/16 R300). -/
def State.spillRays (s : State) (core : Nat) (p : Ray → Bool) : State :=
  ((s.core core).rays.filter fun e => p e.2).foldl (fun s e =>
    let r := e.2
    let s := s.modCore core fun c => { c with rays := c.rays.erase e.1 }
    let s := { s with spilled := s.spilled.set (32 * r.group + r.lane) r }
    let s := s.modGroup r.group fun g => { g with travCtr := g.travCtr.setD 0 6 (g.travCtr.getD 0 6 + 1) }
    s.spillHeader r.group r.lane r) s

/-- A fragment that stops inside its line loses its latches, which are replayed when it issues again (spec/07 R143). -/
def Frag.shed (f : Frag) : Frag :=
  { f with latches := [], lost := if f.st == .issuing then f.latches else f.lost, replay := true, stall := false }

/-- Park a fragment at its slot. -/
def State.park (s : State) (fid : Nat) (w : Wait) : State :=
  s.modFrag fid fun f => { f.shed with st := .parked w, wait := 0, woken := f.woken || w == .absent }

/-- The registers of a group have been edited from outside: its parked fragments' latches are rebuilt from them (spec/03 R57). -/
def State.forgetLatches (s : State) (gid : Nat) : State :=
  (s.fragsOf gid).foldl (fun s k => s.modFrag k fun f => { f with lost := [] }) s

/-- Ready, or parked where it now stands when an imprecise record has asked for that (spec/14 R280). -/
def Frag.release (f : Frag) : Frag := { f with st := if f.hold then .parked .bound else .ready, hold := false }

/-- Take a precise trap (R53): the fragment is parked at the faulting slot and a record is posted. A fragment parked by a
trap has its waiting rays spilled (spec/16 R300). -/
def State.takeTrap (s : State) (h : Here) (r : RecInfo) : State :=
  let s := s.park h.fid (.trap (s.recOf h r).bits (h.f.st != .ready && h.f.st != .blocked))
  let s := s.modFrag h.fid fun f => { f with held := none }
  let s := s.spillRays h.core fun x => x.group == h.gid && x.phase != 0 && h.f.mask.getLsbD x.lane
  let s := if r.cause == .hasp then s.countEv h.core 7 1 else s
  s.post h.t.ctx (s.recOf h r)

/-- The cores that a freeze stops: the cluster rectangle of a member of a multi-core cluster, else the core (spec/26 R425). -/
def State.freezeCores (s : State) (t : Team) : List Nat :=
  match s.launches.get? t.launch with
  | some l =>
    let w := bitsN l.record.toNat 387 384 + 1
    let hh := bitsN l.record.toNat 391 388 + 1
    if t.member && w * hh != 1 then
      let cx := coreX t.core - t.coreslot % w
      let cy := coreY t.core - t.coreslot / w
      (List.range (w * hh)).map fun i => 12 * (cy + i / w) + (cx + i % w)
    else [t.core]
  | none => [t.core]

/-- Raise an MSI-X vector of a function (spec/24 R396): its message is sent when its table entry is written and not masked, and is
pending until then (log 48). -/
def Fun.raise (f : Fun) (v : Nat) : Fun :=
  let f : Fun := { f with msix := v :: f.msix }
  match f.table.get? v with
  | some e => if e.getLsbD 96 then { f with pending := f.pending.setD false v true }
      else { f with sent := (BitVec.ofNat 64 (bitsN e.toNat 63 0), BitVec.ofNat 32 (bitsN e.toNat 95 64)) :: f.sent }
  | none => { f with pending := f.pending.setD false v true }

/-- The function's driver writes an entry of the MSI-X table; with its mask clear, a pending message goes out (spec/24 R396, log 48). -/
def Fun.writeEntry (f : Fun) (v : Nat) (x : BitVec 128) : Fun :=
  let f : Fun := { f with table := f.table.set v x }
  if x.getLsbD 96 || !f.pending.getD false v then f
  else { f with
    pending := f.pending.setD false v false
    sent := (BitVec.ofNat 64 (bitsN x.toNat 63 0), BitVec.ofNat 32 (bitsN x.toNat 95 64)) :: f.sent }

def State.raiseMsix (s : State) (fn v : Nat) : State := s.modFun fn fun f => f.raise v

/-- The key of an error count: KIND, ARRAY and PA. -/
def errKey (kind array pa : Nat) : Nat := (kind * 256 + array) * 2 ^ 52 + pa

/-- Enter an event in the error log (spec/26 R428): `who` gives the fields of a group, from bit 16 on. -/
def State.logEvent (s : State) (kind array decision pa who : Nat) (count : Bool) : State :=
  let k := errKey kind array pa
  let n := s.errCounts.getD 0 k + (if count then 1 else 0)
  let e : Nat := kind + array * 2 ^ 4 + decision * 2 ^ 12 + who + pa % 2 ^ 52 * 2 ^ 256 + s.time.toNat * 2 ^ 320 + n % 2 ^ 64 * 2 ^ 384
  { s with errLog := BitVec.ofNat 512 e :: s.errLog, errCounts := s.errCounts.setD 0 k n }

/-- The fields of an error-log entry that name a group. -/
def State.errWho (s : State) (h : Here) : Nat :=
  let (pc, seq) := s.launchName h.t.launch
  dieOf h.t.core * 2 ^ 16 + coreX h.t.core * 2 ^ 18 + coreY h.t.core * 2 ^ 22 + h.g.idx % 4 * 2 ^ 26 + h.g.slot % 16 * 2 ^ 28 +
    h.cx.asid % 512 * 2 ^ 32 + h.cx.fn % 64 * 2 ^ 41 + pc % 2 ^ 64 * 2 ^ 64 + seq % 2 ^ 32 * 2 ^ 128 + h.t.num.toNat * 2 ^ 160 +
    (codePtr h.f.line h.f.slot).toNat * 2 ^ 192

/-- The array whose word an instruction consumed, by its major (spec/26 R416): the fetch path before a slot issues; the
scratchpad; the synchronisation engine; else HBM. -/
def errArray (f : Frag) : Nat :=
  let op := (Fields.ofWord (lineSlot f.buf f.slot.val)).op.toNat
  if f.st == .ready || f.st == .blocked then 6
  else if [0x82, 0x83, 0x84, 0x85, 0xA1, 0xC0, 0xC1, 0xC2, 0xC7, 0xC8].contains op then 3
  else if 0x78 ≤ op && op ≤ 0x7B then 9
  else 8

/-- KIND of an event: a signature mismatch, a lost lane, or an error consumed. -/
def errKind (f : Frag) (c : Cause) : Nat :=
  if c != .signat then 1 else if (Fields.ofWord (lineSlot f.buf f.slot.val)).op.toNat == 0x69 then 3 else 4

/-- An uncorrectable error consumed, or a failed check: the group stops and its cores freeze (spec/26 R424, R425); the event is
logged and raises MSI-X vector 1 of the owning function (R427). The array is the instruction's, unless `arr` names it. -/
def State.freeze (s : State) (h : Here) (c : Cause) (arr : Option Nat := none) (pa : Nat := 0) : State :=
  let e : ErrEvent := { kind := errKind h.f c, array := if c == .signat then 0 else arr.getD (errArray h.f), pa := pa }
  let s := s.logEvent e.kind e.array 0 pa (s.errWho h) true
  let s := (s.raiseMsix h.cx.fn 1).park h.fid .frozen
  let s := s.modGroup h.gid fun g => { g with events := g.events + 1, frozen := true, error := e }
  (s.freezeCores h.t).foldl (fun s k => s.modCore k fun c => { c with frozen := true }) s

/-- Freeze for a group whose engine work consumed an uncorrectable error of an array (R425, spec/11 R242): at a fragment of it
that is not Parked, else with no fragment. -/
def State.freezeGroup (s : State) (gid arr : Nat) (pa : Nat := 0) : State :=
  let parked (h : Here) : Bool := match h.f.st with | .parked _ => true | _ => false
  match ((s.fragsOf gid).filterMap s.hereOf).find? fun h => !parked h with
  | some h => s.freeze h .uncorr (some arr) pa
  | none =>
    match (s.groups.get? gid).bind fun g => (s.teams.get? g.team).bind fun t => (s.ctxs.get? t.ctx).map fun cx => (g, t, cx) with
    | none => s
    | some (g, t, cx) =>
      s.freeze { fid := 2 ^ 21, gid := gid, tid := g.team, f := { group := gid }, g := g, t := t, cx := cx } .uncorr (some arr) pa

/-! ## Moving a fragment -/

/-- Leave the line: the next issue enters the line afresh; a fragment asked to stop at a line boundary parks there. -/
def Frag.leave (f : Frag) (line : VA) (slot : Fin 5) : Frag :=
  { f with
    line := line, slot := slot, entry := slot, done := 0, visit := 0, latches := [], lost := [], replay := false, stall := false, noBrk := false
    paired := false, checkTm := false, wait := 0, woken := false
    st := if f.stopAt || f.hold then .parked .bound else .ready
    stopAt := false, hold := false, held := none }

/-- The slot after this one: the next slot of the line, or slot 0 of the next line (R33). -/
def Frag.advance (f : Frag) : Frag :=
  if f.slot.val < 4 then { f with slot := f.slot + 1, st := .issuing, stall := false, noBrk := false, woken := false }
  else f.leave (f.line + 64) 0

/-- Resume a parked fragment at its slot, with shadow replay (R38, R57); a resumption is not checked for TM (R33). -/
def State.resume (s : State) (fid : Nat) : State :=
  s.modFrag fid fun f => { f.release with replay := true, stall := false, checkTm := false }

/-- Ask a fragment to stop at its next line boundary; one that is not inside a line stops there now. -/
def State.stopFrag (s : State) (fid : Nat) : State :=
  s.modFrag fid fun f =>
    match f.st with
    | .ready | .blocked => if f.done == 0 then { f with st := .parked .bound, stopAt := false } else { f with stopAt := true }
    | .gone => f
    | _ => { f with stopAt := true }

/-- Stop the fragment that issued an instruction whose last lane has been delivered in error (spec/14 R280): at its next line
boundary; where it waits, when it is Blocked on one of the destinations (`waits`) or Parked; not at all, when it is Gone and its
entry is another's. An NSTAT waits anew when it issues again; another wait goes on, and the fragment parks where it ends. -/
def State.stopIssuer (s : State) (fid uid : Nat) (waits : Frag → Bool) : State :=
  match s.frags.get? fid with
  | none => s
  | some f =>
    if f.uid != uid then s else
    match f.st with
    | .parked (.nstat _) => s.park fid .bound
    | .parked _ => s.modFrag fid fun f => { f with hold := true }
    | .blocked => if waits f then s.modFrag fid fun f => { f with st := .parked .bound, replay := true } else s.stopFrag fid
    | _ => s.stopFrag fid

/-- Park a group at its next line boundary under an imprecise record (spec/08 R182). -/
def State.stopGroup (s : State) (gid : Nat) : State := (s.fragsOf gid).foldl State.stopFrag s

/-- Halt a group for the debugger: it stops where it stands (spec/25 R412). -/
def State.haltNow (s : State) (gid : Nat) : State :=
  let s := s.modGroup gid fun g => { g with halted := true, stopCause := .debug }
  (s.fragsOf gid).foldl (fun s k => s.modFrag k fun f =>
    if f.st == .issuing then { f.shed with st := .ready } else f) s

/-- CRC-32C over one byte (spec/26 R422). -/
def crcByte (sig : W32) (b : Byte) : W32 :=
  (List.range 8).foldl (fun c _ => if c.getLsbD 0 then (c >>> 1) ^^^ 0x82F63B78#32 else c >>> 1) (sig ^^^ b.zeroExtend 32)

/-- The signature after an instruction (spec/26 R422). -/
def sigUpdate (sig : W32) (f : Fields) : W32 :=
  let word := f.op.toNat * 2 ^ 56 + f.fn.toNat * 2 ^ 49 + f.g.toNat * 2 ^ 45 + f.gn.toNat * 2 ^ 44
  (List.range 8).foldl (fun c i => crcByte c (BitVec.ofNat 8 (word / 256 ^ i))) sig

/-- Instructions that do not update the signature (spec/26 R421). -/
def noSig (op : Nat) : Bool :=
  [0x00, 0x60, 0x61, 0x62, 0x63, 0x64, 0x65, 0x66, 0x67, 0x68, 0x69, 0x6A, 0x6B].contains op

/-- Instructions whose completion closes an open region (spec/26 R418): atomics, synchronisation, engine commands, matrix
operations, VAPP, FOUT, SPLIT and EXIT. -/
def closesRegion (op : Nat) : Bool :=
  [0xA0, 0xA1, 0xA2, 0xA3, 0xA4, 0xA5, 0x76, 0x78, 0x79, 0x7A, 0x7B, 0x7C, 0x70, 0x73, 0xF0,
   0xB0, 0xB2, 0xB4, 0xB5, 0xC0, 0xC1, 0xC2, 0xC7, 0xC8, 0xCA, 0xE7, 0xE8, 0xEA, 0xD0, 0xDC, 0xDD, 0xDE, 0xDF,
   0xD4, 0xD5, 0xD6, 0xD7, 0xD8, 0xE9, 0x64, 0x66].contains op

/-- What completing an instruction does beside its effect: the signature and the region (spec/26 R418, R421). -/
def State.account (s : State) (fid gid : Nat) (f : Fields) : State :=
  let op := f.op.toNat
  let s := if noSig op then s else s.modFrag fid fun x => { x with sig := sigUpdate x.sig f }
  if closesRegion op then s.modGroup gid fun g => { g with rgnpc := 0, events := 0, badR := g.badR.filter (· != .rgnpc) } else s

/-- Mark the slot executed. -/
def Frag.mark (f : Frag) : Frag := { f with done := f.done ||| BitVec.ofNat 5 (2 ^ f.slot.val), ticket := none, held := none }

/-- Complete the instruction at the fragment's slot and go on to the next slot. -/
def State.finish (s : State) (h : Here) (i : Instr) : State :=
  (s.account h.fid h.gid (fieldsOf i)).modFrag h.fid fun f => f.mark.advance

/-- Complete a parked instruction: the word at the fragment's slot is accounted for, and it goes on, Ready. -/
def State.finishParked (s : State) (fid : Nat) : State :=
  match s.frags.get? fid with
  | none => s
  | some f =>
    let s := s.account fid f.group (Fields.ofWord (lineSlot f.buf f.slot.val))
    s.modFrag fid fun f =>
      let f := f.mark.advance
      match f.st with
      | .issuing => { f.release with replay := true }
      | _ => f

/-! ## Instruction execution -/

/-- How an instruction's own effect ends. -/
inductive SlotResult where
  /-- The effect is done; the fragment goes on to the next slot. -/
  | done (s : State)
  /-- The effect is done and has itself placed the fragment (a transfer, a fusion, an exit). -/
  | moved (s : State)
  /-- The fragment has been placed where it waits or stops; the instruction has not completed. -/
  | placed (s : State)
  /-- A precise trap: no effect (R37). -/
  | trap (r : RecInfo)
  /-- The instruction waits at issue: no effect yet. -/
  | stall
  /-- The fragment parks at the slot; what releases it completes the instruction or lets it issue again. -/
  | park (w : Wait) (s : State)
  /-- Consumed an uncorrectable error, or failed a conservation or signature check: the freeze path (spec/26 R424). -/
  | freeze (c : Cause) (arr : Option Nat := none) (pa : Nat := 0)

/-- Put an instruction's end into effect. -/
def State.conclude (s : State) (h : Here) (i : Instr) : SlotResult → State
  | .done s' => s'.finish h i
  | .moved s' => s'.account h.fid h.gid (fieldsOf i)
  | .placed s' => s'
  | .trap r => s.takeTrap h r
  | .stall => s.modFrag h.fid fun f => { f with stall := true }
  | .park w s' => s'.park h.fid w
  | .freeze c arr pa => s.freeze h c arr pa

end Sys2Proof.Machine
end

