-- ==== Sys2Proof/Machine/Operands.lean ====
section
/-! DEFINITION. Operands: the registers each instruction reads and writes (for the line rules, the allocation check and the
scoreboard), the value of every operand form, the writing of every destination form, and `runSlot`, the frame of every
instruction: the checks of spec/03 R51 steps 5 to 7, then the instruction's own effect. -/

namespace Sys2Proof.Machine

/-! ## Footprints -/

/-- What the line rules (spec/03 R36), the allocation check (R46) and the scoreboard (spec/07 R144) need of an instruction. -/
structure Foot where
  op : Nat := 0
  reads : List Reg := []
  writes : List Reg := []           -- the destination's registers, whether or not WS keeps them from being written
  lats : List Nat := []             -- latches read
  ws : Bool := false
  vec : Bool := false               -- of the vector class (R31)
  dyn : Bool := false               -- rounds as FSR says (spec/06 R114)
  deriving DecidableEq, Repr

/-- The registers that the instruction writes: none under WS. -/
def Foot.stored (f : Foot) : List Reg := if f.ws then [] else f.writes

/-- The locations that rule 1 of R36 takes as read: an instruction reads FSR for it when it rounds under .dyn (spec/06 R114). -/
def Foot.ruleReads (f : Foot) : List Reg := f.reads.filter (!·.special) ++ if f.dyn then [.fsr] else []

/-- `n` vector registers from `r`; a scalar, mask or flag operand names `ns` registers of its kind. -/
def opRegs (o : Opnd) (nv ns : Nat) : List Reg :=
  match o with
  | .v r => (List.range nv).map fun i => .v (r.val + i)
  | .s r => (List.range ns).map fun i => .s (r.val + i)
  | .k r => if r.val == 0 then [] else [.k r.val]
  | .c r => [.c r.val]
  | _ => []

def latOf (o : Opnd) : List Nat := match o with | .b n => [n.val] | _ => []

def guardRegs (g : Fin 16) : List Reg := if g.val == 0 then [] else [.k g.val]

/-- Formats R and I. -/
def footAlu (m : Nat) (w : AluW) : Foot :=
  let w64 := w.ty.is64 && aluTypeOk m w
  let one := fun (o : Opnd) => opRegs o 1 1
  let tw := fun (o : Opnd) => opRegs o (if w64 then 2 else 1) 1
  let dst := if m == 0x18 || m == 0x26 || m == 0x59 || m == 0x46 then one w.dst else tw w.dst
  let a := if m == 0x45 || m == 0x46 then opRegs w.a 2 1
    else if m == 0x40 || m == 0x41 || m == 0x42 || m == 0x43 then one w.a else tw w.a
  let b := if m == 0x45 || m == 0x46 then opRegs w.b 2 1
    else if m == 0x42 then opRegs w.b (if w.t2.is64 then 2 else 1) 1
    else if m == 0x41 || (0x0F ≤ m && m ≤ 0x12) || m == 0x1A || m == 0x54 then one w.b else tw w.b
  let c := if m == 0x13 || m == 0x19 then one w.c else tw w.c
  let rnd : List Reg := if w.rm == .sr && aluTakesSr m then
      (if w.dst.isS then [.s (w.xm.toNat % 64)] else [.v (w.xm.toNat % 256), .v (w.xm.toNat % 256 + 1)]) else []
  let rdl : List Reg := if m == 0x55 then
      (if w64 then [.v (w.xm.toNat % 256), .v (w.xm.toNat % 256 + 1)] else [.v (w.xm.toNat % 256)]) else []
  let float := (0x20 ≤ m && m ≤ 0x44) || ((m == 0x57 || m == 0x58) && !w.ty.isInt)    -- FTZ, RM and the flags (spec/04 R68)
  { op := m, reads := a ++ b ++ c ++ rnd ++ rdl ++ guardRegs w.g ++ (if float then [.fsr] else []), writes := dst
    lats := latOf w.a ++ latOf w.b ++ latOf w.c, ws := w.ws, vec := !w.dst.isS, dyn := float && w.rm == .dyn }

/-- Registers of a memory data operand (spec/09 R185). -/
def dataRegs (wd : Width) (o : Opnd) : List Reg :=
  match wd with
  | .w8 => opRegs o 2 1
  | .w16 => opRegs o 4 2
  | _ => opRegs o 1 1

/-- Registers of an atomic's operand (spec/09 R195, R196). -/
def atomRegs (m : Nat) (w : MemW) : List Reg :=
  let wide := w.width == .w8
  let dbl := (w.opc == .cas && (m == 0xA0 || m == 0xA1)) || m == 0xA2
  if m == 0xA4 then opRegs w.c (if wide then 3 else 2) 2
  else if dbl then opRegs w.c (if wide then 4 else 2) 2
  else opRegs w.c (if wide then 2 else 1) 1

/-- Format M. -/
def footMem (m : Nat) (w : MemW) : Foot :=
  let glob := m == 0x80 || m == 0x81 || m == 0x86 || m == 0xA0 || m == 0xA2 || m == 0xA3 || m == 0xA4 || m == 0xA5
  let base := opRegs w.a (if glob then 2 else 1) 1
  let rest : List Reg :=
    if m == 0x76 then opRegs w.b 1 2
    else if 0xA0 ≤ m then atomRegs m w
    else opRegs w.b 1 1 ++ (if 0x80 ≤ m then dataRegs w.width w.c else [])
  let dst := if m < 0x80 then opRegs w.dst 1 1 else dataRegs w.width w.dst
  { op := m, reads := base ++ rest ++ guardRegs w.g, writes := dst, lats := latOf w.a ++ latOf w.b ++ latOf w.c, ws := w.ws }

/-- Operand block of a Fold weight (spec/19 R353 to R355). -/
def foldBlock (op imm : Nat) : Nat :=
  if op == 0xD6 || (op == 0xD7 && imm % 4 == 2) then 4 else 6

/-- Registers that VLD writes (spec/19 R356). -/
def vldCount (sel : Nat) : Nat := if sel ≤ 3 then 3 else if sel ≤ 12 then 1 else 4

/-- The special registers that hold state of the group, by number (spec/05 R100); SIG is the fragment's (`badRead`). -/
def specReg (n : Nat) : List Reg := if n == 0x11 then [.fsr] else if n == 0x13 then [.rgnpc] else if n == 0x14 then [.penwin] else []

/-- Formats E and S. -/
def footEng (op fn : Nat) (w : EngW) : Foot :=
  let imm := w.imm.toNat
  let one := fun (o : Opnd) => opRegs o 1 1
  let n1 := bitsN imm 13 9 + 1
  let (r, wr) : List Reg × List Reg :=
    if op == 0x1E then (specReg (imm % 256), opRegs w.dst (if imm / 256 % 2 == 1 then 2 else 1) 1)
    else if op == 0x1F then (one w.a, specReg (imm % 256))
    else if op == 0xB0 then (opRegs w.a 2 1 ++ one w.b, [])
    else if op == 0xC0 then (one w.a ++ one w.b ++ opRegs w.c (if w.b.isZr then 1 else 2) 1, [])
    else if op == 0xC1 || op == 0xC2 then (one w.a ++ one w.b ++ one w.c ++ one w.dst, [])
    else if op == 0xC3 then (opRegs w.a 2 1 ++ one w.b, [])
    else if op == 0xC8 then (one w.a ++ one w.b ++ (if bitsN imm 14 12 == 6 then [.fsr] else []), [])
    else if op == 0xC9 then ([], opRegs w.dst n1 1)
    else if op == 0xCA then (opRegs w.a n1 1, [])
    else if op == 0xD0 then (.penwin :: opRegs w.a 2 1 ++ opRegs w.b (imm % 32 + 1) 1, opRegs w.dst (imm / 32 % 16 + 1) 1)
    else if op == 0xD4 then (one w.a ++ opRegs w.b 14 1, one w.dst)
    else if op == 0xD5 || op == 0xD6 then (one w.a ++ opRegs w.b (foldBlock op imm) 1, opRegs w.dst 3 1)
    else if op == 0xD7 then (one w.a ++ opRegs w.b (foldBlock op imm) 1, opRegs w.dst 2 1)
    else if op == 0xD8 then (one w.a ++ one w.b, opRegs w.dst (vldCount (imm % 16)) 1)
    else if op == 0xDC then (opRegs w.a 8 1 ++ one w.b, opRegs w.dst 8 1)
    else if op == 0xDD then (one w.a, opRegs w.dst 8 1)
    else if op == 0xDE then (opRegs w.a (if imm % 4 == 2 then 6 else 4) 1 ++ one w.b, [])
    else if op == 0xDF then ([], opRegs w.dst (1 + 2 * (imm % 8 + 1)) 1)
    else if op == 0xE4 then (one w.a ++ opRegs w.b (if imm % 2 == 1 then 6 else 3) 1 ++ one w.c, opRegs w.dst 4 1)
    else if op == 0xE5 then (one w.a ++ opRegs w.b 3 1, opRegs w.dst 4 1)
    else if op == 0xE7 || op == 0xE8 || op == 0xEA then (one w.a ++ one w.b ++ opRegs w.c 2 2, [])
    else if op == 0xE9 then (opRegs w.a 4 1, [])
    else if op == 0xEE then (one w.a, opRegs w.dst 2 1 ++ [.c (imm % 8)])
    else if op == 0xEF then (one w.a ++ opRegs w.b 2 1, [])
    else (one w.a ++ one w.b ++ one w.c, one w.dst)
  let _ := fn
  { op := op, reads := r ++ guardRegs w.g, writes := wr, lats := latOf w.a ++ latOf w.b ++ latOf w.c, ws := w.ws
    dyn := op == 0xC8 && bitsN imm 14 12 == 6 }

/-- Format B. -/
def footBr (m : Nat) (w : BrW) : Foot :=
  { op := m, reads := opRegs w.a 1 1 ++ opRegs w.b 1 1, writes := opRegs w.dst 1 1, lats := latOf w.a ++ latOf w.b, ws := w.ws }

/-- The footprint of an instruction: the registers that its operands name. An operand field that the entry does not use names
none. NOP, UDF and event rows touch no register. -/
def footOf (i : Instr) : Foot :=
  match i.aluMajor with
  | some (m, w) => footAlu m { w with a := if aluOneSrc m then .zr else w.a, c := if aluThreeSrc m then w.c else .zr }
  | none => match i.memRow with
  | some (m, _, _, w) => footMem m w
  | none => match i.engRow with
  | some (sg, w) =>
    let used (k : List Kd) (o : Opnd) : Opnd := if k == [.z] then .zr else o
    footEng sg.op sg.fn
      { w with dst := used sg.dst w.dst, a := used sg.a w.a, b := used sg.b w.b, c := used sg.c w.c }
  | none => match i.brRow with
  | some (m, w) => footBr m w
  | none => {}

/-- The long-latency instructions (spec/03 R35). -/
def longLatency (op : Nat) : Bool :=
  [0x80, 0x82, 0x84, 0x87, 0xE4, 0xE5, 0xA0, 0xA1, 0xA2, 0xA3, 0xA4, 0xB0, 0xB2, 0xB4, 0xB5, 0xC0, 0xC1, 0xC2, 0xC7, 0xC8,
   0xC9, 0xE7, 0xE8, 0xEA, 0xD0, 0xDC, 0xDD, 0xDE, 0xDF, 0xD4, 0xD5, 0xD6, 0xD7, 0xD8, 0xEE].contains op

/-- The state-bound instructions (spec/03 R35). -/
def stateBound (op : Nat) : Bool :=
  [0x1E, 0xE0, 0xE6, 0x71, 0x76, 0x78, 0x79, 0x7A, 0x7B, 0xEC, 0xED, 0xF6, 0x7E, 0xB3, 0xC4, 0xD2, 0xF0, 0xD9, 0xF8].contains op

/-! ## Slots of a line -/

/-- The footprint of a slot. The line rules hold before the slot's own checks, so that a word that fails those of its operands
or modifiers still names its registers. A word that does not decode at all touches nothing; nor does one that holds a reserved
operand code in any field, since then no operand of it can be read (log 2). -/
def slotFoot (buf : BitVec 512) (j : Nat) : Foot :=
  match readFields false (Fields.ofWord (lineSlot buf j)) with
  | .ok i => footOf i
  | .error _ => {}

/-- Every lane. -/
def allLanes : W32 := 0xFFFFFFFF

/-- Instructions that read other lanes of a vector register than their active ones: SHFL, RDLANE, MMA, MQB (spec/05 R105, R106,
spec/11 R234). -/
def crossLane (op : Nat) : Bool := [0x54, 0x55, 0xC0, 0xC7].contains op

/-- The lanes in which a slot reads and writes vector registers, as far as they are known at line entry, and whether it has none. Where
an earlier slot of the line writes its guard, or may change the active mask (SPLIT, FUSE, EXIT), they are known only when it issues. -/
def slotLanes (buf : BitVec 512) (g : Group) (mask : W32) (slot j : Nat) : W32 × Bool :=
  let f := Fields.ofWord (lineSlot buf j)
  let k := if f.g.toNat == 0 then mask else g.k.getD 0 f.g.toNat
  let act := mask &&& (if f.gn == 1 then ~~~k else k)
  let later := (List.range j).any fun i =>
    slot ≤ i && ((slotFoot buf i).stored.contains (.k f.g.toNat) || [0x64, 0x65, 0x66].contains (slotFoot buf i).op)
  (if later || crossLane (slotFoot buf j).op then allLanes else act, act == 0 || later)

/-- Registers that a slot waits for at line entry, each with its lanes (spec/07 R144, spec/14 R278): those it reads or writes, but not
the destination of a traversal instruction without an active lane, which waits for nothing (spec/17 R313), or whose lanes are known
only when it issues: `runSlot` makes that wait. A long-latency instruction writes a register whole. -/
def waitRegs (buf : BitVec 512) (g : Group) (mask : W32) (slot j : Nat) : List (Reg × W32) :=
  let ft := slotFoot buf j
  let (lanes, idle) := slotLanes buf g mask slot j
  let rd := ft.reads.map fun r => (r, lanes)
  if 0xDC ≤ ft.op && ft.op ≤ 0xDF && idle then rd
  else rd ++ ft.writes.map fun r => (r, if longLatency ft.op then allLanes else lanes)

/-- Registers that the slots of a line from `slot` on wait for. -/
def lineRegs (buf : BitVec 512) (g : Group) (mask : W32) (slot : Nat) : List (Reg × W32) :=
  ((List.range 5).filter fun j => slot ≤ j).flatMap (waitRegs buf g mask slot)

/-! ## Reading operands -/

namespace Here

/-- The mask of active lanes under a guard (spec/03 R39): k0 reads as the fragment's active mask. -/
def active (h : Here) (g : Fin 16) (gn : Bool) : W32 :=
  let k := if g.val == 0 then h.f.mask else h.g.k.getD 0 g.val
  h.f.mask &&& (if gn then ~~~k else k)

def vreg (h : Here) (r l : Nat) : W32 := h.g.v.getD 0 (32 * r + l)
def sreg (h : Here) (r : Nat) : W64 := h.g.s.getD 0 r
def kreg (h : Here) (r : Nat) : W32 := if r == 0 then h.f.mask else h.g.k.getD 0 r

/-- A 32-bit source in lane `l`; a scalar gives bits [31:0]. -/
def src32 (h : Here) (o : Opnd) (imm l : Nat) : Nat :=
  match o with
  | .v r => (h.vreg r.val l).toNat
  | .s r => (h.sreg r.val).toNat % 2 ^ 32
  | .imm => imm % 2 ^ 32
  | .b n =>
    match h.f.latches.get? n.val with
    | some (.vec m) => (m.getD 0 l).toNat
    | some (.sc x) => x.toNat % 2 ^ 32
    | some (.mask x) => x.toNat
    | some (.flag b) => if b then 1 else 0
    | none => 0
  | .k r => (h.kreg r.val).toNat
  | .c r => if h.g.c.getLsbD r.val then 1 else 0
  | .zr => 0

/-- A 64-bit source in lane `l`: a pair of vector registers, or a whole scalar register. -/
def src64 (h : Here) (o : Opnd) (imm l : Nat) : Nat :=
  match o with
  | .v r => (h.vreg r.val l).toNat + (h.vreg (r.val + 1) l).toNat * 2 ^ 32
  | .s r => (h.sreg r.val).toNat
  | .imm => imm
  | .b n =>
    match h.f.latches.get? n.val with
    | some (.sc x) => x.toNat
    | _ => h.src32 o imm l
  | _ => h.src32 o imm l

/-- A scalar operand's 64 bits. -/
def srcS (h : Here) (o : Opnd) : W64 := BitVec.ofNat 64 (h.src64 o 0 0)

/-- A mask operand. -/
def srcK (h : Here) (o : Opnd) (imm : Nat) : W32 := BitVec.ofNat 32 (h.src32 o imm 0)

/-- A flag operand. -/
def srcC (h : Here) (o : Opnd) : Bool :=
  match o with
  | .c r => h.g.c.getLsbD r.val
  | .b n => match h.f.latches.get? n.val with | some (.flag b) => b | _ => false
  | _ => false

end Here

/-! ## Writing destinations -/

/-! A write replaces the whole protected word, so its error mark goes (spec/26 R417). -/

/-- A register other than a vector register has been written whole. -/
def Group.heal (g : Group) (r : Reg) : Group := { g with badR := g.badR.filter (· != r) }

def Group.setV (g : Group) (r l : Nat) (x : W32) : Group :=
  { g with v := g.v.setD 0 (32 * r + l) x, badV := g.badV.erase (32 * r + l) }
def Group.setS (g : Group) (r : Nat) (x : W64) : Group := { g with s := g.s.setD 0 r x, badR := g.badR.filter (· != .s r) }
/-- A write of k0 is discarded: it holds nothing (spec/03 R45). -/
def Group.setK (g : Group) (r : Nat) (x : W32) : Group :=
  if r == 0 then g else { g with k := g.k.setD 0 r x, badR := g.badR.filter (· != .k r) }
def Group.setC (g : Group) (r : Nat) (x : Bool) : Group :=
  { g with
    c := if x then g.c ||| BitVec.ofNat 8 (2 ^ r) else g.c &&& ~~~(BitVec.ofNat 8 (2 ^ r))
    badR := g.badR.filter (· != .c r) }

/-- Set a slot's latch; slot 4's result is never latched (spec/03 R34). -/
def State.latch (s : State) (h : Here) (x : Latch) : State :=
  if h.f.slot.val < 4 then s.modFrag h.fid fun f => { f with latches := f.latches.set h.f.slot.val x } else s

/-- Write lanes of a vector destination (or zr) and the slot's latch; an inactive lane latches the old value. A latch has 32 bits
a lane, and the spec does not say which half of a 64-bit result it takes: here the low half (log 39). -/
def State.writeVec (s : State) (h : Here) (dst : Opnd) (ws wide : Bool) (act : W32) (f : Nat → Nat) : State :=
  let old : Nat → W32 := fun l => match dst with | .v r => h.vreg r.val l | _ => 0
  let lat : SMap W32 := (List.range 32).foldl (fun m l =>
    m.setD 0 l (if act.getLsbD l then BitVec.ofNat 32 (f l) else old l)) []
  let s := s.latch h (.vec lat)
  match dst with
  | .v r =>
    if ws then s else
    s.modGroup h.gid fun g => foldLanes act g fun g l =>
      let x := f l
      let g := g.setV r.val l (BitVec.ofNat 32 x)
      if wide then g.setV (r.val + 1) l (BitVec.ofNat 32 (x / 2 ^ 32)) else g
  | _ => s

/-- Write a scalar destination and the latch. -/
def State.writeS (s : State) (h : Here) (dst : Opnd) (ws : Bool) (x : W64) : State :=
  let s := s.latch h (.sc x)
  match dst with
  | .s r => if ws then s else s.modGroup h.gid fun g => g.setS r.val x
  | _ => s

/-- Write the active lanes' bits of a mask destination and the latch. -/
def State.writeK (s : State) (h : Here) (dst : Opnd) (ws : Bool) (act : W32) (x : W32) : State :=
  match dst with
  | .k r =>
    let new := (h.kreg r.val &&& ~~~act) ||| (x &&& act)
    let s := s.latch h (.mask new)
    if ws then s else s.modGroup h.gid fun g => g.setK r.val new
  | _ => s

/-- Write a flag destination and the latch. -/
def State.writeC (s : State) (h : Here) (dst : Opnd) (ws : Bool) (x : Bool) : State :=
  match dst with
  | .c r =>
    let s := s.latch h (.flag x)
    if ws then s else s.modGroup h.gid fun g => g.setC r.val x
  | _ => s

/-! ## Outstanding writes (spec/07 R144) -/

/-- Is a register named by an outstanding write of the group? -/
def Group.outstanding (g : Group) (r : Reg) : Bool := g.pend.any fun e => e.2.regs.contains r

/-- Does an outstanding write name the register in one of the lanes? Of a NEVAL each lane is outstanding until it is delivered, and no
longer (spec/14 R278, spec/15 R285). -/
def Pend.meets (p : Pend) (r : Reg) (lanes : W32) : Bool :=
  p.regs.contains r && (match p.lanes with
    | none => true
    | some l => l &&& lanes != 0)

def Group.outstandingIn (g : Group) (lanes : W32) (r : Reg) : Bool := g.pend.any fun e => e.2.meets r lanes

/-- Add an outstanding write of a fragment, in its pass over its line. -/
def State.addPend (s : State) (gid : Nat) (p : Pend) : State :=
  let p := match s.frags.get? p.frag with
    | some f => { p with uid := f.uid, visit := f.visit }
    | none => p
  s.modGroup gid fun g => { g with pend := g.pend.set g.nextPend p, nextPend := g.nextPend + 1 }

/-- Does an outstanding write from outside the fragment's pass over its line name the register in one of the lanes (spec/07 R144)? -/
def Group.outside (g : Group) (f : Frag) (r : Reg × W32) : Bool :=
  g.pend.any fun e => e.2.meets r.1 r.2 && !(f.replay && e.2.uid == f.uid && e.2.visit == f.visit)

/-! ## The frame of an instruction -/

/-- The group has one live fragment and no record in its split spill area (spec/07 R148). -/
def State.sole (s : State) (h : Here) : Bool :=
  (s.fragsOf h.gid).length == 1 && !h.g.fps.any fun e => e.2.serial

/-- The trap of R148. -/
def Here.splitTrap (h : Here) : RecInfo := { cause := .split, detail := 1, lanes := h.f.mask.toNat }

/-- A trap raised by decode checks names the active mask (spec/03 R54). -/
def Here.decodeTrap (h : Here) (c : Cause) (d : Nat) : RecInfo := { cause := c, detail := d, lanes := h.f.mask.toNat }

/-- Checks 5 to 7 of R51: a latch unread since line entry, an absent unit, a vector register beyond the allocation. ACCRD and
ACCWR have two conditions of step 7, whose order the spec does not give: here a register beyond the allocation comes before an
accumulator name beyond the count (log 39). DESIGN CHOICE: a slot that executed without a register result (a store, a branch not
taken) leaves no latch, so that a read of its latch is LINE with DETAIL 4 at the reading slot (R34, R36; log 39). -/
def preCheck (i : Instr) (h : Here) (s : State) : Option RecInfo :=
  let ft := footOf i
  if ft.lats.any fun n => !h.f.latches.has n then some (h.decodeTrap .line 4)
  else if ft.op == 0xEA && !s.g9 then some (h.decodeTrap .unit 0)
  else if (ft.reads ++ ft.writes).any fun r => match r with | .v n => decide (16 * h.g.blocks ≤ n) | _ => false
  then some (h.decodeTrap .spad 0)
  else none

/-- A traversal instruction without an active lane waits for nothing (spec/17 R313). -/
def idleTrav (i : Instr) (h : Here) : Bool :=
  match i.engRow with
  | some (sg, w) => 0xDC ≤ sg.op && sg.op ≤ 0xDF && h.active w.g w.gn == 0
  | none => false

/-- The source lane of SHFL. -/
def shflLane (fn l b : Nat) : Nat :=
  match fn with
  | 0 => b % 32
  | 1 => if b ≤ l then l - b else l
  | 2 => if l + b < 32 then l + b else l
  | _ => l ^^^ (b % 32)

/-- The lane from which SHFL's lane `l` takes its value (spec/05 R105). -/
def Here.shflFrom (h : Here) (w : AluW) (l : Nat) : Nat :=
  shflLane w.fn.val l (match w.b with
    | .v _ => h.src32 w.b 0 l
    | o => h.src64 o w.imm.toNat l)

/-- The lanes of a vector register that the instruction reads: the active ones; for SHFL's first operand and for RDLANE the source
lanes, active or not (spec/05 R105, R106); for the registers of an MMA or MQB all of them (spec/11 R234). -/
def Here.readLanes (h : Here) (i : Instr) (act : W32) (n : Nat) : W32 :=
  match i with
  | .shfl w =>
    (if (opRegs w.a (if w.ty.is64 then 2 else 1) 1).contains (.v n) then maskOf fun l => (lanesOf act).any fun j => h.shflFrom w j == l
     else 0) ||| (if (opRegs w.b 1 1).contains (.v n) then act else 0)
  | .rdlane w => BitVec.ofNat 32 (2 ^ (h.src64 w.b 0 0 % 32))
  | .mma _ | .mqb _ => 0xFFFFFFFF
  | _ => act

/-- Does the instruction read a register that an uncorrectable error has hit (spec/26 R416, R417), and of which array? A mask written
in some lanes only is read too, since its word is re-formed, and so is SIG by an instruction that updates, checks or reads it. An
operation that has issued and waits has its operands (spec/20 R359). -/
def badRead (i : Instr) (h : Here) : Option Nat :=
  if (h.g.badV.isEmpty && h.g.badR.isEmpty) || h.f.held.isSome then none else
  let ft := footOf i
  let f := fieldsOf i
  let act := h.active (Fin.ofNat 16 f.g.toNat) (f.gn == 1)
  let badV (r : Reg) : Bool := match r with
    | .v n => (lanesOf (h.readLanes i act n)).any fun l => h.g.badV.has (32 * n + l)
    | _ => false
  let sig := !noSig ft.op || ft.op == 0x69 || (ft.op == 0x1E && f.imm.toNat % 256 == 0x12)
  if ft.reads.any badV then some 1
  else if ft.reads.any h.g.badR.contains || (sig && h.g.badR.contains (.sig h.f.uid)) ||
    (act != 0xFFFFFFFF && ft.writes.any fun r => match r with | .k _ => h.g.badR.contains r | _ => false)
  then some 2 else none

def readsBad (i : Instr) (h : Here) : Bool := (badRead i h).isSome

/-- Does the instruction write a register with an outstanding write: in one of its active lanes, or, where it is long-latency, in any
(spec/07 R144, spec/14 R278)? -/
def Here.mustWait (h : Here) (i : Instr) : Bool :=
  let ft := footOf i
  let f := fieldsOf i
  ft.writes.any (h.g.outstandingIn (if longLatency ft.op then allLanes else h.active (Fin.ofNat 16 f.g.toNat) (f.gn == 1))) &&
    !idleTrav i h

/-- Run one instruction row for the current fragment: checks 5 to 7, then the scoreboard (a write of a register with an
outstanding write stalls, spec/07 R144), an error in a register that it reads, then the effect. -/
def runSlot (i : Instr) (act : Here → State → SlotResult) (s : State) : Host.Outcome State Fault Refusal :=
  match s.here with
  | none => .fault .noFragment
  | some h =>
    match preCheck i h s with
    | some r => .next (s.takeTrap h r)
    | none =>
      if h.mustWait i then .next (s.conclude h i .stall)
      else match badRead i h with
        | some arr => .next (s.freeze h .uncorr (some arr))
        | none => .next (s.conclude h i (act h s))

end Sys2Proof.Machine
end

