-- ==== Sys2Proof/Machine/Flags.lean ====
section
/-! DEFINITION. Flags: the float status register (spec/04 R68 to R71), the rounding mode an instruction uses, and the writing
of results of formats R and I. -/

namespace Sys2Proof.Machine

/-- FSR.RM and FSR.FTZ. -/
def fsrRm (fsr : W32) : Nat := bitsN fsr.toNat 7 5
def fsrFtz (fsr : W32) : Bool := fsr.getLsbD 8

/-- What an SWR stores in FSR: reserved bits read zero, and RM 5 to 7 stores 0 (R68). -/
def fsrStored (x : Nat) : W32 :=
  let rm := bitsN x 7 5
  BitVec.ofNat 32 (x % 32 + (if rm ≤ 4 then rm else 0) * 32 + bitsN x 8 8 * 256)

/-- Write FSR: a whole new value, so its error mark goes (spec/26 R417). -/
def Group.setFsr (g : Group) (x : Nat) : Group := { g with fsr := fsrStored x, badR := g.badR.filter (· != .fsr) }

/-- Raise flags: they are sticky (R68, R69). -/
def State.raise (s : State) (gid : Nat) (fl : Nat) : State :=
  if fl == 0 then s else s.modGroup gid fun g => { g with fsr := g.fsr ||| BitVec.ofNat 32 fl }

/-- The mode of a rounding code, with the random operand of a lane (R66, R67). -/
def Here.mode (h : Here) (rm : Rm) (u : Nat) : Mode :=
  match rm with
  | .rne => .rne | .rtz => .rtz | .rup => .rup | .rdn => .rdn | .rna => .rna
  | .sr => .sr u
  | .dyn => .ofNat (fsrRm h.g.fsr)

/-- The random operand named in XM (spec/06 R113). -/
def Here.rand (h : Here) (w : AluW) (l : Nat) : Nat :=
  if w.rm != .sr then 0
  else if w.dst.isS then (h.sreg (w.xm.toNat % 64)).toNat
  else (h.vreg (w.xm.toNat % 256) l).toNat + (h.vreg (w.xm.toNat % 256 + 1) l).toNat * 2 ^ 32

/-- An integer source of type T in lane `l` (spec/05 R80): extended by T's signedness. -/
def Here.srcI (h : Here) (w : AluW) (o : Opnd) (l : Nat) : Int :=
  let raw := if w.ty.is64 then (match o with
      | .imm => wrapN 64 (if w.ty.signed then sextI 32 w.imm.toNat else (w.imm.toNat : Int))
      | o => h.src64 o 0 l)
    else h.src32 o w.imm.toNat l
  if w.ty.signed then sextI w.ty.bits raw else ((raw % 2 ^ w.ty.bits : Nat) : Int)

/-- Write a result per active lane, or once into a scalar register, extended to the register's width. -/
def State.putI (s : State) (h : Here) (w : AluW) (f : Nat → Int) : State :=
  if w.dst.isS then s.writeS h w.dst w.ws (BitVec.ofNat 64 (wrapN 64 (f 0)))
  else s.writeVec h w.dst w.ws w.ty.is64 (h.active w.g w.gn) fun l => wrapN 64 (f l)

/-- Write a float result with its flags: `f l` gives the result and the flags of lane `l`. -/
def State.putF (s : State) (h : Here) (w : AluW) (f : Nat → Nat × Nat) : State :=
  if w.dst.isS then (s.writeS h w.dst w.ws (BitVec.ofNat 64 (f 0).1)).raise h.gid (f 0).2
  else
    let act := h.active w.g w.gn
    (s.writeVec h w.dst w.ws w.ty.is64 act fun l => (f l).1).raise h.gid (foldLanes act 0 fun a l => a ||| (f l).2)

/-- Write a comparison: mask bits of the active lanes, or a flag once (spec/05 R94). -/
def State.putCmp (s : State) (h : Here) (w : AluW) (f : Nat → Bool × Nat) : State :=
  match w.dst with
  | .c _ => (s.writeC h w.dst w.ws (f 0).1).raise h.gid (f 0).2
  | _ =>
    let act := h.active w.g w.gn
    let s := s.writeK h w.dst w.ws act (maskOf fun l => act.getLsbD l && (f l).1)
    s.raise h.gid (foldLanes act 0 fun a l => a ||| (f l).2)

end Sys2Proof.Machine
end

