-- ==== Sys2Proof/Machine/Mem.lean ====
section
/-! DEFINITION. Mem: addresses of the memory formats, the checks of each lane and the fate of the instruction, the Hasp table,
scratchpad and window access, the side log, and the values of an atomic (spec/08, spec/09 R183 to R199). -/

namespace Sys2Proof.Machine

/-! ## Addresses (R184) -/

/-- The index of lane `l`: a vector index is its low 32 bits sign-extended, a scalar index 64 bits. -/
def Here.index (h : Here) (o : Opnd) (l : Nat) : Int :=
  match o with
  | .zr => 0
  | .v _ => sextI 32 (h.src32 o 0 l)
  | .b n => (match h.f.latches.get? n.val with
    | some (.vec m) => sextI 32 (m.getD 0 l).toNat
    | _ => (h.src64 o 0 l : Nat))
  | o => (h.src64 o 0 l : Nat)

/-- A global effective address. -/
def Here.ea (h : Here) (w : MemW) (l : Nat) : Nat :=
  wrapN 64 ((h.src64 w.a 0 l : Int) + h.index w.b l * 2 ^ w.scale.val + sextI 32 w.off.toNat)

/-- A scratchpad offset. -/
def Here.off (h : Here) (w : MemW) (l : Nat) : Nat :=
  wrapN 32 ((h.src32 w.a 0 l : Int) + h.index w.b l * 2 ^ w.scale.val + sextI 32 w.off.toNat)

/-- A window offset: its base stands in SRCB (R191). -/
def Here.winOff (h : Here) (w : MemW) (l : Nat) : Nat :=
  wrapN 32 ((h.src32 w.b 0 l : Int) + sextI 32 w.off.toNat)

/-- An atomic's address: SRCB holds the ATOP field (R194). -/
def Here.atomEa (h : Here) (w : MemW) (l : Nat) : Nat := wrapN 64 ((h.src64 w.a 0 l : Int) + sextI 32 w.off.toNat)
def Here.atomOff (h : Here) (w : MemW) (l : Nat) : Nat := wrapN 32 ((h.src32 w.a 0 l : Int) + sextI 32 w.off.toNat)

/-- A data operand of `n` bytes in lane `l` (R185). -/
def Here.data (h : Here) (o : Opnd) (n l : Nat) : Nat :=
  match o with
  | .v r => (List.range ((n + 3) / 4)).foldr (fun i x => (h.vreg (r.val + i) l).toNat + 2 ^ 32 * x) 0 % 2 ^ (8 * n)
  | .s r => ((h.sreg r.val).toNat + (if n == 16 then (h.sreg (r.val + 1)).toNat * 2 ^ 64 else 0)) % 2 ^ (8 * n)
  | o => h.src64 o 0 l % 2 ^ (8 * n)

/-- The registers of a vector destination, with the values of one lane. -/
def laneVals (r n l x : Nat) : List (Nat × W32) :=
  (List.range ((n + 3) / 4)).map fun i => (32 * (r + i) + l, BitVec.ofNat 32 (x / 2 ^ (32 * i)))

/-- Add loaded values to an outstanding write; a scalar destination takes the first lane's. -/
def Pend.put (p : Pend) (dst : Opnd) (wd : Width) (vals : List (Nat × Nat)) : Pend :=
  match dst with
  | .v r => { p with vs := p.vs ++ vals.flatMap fun e => laneVals r.val wd.bytes e.1 e.2 }
  | .s r =>
    { p with ss := p.ss ++ match vals with
        | [] => []
        | (_, x) :: _ => (r.val, BitVec.ofNat 64 x) :: (if wd == .w16 then [(r.val + 1, BitVec.ofNat 64 (x / 2 ^ 64))] else []) }
  | _ => p

/-- Has the destination registers? -/
def Opnd.isReg (o : Opnd) : Bool := o.isV || o.isS

/-- Deliver loaded values: they land as one outstanding write (spec/03 R35). -/
def State.deliver (s : State) (h : Here) (dst : Opnd) (wd : Width) (vals : List (Nat × Nat)) (load : Bool := true) : State :=
  if Opnd.isReg dst then s.addPend h.gid (Pend.put { frag := h.fid, regs := dataRegs wd dst, load := load } dst wd vals) else s

/-! ## The Hasp table (spec/08 R178) -/

/-- The lowest entry that a group's access of a global range meets. -/
def State.haspGlobal (s : State) (core asid va n : Nat) (write : Bool) : Option (Nat × Bool) :=
  (s.core core).hasp.findSome? fun e =>
    let x := e.2
    if !x.scratch && x.asid == asid && decide (x.first < va + n) && decide (va ≤ x.last) && (x.wlock || write)
    then some (e.1, x.wlock) else none

/-- The same for a scratchpad range, whichever core's engine holds the entry. -/
def State.haspScr (s : State) (team off n : Nat) (write : Bool) : Option (Nat × Bool) :=
  s.cores.findSome? fun c =>
    c.2.hasp.findSome? fun e =>
      let x := e.2
      if x.scratch && x.team == team && decide (x.first < off + n) && decide (off ≤ x.last) && (x.wlock || write)
      then some (e.1, x.wlock) else none

def haspInfo (e : Nat × Bool) : Nat := e.1 + (if e.2 then 256 else 0)

/-- Entries 0 to 31 of the table that are free (spec/10 R211). -/
def Core.haspFree (c : Core) : List Nat := (List.range 32).filter fun i => !c.hasp.has i

/-- Register ranges in the lowest free entries of the engine part; none when fewer are free than needed (spec/10 R211). -/
def State.haspAdd (s : State) (core : Nat) (xs : List Hasp) : Option (List Nat × State) :=
  let free := (s.core core).haspFree
  if free.length < xs.length then none else
  let ids := free.take xs.length
  some (ids, s.modCore core fun c => { c with hasp := (ids.zip xs).foldl (fun m e => m.set e.1 e.2) c.hasp })

def State.haspDrop (s : State) (core : Nat) (ids : List Nat) : State :=
  s.modCore core fun c => { c with hasp := ids.foldl SMap.erase c.hasp }

/-- A global range as an entry: whole 128-byte lines, rounded outward (spec/10 R210). -/
def haspRange (wlock : Bool) (owner tag asid lo n : Nat) : Hasp :=
  { wlock := wlock, scratch := false, owner := owner, tag := tag, asid := asid
    first := lo / 128 * 128, last := (lo + n - 1) / 128 * 128 + 127 }

/-- A scratchpad range as an entry. -/
def haspScrRange (wlock : Bool) (owner tag asid team lo n : Nat) : Hasp :=
  { haspRange wlock owner tag asid lo n with scratch := true, team := team }

/-! ## Lane checks and fates (R187) -/

/-- A lane's first failing check. -/
structure LaneTrap where
  cause : Cause
  detail : Nat := 0
  info : Nat := 0
  addr : Nat
  deriving DecidableEq, Repr

/-- The record of an instruction whose lanes failed: the lowest cause, XLATE only when it is the only one (spec/03 R56). -/
def pickTrap (ts : List (Nat × LaneTrap)) : Option RecInfo :=
  let others := ts.filter fun e => e.2.cause != .xlate
  let pool := if others.isEmpty then ts else others
  match pool.foldl (fun (b : Option LaneTrap) e =>
      match b with
      | none => some e.2
      | some x => if e.2.cause.code < x.cause.code then some e.2 else b) none with
  | none => none
  | some x =>
    some { cause := x.cause, detail := x.detail, info := x.info, addr := x.addr
           lanes := (pool.foldl (fun m e => if e.2.cause == x.cause then m ||| (2 ^ e.1) else m) 0) }

/-- Did only translation fail? -/
def onlyXlate (ts : List (Nat × LaneTrap)) : Bool := ts.all fun e => e.2.cause == .xlate

/-- Checks 1 to 4 of a global lane; `aper` accepts the sync aperture. A mapped host page takes only the atomics of R199
(`hostOk`). -/
def State.checkGlobal (s : State) (h : Here) (va n : Nat) (k : AccKind) (hostOk : Bool) : Option LaneTrap :=
  let a := va % 2 ^ 56
  if va % n != 0 then some { cause := .align, addr := a }
  else if 2 ^ 56 ≤ va || inAperture va then some { cause := .prot, addr := a }
  else match s.xl h.core h.cx va k with
  | .fault d l => some { cause := .xlate, detail := d, info := l + (if k == .read then 0 else 4), addr := a }
  | .prot i => some { cause := .prot, info := i, addr := a }
  | .ok _ mt => if mt == 2 && !hostOk then some { cause := .prot, info := 1, addr := a } else none

/-- Every check of a global lane: the Hasp table comes last. -/
def State.laneGlobal (s : State) (h : Here) (va n : Nat) (k : AccKind) (hostOk : Bool := true) : Option LaneTrap :=
  match s.checkGlobal h va n k hostOk with
  | some t => some t
  | none =>
    (s.haspGlobal h.core h.cx.asid va n (k != .read)).map fun e => { cause := .hasp, info := haspInfo e, addr := va }

/-- Checks of a scratchpad lane of a team: ALIGN, SPAD, HASP. A `quiet` access does not meet the Hasp table, nor does a load of
an absent line. -/
def State.laneScr (s : State) (tid off n : Nat) (write : Bool) (spadInfo : Nat) (quiet : Bool := false) : Option LaneTrap :=
  match s.teams.get? tid with
  | none => none
  | some t =>
    if off % n != 0 then some { cause := .align, addr := off }
    else if t.fixedLen < off + n then some { cause := .spad, info := spadInfo, addr := off }
    else if quiet || (!write && t.absent.has (off / 128)) then none
    else (s.haspScr tid off n write).map fun e => { cause := .hasp, info := haspInfo e, addr := off }

/-- Collect the failing lanes of a mask. -/
def failing (act : W32) (f : Nat → Option LaneTrap) : List (Nat × LaneTrap) :=
  (lanesOf act).filterMap fun l => (f l).map fun t => (l, t)

/-! ## Element access -/

/-- Read an element that lies in one page: its translation succeeds. -/
def State.vload (s : State) (core : Nat) (cx : Ctx) (va n : Nat) : Nat :=
  match s.xl core cx va .read with
  | .ok pa mt => s.physRead mt pa n
  | _ => 0

/-- Does an element of a page hold poison? -/
def State.vPoison (s : State) (core : Nat) (cx : Ctx) (va n : Nat) (k : AccKind) : Bool :=
  match s.xl core cx va k with
  | .ok pa mt => s.poisoned mt pa n
  | _ => false

/-- The physical address of the element's first poisoned word, which the error log names (spec/26 R428). -/
def State.poisonAt (s : State) (core : Nat) (cx : Ctx) (va n : Nat) (k : AccKind) : Option Nat :=
  match s.xl core cx va k with
  | .ok pa mt => s.poisonWord mt pa n
  | _ => none

/-- An instruction that would consume a poisoned word of the elements `l`, each an address and a size, freezes its group. -/
def State.eatPoison (s : State) (h : Here) (k : AccKind) (l : List (Nat × Nat)) : SlotResult :=
  .freeze .uncorr none ((l.findSome? fun e => s.poisonAt h.core h.cx e.1 e.2 k).getD 0)

/-- Would a write of the element consume poison (spec/26 R417)? -/
def State.vPartPoison (s : State) (core : Nat) (cx : Ctx) (va n : Nat) : Bool :=
  match s.xl core cx va .write with
  | .ok pa mt => s.partPoisoned mt pa n
  | _ => false

def Team.scrGet (t : Team) (off n : Nat) : Nat := readLE t.scr off n

/-- A scratchpad write clears the poison of the 32-bit words it replaces whole (spec/26 R417). -/
def Team.scrPut (t : Team) (off n x : Nat) : Team :=
  { t with
    scr := writeLE t.scr off n x
    scrPoison := (List.range (n / 4 + 1)).foldl (fun p i =>
      let w := off / 4 + i
      if off ≤ 4 * w && 4 * w + 4 ≤ off + n then p.setD false w false else p) t.scrPoison }

/-- Does any poisoned word of the scratchpad meet the range? -/
def Team.scrBad (t : Team) (off n : Nat) : Bool :=
  (List.range (n / 4 + 2)).any fun i => decide (4 * (off / 4 + i) < off + n) && t.scrPoison.getD false (off / 4 + i)

/-- Is every line the range touches present (spec/08 R168)? -/
def Team.present (t : Team) (off n : Nat) : Bool := !(t.absent.has (off / 128) || t.absent.has ((off + n - 1) / 128))

/-! ## The cluster window (R191) -/

/-- The member of a cluster that holds a slot. -/
def State.memberAt (s : State) (launch : Nat) (cluster : W32) (slot : Nat) : Option Nat :=
  (s.teams.find? fun e => e.2.launch == launch && e.2.cluster == cluster && e.2.member && e.2.coreslot == slot).map (·.1)

/-- The team that a window slot reaches, or the DETAIL of WINDOW. -/
def State.windowTeam (s : State) (h : Here) (slot : Nat) : Except Nat Nat :=
  if !h.t.member then .error 0
  else if h.t.nslots ≤ slot then .error 1
  else if slot == h.t.coreslot then .ok h.tid
  else match s.memberAt h.t.launch h.t.cluster slot with
  | some t => .ok t
  | none => .error 2

/-- The Hinges between two dies: 0 joins dies 0 and 1, 1 dies 2 and 3, 2 dies 0 and 2, 3 dies 1 and 3 (spec/01 R7). The spec names
no route between diagonal dies: here x is crossed first (log 42). -/
def hingesBetween (a b : Nat) : List Nat :=
  (if a % 2 == b % 2 then [] else [if a / 2 == 0 then 0 else 1]) ++ (if a / 2 == b / 2 then [] else [if b % 2 == 0 then 2 else 3])

/-- A window read that crosses Hinges leaves a line copy at each of them (spec/10 R227). -/
def State.keepCopies (s : State) (core : Nat) (tid : Nat) (lines : List Nat) : State :=
  match s.teams.get? tid with
  | none => s
  | some t =>
    let add := (hingesBetween (dieOf core) (dieOf t.core)).flatMap fun k => lines.map fun l => (k, tid, l)
    { s with hinges := s.hinges ++ add.filter fun e => !s.hinges.contains e }

/-- A write to a line is performed after every Hinge has dropped its copy of it (spec/10 R227). -/
def State.dropCopies (s : State) (tid : Nat) (lines : List Nat) : State :=
  if s.hinges.isEmpty then s else { s with hinges := s.hinges.filter fun e => !(e.2.1 == tid && lines.contains e.2.2) }

/-- Checks of a window lane: ALIGN, WINDOW, SPAD, HASP. -/
def State.laneWin (s : State) (h : Here) (slot off n : Nat) (write : Bool) (quiet : Bool := false) : Option LaneTrap :=
  if off % n != 0 then some { cause := .align, addr := off }
  else match s.windowTeam h slot with
  | .error d => some { cause := .window, detail := d, info := slot, addr := off }
  | .ok t => s.laneScr t off n write slot (quiet && t == h.tid)

/-! ## The side log (spec/08 R181) -/

/-- Has the group entries in its core's side log? -/
def State.logBusy (s : State) (h : Here) : Bool := (s.core h.core).side.any fun e => e.group == h.gid

/-- Has the group loads that wait at a peer (spec/08 R168)? -/
def Here.peerBusy (h : Here) : Bool := h.g.pend.any fun e => e.2.peer.isSome

/-- Has the group accesses that later loads, releases and engine commands wait for? A load that waits at a peer has still to be
performed: everything that R173, R171, R177 and R180 may order after it waits for it, and so do all later accesses here. -/
def State.sideBusy (s : State) (h : Here) : Bool := s.logBusy h || h.peerBusy

/-- The same of a group on a core. -/
def State.groupBusy (s : State) (core gid : Nat) : Bool :=
  (s.core core).side.any (fun e => e.group == gid) || (s.groups.get? gid).any fun g => g.pend.any fun e => e.2.peer.isSome

/-- The 128-byte lines of a list of addresses, each once, in order. -/
def linesOf (as : List Nat) : List Nat := (as.map (· / 128)).dedup

/-- Add entries, one per line touched; `mk` makes the operation of the lanes of one line. None when too few are free; no lane,
no entry. -/
def State.sideAdd (s : State) (h : Here) (lanes : List (Nat × Nat)) (info : Nat) (mk : List Nat → SideOp)
    (mask : W32 → W32 := id) : Option State :=
  let ls := linesOf (lanes.map (·.2))
  if lanes.isEmpty then some s
  else if 64 < (s.core h.core).side.length + ls.length then none else
  some ((s.countEv h.core 11 ls.length).modCore h.core fun c =>
    { c with side := c.side ++ ls.map fun ln =>
        let mine := lanes.filter fun e => e.2 / 128 == ln
        { group := h.gid, frag := h.fid, op := mk (mine.map (·.1))
          report := { cause := .xlate, detail := 0, line := h.f.line, slot := h.f.slot, active := h.f.mask, info := 2 ^ 63 + info
                      paired := h.f.paired
                      lanes := mask (maskOf fun l => mine.any fun e => e.1 == l)
                      addr := (mine.head?.map (·.2)).getD 0 } } })

/-- Post an imprecise record of a group. -/
def State.postReport (s : State) (gid fid : Nat) (r : Report) : State :=
  match s.groups.get? gid with
  | none => s
  | some g =>
  match s.teams.get? g.team with
  | none => s
  | some t =>
    let (pc, seq) := s.launchName t.launch
    s.post t.ctx { cause := r.cause, detail := r.detail, slot := r.slot.val, paired := r.paired, line := r.line.toNat, lanes := r.lanes.toNat
                   active := r.active.toNat, addr := r.addr, namePc := pc, nameSeq := seq, teamId := t.num.toNat
                   groupId := g.idx, frag := fragEntry fid, info := r.info }

/-- A store that cannot be delivered is discarded, and its group is told at its next line boundary (spec/24 R398): the first
such store is kept until REMOTE_STORE_FAIL. -/
def State.noteLost (s : State) (gid fid : Nat) (r : Report) : State :=
  s.modGroup gid fun g =>
    if g.lost.isSome then g
    else { g with lost := some (fid, { r with cause := .prot, detail := 0, info := 2 ^ 5 + 2 ^ 63, addr := r.addr % 2 ^ 56 }) }

/-- The lanes of a store or RED that cannot be delivered; `mask` gives the record's LANES. -/
def State.noteLostLanes (s : State) (h : Here) (ls : List Nat) (ea : Nat → Nat) (mask : W32 → W32 := id) : State :=
  let bad := ls.filter fun l => s.storeLost h.core h.cx (ea l)
  match bad with
  | [] => s
  | l :: _ => s.noteLost h.gid h.fid
      { cause := .prot, detail := 0, lanes := mask (maskOf bad.contains), active := h.f.mask, line := h.f.line, slot := h.f.slot
        addr := ea l, info := 0, paired := h.f.paired }

/-! ## Atomic operations (R195, R196) -/

/-- The canonical NaN in place of any NaN. -/
def canonF32 (x : Nat) : Nat := if (Fmt.f32.dec false x).isNan then Fmt.f32.nan else x

/-- The new value of a location of `n` bytes, for the operand v and, for cas, the new value v2. -/
def atomNew (op : AtomOp) (kind : AtomKind) (n old v v2 : Nat) : Nat :=
  let lt (a b : Nat) : Bool := if kind == .signed then decide (sextI (8 * n) a < sextI (8 * n) b) else decide (a < b)
  if kind == .float then
    match op with
    | .add => (Fmt.f32.dot .rne false false [] [Fmt.f32.dec false old, Fmt.f32.dec false v]).1
    | .min => Fmt.f32.minmax false false old v
    | .max => Fmt.f32.minmax false true old v
    | .cas => if old == v then canonF32 v2 else old
    | _ => canonF32 v
  else
    match op with
    | .add => (old + v) % 2 ^ (8 * n)
    | .min => if lt v old then v else old
    | .max => if lt old v then v else old
    | .and => old &&& v
    | .or => old ||| v
    | .xor => old ^^^ v
    | .exch => v
    | .cas => if old == v then v2 else old

/-- Does the operation write: not when a cas fails. -/
def atomWrites (op : AtomOp) (old v : Nat) : Bool := op != .cas || old == v

/-- What the operation returns: a float NaN as the canonical NaN. -/
def atomOld (kind : AtomKind) (old : Nat) : Nat := if kind == .float then canonF32 old else old

end Sys2Proof.Machine
end

