-- ==== Sys2Proof/Machine/Memory.lean ====
section
/-! DEFINITION. Memory: loads and stores to global memory, scratchpad and the cluster window, prefetch and cache control, the
side log's performance, and the landing of long-latency writes (spec/08 R163 to R182, spec/09 R188 to R193). -/

namespace Sys2Proof.Machine

/-! ## Global (R188, R189) -/

/-- A load at the addresses `at_`, once its checks have passed; lane `l` of `ls` receives the element at `ea l`. ACC is set
before the access performs (spec/23 R382). -/
def State.performLoad (s : State) (h : Here) (w : MemW) (ls at_ : List Nat) (ea : Nat → Nat) : State :=
  let s := at_.foldl (fun s a => s.touch h.core h.cx a false w.sub.val) s
  s.deliver h w.dst w.width (ls.map fun l => (l, s.vload h.core h.cx (ea l) w.width.bytes))

/-- LD: one access per active lane. -/
def ldSlot (w : MemW) (h : Here) (s : State) : SlotResult :=
  if s.sideBusy h then .stall else
  let act := h.active w.g w.gn
  let n := w.width.bytes
  match pickTrap (failing act fun l => s.laneGlobal h (h.ea w l) n .read) with
  | some r => .trap r
  | none =>
    let ls := lanesOf act
    if ls.any fun l => s.vPoison h.core h.cx (h.ea w l) n .read then s.eatPoison h .read (ls.map fun l => (h.ea w l, n))
    else .done (s.performLoad h w ls (ls.map (h.ea w)) (h.ea w))

def execLd (w : MemW) (s : State) : Host.Outcome State Fault Refusal := runSlot (.ld w) (ldSlot w) s

/-- LDSC: one access; a vector destination receives it in every active lane. -/
def ldscSlot (w : MemW) (h : Here) (s : State) : SlotResult :=
  if s.sideBusy h then .stall else
  let ls := if w.dst.isS then [0] else lanesOf (h.active w.g w.gn)
  if ls.isEmpty then .done s else
  let n := w.width.bytes
  let va := h.ea w 0
  match pickTrap (((s.laneGlobal h va n .read).map fun t => (0, t)).toList) with
  | some r => .trap { r with lanes := h.f.mask.toNat }
  | none =>
    if s.vPoison h.core h.cx va n .read then s.eatPoison h .read [(va, n)]
    else .done (s.performLoad h w ls [va] fun _ => va)

def execLdsc (w : MemW) (s : State) : Host.Outcome State Fault Refusal := runSlot (.ldsc w) (ldscSlot w) s

/-- The side-log operation of a store's lanes. -/
def storeOp (h : Here) (o : Opnd) (n : Nat) (ea : Nat → Nat) (ls : List Nat) : SideOp :=
  .store (ls.flatMap fun l => (List.range n).map fun i => (ea l + i, BitVec.ofNat 8 (h.data o n l / 256 ^ i)))

/-- A store of the lanes `ls`: those that translate perform at once, the others enter the side log, and behind entries of
the group all of them do (spec/08 R181, R187). -/
def State.storeLanes (s : State) (h : Here) (w : MemW) (ls : List Nat) (ea : Nat → Nat) (mask : W32 → W32) : SlotResult :=
  let n := w.width.bytes
  if (w.order == .rel && s.sideBusy h) || h.peerBusy then .stall else
  let bad := failing (maskOf fun l => ls.contains l) fun l => s.laneGlobal h (ea l) n .write
  if !onlyXlate bad then
    match pickTrap bad with
    | some r => .trap { r with lanes := (mask (BitVec.ofNat 32 r.lanes)).toNat }
    | none => .done s
  else
    let late := if s.logBusy h then ls else bad.map (·.1)
    let now := ls.filter fun l => !late.contains l
    if now.any fun l => s.vPartPoison h.core h.cx (ea l) n then s.eatPoison h .write (now.map fun l => (ea l, n)) else
    match s.sideAdd h (late.map fun l => (l, ea l)) 0 (storeOp h w.c n ea) mask with
    | none => .stall
    | some s => .done ((now.foldl (fun s l => s.vstore h.core h.cx (ea l) n (h.data w.c n l) w.sub.val) s).noteLostLanes h now ea mask)

def execSt (w : MemW) (s : State) : Host.Outcome State Fault Refusal :=
  runSlot (.st w) (fun h s => s.storeLanes h w (lanesOf (h.active w.g w.gn)) (h.ea w) id) s

/-- STSC: one store. -/
def execStsc (w : MemW) (s : State) : Host.Outcome State Fault Refusal :=
  runSlot (.stsc w) (fun h s => s.storeLanes h w [0] (h.ea w) fun _ => h.f.mask) s

/-! ## Scratchpad and window (R190, R191) -/

/-- A load of a team's scratchpad: it parks on an absent line of its own team; a peer's absent line is waited for at the
peer. -/
def State.scrLoad (s : State) (h : Here) (w : MemW) (tid : Nat) (act : W32) (off : Nat → Nat) : SlotResult :=
  match s.teams.get? tid with
  | none => .done s
  | some t =>
    let n := w.width.bytes
    let ls := lanesOf act
    if ls.any fun l => !t.present (off l) n then
      if tid == h.tid then .park .absent s
      else match w.dst with
        | .v r => .done (s.addPend h.gid
            { frag := h.fid, regs := dataRegs w.width w.dst, ready := false, load := true
              peer := some { team := tid, width := n, lanes := ls.map fun l => (l, off l), dst := r.val } })
        | _ => .done s
    else if ls.any fun l => t.scrBad (off l) n then .freeze .uncorr
    else .done ((s.keepCopies h.core tid (linesOf (ls.map off))).deliver h w.dst w.width (ls.map fun l => (l, t.scrGet (off l) n)))

/-- A store into a team's scratchpad; one narrower than a bank word reads the word first (spec/08 R167). Behind entries of the
group in the side log it enters the log (R181). -/
def State.scrStore (s : State) (h : Here) (w : MemW) (tid : Nat) (act : W32) (off : Nat → Nat) : SlotResult :=
  match s.teams.get? tid with
  | none => .done s
  | some t =>
    let n := w.width.bytes
    let ls := lanesOf act
    if s.logBusy h then
      match s.sideAdd h (ls.map fun l => (l, off l)) 0 fun ls =>
          .scr tid (ls.flatMap fun l => (List.range n).map fun i => (off l + i, BitVec.ofNat 8 (h.data w.c n l / 256 ^ i))) with
      | none => .stall
      | some s => .done s
    else if n < 4 && ls.any fun l => t.scrBad (off l) n then .freeze .uncorr
    else .done ((s.dropCopies tid (linesOf (ls.map off))).putTeam tid (ls.foldl (fun t l => t.scrPut (off l) n (h.data w.c n l)) t))

/-- Does an access of the team's own scratchpad touch an absent line, or has it waited for one? Then it never traps on an
engine's lock (spec/08 R168). -/
def Here.quiet (h : Here) (ls : List Nat) (off : Nat → Nat) (n : Nat) : Bool :=
  h.f.woken || ls.any fun l => !h.t.present (off l) n

def ldsSlot (w : MemW) (h : Here) (s : State) : SlotResult :=
  if s.sideBusy h then .stall else
  let act := h.active w.g w.gn
  let q := h.quiet (lanesOf act) (h.off w) w.width.bytes
  match pickTrap (failing act fun l => s.laneScr h.tid (h.off w l) w.width.bytes false 0 q) with
  | some r => .trap r
  | none => s.scrLoad h w h.tid act (h.off w)

def execLds (w : MemW) (s : State) : Host.Outcome State Fault Refusal := runSlot (.lds w) (ldsSlot w) s

def stsSlot (w : MemW) (h : Here) (s : State) : SlotResult :=
  if (w.order == .rel && s.sideBusy h) || h.peerBusy then .stall else
  let act := h.active w.g w.gn
  match pickTrap (failing act fun l => s.laneScr h.tid (h.off w l) w.width.bytes true 0) with
  | some r => .trap r
  | none => s.scrStore h w h.tid act (h.off w)

def execSts (w : MemW) (s : State) : Host.Outcome State Fault Refusal := runSlot (.sts w) (stsSlot w) s

def ldcSlot (w : MemW) (h : Here) (s : State) : SlotResult :=
  if s.sideBusy h then .stall else
  let act := h.active w.g w.gn
  let slot := (h.srcS w.a).toNat
  let q := h.quiet (lanesOf act) (h.winOff w) w.width.bytes
  match pickTrap (failing act fun l => s.laneWin h slot (h.winOff w l) w.width.bytes false q) with
  | some r => .trap r
  | none =>
    match s.windowTeam h slot with
    | .ok t => s.scrLoad h w t act (h.winOff w)
    | .error _ => .done s

def execLdc (w : MemW) (s : State) : Host.Outcome State Fault Refusal := runSlot (.ldc w) (ldcSlot w) s

def stcSlot (w : MemW) (h : Here) (s : State) : SlotResult :=
  if (w.order == .rel && s.sideBusy h) || h.peerBusy then .stall else
  let act := h.active w.g w.gn
  let slot := (h.srcS w.a).toNat
  match pickTrap (failing act fun l => s.laneWin h slot (h.winOff w l) w.width.bytes true) with
  | some r => .trap r
  | none =>
    match s.windowTeam h slot with
    | .ok t => s.scrStore h w t act (h.winOff w)
    | .error _ => .done s

def execStc (w : MemW) (s : State) : Host.Outcome State Fault Refusal := runSlot (.stc w) (stcSlot w) s

/-! ## Prefetch and cache control (R192, R193) -/

/-- A lane of a PREF: its line comes into the caches of its hint. A lane outside the address space, in the aperture, without a
readable translation or locked is dropped, and nothing else changes: no accessed bit is set (R192). The width code is not read, so no
address is misaligned (log 51). -/
def State.prefLane (s : State) (h : Here) (w : MemW) (va : Nat) : State :=
  if 2 ^ 56 ≤ va || inAperture va || (s.haspGlobal h.core h.cx.asid va 1 false).isSome then s
  else match s.xl h.core h.cx va .read with
  | .ok pa mt => s.place h.core w.sub.val mt pa
  | _ => s

def execPref (w : MemW) (s : State) : Host.Outcome State Fault Refusal :=
  runSlot (.pref w) (fun h s => .done ((lanesOf (h.active w.g w.gn)).foldl (fun s l => s.prefLane h w (h.ea w l)) s)) s

/-- Does the range [a, a + n) of a context meet a physical line of type-0 memory? Pages without a translation are skipped. -/
def State.meetsLine (s : State) (h : Here) (a n line : Nat) : Bool :=
  (List.range ((a + n - 1) / 2 ^ 18 + 1 - a / 2 ^ 18)).any fun i =>
    let page := (a / 2 ^ 18 + i) * 2 ^ 18
    match s.leafFor h.core h.cx page with
    | .error _ => false
    | .ok e =>
      let base := bitsN e.pte.toNat 51 18 * 2 ^ 18 + (page - e.va)
      let lo := base + (a - page)
      let hi := base + min (2 ^ 18) (a + n - page)
      bitsN e.pte.toNat 7 6 == 0 && decide (128 * line < hi) && decide (lo < 128 * line + 128)

/-- CCTL: `clean` writes dirty LLC lines of the range to HBM, and `inval` drops the issuing core's L1 lines of it (R193). Caches are
coherent, so no value changes; a range that meets the sync aperture, or lies beyond 56 bits (spec/08 R164), traps. It counts as a
store. -/
def cctlSlot (clean inval : Bool) (w : EngW) (h : Here) (s : State) : SlotResult :=
  let a := (h.srcS w.a).toNat
  let n := (h.srcS w.b).toNat
  if h.peerBusy then .stall
  else if n == 0 then .done s
  else if apertureBase < a + n then
    .trap { cause := .prot, lanes := h.f.mask.toNat, addr := max a apertureBase % 2 ^ 56 }
  else
    let s := if clean then { s with llc := s.llc.mapV fun _ l => l.map fun e => (e.1, e.2 && !s.meetsLine h a n e.1) } else s
    .done (if inval then s.modCore h.core fun c => { c with l1 := c.l1.filter fun ln => !s.meetsLine h a n ln } else s)

def execCctlClean (w : EngW) (s : State) : Host.Outcome State Fault Refusal := runSlot (.cctlClean w) (cctlSlot true false w) s
def execCctlInval (w : EngW) (s : State) : Host.Outcome State Fault Refusal := runSlot (.cctlInval w) (cctlSlot false true w) s
def execCctlCinv (w : EngW) (s : State) : Host.Outcome State Fault Refusal := runSlot (.cctlCinv w) (cctlSlot true true w) s

/-! ## Long-latency writes land (spec/03 R35, spec/07 R144) -/

/-- Wake the blocked fragments of a group: their registers are looked at again. -/
def State.unblock (s : State) (gid : Nat) : State :=
  (s.fragsOf gid).foldl (fun s k => s.modFrag k fun f => if f.st == .blocked then { f with st := .ready } else f) s

/-- Does a fragment's line, from its slot on, wait for one of the registers? -/
def State.waitsFor (s : State) (gid : Nat) (regs : List Reg) (f : Frag) : Bool :=
  match s.groups.get? gid with
  | some g => (lineRegs f.buf g f.mask f.slot.val).any fun e => regs.contains e.1
  | none => false

/-- Write an outstanding write's registers. -/
def Group.landVals (g : Group) (p : Pend) : Group :=
  let g := { g with
    v := p.vs.foldl (fun m e => m.setD 0 e.1 e.2) g.v, s := p.ss.foldl (fun m e => m.setD 0 e.1 e.2) g.s
    badV := p.vs.foldl (fun m e => m.erase e.1) g.badV
    badR := g.badR.filter fun r => !p.ss.any fun e => r == .s e.1 }
  let g := p.ks.foldl (fun g e => g.setK e.1 e.2) g
  p.cs.foldl (fun g e => g.setC e.1 e.2) g

/-- Perform the reads of a window load whose lines are present at the peer; Hinges keep copies of the lines (spec/10 R227). -/
def State.peerRead (s : State) (gid id : Nat) (p : Pend) : State :=
  match p.peer with
  | none => s
  | some r =>
    match s.teams.get? r.team with
    | none => s
    | some t =>
      if !r.lanes.all fun e => t.present e.2 r.width then s else
      let p := { p with
        peer := none, ready := true, bad := r.lanes.any fun e => t.scrBad e.2 r.width
        vs := r.lanes.flatMap fun (e : Nat × Nat) => laneVals r.dst r.width e.1 (t.scrGet e.2 r.width) }
      let s : State := match (s.groups.get? gid).bind fun (g : Group) => s.teams.get? g.team with
        | some (mine : Team) => s.keepCopies mine.core r.team (linesOf (r.lanes.map (·.2)))
        | none => s
      s.modGroup gid fun g => { g with pend := g.pend.set id p }

/-- Window loads of a team's scratchpad that were issued before the team goes complete normally (spec/07 R153). -/
def State.settlePeers (s : State) (tid : Nat) : State :=
  s.groups.foldl (fun s (g : Nat × Group) => g.2.pend.foldl (fun s (e : Nat × Pend) =>
    if e.2.peer.any fun r => r.team == tid then s.peerRead g.1 e.1 e.2 else s) s) s

/-- LONG_LATENCY_WRITE_LAND: the registers are written at once, and blocked fragments are looked at again. Values that carry poison
are consumed: the group freezes (spec/26 R417). -/
def execLongLatencyWriteLand (gid id : Nat) (s : State) : Host.Outcome State Fault Refusal :=
  match (s.groups.get? gid).bind fun g => g.pend.get? id with
  | none => .next s
  | some p =>
    let s := s.peerRead gid id p
    match (s.groups.get? gid).bind fun g => g.pend.get? id with
    | none => .next s
    | some p =>
      if !p.ready || p.parts != 0 then .next s
      else if p.bad then .next ((s.modGroup gid fun g => { g with pend := g.pend.erase id }).freezeGroup gid 3)
      else
        let s := s.modGroup gid fun g => { g.landVals p with pend := g.pend.erase id }
        let s : State := match p.report with
          | some (r : Report) =>
            let s := s.postReport gid p.frag r
            if r.cause == .fold || r.cause == .trav then s.stopIssuer p.frag p.uid (s.waitsFor gid p.regs) else s.stopGroup gid
          | none => s
        .next (s.unblock gid)

end Sys2Proof.Machine
end

