-- ==== Sys2Proof/Machine/Atomic.lean ====
section
/-! DEFINITION. Atomic: atomics on global memory, scratchpad and cell objects (spec/09 R194 to R199), and the shared view of
synchronisation objects (R200). -/

namespace Sys2Proof.Machine

/-! ## Objects (R200) -/

/-- The object's key in `State.objs`: die and number of an aperture address. -/
def objKey (va : Nat) : Nat := bitsN va 39 38 * 2 ^ 32 + bitsN va 37 6

/-- Does the aperture hold an object at the address (spec/08 R165, spec/09 R200)? -/
def State.objExists (s : State) (va : Nat) : Bool :=
  decide (bitsN va 39 38 < s.dies) && decide (bitsN va 37 6 < s.objCount.getD 131072 (bitsN va 39 38))

/-- Word `i` of a Fold object (spec/19 R338). -/
def Fold.word (f : Fold) (i : Nat) : Nat :=
  let base (j : Nat) : Nat := ((f.gens[j]?).map fun g => g.base.toNat).getD 0
  let pins (j : Nat) : Nat := ((f.gens[j]?).map fun g => g.pins).getD 0 % 2 ^ 16
  match i with
  | 0 => 5 + (if f.beta then 2 ^ 8 else 0) + (if f.open_ then 2 ^ 9 else 0) + f.gens.length * 2 ^ 10 +
      f.gen % 2 ^ 16 * 2 ^ 16 + f.hwm % 2 ^ 32 * 2 ^ 32
  | 1 => f.arena % 2 ^ 56
  | 2 => f.cap % 2 ^ 32 + f.next % 2 ^ 32 * 2 ^ 32
  | 3 => f.nl.toNat + f.ne.toNat * 2 ^ 32
  | 4 => f.radius.toNat + f.cseq.toNat * 2 ^ 32
  | 5 => base 0 + base 1 * 2 ^ 32
  | 6 => base 2 + base 3 * 2 ^ 32
  | _ => pins 0 + pins 1 * 2 ^ 16 + pins 2 * 2 ^ 32 + pins 3 * 2 ^ 48

/-- The task-store entry of a launch (spec/18 R322, R334). -/
def State.taskEntry (s : State) (l : Nat) : Option Nat :=
  ((s.launches.get? l).bind fun x => s.ctxs.get? x.ctx).bind fun c => (c.tasks.find? fun e => e.2 == l).map (·.1)

/-- Word `i` of an object, as MWAIT and the debug core read it (R200, spec/18 R322). -/
def State.objWord (s : State) (key i : Nat) : Nat :=
  match s.objs.get? key with
  | none => 0
  | some o =>
    match o.kind with
    | .bar gen expect arrived =>
      match i with
      | 0 => 1
      | 1 => gen.toNat + expect.toNat * 2 ^ 32
      | 2 => arrived.toNat + o.waiters.length % 2 ^ 32 * 2 ^ 32
      | _ => 0
    | .sem v =>
      match i with
      | 0 => 2
      | 1 => v.toNat
      | 2 => o.waiters.length % 2 ^ 32 * 2 ^ 32
      | _ => 0
    | .counter count armed task sigs _ =>
      match i with
      | 0 => 3
      | 1 => wrapN 64 count
      | 2 => if armed then 1 else 0
      | 3 => (match task.bind s.taskEntry with | some t => t + 1 | none => 0) % 2 ^ 56
      | 4 => sigs.toNat
      | _ => 0
    | .cell d => if i == 0 then 4 else (d.getD 0 i).toNat
    | .fold => match s.folds.get? key with
      | some f => f.word i
      | none => 0

/-! ## Where an atomic acts -/

/-- Checks of an atomic's lane in global memory or, for ATOM alone (spec/08 R163), a cell object (R187, R199). -/
def State.laneAtomic (s : State) (h : Here) (va n : Nat) (cell hostOk : Bool) : Option LaneTrap :=
  let a := va % 2 ^ 56
  if cell && decide (va < 2 ^ 56) && inAperture va && va % n == 0 then
    if !s.objExists va then some { cause := .prot, addr := a }
    else match (s.objs.get? (objKey va)).map Obj.kind with
    | some (.cell _) => if va % 64 < 8 then some { cause := .syncobj, detail := 4, addr := a } else none
    | _ => some { cause := .syncobj, detail := 4, addr := a }
  else s.laneGlobal h va n .atomic hostOk

/-- Read the location of an atomic. -/
def State.atomRead (s : State) (core : Nat) (cx : Ctx) (va n : Nat) : Nat :=
  if inAperture va then s.objWord (objKey va) (va % 64 / 8) / 2 ^ (8 * (va % 8)) % 2 ^ (8 * n)
  else match s.xl core cx va .atomic with
  | .ok pa mt => s.physRead mt pa n
  | _ => 0

/-- Write it. -/
def State.atomWrite (s : State) (core : Nat) (cx : Ctx) (va n x : Nat) : State :=
  if inAperture va then
    let i := va % 64 / 8
    let sh := 2 ^ (8 * (va % 8))
    let old := s.objWord (objKey va) i
    let new := old - old / sh % 2 ^ (8 * n) * sh + x % 2 ^ (8 * n) * sh
    { s with objs := s.objs.modify (objKey va) fun o =>
        match o.kind with
        | .cell d => { o with kind := .cell (d.setD 0 i (BitVec.ofNat 64 new)) }
        | _ => o }
  else match s.xl core cx va .atomic with
  | .ok pa mt => s.physWrite mt pa n x
  | _ => s

/-- Does the atomic consume poison? -/
def State.atomPoison (s : State) (core : Nat) (cx : Ctx) (va n : Nat) : Bool :=
  if inAperture va then ((s.objs.get? (objKey va)).map (·.poisoned)).getD false
  else s.vPoison core cx va n .atomic

/-- An atomic that would consume poison freezes its group: the array is the synchronisation engine's for a cell. -/
def State.atomEat (s : State) (h : Here) (l : List (Nat × Nat)) : SlotResult :=
  match l.find? fun e => s.atomPoison h.core h.cx e.1 e.2 with
  | some e => if inAperture e.1 then .freeze .uncorr (some 9) else s.eatPoison h .atomic [e]
  | none => .freeze .uncorr

/-! ## What an atomic computes: the new value, if one is written, and the value returned -/

/-- ATOM, ATOMS and RED. -/
def atomF (w : MemW) (x : AtomArgs) (old : Nat) : Option Nat × Nat :=
  (if atomWrites w.opc old x.v then some (atomNew w.opc w.kind w.width.bytes old x.v x.v2) else none, atomOld w.kind old)

def binsF (n : Nat) (x : AtomArgs) (old : Nat) : Option Nat × Nat :=
  (some ((old &&& (2 ^ (8 * n) - 1 - x.v2)) ||| (x.v &&& x.v2)), old)

def bffcsF (old : Nat) : Option Nat × Nat :=
  match (List.range 64).find? fun i => !old.testBit i with
  | some i => (some (old ||| 2 ^ i), i)
  | none => (none, 2 ^ 64 - 1)

def bplsF (x : AtomArgs) (old : Nat) : Option Nat × Nat :=
  let new := old ||| x.v
  (if popCount new 64 ≤ x.v2 % 128 then some new else none, old)

/-- The function of an atomic's major. -/
def atomEval (m : Nat) (w : MemW) (x : AtomArgs) (old : Nat) : Option Nat × Nat :=
  if m == 0xA2 then binsF w.width.bytes x old
  else if m == 0xA3 then bffcsF old
  else if m == 0xA4 then bplsF x old
  else atomF w x old

/-- The operand registers after the first group (R195). -/
def Here.second (h : Here) (o : Opnd) (n l : Nat) : Nat :=
  match o with
  | .v r => h.data (.v (Fin.ofNat 256 (r.val + (n + 3) / 4))) n l
  | .s r => h.data (.s (Fin.ofNat 64 (r.val + 1))) n l
  | _ => 0

/-- A lane's operands. -/
def Here.atomArgs (h : Here) (w : MemW) (l : Nat) : AtomArgs :=
  { v := h.data w.c w.width.bytes l, v2 := h.second w.c w.width.bytes l }

/-- Apply an atomic to one location of memory, or (ATOMS) of a team's scratchpad: the value returned. ACC and DIRTY are set before
the access performs (spec/23 R382). -/
def State.atomApply (s : State) (core : Nat) (cx : Ctx) (tid m : Nat) (w : MemW) (a : Nat) (x : AtomArgs) : Nat × State :=
  let n := w.width.bytes
  if m == 0xA1 then
    match s.teams.get? tid with
    | none => (0, s)
    | some t =>
      let r := atomEval m w x (t.scrGet a n)
      (r.2, match r.1 with
        | some y => (s.dropCopies tid [a / 128]).putTeam tid (t.scrPut a n y)
        | none => s)
  else
    let s := if inAperture a then s else s.touch core cx a true
    let r := atomEval m w x (s.atomRead core cx a n)
    (r.2, match r.1 with
      | some y => s.atomWrite core cx a n y
      | none => s)

/-- Apply an atomic to the location of each lane in ascending order (spec/08 R170): the values returned, by lane. -/
def State.atomLanes (s : State) (core : Nat) (cx : Ctx) (tid m : Nat) (w : MemW) (ops : List (Nat × Nat × AtomArgs)) :
    List (Nat × Nat) × State :=
  ops.foldl (fun acc o =>
    let r := acc.2.atomApply core cx tid m w o.2.1 o.2.2
    (acc.1 ++ [(o.1, r.1)], r.2)) ([], s)

/-- An atomic whose checks have passed: it performs, or behind entries of the group enters the side log with its outstanding
write (spec/08 R181). -/
def State.atomIssue (s : State) (h : Here) (m : Nat) (w : MemW) (ls : List Nat) (ea : Nat → Nat) : SlotResult :=
  let ops := ls.map fun l => (l, ea l, h.atomArgs w l)
  if s.logBusy h then
    let pend := if Opnd.isReg w.dst then some h.g.nextPend else none
    match s.sideAdd h (ls.map fun l => (l, ea l)) 0 fun ls => .atom m w pend (ls.map fun l => (l, ea l, h.atomArgs w l)) with
    | none => .stall
    | some s => .done (if pend.isNone then s else s.addPend h.gid
        { frag := h.fid, regs := dataRegs w.width w.dst, parts := (linesOf (ls.map ea)).length })
  else
    let (vals, s) := s.atomLanes h.core h.cx h.tid m w ops
    .done (s.deliver h w.dst w.width vals false)

/-- The lanes of an atomic: a scalar destination executes once (spec/03 R46). -/
def Here.atomActive (h : Here) (w : MemW) : List Nat := if w.dst.isS then [0] else lanesOf (h.active w.g w.gn)

/-- The frame of the global atomics of a major. -/
def globalAtomic (m : Nat) (w : MemW) (cell hostOk : Bool) (h : Here) (s : State) : SlotResult :=
  if h.peerBusy then .stall else
  let n := w.width.bytes
  let ls := h.atomActive w
  match pickTrap (failing (maskOf fun l => ls.contains l) fun l => s.laneAtomic h (h.atomEa w l) n cell hostOk) with
  | some r => .trap (if w.dst.isS then { r with lanes := h.f.mask.toNat } else r)
  | none =>
    if ls.any fun l => s.atomPoison h.core h.cx (h.atomEa w l) n then s.atomEat h (ls.map fun l => (h.atomEa w l, n))
    else s.atomIssue h m w ls (h.atomEa w)

/-! ## Instructions -/

/-- Host memory takes integer add, exch and cas (R199). -/
def hostAtom (w : MemW) : Bool := w.kind != .float && (w.opc == .add || w.opc == .exch || w.opc == .cas)

def execAtom (w : MemW) (s : State) : Host.Outcome State Fault Refusal := runSlot (.atom w) (globalAtomic 0xA0 w true (hostAtom w)) s
def execBins (w : MemW) (s : State) : Host.Outcome State Fault Refusal := runSlot (.bins w) (globalAtomic 0xA2 w false false) s
def execBffcs (w : MemW) (s : State) : Host.Outcome State Fault Refusal := runSlot (.bffcs w) (globalAtomic 0xA3 w false false) s
def execBpls (w : MemW) (s : State) : Host.Outcome State Fault Refusal := runSlot (.bpls w) (globalAtomic 0xA4 w false false) s

/-- Checks of a RED's lane: one that cannot be delivered does not trap (spec/24 R398). -/
def State.laneRed (s : State) (h : Here) (va n : Nat) (hostOk : Bool) : Option LaneTrap :=
  match s.laneGlobal h va n .atomic hostOk with
  | some t =>
    if t.cause == .prot && t.info == 32 then
      (s.haspGlobal h.core h.cx.asid va n true).map fun e => { cause := .hasp, info := haspInfo e, addr := va }
    else some t
  | none => none

/-- RED: lanes that do not translate enter the side log (R187, R197). -/
def redSlot (w : MemW) (h : Here) (s : State) : SlotResult :=
  if (w.order == .rel && s.sideBusy h) || h.peerBusy then .stall else
  let n := w.width.bytes
  let act := h.active w.g w.gn
  let ls := lanesOf act
  let ea := h.atomEa w
  let bad := failing act fun l => s.laneRed h (ea l) n (hostAtom w)
  if !onlyXlate bad then
    match pickTrap bad with
    | some r => .trap r
    | none => .done s
  else
    let late := if s.logBusy h then ls else bad.map (·.1)
    let now := ls.filter fun l => !late.contains l
    if now.any fun l => s.vPoison h.core h.cx (ea l) n .atomic then s.eatPoison h .atomic (now.map fun l => (ea l, n)) else
    match s.sideAdd h (late.map fun l => (l, ea l)) 0 fun ls =>
        .red w.opc w.kind n (ls.map fun l => (ea l, BitVec.ofNat 64 (h.data w.c n l))) with
    | none => .stall
    | some s => .done ((s.atomLanes h.core h.cx h.tid 0xA5 w (now.map fun l => (l, ea l, h.atomArgs w l))).2.noteLostLanes h now ea)

def execRed (w : MemW) (s : State) : Host.Outcome State Fault Refusal := runSlot (.red w) (redSlot w) s

/-- ATOMS: on the team's scratchpad; an absent line parks the fragment (R198, spec/08 R168). -/
def atomsSlot (w : MemW) (h : Here) (s : State) : SlotResult :=
  if h.peerBusy then .stall else
  let n := w.width.bytes
  let ls := h.atomActive w
  let off := h.atomOff w
  let q := h.quiet ls off n
  match pickTrap (failing (maskOf fun l => ls.contains l) fun l => s.laneScr h.tid (off l) n true 0 q) with
  | some r => .trap (if w.dst.isS then { r with lanes := h.f.mask.toNat } else r)
  | none =>
    if ls.any fun l => !h.t.present (off l) n then .park .absent s
    else if ls.any fun l => h.t.scrBad (off l) n then .freeze .uncorr
    else s.atomIssue h 0xA1 w ls off

def execAtoms (w : MemW) (s : State) : Host.Outcome State Fault Refusal := runSlot (.atoms w) (atomsSlot w) s

/-! ## The side log performs (spec/08 R181, R182) -/

/-- The context of a group. -/
def State.groupCtx (s : State) (gid : Nat) : Option (Team × Ctx) :=
  (s.groups.get? gid).bind fun g => (s.teams.get? g.team).bind fun t => (s.ctxs.get? t.ctx).map fun c => (t, c)

/-- The global addresses an entry needs. -/
def SideOp.addrs : SideOp → List Nat
  | .store bs => bs.map (·.1)
  | .red _ _ _ ops => ops.map (·.1)
  | .scr .. => []
  | .atom m _ _ ops => if m == 0xA1 then [] else (ops.map (·.2.1)).filter fun a => !inAperture a

/-- The cells of the aperture that an entry acts on. -/
def SideOp.cells : SideOp → List Nat
  | .atom m _ _ ops => if m == 0xA1 then [] else (ops.map (·.2.1)).filter inAperture
  | _ => []

/-- What an entry does at the leaf, and whether a host page takes it (spec/09 R199). -/
def SideOp.access : SideOp → AccKind × Bool
  | .store _ | .scr .. => (.write, true)
  | .red op kind _ _ => (.atomic, kind != .float && (op == .add || op == .exch || op == .cas))
  | .atom m w _ _ => (.atomic, m == 0xA0 && hostAtom w)

/-- The DETAIL, level and address of the fault that keeps an entry from performing; a permission fault counts as unmapped. -/
def State.sideFault (s : State) (e : SideLog) : Option (Nat × Nat × Nat) :=
  match s.groupCtx e.group with
  | none => none
  | some (t, cx) =>
    let (k, hostOk) := e.op.access
    e.op.addrs.findSome? fun a =>
      match s.xl t.core cx a k with
      | .ok _ mt => if mt == 2 && !hostOk then some (0, s.leafLevel t.core cx a, a) else none
      | .fault d l => some (d, l, a)
      | .prot 32 => none
      | .prot _ => some (0, s.leafLevel t.core cx a, a)

/-- The words of `k` bytes that a list of bytes touches, with the bytes of each by place: of several, the last (spec/08 R170). -/
def wordsOf (bs : List (Nat × Byte)) (k : Nat) : List (Nat × List (Nat × Byte)) :=
  ((bs.map (·.1 / k)).dedup).map fun w =>
    (w, (List.range k).filterMap fun i => (bs.reverse.find? fun b => b.1 == k * w + i).map fun b => (i, b.2))

/-- The value of a whole word. -/
def wordValue (bs : List (Nat × Byte)) : Nat := bs.foldr (fun b x => b.2.toNat + 256 * x) 0

/-- Write bytes at virtual addresses, whole 8-byte words at once. -/
def State.putBytes (s : State) (core : Nat) (cx : Ctx) (bs : List (Nat × Byte)) : State :=
  (wordsOf bs 8).foldl (fun s w =>
    if w.2.length == 8 then s.vstore core cx (8 * w.1) 8 (wordValue w.2)
    else w.2.foldl (fun s b => s.vstore core cx (8 * w.1 + b.1) 1 b.2.toNat) s) s

/-- Would that consume poison: a word replaced only in part (spec/26 R417)? -/
def State.putBad (s : State) (core : Nat) (cx : Ctx) (bs : List (Nat × Byte)) : Bool :=
  (wordsOf bs 8).any fun w => w.2.length < 8 && s.vPoison core cx (8 * w.1) 8 .write

/-- Write bytes of a scratchpad, whole 32-bit words at once. -/
def Team.putBytes (t : Team) (bs : List (Nat × Byte)) : Team :=
  (wordsOf bs 4).foldl (fun t w =>
    if w.2.length == 4 then t.scrPut (4 * w.1) 4 (wordValue w.2)
    else w.2.foldl (fun t b => t.scrPut (4 * w.1 + b.1) 1 b.2.toNat) t) t

def Team.putBad (t : Team) (bs : List (Nat × Byte)) : Bool := (wordsOf bs 4).any fun w => w.2.length < 4 && t.scrBad (4 * w.1) 4

/-- Does performing an entry consume an uncorrectable error: the array's code (spec/26 R417)? -/
def State.sideBad (s : State) (e : SideLog) : Option Nat :=
  match s.groupCtx e.group with
  | none => none
  | some (t, cx) =>
    match e.op with
    | .store bs => if s.putBad t.core cx bs then some 8 else none
    | .red _ _ n ops => if ops.any fun o => s.atomPoison t.core cx o.1 n then some 8 else none
    | .scr tid bs => if ((s.teams.get? tid).map fun x => x.putBad bs).getD false then some 3 else none
    | .atom m w _ ops =>
      if m == 0xA1 then (if ops.any fun o => t.scrBad o.2.1 w.width.bytes then some 3 else none)
      else if ops.any fun o => s.atomPoison t.core cx o.2.1 w.width.bytes then some 8 else none

/-- Values for the outstanding write of a logged atomic. -/
def State.logValues (s : State) (gid : Nat) (w : MemW) (pend : Option Nat) (vals : List (Nat × Nat)) : State :=
  match pend with
  | none => s
  | some id => s.modGroup gid fun g =>
    { g with pend := g.pend.modify id fun p => { p.put w.dst w.width vals with parts := p.parts - 1 } }

/-- Perform an entry whose pages are mapped. -/
def State.sidePerform (s : State) (e : SideLog) : State :=
  match s.groupCtx e.group with
  | none => s
  | some (t, cx) =>
    let s := match e.op.addrs.find? (s.storeLost t.core cx) with
      | some a => s.noteLost e.group e.frag { e.report with addr := a }
      | none => s
    match e.op with
    | .store bs => s.putBytes t.core cx bs
    | .red op kind n ops => ops.foldl (fun s x =>
        let s := s.touch t.core cx x.1 true
        s.atomWrite t.core cx x.1 n (atomNew op kind n (s.atomRead t.core cx x.1 n) x.2.toNat 0)) s
    | .scr tid bs => (s.dropCopies tid (linesOf (bs.map (·.1)))).modTeam tid fun x => x.putBytes bs
    | .atom m w pend ops =>
      let (vals, s) := s.atomLanes t.core cx ((s.groups.get? e.group).map Group.team |>.getD 0) m w ops
      s.logValues e.group w pend vals

/-- An entry is discarded: the values that its atomic would have returned are free (log 19). -/
def State.sideDiscard (s : State) (e : SideLog) : State :=
  match e.op with
  | .atom _ w pend ops =>
    let n := s.free
    { s with free := n + 64 }.logValues e.group w pend (ops.map fun (o : Nat × Nat × AtomArgs) =>
      (o.1, (Config.freeWord (n + 2 * o.1)).toNat + (Config.freeWord (n + 2 * o.1 + 1)).toNat * 2 ^ 64))
  | _ => s

/-- The entries that are the oldest of their group, by position. -/
def sideHeads (l : List SideLog) : List (Nat × SideLog) :=
  (l.zipIdx.filter fun e => !(l.take e.2).any fun x => x.group == e.1.group).map fun e => (e.2, e.1)

/-- An entry that would consume an error has no effect: the atomic's outstanding write goes, and no register is written. -/
def State.sideVoid (s : State) (e : SideLog) : State :=
  match e.op with
  | .atom _ _ (some id) _ => s.modGroup e.group fun g => { g with pend := g.pend.erase id }
  | _ => s

/-- The array and the physical address of the word that an entry would consume: a cell's is the synchronisation engine's. -/
def State.sidePa (s : State) (e : SideLog) (arr : Nat) : Nat × Nat :=
  match s.groupCtx e.group with
  | none => (arr, 0)
  | some (t, cx) =>
    if arr == 8 && (e.op.cells.any fun a => s.atomPoison t.core cx a 8) then (9, 0)
    else (arr, (e.op.addrs.findSome? fun a => s.poisonAt t.core cx (a / 8 * 8) 16 e.op.access.1).getD 0)

/-- SIDE_LOG_PERFORM: the oldest entry that can perform does; an entry whose page Shento cannot map is discarded, and its
group parks at its next line boundary under an imprecise record. An entry that would consume an error has no effect: its group
freezes (spec/26 R417). -/
def execSideLogPerform (core : Nat) (mappable : Bool) (s : State) : Host.Outcome State Fault Refusal :=
  let heads := sideHeads (s.core core).side
  let drop (i : Nat) (s : State) : State := s.modCore core fun c => { c with side := c.side.eraseIdx i }
  if mappable then
    match heads.find? fun e => (s.sideFault e.2).isNone with
    | some (i, e) =>
      match s.sideBad e with
      | some arr => .next (((drop i s).sideVoid e).freezeGroup e.group (s.sidePa e arr).1 (s.sidePa e arr).2)
      | none => .next ((drop i s).sidePerform e)
    | none => .next s
  else
    match heads.findSome? fun e => (s.sideFault e.2).map fun f => (e, f) with
    | some ((i, e), (d, l, a)) =>
      let s := (drop i s).sideDiscard e
      .next ((s.postReport e.group e.frag { e.report with detail := d, addr := a, info := 2 ^ 63 + l + 4 }).stopGroup e.group)
    | none => .next s

end Sys2Proof.Machine
end

