-- ==== Sys2Proof/Machine/Work.lean ====
section
/-! DEFINITION. Work: dependence counters, the tasks they gate, names, stamps and records posted without parking a group
(spec/18 R320 to R329), shared by synchronisation, launches and the engines that write stamps. -/

namespace Sys2Proof.Machine


/-- Post a record that parks no group; it may carry a launch's name. -/
def State.postAsync (s : State) (cx : Nat) (cause : Cause) (detail info addr : Nat) (l : Option Nat) : State :=
  let (pc, seq) := match l with | some l => s.launchName l | none => (0, 0)
  s.post cx { cause := cause, detail := detail, info := info, addr := addr, namePc := pc, nameSeq := seq }

/-! ## Names and launches (R329) -/

/-- Count a command of a code pointer: its sequence number and the new counts. -/
def bumpName (l : List (W64 × W32)) (pc : W64) : W32 × List (W64 × W32) :=
  match l with
  | [] => (1, [(pc, 1)])
  | (p, n) :: t => if p == pc then (n + 1, (p, n + 1) :: t) else
      let r := bumpName t pc
      (r.1, (p, n) :: r.2)

/-- Add a launch. -/
def State.addLaunch (s : State) (l : Launch) : Nat × State :=
  (s.nextLaunch, { s with launches := s.launches.set s.nextLaunch l, nextLaunch := s.nextLaunch + 1 })

def State.modLaunch (s : State) (l : Nat) (f : Launch → Launch) : State := { s with launches := s.launches.modify l f }

/-! ## Range records (spec/12 R254) -/

/-- The outcome of reading a range record. -/
inductive RecRead where
  | ok (raw : Nat) (s : State)
  | failed
  | wait

/-- Read the record at its address, as a load at .dev by an agent. `wait`: the read meets a translation fault, and Shento may
map the page. -/
def State.readRecord (s : State) (agent : Nat) (cx : Ctx) (va : Nat) : RecRead :=
  if va % 128 != 0 || 2 ^ 56 ≤ va || inAperture va then .failed else
  match s.xl agent cx va .read with
  | .ok pa mt =>
    let s := s.touch agent cx va false
    if s.poisoned mt pa 128 then .failed else .ok (s.physRead mt pa 128) s
  | .prot _ => .failed
  | .fault _ _ => .wait

/-- Read bytes that lie in at most two pages as one load; none when a page cannot be read or they meet the aperture. -/
def State.loadRange (s : State) (agent : Nat) (cx : Ctx) (va n : Nat) : Option (Nat × State) :=
  let readable (b : Nat) : Bool := match s.xl agent cx b .read with
    | .ok pa mt => !s.poisoned mt pa 1
    | _ => false
  if 2 ^ 56 < va + n || meetsAperture va n || !readable va || !readable (va + n - 1) then none
  else
    let s := (s.touch agent cx va false).touch agent cx (va + n - 1) false
    some (s.vread agent cx va n, s)

/-- Read the reuse-hint list (spec/23 R388); none when it is ignored. -/
def State.reuseList (s : State) (agent : Nat) (cx : Ctx) (va : Nat) : Option (List (Nat × Nat × Nat) × State) :=
  if va % 16 != 0 then none else
  match s.loadRange agent cx va 8 with
  | none => none
  | some (count, s) =>
    if 64 < count then none
    else if count == 0 then some ([], s)
    else match s.loadRange agent cx (va + 8) (16 * count) with
    | none => none
    | some (x, s) =>
      let es := (List.range count).map fun i => x / 2 ^ (128 * i) % 2 ^ 128
      let bad (e : Nat) : Bool := bitsN e 63 58 != 0 || bitsN e 57 56 == 3 || e % 128 != 0 || bitsN e 127 64 % 128 != 0 || bitsN e 127 64 == 0
      if es.any bad then none else some (es.map fun e => (bitsN e 55 0, bitsN e 127 64, bitsN e 57 56), s)

/-- Post a 32-byte report; one that finds the ring full is dropped and counted (spec/23 R389). -/
def State.postUsage (s : State) (cx : Nat) (l : Launch) (range hint kind acc miss : Nat) : State :=
  match s.ctxs.get? cx with
  | none => s
  | some c =>
    if (c.rtail - c.rhead).toNat == 2 ^ c.rrsz then s.modCtx cx fun c => { c with dropped := c.dropped + 1 }
    else
      let x := l.namePc.toNat + l.nameSeq.toNat * 2 ^ 64 + range % 64 * 2 ^ 96 + hint % 4 * 2 ^ 102 + kind % 2 * 2 ^ 104 +
        acc % 2 ^ 64 * 2 ^ 128 + miss % 2 ^ 64 * 2 ^ 192
      let s := s.physWrite 0 (c.rring + 32 * (c.rtail.toNat % 2 ^ c.rrsz)) 32 x
      s.modCtx cx fun c => { c with rtail := c.rtail + 1 }

/-- Read a launch's record, and with it its reuse list, as the launch is issued: later changes of their bytes have no effect (log
45). One whose page is not mapped is read when the launch begins. -/
def State.imageLaunch (s : State) (agent ln : Nat) : State :=
  match (s.launches.get? ln).bind fun l => (s.ctxs.get? l.ctx).map fun cx => (l, cx) with
  | none => s
  | some (l, cx) =>
    if l.image.isSome then s else
    match s.readRecord agent cx l.recVa with
    | .wait => s
    | .failed => s.modLaunch ln fun l => { l with image := some none }
    | .ok raw s =>
      let va := bitsN raw 567 512
      let s := s.modLaunch ln fun l => { l with image := some (some raw) }
      if va == 0 then s else match s.reuseList agent cx va with
      | some (r, s) => s.modLaunch ln fun l => { l with reuse := r }
      | none => s.postUsage l.ctx l 0 0 1 0 0

/-- Accept a launch: acceptances are counted over the whole module (R327). -/
def State.acceptLaunch (s : State) (l : Nat) : State :=
  let s := s.modLaunch l fun x => { x with accepted := s.accepted }
  { s with accepted := s.accepted + 1 }

/-- A port command completes (R320). -/
def State.portDone (s : State) (cx : Nat) (ticket : Option Nat) : State :=
  match ticket with
  | some t => s.modCtx cx fun c => { c with portOpen := c.portOpen.filter (· != t) }
  | none => s

/-- Free a task's entry in its context's store. -/
def State.freeTask (s : State) (l : Nat) : State :=
  match s.launches.get? l with
  | none => s
  | some x => s.modCtx x.ctx fun c => { c with tasks := c.tasks.filterE fun _ v => v != l }

/-- The task of a counter launches, as an acquire at the widest scope signalled (R323, R325). -/
def State.fireTask (s : State) (l scope : Nat) : State :=
  ((s.freeTask l).modLaunch l fun x => { x with st := 1, acq := scope }).imageLaunch devAgent l

/-- A task that never launches (R320, R323). -/
def State.dropTask (s : State) (l : Nat) : State :=
  match s.launches.get? l with
  | none => s
  | some x =>
    let s := (s.freeTask l).portDone x.ctx x.port
    { s with launches := s.launches.erase l }

/-! ## Dependence counters (R322, R323) -/

/-- The address of an object. -/
def objVa (key : Nat) : Nat := apertureBase + key / 2 ^ 32 * 2 ^ 38 + key % 2 ^ 32 * 64

/-- Settle a counter: it fires when armed with COUNT ≤ 0, and is then free; COUNT below zero posts a record. -/
def State.settle (s : State) (cx key : Nat) (count : Int) (armed : Bool) (task : Option Nat) (sigs : W64) (scope : Nat) : State :=
  if armed && decide (count ≤ 0) then
    let s := { s with objs := s.objs.erase key }
    let s := if count < 0 then s.postAsync cx .syncobj 6 (2 ^ 63) (objVa key) none else s
    match task with
    | some l => s.fireTask l scope
    | none => s
  else { s with objs := s.objs.set key { kind := .counter count armed task sigs scope } }

/-- "signal n" on an object; the DETAIL of SYNCOBJ when it is of another kind. -/
def State.signal (s : State) (cx key n scope : Nat) : Except Nat State :=
  match (s.objs.get? key).map Obj.kind with
  | none => .ok (s.settle cx key (-(n : Int)) false none 1 scope)
  | some (.counter count armed task sigs sc) => .ok (s.settle cx key (count - n) armed task (sigs + 1) (max sc scope))
  | _ => .error 1

/-- "arm n". -/
def State.arm (s : State) (cx key n : Nat) (task : Option Nat) : Except Nat State :=
  match (s.objs.get? key).map Obj.kind with
  | none => .ok (s.settle cx key n true task 0 0)
  | some (.counter count armed _ sigs sc) =>
    if armed then .error 2 else .ok (s.settle cx key (count + n) true task sigs sc)
  | _ => .error 1

/-! ## Stamps (spec/08 R179, spec/18 R321) -/

/-- What keeps a stamp's page from being written. -/
def State.stampFault (s : State) (core : Nat) (cx : Ctx) (va : Nat) : Option XErr := s.xlErr core cx va true

/-- Write an 8-byte stamp. -/
def State.stampWrite (s : State) (core : Nat) (cx : Ctx) (va : Nat) (v : W64) : State := s.vstore core cx va 8 v.toNat

/-- Write a stamp through an agent's translation. `error`: the write waits for Shento to map the page; when Shento cannot (a
choice of its own, log 20), or the page is not writable, the stamp is dropped under a record. -/
def State.stampAt (s : State) (core cx va : Nat) (v : W64) (l : Option Nat) : Except State State :=
  match s.ctxs.get? cx with
  | none => .ok s
  | some c =>
    match s.stampFault core c va with
    | none => .ok (s.stampWrite core c va v)
    | some e =>
      let (n, s) := s.takeFree
      if e.cause == .xlate && Config.choice n then .error s
      else .ok (s.postAsync cx e.cause e.detail (2 ^ 63 + 2 ^ 62 + e.info) va l)

/-- The stamp of a completing launch or of a STAMP command; address 0 is none. -/
def State.launchStamp (s : State) (cx va : Nat) (v : W64) (l : Option Nat) : Except State State :=
  if va == 0 then .ok s else s.stampAt devAgent cx va v l

/-- DONE receives its signal; an object of another kind posts a record (R321). -/
def State.signalDone (s : State) (cx va scope : Nat) (l : Option Nat) : State :=
  if va == 0 then s
  else if !s.objExists va then s.postAsync cx .prot 0 (2 ^ 63) va l
  else match s.signal cx (objKey va) 1 (max scope 3) with
  | .ok s => s
  | .error d => s.postAsync cx .syncobj d (2 ^ 63) va l

end Sys2Proof.Machine
end

