-- ==== Sys2Proof/Machine/Sync.lean ====
section
/-! DEFINITION. Sync: MWAIT, synchronisation objects, dependence counters and fences (spec/09 R200 to R208, spec/18 R333). -/

namespace Sys2Proof.Machine

/-! ## Ending a parked instruction -/

/-- The instruction at which a parked fragment stands. -/
def State.parkedAt (s : State) (fid : Nat) : Option Instr :=
  (s.frags.get? fid).bind fun f => (decode (lineSlot f.buf f.slot.val)).toOption

/-- Its DST. -/
def State.parkedDst (s : State) (fid : Nat) : Opnd :=
  match s.parkedAt fid with
  | none => .zr
  | some i => match i.memRow with
    | some (_, _, _, w) => w.dst
    | none => (i.engRow.map fun e => e.2.dst).getD .zr

/-- Write a flag destination of the group, if there is one. -/
def State.setFlag (s : State) (gid : Nat) (dst : Opnd) (x : Bool) : State :=
  match dst with
  | .c r => s.modGroup gid fun g => g.setC r.val x
  | _ => s

/-- A parked fragment's instruction ends with its flag. -/
def State.answer (s : State) (fid : Nat) (x : Bool) : State :=
  match s.frags.get? fid with
  | none => s
  | some f => (s.setFlag f.group (s.parkedDst fid) x).finishParked fid

/-- A waiter at an address leaves lost: its flag is 1, or it traps as SYNCOBJ with DETAIL 0 (R202, R205). -/
def State.lostAt (s : State) (fid va : Nat) : State :=
  match s.parkedDst fid with
  | .c _ => s.answer fid true
  | _ => match s.hereOf fid with
    | none => s
    | some h => s.takeTrap h { cause := .syncobj, detail := 0, lanes := h.f.mask.toNat, addr := va % 2 ^ 56 }

/-- An object's waiter leaves lost; while its team is saved, when it resumes (R207). -/
def State.leaveLost (s : State) (fid : Nat) : State :=
  match s.hereOf fid with
  | none => s
  | some h =>
    match h.f.st with
    | .parked (.token _ va _) | .parked (.take _ va _) =>
      if h.t.saved || h.t.saving then s.modFrag fid fun f => { f with st := .parked (.lost va) } else s.lostAt fid va
    | _ => s

/-- The waits that were lost while a team was saved (R207). -/
def State.settleLost (s : State) (tid : Nat) : State :=
  s.frags.foldl (fun s (e : Nat × Frag) =>
    match e.2.st with
    | .parked (.lost va) => if e.2.group / 32 == tid then s.lostAt e.1 va else s
    | _ => s) s

/-! ## The address of a synchronisation instruction (R202) -/

/-- Alignment, the aperture, and the object's existence. -/
def State.syncTrap (s : State) (h : Here) (va : Nat) : Option RecInfo :=
  let r : RecInfo := { cause := .prot, lanes := h.f.mask.toNat, addr := va % 2 ^ 56 }
  if va % 8 != 0 then some { r with cause := .align }
  else if 2 ^ 56 ≤ va || !inAperture va || !s.objExists va then some r
  else none

/-- A failure: flag 1, or a SYNCOBJ trap under `.trap`. -/
def syncFail (h : Here) (dst : Opnd) (va detail : Nat) (s : State) : SlotResult :=
  match dst with
  | .c _ => .done (s.setFlag h.gid dst true)
  | _ => .trap { cause := .syncobj, detail := detail, lanes := h.f.mask.toNat, addr := va % 2 ^ 56 }

/-- A kind error traps in either case (R205). -/
def kindTrap (h : Here) (va : Nat) : SlotResult :=
  .trap { cause := .syncobj, detail := 1, lanes := h.f.mask.toNat, addr := va % 2 ^ 56 }

/-- The frame of SOBJ, SARV and SWAIT: the side log, the address, a refusing engine (R201), a poisoned object. -/
def syncSlot (w : MemW) (whole : Bool) (f : Here → Nat → Nat → State → SlotResult) (h : Here) (s : State) : SlotResult :=
  if s.sideBusy h then .stall else
  let va := h.atomEa w 0
  match s.syncTrap h va with
  | some r => .trap r
  | none =>
    if 0 < s.syncBusy.getD 0 (bitsN va 39 38) then .stall
    else if !whole && ((s.objs.get? (objKey va)).map Obj.poisoned).getD false then .freeze .uncorr (some 9)
    else f h va (objKey va) s

/-! ## Initialising and invalidating (R204, R205, R323) -/

/-- Make an object of a kind, as R205's rows of SOBJ.bar, .sem and .cell say. -/
def sobjInit (w : MemW) (k : ObjKind) (bad : Bool) (h : Here) (va key : Nat) (s : State) : SlotResult :=
  let ok : SlotResult := .done ({ s with objs := s.objs.set key { kind := k } }.setFlag h.gid w.dst false)
  match s.objs.get? key with
  | none => if bad then syncFail h w.dst va 3 s else ok
  | some o =>
    match o.kind with
    | .counter .. | .fold => syncFail h w.dst va 2 s
    | _ => if bad then syncFail h w.dst va 3 s else if !o.waiters.isEmpty then syncFail h w.dst va 2 s else ok

def execSobjBar (w : MemW) (s : State) : Host.Outcome State Fault Refusal :=
  runSlot (.sobjBar w) (syncSlot w true fun h va key s =>
    let n := (h.srcS w.b).toNat
    sobjInit w (.bar 0 (BitVec.ofNat 32 n) 0) (n == 0 || 2 ^ 32 ≤ n) h va key s) s

def execSobjSem (w : MemW) (s : State) : Host.Outcome State Fault Refusal :=
  runSlot (.sobjSem w) (syncSlot w true fun h va key s => sobjInit w (.sem (h.srcS w.b)) false h va key s) s

def execSobjCell (w : MemW) (s : State) : Host.Outcome State Fault Refusal :=
  runSlot (.sobjCell w) (syncSlot w true fun h va key s => sobjInit w (.cell []) false h va key s) s

/-- SOBJ.inv: waiters leave lost, a counter's task is dropped, the object becomes free. -/
def sobjInv (w : MemW) (h : Here) (va key : Nat) (s : State) : SlotResult :=
  match s.objs.get? key with
  | none => .done (s.setFlag h.gid w.dst false)
  | some o =>
    match o.kind with
    | .fold => syncFail h w.dst va 2 s
    | .counter _ _ task _ _ =>
      let s := { s with objs := s.objs.erase key }
      let s := match task with | some l => s.dropTask l | none => s
      .done (s.setFlag h.gid w.dst false)
    | _ =>
      let s := { s with objs := s.objs.erase key }
      .done ((o.waiters.foldl State.leaveLost s).setFlag h.gid w.dst false)

def execSobjInv (w : MemW) (s : State) : Host.Outcome State Fault Refusal := runSlot (.sobjInv w) (syncSlot w true (sobjInv w)) s

/-! ## Barriers (R205) -/

/-- Has generation g passed token t? -/
def passed (g t : W32) : Bool := let d := (g - t).toNat; 1 ≤ d && d ≤ 2 ^ 31 - 1

/-- Does a waiter of an object wait for a token that g has passed? -/
def State.tokenPassed (s : State) (g : W32) (fid : Nat) : Bool :=
  match (s.frags.get? fid).map Frag.st with
  | some (.parked (.token _ _ t)) => passed g t
  | _ => false

/-- An arrival at a barrier. -/
def State.arrive (s : State) (key : Nat) (o : Obj) (gen expect arrived : W32) : State :=
  if arrived.toNat + 1 < expect.toNat then
    { s with objs := s.objs.set key { o with kind := .bar gen expect (arrived + 1) } }
  else
    let gen := gen + 1
    let go := o.waiters.filter (s.tokenPassed gen)
    let o := { o with kind := .bar gen expect 0, waiters := o.waiters.filter fun f => !go.contains f }
    let s := { s with objs := s.objs.set key o }
    go.foldl (fun s fid => s.answer fid false) s

def execSarv (w : MemW) (s : State) : Host.Outcome State Fault Refusal :=
  runSlot (.sarv w) (syncSlot w false fun h va key s =>
    match s.objs.get? key with
    | some o =>
      match o.kind with
      | .bar gen expect arrived => .done ((s.arrive key o gen expect arrived).writeS h w.dst false (gen.zeroExtend 64))
      | _ => kindTrap h va
    | none => kindTrap h va) s

def execSwait (w : MemW) (s : State) : Host.Outcome State Fault Refusal :=
  runSlot (.swait w) (syncSlot w false fun h va key s =>
    match s.objs.get? key with
    | none => syncFail h w.dst va 0 s
    | some o =>
      match o.kind with
      | .bar gen _ _ =>
        let t : W32 := BitVec.ofNat 32 (h.srcS w.b).toNat
        if passed gen t then .done (s.setFlag h.gid w.dst false)
        else .park (.token key va t) { s with objs := s.objs.set key { o with waiters := o.waiters ++ [h.fid] } }
      | _ => kindTrap h va) s

/-! ## Semaphores (R206) -/

/-- The units a waiting take asks for. -/
def State.takeOf (s : State) (fid : Nat) : Nat :=
  match (s.frags.get? fid).map Frag.st with
  | some (.parked (.take _ _ n)) => n.toNat
  | _ => 0

/-- Serve takes in arrival order: the value left, those served, those left. -/
def serveTakes (s : State) (v : Nat) : List Nat → Nat × List Nat × List Nat
  | [] => (v, [], [])
  | f :: fs =>
    let n := s.takeOf f
    if n ≤ v then
      let r := serveTakes s (v - n) fs
      (r.1, f :: r.2.1, r.2.2)
    else (v, [], f :: fs)

/-- Let a semaphore serve its takers. -/
def State.serve (s : State) (key : Nat) : State :=
  match s.objs.get? key with
  | none => s
  | some o =>
    match o.kind with
    | .sem v =>
      let r := serveTakes s v.toNat o.waiters
      let s := { s with objs := s.objs.set key { o with kind := .sem (BitVec.ofNat 64 r.1), waiters := r.2.2 } }
      r.2.1.foldl (fun s fid => s.answer fid false) s
    | _ => s

def execSarvPost (w : MemW) (s : State) : Host.Outcome State Fault Refusal :=
  runSlot (.sarvPost w) (syncSlot w false fun h va key s =>
    match s.objs.get? key with
    | some o =>
      match o.kind with
      | .sem v =>
        let n := (h.srcS w.b).toNat
        if 2 ^ 64 ≤ v.toNat + n then syncFail h w.dst va 3 s
        else
          let s := { s with objs := s.objs.set key { o with kind := .sem (v + BitVec.ofNat 64 n) } }
          .done ((s.serve key).setFlag h.gid w.dst false)
      | _ => kindTrap h va
    | none => kindTrap h va) s

/-- A take: `tryOnly` never parks. -/
def takeSlot (w : MemW) (tryOnly : Bool) (h : Here) (va key : Nat) (s : State) : SlotResult :=
  match s.objs.get? key with
  | some o =>
    match o.kind with
    | .sem v =>
      let n := h.srcS w.b
      if n == 0 then .done (s.setFlag h.gid w.dst false)
      else if o.waiters.isEmpty && n.toNat ≤ v.toNat then
        .done ({ s with objs := s.objs.set key { o with kind := .sem (v - n) } }.setFlag h.gid w.dst false)
      else if tryOnly then syncFail h w.dst va 0 s
      else .park (.take key va n) { s with objs := s.objs.set key { o with waiters := o.waiters ++ [h.fid] } }
    | _ => kindTrap h va
  | none => kindTrap h va

def execSwaitTake (w : MemW) (s : State) : Host.Outcome State Fault Refusal :=
  runSlot (.swaitTake w) (syncSlot w false (takeSlot w false)) s
def execSwaitTry (w : MemW) (s : State) : Host.Outcome State Fault Refusal :=
  runSlot (.swaitTry w) (syncSlot w false (takeSlot w true)) s

/-- A killed fragment's waits are withdrawn and take no units (R207). -/
def State.withdraw (s : State) (fid : Nat) : State :=
  match (s.frags.get? fid).map Frag.st with
  | some (.parked (.token key _ _)) | some (.parked (.take key _ _)) =>
    ({ s with objs := s.objs.modify key fun o => { o with waiters := o.waiters.filter (· != fid) } }).serve key
  | _ => s

/-- The die whose synchronisation engine an instruction's request goes to: of TASKPUB, its GATE's (spec/18 R334). -/
def State.requestDie (s : State) (h : Here) (i : Instr) : Option Nat :=
  match i with
  | .taskpub w => some (bitsN (bitsN (s.vload h.core h.cx (h.srcS w.a).toNat 64) 183 128) 39 38)
  | i => i.memRow.bind fun r => if 0x78 ≤ r.1 && r.1 ≤ 0x7B then some (bitsN (h.atomEa r.2.2.2 0) 39 38) else none

/-- SYNC_REQUEST_RETRY: a refused request is presented again with its ticket; an engine refuses at most 32 times (R201). -/
def execSyncRequestRetry (fid : Nat) (s : State) : Host.Outcome State Fault Refusal :=
  match s.hereOf fid, s.parkedAt fid with
  | some h, some i =>
    match s.requestDie h i with
    | some die =>
      let n := min 32 (s.syncBusy.getD 0 die)
      if h.f.stall && 0 < n then
        .next ({ s with syncBusy := s.syncBusy.setD 0 die (n - 1) }.modFrag fid fun f => { f with ticket := some n })
      else .next s
    | none => .next s
  | _, _ => .next s

/-! ## Counters (spec/18 R333) -/

/-- The frame of CNTA. -/
def cntaSlot (w : MemW) (f : Here → Nat → Nat → State → Except Nat State) (h : Here) (s : State) : SlotResult :=
  if s.sideBusy h then .stall else
  let va := h.atomEa w 0
  let r : RecInfo := { cause := .prot, lanes := h.f.mask.toNat, addr := va % 2 ^ 56 }
  if 2 ^ 56 ≤ va || !inAperture va || !s.objExists va then .trap r
  else if va % 64 != 0 then .trap { r with cause := .syncobj, detail := 4 }
  else if 2 ^ 32 ≤ (h.srcS w.b).toNat then syncFail h w.dst va 3 s
  else if 0 < s.syncBusy.getD 0 (bitsN va 39 38) then .stall
  else if ((s.objs.get? (objKey va)).map Obj.poisoned).getD false then .freeze .uncorr (some 9)
  else match f h (objKey va) (h.srcS w.b).toNat s with
  | .ok s => .done (s.setFlag h.gid w.dst false)
  | .error 1 => kindTrap h va
  | .error d => syncFail h w.dst va d s

def execCntaSig (w : MemW) (s : State) : Host.Outcome State Fault Refusal :=
  runSlot (.cntaSig w) (cntaSlot w fun h key n s => s.signal h.t.ctx key n (max 3 w.scope.code.toNat)) s
def execCntaArm (w : MemW) (s : State) : Host.Outcome State Fault Refusal :=
  runSlot (.cntaArm w) (cntaSlot w fun h key n s => s.arm h.t.ctx key n none) s

/-! ## Fences (R208): accesses perform in the order of issue here, so a fence waits only for the side log -/

def execFenceAcq (w : EngW) (s : State) : Host.Outcome State Fault Refusal := runSlot (.fenceAcq w) (fun _ s => .done s) s
def execFenceRel (w : EngW) (s : State) : Host.Outcome State Fault Refusal :=
  runSlot (.fenceRel w) (fun h s => if s.sideBusy h then .stall else .done s) s
def execFenceAr (w : EngW) (s : State) : Host.Outcome State Fault Refusal :=
  runSlot (.fenceAr w) (fun h s => if s.sideBusy h then .stall else .done s) s

/-! ## MWAIT (R203) -/

/-- The comparison. -/
def mwaitCmp (cmp : Nat) (x v : W64) : Bool :=
  match cmp with
  | 0 => x == v
  | 1 => decide (v.toNat ≤ x.toNat)
  | _ => x != v

/-- The first failing check of MWAIT's address. -/
def State.mwaitTrap (s : State) (h : Here) (va : Nat) : Option LaneTrap :=
  if decide (va < 2 ^ 56) && inAperture va && va % 8 == 0 then
    if s.objExists va then none else some { cause := .prot, addr := va }
  else s.laneGlobal h va 8 .read

/-- The word. -/
def State.mwaitWord (s : State) (h : Here) (va : Nat) : W64 :=
  BitVec.ofNat 64 (if inAperture va then s.objWord (objKey va) (va % 64 / 8) else s.vload h.core h.cx va 8)

def State.mwaitPoison (s : State) (h : Here) (va : Nat) : Bool :=
  if inAperture va then ((s.objs.get? (objKey va)).map Obj.poisoned).getD false else s.vPoison h.core h.cx va 8 .read

/-- Reading the word sets ACC first (spec/23 R382). -/
def State.mwaitTouch (s : State) (h : Here) (va : Nat) : State := if inAperture va then s else s.touch h.core h.cx va false

def execMwait (w : MemW) (s : State) : Host.Outcome State Fault Refusal :=
  runSlot (.mwait w) (fun h s =>
    if s.sideBusy h then .stall else
    let va := h.atomEa w 0
    match pickTrap (((s.mwaitTrap h va).map fun t => (0, t)).toList) with
    | some r => .trap { r with lanes := h.f.mask.toNat }
    | none =>
      if s.mwaitPoison h va then (if inAperture va then .freeze .uncorr (some 9) else s.eatPoison h .read [(va, 8)]) else
      let s := s.mwaitTouch h va
      let x := s.mwaitWord h va
      if mwaitCmp w.sub.val x (h.srcS w.b) then .done (s.setFlag h.gid w.dst false)
      else
        let left := match w.b with | .s r => (h.sreg (r.val + 1)).toNat | _ => 0
        .park (.mwait va w.sub.val (h.srcS w.b) left (w.dst.isC && left != 0)) s) s

/-- What a waiting MWAIT sees: none when its word can no longer be read. -/
def State.mwaitSees (s : State) (fid : Nat) : Option (Bool × Nat × Bool) :=
  match s.hereOf fid with
  | none => none
  | some h =>
    match h.f.st with
    | .parked (.mwait va cmp v left timed) =>
      if (s.mwaitTrap h va).isSome then none else some (mwaitCmp cmp (s.mwaitWord h va) v, left, timed)
    | _ => none

/-- Is the fragment parked at an MWAIT of a resident team? -/
def State.atMwait (s : State) (fid : Nat) : Bool :=
  match s.hereOf fid with
  | none => false
  | some h => !h.t.saved && match h.f.st with | .parked (.mwait ..) => true | _ => false

/-- MWAIT_REEVALUATE: a satisfied wait ends; an unsatisfied one has used up some of its cycles (log 12). A word that can no
longer be read makes the instruction issue again, and trap. -/
def execMwaitReevaluate (fid : Nat) (s : State) : Host.Outcome State Fault Refusal :=
  if !s.atMwait fid then .next s else
  let s := match s.hereOf fid, (s.frags.get? fid).map Frag.st with
    | some h, some (.parked (.mwait va ..)) => if (s.mwaitTrap h va).isNone then s.mwaitTouch h va else s
    | _, _ => s
  match s.mwaitSees fid with
  | none => .next (s.resume fid)
  | some (true, _, _) => .next (s.answer fid false)
  | some (false, left, timed) =>
    if !timed then .next s else
    let (n, s) := s.takeFree
    let dt := (Config.elapsed n).toNat
    let s := s.modFrag fid fun f =>
      match f.st with
      | .parked (.mwait va cmp v _ t) => { f with st := .parked (.mwait va cmp v (left - dt) t) }
      | _ => f
    .next (s.modCore (fragCore fid) fun c => { c with clock := c.clock + BitVec.ofNat 64 dt })

/-- MWAIT_TIMEOUT: the cycles are used up and the word does not satisfy the comparison. -/
def execMwaitTimeout (fid : Nat) (s : State) : Host.Outcome State Fault Refusal :=
  if !s.atMwait fid then .next s else
  match s.mwaitSees fid with
  | some (false, 0, true) => .next (s.answer fid true)
  | some (true, _, _) => .next (s.answer fid false)
  | _ => .next s

end Sys2Proof.Machine
end

