-- ==== Sys2Proof/Machine/Team.lean ====
section
/-! DEFINITION. Team: placing a team on a core, register blocks, team and cluster barriers, cluster membership, killing a team
(spec/07 R136, R137, R146 to R154, R162; spec/12 R255, R260). -/

namespace Sys2Proof.Machine

/-! ## Fields of the range record (spec/12 R255) -/

def Launch.fld (l : Launch) (hi lo : Nat) : Nat := bitsN l.record.toNat hi lo
def Launch.ngroups (l : Launch) : Nat := l.fld 196 192 + 1
def Launch.blk (l : Launch) : Nat := l.fld 200 197 + 1
def Launch.pool (l : Launch) : Nat := l.fld 207 201
def Launch.accs (l : Launch) : Nat := l.fld 212 208
def Launch.sspl (l : Launch) : Bool := l.record.getLsbD 213
def Launch.tspl (l : Launch) : Bool := l.record.getLsbD 214
def Launch.spad (l : Launch) : Nat := l.fld 255 224
def Launch.entry (l : Launch) : Nat := l.fld 311 256
def Launch.param (l : Launch) : Nat := l.fld 375 320
def Launch.clw (l : Launch) : Nat := l.fld 387 384 + 1
def Launch.clh (l : Launch) : Nat := l.fld 391 388 + 1
def Launch.rw (l : Launch) : Nat := l.fld 403 400 + 1
def Launch.rh (l : Launch) : Nat := l.fld 407 404 + 1
def Launch.prio (l : Launch) : Nat := l.fld 410 409
def Launch.gran (l : Launch) : Nat := l.fld 191 160

/-! ## Accepting a team (R136, spec/11 R236, spec/19 R340) -/

/-- Groups of a team in a partition: group g is in partition g mod 4. -/
def groupsIn (n p : Nat) : Nat := ((List.range n).filter fun g => g % 4 == p).length

/-- Blocks held in a partition of a core: by groups, and in the teams' pools. -/
def State.blocksUsed (s : State) (core p : Nat) : Nat :=
  (s.teamsOn core).foldl (fun n t =>
    n + ((s.teams.get? t).map fun x => x.pool.getD 0 p).getD 0 +
      (s.groupsOf t).foldl (fun n g => match s.groups.get? g with
        | some x => if x.idx % 4 == p then n + x.blocks else n
        | none => n) 0) 0

/-- Groups resident in a partition. -/
def State.groupsUsed (s : State) (core p : Nat) : Nat :=
  (s.teamsOn core).foldl (fun n t => n + groupsIn (((s.teams.get? t).map Team.ngroups).getD 0) p) 0

/-- Scratchpad bytes a team's shape takes (spec/12 R258). -/
def scratchBytes (spad ngroups : Nat) (sspl : Bool) : Nat := spad + if sspl then 512 * ngroups else 0

def State.scratchUsed (s : State) (core : Nat) : Nat :=
  (s.teamsOn core).foldl (fun n t => match s.teams.get? t with
    | some x => n + scratchBytes x.fixedLen x.ngroups x.splitSpill
    | none => n) 0

/-- Accumulator tiles taken: one more than the names (spec/11 R236). -/
def accTiles (names : Nat) : Nat := if names == 0 then 0 else names + 1

def State.accUsed (s : State) (core : Nat) : Nat :=
  (s.teamsOn core).foldl (fun n t => n + accTiles (((s.teams.get? t).map Team.acc).getD 0)) 0

/-- Free split-table entries of a partition of a core (R139). -/
def State.freeEntries (s : State) (part : Nat) : List Nat :=
  ((List.range 64).map (64 * part + ·)).filter fun k => !s.frags.has k

/-- Folds of a context, as object keys. -/
def State.foldsOf (s : State) (cx : Nat) : List Nat := (s.folds.filter fun e => e.2.ctx == cx).map (·.1)

/-- Contexts with a team on a core. -/
def State.ctxsOn (s : State) (core : Nat) : List Nat :=
  ((s.teamsOn core).filterMap fun t => (s.teams.get? t).map Team.ctx).dedup

/-- Arena entries the core would hold with a context added. -/
def State.arenasWith (s : State) (core cx : Nat) : Nat :=
  ((cx :: s.ctxsOn core).dedup.map fun c => (s.foldsOf c).length).sum

/-- The Hasp entry of a Fold's arena (spec/19 R339). -/
def State.arenaEntry (s : State) (key : Nat) : Option Hasp :=
  (s.folds.get? key).bind fun f => (s.ctxs.get? f.ctx).map fun c =>
    { haspRange false 8 0 c.asid f.arena (64 * f.cap) with }

/-- Bring the Fold part of a core's Hasp table (entries 32 to 63) in line with the contexts it holds teams of (R340). -/
def State.syncArenas (s : State) (core : Nat) : State :=
  let want := ((s.ctxsOn core).flatMap s.foldsOf).filterMap s.arenaEntry
  s.modCore core fun c =>
    let kept := c.hasp.filterE fun k x => decide (k < 32) || want.contains x
    { c with hasp := want.foldl (fun m x =>
        if m.any fun e => 32 ≤ e.1 && e.2 == x then m
        else match m.freeKey 32 32 with
          | some k => m.set k x
          | none => m) kept }

/-- Can a core accept a team of the given shape? -/
def State.canHold (s : State) (core cx ngroups blk pool acc spad : Nat) (sspl : Bool) : Bool :=
  ((List.range 4).all fun p =>
    let n := groupsIn ngroups p
    s.blocksUsed core p + blk * n + pool ≤ 64 && s.groupsUsed core p + n ≤ 16 && n ≤ (s.freeEntries (4 * core + p)).length) &&
  s.scratchUsed core + scratchBytes spad ngroups sspl ≤ 524288 &&
  s.accUsed core + accTiles acc ≤ 64 &&
  s.arenasWith core cx ≤ 32 &&
  !s.boot.fenced.contains core

/-- Can a core accept a team of a launch? -/
def State.canAccept (s : State) (core : Nat) (l : Launch) : Bool :=
  s.canHold core l.ctx l.ngroups l.blk l.pool l.accs l.spad l.sspl

/-- Shento's trace spill area of a group (log 19: its address is Shento's). -/
def spillArea (n : Nat) : VA := BitVec.ofNat 56 ((Config.freeWord n).toNat / 8192 * 8192)

/-- Is a causal trial in an on epoch (spec/25 R408)? -/
def Trial.on (t : Trial) : Bool := t.epoch % 2 == 1

/-- Gd of a context's causal trial (spec/25 R409): what Lg of a group dispatched or resumed during the trial starts at. -/
def State.trialDebt (s : State) (cx : Nat) : Nat := (((s.ctxs.get? cx).bind Ctx.trial).map Trial.gd).getD 0

/-- Where an allocation of `n` bytes starts in a core's scratchpad: the lowest gap (the spec names no place, log 43). -/
def State.scrGap (s : State) (core n : Nat) : Nat :=
  let used := (s.teamsOn core).filterMap fun t => (s.teams.get? t).map fun x =>
    (x.base, x.base + scratchBytes x.fixedLen x.ngroups x.splitSpill)
  let free (b : Nat) : Bool := used.all fun u => decide (b + n ≤ u.1) || decide (u.2 ≤ b)
  ((0 :: used.map (·.2)).filter free).foldl min (used.foldl (fun m u => max m u.2) 0)

/-- The lowest free group slot of a partition of a core (spec/25 R412). -/
def State.freeSlot (s : State) (core p : Nat) : Nat :=
  let used := ((s.teamsOn core).flatMap s.groupsOf).filterMap fun g => (s.groups.get? g).bind fun x => if x.idx % 4 == p then some x.slot else none
  ((List.range 16).find? fun k => !used.contains k).getD 0

/-- Shento keeps a group's trace spill area, which lies in one page, mapped and writable (spec/16 R300). -/
def State.mapSpill (s : State) (ctx va : Nat) : State :=
  match s.ctxs.get? ctx with
  | some cx => State.mapPage va 4 cx.root 0 s
  | none => s

/-- Add a team with its groups and one fragment each (R137). -/
def State.placeTeam (s : State) (t : Team) (blk : Nat) (entry : VA) (slot : Fin 5) (lanes : Nat → W32) (tspl : Bool) :
    Nat × State :=
  let tid := s.nextTeam
  let base := s.scrGap t.core (scratchBytes t.fixedLen t.ngroups t.splitSpill)
  let s := { s with teams := s.teams.set tid { t with tspl := tspl, base := base }, nextTeam := tid + 1 }
  let s := (List.range t.ngroups).foldl (fun s g =>
    let gid := 32 * tid + g
    let (n, s) := if tspl then s.takeFree else (0, s)
    let s := s.putGroup gid
      { team := tid, idx := g, slot := s.freeSlot t.core (g % 4), blocks := blk, laneSet := lanes g, debt := s.trialDebt t.ctx
        spillVA := if tspl then spillArea n else 0 }
    let s := if tspl then s.mapSpill t.ctx (spillArea n).toNat else s
    match s.freeEntries (4 * t.core + g % 4) with
    | [] => s
    | k :: _ => { s with nextFrag := s.nextFrag + 1 }.putFrag k
        { group := gid, line := entry, slot := slot, mask := lanes g, last := s.stamp, uid := s.nextFrag, checkTm := true }) s
  (tid, s.syncArenas t.core)

/-! ## Team barriers (R149, R150) -/

/-- Complete a barrier's generation when its condition holds. -/
def State.settleBar (s : State) (tid id : Nat) : State :=
  match s.teams.get? tid with
  | none => s
  | some t =>
    let b := t.bars.getD {} id
    let live := (s.liveGroups tid).length
    let need := if b.count == 0 then live else min b.count live
    if b.arrived != 0 && live != 0 && need ≤ b.arrived then
      let s := s.modTeam tid fun t => { t with bars := t.bars.setD {} id { b with gen := b.gen + 1, arrived := 0 } }
      (s.frags.filter fun e => e.2.st == .parked (.bar id b.gen) && ((s.groups.get? e.2.group).map Group.team) == some tid).foldl
        (fun s e => s.finishParked e.1) s
    else s

def execTbar (w : EngW) (s : State) : Host.Outcome State Fault Refusal :=
  runSlot (.tbar w) (fun h s =>
    if !s.sole h then .trap h.splitTrap else
    if s.sideBusy h then .stall else
    let imm := w.imm.toNat
    let id := imm % 16
    let b := h.t.bars.getD {} id
    let s := s.modTeam h.tid fun t =>
      { t with bars := t.bars.setD {} id { b with arrived := b.arrived + 1, count := bitsN imm 15 8 } }
    let s := s.settleBar h.tid id
    let now := match s.teams.get? h.tid with | some t => (t.bars.getD {} id).gen | none => 0
    if imm.testBit 4 || now != b.gen then .done s else .park (.bar id b.gen) s) s

/-! ## Cluster barrier and membership (R151 to R153) -/

def clusterKey (t : Team) : Nat := 1024 * t.launch + t.cluster.toNat

/-- Members of a cluster. -/
def State.members (s : State) (key : Nat) : List Nat :=
  (s.teams.filter fun e => e.2.member && clusterKey e.2 == key).map (·.1)

/-- Complete the cluster barrier's generation when every live group of every counted member has arrived. One that counts no
group, since every member has joined in it or its counted members have left, completes too (log 43). -/
def State.settleOnce (s : State) (key : Nat) : State :=
  let c := s.clusters.getD {} key
  let counted (t : Nat) : Bool := match s.teams.get? t with
    | some x => decide (x.joined ≤ c.gen)
    | none => false
  let groups := ((s.members key).filter counted).flatMap s.liveGroups
  let late := (s.members key).any fun t => !counted t
  if (!groups.isEmpty || late) && groups.all c.arrived.contains then
    let s := { s with clusters := s.clusters.setD {} key { gen := c.gen + 1, arrived := c.late } }
    (s.frags.filter fun e => e.2.st == .parked (.cbar c.gen) &&
        match (s.groups.get? e.2.group).bind fun g => s.teams.get? g.team with
        | some t => clusterKey t == key
        | none => false).foldl (fun s e => s.finishParked e.1) s
  else s

/-- A generation that counted no group may be followed by one whose groups have all arrived. -/
def State.settleCluster (s : State) (key : Nat) : State := (s.settleOnce key).settleOnce key

def execCbar (w : EngW) (s : State) : Host.Outcome State Fault Refusal :=
  runSlot (.cbar w) (fun h s =>
    if !s.sole h then .trap h.splitTrap
    else if !h.t.member then .trap { cause := .window, detail := 0, lanes := h.f.mask.toNat }
    else if s.sideBusy h then .stall
    else
      let key := clusterKey h.t
      let c := s.clusters.getD {} key
      let late := c.gen < h.t.joined
      let c' := if late then { c with late := (h.gid :: c.late).dedup } else { c with arrived := (h.gid :: c.arrived).dedup }
      let s := { s with clusters := s.clusters.setD {} key c' }.settleCluster key
      let g := if late then c.gen + 1 else c.gen
      if w.imm.getLsbD 4 || g < (s.clusters.getD {} key).gen then .done s else .park (.cbar g) s) s

/-- CJOIN. Members are co-resident (R145), so a team joins no cluster of which a member is being saved or saved: it waits until the
members are resumed (log 26). -/
def execCjoin (w : EngW) (s : State) : Host.Outcome State Fault Refusal :=
  runSlot (.cjoin w) (fun h s =>
    if !s.sole h then .trap h.splitTrap else
    if (s.members (clusterKey h.t)).any fun t => match s.teams.get? t with
      | some x => x.saved || x.saving
      | none => false
    then .stall else
    let shaped := match s.launches.get? h.t.launch with
      | some l => l.clw * l.clh != 1 && !h.t.fragTeam
      | none => false
    let ok := h.t.member || (shaped && (s.memberAt h.t.launch h.t.cluster h.t.coreslot).isNone)
    let s := if ok && !h.t.member then
        s.modTeam h.tid fun t => { t with member := true, joined := (s.clusters.getD {} (clusterKey h.t)).gen + 1 }
      else s
    .done (s.setFlag h.gid w.dst ok)) s

/-- A team leaves its cluster: mappings onto its scratchpad are revoked, and the cluster barrier no longer counts it. -/
def State.leaveCluster (s : State) (tid : Nat) : State :=
  match s.teams.get? tid with
  | none => s
  | some t =>
    if !t.member then s else
    (s.modTeam tid fun t => { t with member := false }).settleCluster (clusterKey t)

def execCleave (w : EngW) (s : State) : Host.Outcome State Fault Refusal :=
  runSlot (.cleave w) (fun h s => if !s.sole h then .trap h.splitTrap else .done (s.leaveCluster h.tid)) s

/-! ## Register blocks (R146, R147, R162) -/

/-- Serve the claims of a team in arrival order, pool by pool: a claim that cannot be met holds back later ones. -/
def State.serveClaims (s : State) (tid : Nat) : State :=
  match s.teams.get? tid with
  | none => s
  | some t =>
    (t.claims.foldl (fun (acc : State × List Nat) e =>
      let p := e.1 % 4
      let free := ((acc.1.teams.get? tid).map fun t => t.pool.getD 0 p).getD 0
      if acc.2.contains p || free < e.2 then (acc.1, p :: acc.2)
      else
        let s := acc.1.modTeam tid fun t =>
          { t with pool := t.pool.setD 0 p (free - e.2), claims := t.claims.filter fun x => x.1 != e.1 }
        let s := s.modGroup e.1 fun g => { g with blocks := g.blocks + e.2 }
        ((s.fragsOf e.1).foldl (fun s k => s.finishParked k) s, acc.2)) (s, [])).1

/-- When every live group of a team is stalled in RBCLM, each traps as CLAIM and its claim is withdrawn (R147). -/
def State.checkClaims (s : State) (tid : Nat) : State :=
  let waiting (k : Nat) : Bool := match (s.frags.get? k).map Frag.st with
    | some (.parked (.claim _)) => true
    | _ => false
  let frs := (s.liveGroups tid).flatMap s.fragsOf
  if !frs.isEmpty && frs.all waiting then
    let s := s.modTeam tid fun t => { t with claims := [] }
    frs.foldl (fun s k => match s.hereOf k with
      | some h => s.takeTrap h { cause := .claim, lanes := h.f.mask.toNat }
      | none => s) s
  else s

def execRbsur (w : EngW) (s : State) : Host.Outcome State Fault Refusal :=
  runSlot (.rbsur w) (fun h s =>
    if !s.sole h then .trap h.splitTrap else
    let n := w.imm.toNat % 16
    if n == 0 then .done s
    else if h.g.blocks < n + 1 then .trap { cause := .spad, lanes := h.f.mask.toNat, info := n }
    else
      let top := 16 * (h.g.blocks - n)
      if h.g.pend.any fun e => e.2.regs.any fun r => match r with | .v k => decide (top ≤ k) | _ => false then .stall
      else
        let s := s.modGroup h.gid fun g => { g with
          blocks := g.blocks - n, v := g.v.filterE fun k _ => decide (k < 32 * top), badV := g.badV.filterE fun k _ => decide (k < 32 * top) }
        let p := h.g.idx % 4
        let s := s.modTeam h.tid fun t => { t with pool := t.pool.setD 0 p (t.pool.getD 0 p + n) }
        .done (s.serveClaims h.tid)) s

/-- Park in RBCLM, and look for the deadlock that the device detects. The fragment parks first. -/
def execRbclm (w : EngW) (s : State) : Host.Outcome State Fault Refusal :=
  runSlot (.rbclm w) (fun h s =>
    if !s.sole h then .trap h.splitTrap else
    let n := w.imm.toNat % 16
    let p := h.g.idx % 4
    let pool := h.t.pool.getD 0 p
    let held := ((s.groupsOf h.tid).filterMap s.groups.get?).foldl (fun a g => if g.idx % 4 == p then a + g.blocks else a) 0
    if n == 0 then .done s
    else if 16 < h.g.blocks + n then .trap { cause := .spad, lanes := h.f.mask.toNat, info := n }
    else if pool + held < h.g.blocks + n then .trap { cause := .claim, lanes := h.f.mask.toNat }
    else if !(h.t.claims.any fun c => c.1 % 4 == p) && n ≤ pool then
      let s := s.modTeam h.tid fun t => { t with pool := t.pool.setD 0 p (pool - n) }
      .done (s.modGroup h.gid fun g => { g with blocks := g.blocks + n })
    else
      let s := s.modTeam h.tid fun t => { t with claims := t.claims ++ [(h.gid, n)] }
      .placed ((s.park h.fid (.claim n)).checkClaims h.tid)) s

/-! ## Traversal commands whose lanes end (spec/16 R298, R311) -/

/-- A TRACE, TRRES or TQNEXT all of whose lanes are served: its writes become ready, with a record for lanes that failed under
TRAP. -/
def State.travFinish (s : State) (core id : Nat) : State :=
  match (s.core core).travCmds.get? id with
  | none => s
  | some c =>
    if c.left != 0 then s else
    let rep : Option Report := match c.errs with
      | [] => none
      | (_, d, a) :: rest => some
        { cause := .trav, detail := rest.foldl (fun m e => min m e.2.1) d, lanes := maskOf c.errs.has, active := c.mask
          line := c.line, slot := c.slot, addr := a % 2 ^ 56, info := 2 ^ 63, paired := c.paired }
    let s := s.modGroup c.group fun g => { g with pend := g.pend.modify c.pend fun p => { p with ready := true, report := rep } }
    s.modCore core fun x => { x with travCmds := x.travCmds.erase id }

/-- Abandon the rays and queries of lanes that end: slots and spill records free, outstanding deliveries are cancelled. -/
def State.abandon (s : State) (gid : Nat) (lanes : W32) : State :=
  match (s.groups.get? gid).bind fun g => (s.teams.get? g.team).map fun t => t.core with
  | none => s
  | some core =>
    let hit (g l : Nat) : Bool := g == gid && lanes.getLsbD l
    let s := s.modCore core fun c => { c with rays := c.rays.filterE fun _ r => !hit r.group r.lane }
    let s := (s.spilled.filter fun e => hit (e.1 / 32) (e.1 % 32)).foldl (fun s e => s.clearSpill (e.1 / 32) (e.1 % 32)) s
    let s := { s with
      spilled := s.spilled.filterE fun k _ => !hit (k / 32) (k % 32)
      savedRays := s.savedRays.filter fun k => !hit (k / 32) (k % 32) }
    let ids := ((s.core core).travCmds.filter fun e => e.2.group == gid && e.2.left &&& lanes != 0).map (·.1)
    ids.foldl (fun s id =>
      (s.modCore core fun c => { c with travCmds := c.travCmds.modify id fun x => { x with left := x.left &&& ~~~lanes } }).travFinish
        core id) s

/-- The tile engine learns that lanes of a fragment group have exited, with their last colours, after every exit that it has learnt
of before (spec/21 R366). -/
def State.noteExit (s : State) (h : Here) (lanes : W32) : State :=
  if !h.t.fragTeam then s else
  { s with tileEngs := s.tileEngs.mapV fun _ e =>
      { e with
        nextExit := e.nextExit + 1
        contribs := e.contribs.mapV fun _ c =>
          if c.group == some h.gid && lanes.getLsbD c.lane && c.exitAt.isNone
          then { c with exitAt := some e.nextExit, colour := h.g.colour.get? c.lane } else c } }

/-! ## A group becomes Gone; a team is killed -/

/-- What a team's barriers, claims and cluster see when a group becomes Gone (R147, R149, R151). -/
def State.groupGone (s : State) (tid : Nat) : State :=
  let s := (List.range 16).foldl (fun s id => s.settleBar tid id) s
  let s := s.checkClaims tid
  match s.teams.get? tid with
  | some t => if t.member then s.settleCluster (clusterKey t) else s
  | none => s

/-- Kill a team: its fragments end, its waiters are withdrawn, its rays, evaluations and outstanding writes are dropped, and it
leaves its cluster. It retires once its issued work has drained (R154). -/
def State.killTeam (s : State) (tid : Nat) : State :=
  match s.teams.get? tid with
  | none => s
  | some t =>
    let gs := s.groupsOf tid
    let frs := (s.frags.filter fun e => gs.contains e.2.group).map (·.1)
    let s := frs.foldl (fun s k => s.withdraw k) s
    let s := (s.spilled.filter fun e => gs.contains (e.1 / 32)).foldl (fun s e => s.clearSpill (e.1 / 32) (e.1 % 32)) s
    let s := { s with
      frags := s.frags.filterE fun _ f => !gs.contains f.group
      spilled := s.spilled.filterE fun k _ => !gs.contains (k / 32)
      savedRays := s.savedRays.filter fun k => !gs.contains (k / 32) }
    let s := gs.foldl (fun s g => s.modGroup g fun x => { x with pend := [], fps := [] }) s
    let s := s.modCore t.core fun c =>
      { c with
        rays := c.rays.filterE fun _ r => !gs.contains r.group
        travCmds := c.travCmds.filterE fun _ r => !gs.contains r.group
        nevals := c.nevals.filterE fun _ r => !gs.contains r.group }
    let s := s.modTeam tid fun t => { t with claims := [], haltedBy := none }
    s.leaveCluster tid

end Sys2Proof.Machine
end

