-- ==== Sys2Proof/Machine/Drover.lean ====
section
/-! DEFINITION. Drover: the tile grid and its orders, dispatch, splits, TILENX, tiles done and the retirement of teams
(spec/12 R256, R257, R260 to R266; spec/07 R154). -/

namespace Sys2Proof.Machine

/-! ## The tile grid (R256, R257) -/

def ceilDiv (a b : Nat) : Nat := (a + b - 1) / b

def Launch.nx (l : Launch) : Nat := ceilDiv (l.fld 31 0) (l.fld 111 96 + 1)
def Launch.ny (l : Launch) : Nat := ceilDiv (l.fld 63 32) (l.fld 127 112 + 1)
def Launch.nz (l : Launch) : Nat := ceilDiv (l.fld 95 64) (l.fld 143 128 + 1)
def Launch.tiles (l : Launch) : Nat := l.nx * l.ny * l.nz

/-- The cell of a Morton code: x in the even bits, y in the odd ones. -/
def mortonXY (d : Nat) : Nat × Nat :=
  (List.range 32).foldl (fun (a : Nat × Nat) i =>
    (a.1 + (if d.testBit (2 * i) then 2 ^ i else 0), a.2 + (if d.testBit (2 * i + 1) then 2 ^ i else 0))) (0, 0)

/-- d2xy of R257 for a curve of 2^m cells a side. -/
def hilbertXY (m d : Nat) : Nat × Nat :=
  let r := (List.range m).foldl (fun (a : Nat × Nat × Nat) i =>
    let (x, y, t) := a
    let s := 2 ^ i
    let rx := t / 2 % 2
    let ry := (t ^^^ rx) % 2
    let (x, y) := if ry == 0 then
        let (x, y) := if rx == 1 then (s - 1 - x, s - 1 - y) else (x, y)
        (y, x)
      else (x, y)
    (x + s * rx, y + s * ry, t / 4)) (0, 0, d)
  (r.1, r.2.1)

/-- The j-th cell inside the grid along a curve, from code `d` on. -/
def nthCell (nx ny : Nat) (f : Nat → Nat × Nat) : Nat → Nat → Nat → Nat × Nat
  | 0, _, _ => (0, 0)
  | fuel + 1, d, j =>
    let c := f d
    if c.1 < nx && c.2 < ny then (if j == 0 then c else nthCell nx ny f fuel (d + 1) (j - 1))
    else nthCell nx ny f fuel (d + 1) j

/-- The least m with 2^m ≥ n. -/
def log2Up (n : Nat) : Nat := if n ≤ 1 then 0 else (n - 1).log2 + 1

/-- Coordinates of layer index j. -/
def tileXY (order nx ny j : Nat) : Nat × Nat :=
  let m := log2Up (max nx ny)
  match order with
  | 0 => (j % nx, j / nx)
  | 1 => (j / ny, j % ny)
  | 2 => (if j / nx % 2 == 1 then nx - 1 - j % nx else j % nx, j / nx)
  | 3 => nthCell nx ny mortonXY (4 ^ m) 0 j
  | _ => nthCell nx ny (hilbertXY m) (4 ^ m) 0 j

/-- Coordinates of a tile. -/
def Launch.coords (l : Launch) (i : Nat) : Nat × Nat × Nat :=
  let layer := l.nx * l.ny
  let c := tileXY (l.fld 146 144) l.nx l.ny (i % layer)
  (c.1, c.2, i / layer)

/-! ## The rectangle (R259, spec/07 R152) -/

/-- The cores of a launch's rectangle in row-major order. -/
def Launch.cores (l : Launch) : List Nat :=
  (List.range (l.rw * l.rh)).map fun i => 12 * (l.oy + i / l.rw) + (l.ox + i % l.rw)

/-- Cluster number and slot of a core: clusters and slots in row-major order. -/
def Launch.slotOf (l : Launch) (core : Nat) : Nat × Nat :=
  let x := coreX core - l.ox
  let y := coreY core - l.oy
  (y / l.clh * (l.rw / l.clw) + x / l.clw, y % l.clh * l.clw + x % l.clw)

/-! ## Drovers (R260) -/

def State.droversOf (s : State) (l : Nat) : List Nat := (s.drovers.filter fun e => e.2.launch == l).map (·.1)
def State.modDrover (s : State) (d : Nat) (f : Drover → Drover) : State := { s with drovers := s.drovers.modify d f }

/-- Is the core the home of a live Drover of the launch? -/
def State.isHome (s : State) (l core : Nat) : Bool := s.drovers.any fun e => e.2.launch == l && e.2.home == core

/-- The core to which a Drover offers its next tile. -/
def State.offer (s : State) (d : Nat) (x : Drover) (l : Launch) : Option Nat :=
  if s.canAccept x.home l then some x.home
  else l.cores.find? fun c => dieOf c == d / 32 && !s.isHome x.launch c && s.canAccept c l

/-- Does the launch's context run? One that is saving or saved dispatches nothing and makes no split (R265). -/
def State.runs (s : State) (l : Launch) : Bool := ((s.ctxs.get? l.ctx).map Ctx.st) == some 1

/-- May the Drover dispatch: not saved, tiles left, its context running, its launch dispatching? -/
def State.dispatching (s : State) (x : Drover) : Bool :=
  !x.saved && x.next < x.last && (s.launches.get? x.launch).any fun l => l.st == 4 && s.runs l

/-- Does launch a come before launch b for a core (spec/18 R327)? -/
def Launch.beats (a b : Launch) : Bool := b.prio < a.prio || (a.prio == b.prio && a.accepted < b.accepted)

/-- Is a submission held by a draw-level pre-emption? -/
def TileEng.heldSub (e : TileEng) (k : Nat) : Bool :=
  match e.subs.get? k with
  | some b => e.stopped.contains b.ctx
  | none => false

/-- The fragment groups that wait for a core of their die and that the core can accept, in key order, each with its submission and
launch (spec/21 R365). A pre-emption holds none of them. -/
def State.fragWaits (s : State) (core : Nat) : List (FragGroup × Submission × Launch) :=
  let e := s.tileEng (dieOf core)
  e.groups.filterMap fun f =>
    match (e.subs.get? f.sub).bind fun b => (s.launches.get? b.launch).map fun l => (b, l) with
    | some (b, l) =>
      if e.heldSub f.sub || ((s.ctxs.get? b.ctx).map Ctx.st) != some 1 || !s.canHold core b.ctx 1 (bitsN f.draw.toNat 138 135 + 1) 0 0 0 true
      then none else some (f, b, l)
    | none => none

/-- Would a Drover of a preferred launch dispatch to the same core, or may a fragment group of one go there (spec/18 R327)? -/
def State.outranked (s : State) (l : Launch) (core : Nat) : Bool :=
  (s.drovers.any fun e => s.dispatching e.2 &&
    match s.launches.get? e.2.launch with
    | some o => o.beats l && s.offer e.1 e.2 o == some core
    | none => false) ||
  (s.fragWaits core).any fun x => x.2.2.beats l

/-! ## Operating points (spec/18 R328) -/

/-- The highest point granted to any launch that has teams on a core, or whose first dispatch it awaits there. -/
def State.grantOn (s : State) (core : Nat) : Nat :=
  (s.launches.filterMap fun e => if (s.teams.any fun t => t.2.launch == e.1 && t.2.core == core && !t.2.saved) ||
      (e.2.st == 4 && !e.2.drained && e.2.nextTeam == 0 && e.2.cores.contains core) then e.2.opp else none).foldl max 0

/-- Bring a core's island to its point: the grant, less what the planner holds back. -/
def State.settleOpp (s : State) (core : Nat) : State :=
  let g := s.grantOn core
  { s with grants := s.grants.setD 0 core g, opps := s.opps.setD 0 core (g - s.lowered.getD 0 core) }

/-- The islands of a launch's rectangle, when it has been granted a point. -/
def State.settleOpps (s : State) (l : Launch) : State := l.cores.foldl State.settleOpp s

/-- A launch's first team is dispatched: its other islands no longer await it. -/
def State.dispatchOpp (s : State) (l : Launch) (core : Nat) : State :=
  if l.opp.isNone then s else if l.nextTeam == 0 then s.settleOpps l else s.settleOpp core

/-- The new team of a dispatched tile. -/
def Launch.team (l : Launch) (ln d core tile : Nat) : Team :=
  let c := l.coords tile
  let sl := l.slotOf core
  { core := core, ctx := l.ctx, launch := ln, num := BitVec.ofNat 32 l.nextTeam, ngroups := l.ngroups
    drover := some d, tile := some tile, tx := BitVec.ofNat 32 c.1, ty := BitVec.ofNat 32 c.2.1, tz := BitVec.ofNat 32 c.2.2
    ti := BitVec.ofNat 32 tile, coreslot := sl.2, cluster := BitVec.ofNat 32 sl.1, nslots := l.clw * l.clh
    param := BitVec.ofNat 56 l.param, prio := l.prio, fixedLen := l.spad, splitSpill := l.sspl
    pool := (List.range 4).foldl (fun m p => m.setD 0 p l.pool) [], acc := l.accs }

/-- DROVER_DISPATCH: the Drover's next tile goes to a core that can accept a team. -/
def execDroverDispatch (d : Nat) (s : State) : Host.Outcome State Fault Refusal :=
  match s.drovers.get? d with
  | none => .next s
  | some x =>
    match s.launches.get? x.launch with
    | none => .next s
    | some l =>
      if !s.dispatching x then .next s else
      match s.offer d x l with
      | none => .next s
      | some core =>
        if s.outranked l core then .next s else
        let (tid, s) := s.placeTeam (l.team x.launch d core x.next) l.blk (BitVec.ofNat 56 l.entry) 0 (fun _ => 0xFFFFFFFF) l.tspl
        let s := (s.modLaunch x.launch fun l => { l with nextTeam := l.nextTeam + 1 }).dispatchOpp l core
        .next (s.modDrover d fun x => { x with next := x.next + 1, tiles := x.tiles ++ [(x.next, tid)] })

/-! ## Splits (R261) -/

/-- Manhattan distance between die centres. -/
def dieDist (a b : Nat) : Nat := (if a % 2 == b % 2 then 0 else 6) + (if a / 2 == b / 2 then 0 else 8)

/-- How a split request ends. -/
inductive SplitRes where
  | split (drover : Nat) (s : State)
  | refused
  | wait

/-- The arbiter: the Drover with the largest remaining range, then the nearest die, then the lower number. -/
def State.splitFor (s : State) (ln core : Nat) : SplitRes :=
  match s.launches.get? ln with
  | none => .refused
  | some l =>
    let die := dieOf core
    let key (e : Nat × Drover) : Nat × Nat × Nat := (e.2.last - e.2.next, dieDist die (e.1 / 32), e.1 % 32)
    let better (a b : Nat × Nat × Nat) : Bool :=
      b.1 < a.1 || (a.1 == b.1 && (a.2.1 < b.2.1 || (a.2.1 == b.2.1 && a.2.2 < b.2.2)))
    let best := (s.drovers.filter fun e => e.2.launch == ln && !e.2.saved && 2 * l.gran ≤ e.2.last - e.2.next && e.2.next < e.2.last).foldl
      (fun (b : Option (Nat × Drover)) e => match b with
        | none => some e
        | some x => if better (key e) (key x) then some e else b) none
    match best with
    | none => .refused
    | some (v, x) =>
      match s.drovers.freeKey (32 * die) 32 with
      | none => .wait
      | some d =>
        let r := x.last - x.next
        let mid := ceilDiv (x.next + ceilDiv r 2) l.gran * l.gran
        let s := s.modDrover v fun y => { y with last := mid, gen := y.gen + 1 }
        .split d { s with drovers := s.drovers.set d { launch := ln, home := core, next := mid, last := x.last, gen := x.gen + 1 } }

/-- Is the core idle for the launch? -/
def State.idleFor (s : State) (ln core : Nat) (l : Launch) : Bool :=
  l.cores.contains core && s.canAccept core l && !s.drovers.any fun e => e.2.launch == ln && e.2.home == core && e.2.next < e.2.last

/-- A request's outcome on the launch: refused for good, or waiting. -/
def State.request (s : State) (ln core : Nat) : State :=
  match s.splitFor ln core with
  | .split _ s => s.modLaunch ln fun l => { l with waiting := l.waiting.filter (· != core) }
  | .refused => s.modLaunch ln fun l => { l with refused := (core :: l.refused).dedup, waiting := l.waiting.filter (· != core) }
  | .wait => s.modLaunch ln fun l => { l with waiting := (core :: l.waiting).dedup }

/-- SPLIT_REQUEST: an idle core presents its request; one that has stopped being idle withdraws it. -/
def execSplitRequest (ln core : Nat) (s : State) : Host.Outcome State Fault Refusal :=
  match s.launches.get? ln with
  | none => .next s
  | some l =>
    if l.st != 4 || l.refused.contains core || !s.runs l then .next s
    else if !s.idleFor ln core l then .next (s.modLaunch ln fun l => { l with waiting := l.waiting.filter (· != core) })
    else .next (s.request ln core)

/-- The start of a launch: every core of the rectangle but the origin presents a request in row-major order. -/
def State.startSplits (s : State) (ln : Nat) : State :=
  match s.launches.get? ln with
  | none => s
  | some l => (l.cores.drop 1).foldl (fun s c => s.request ln c) s

/-! ## Work that has not drained (R154, R266) -/

/-- Has the team engine commands or submissions outstanding with numbers below the bounds? -/
def State.teamBusy (s : State) (tid b1 b2 : Nat) : Bool :=
  match s.teams.get? tid with
  | none => false
  | some t =>
    let c := s.core t.core
    let mine (g : Nat) : Bool := g / 32 == tid
    (c.xfers.any fun e => e.1 < b1 && mine e.2.group) || (c.seals.any fun e => e.1 < b1 && mine e.2.group) ||
    (c.bulks.any fun e => e.1 < b1 && mine e.2.group) || (c.colls.any fun e => e.1 < b1 && mine e.2.group) ||
    (c.mops.any fun e => e.1 < b1 && mine e.2.group) || (c.nevals.any fun e => e.1 < b1 && mine e.2.group) ||
    s.tileEngs.any fun d => d.2.subs.any fun e => e.2.num < b2 && e.2.team == tid

/-- Every number a command may have. -/
def noBound : Nat := 2 ^ 64

/-- Has the team traversals or running streams with numbers below the bound, or saved commands of its save area? -/
def State.laterBusy (s : State) (tid b : Nat) : Bool :=
  let c := ((s.teams.get? tid).map fun t => s.core t.core).getD {}
  let sv := (s.saves.get? tid).getD {}
  (c.travCmds.any fun e => e.1 < b && e.2.group / 32 == tid) ||
  (c.streams.any fun e => e.2.owner == some tid && (e.2.st == 2 || e.2.st == 3) && e.2.id < b) ||
  (sv.seals.any fun e => e.1 < b) || (sv.bulks.any fun e => e.1 < b) || (sv.colls.any fun e => e.1 < b) ||
  (sv.travCmds.any fun e => e.1 < b) || (sv.streams.any fun e => e.2.auto && e.2.id < b)

/-- Have the groups accesses that have not performed: side-log entries, or loads that wait at a peer? -/
def State.accessesLeft (s : State) (core : Nat) (gs : List Nat) : Bool :=
  ((s.core core).side.any fun e => gs.contains e.group) ||
  gs.any fun g => (s.groups.get? g).any fun x => x.pend.any fun p => !p.2.ready || 0 < p.2.parts

/-- May a tile of a team be counted done: has what the team issued before it gave the tile up performed? The groups that were live
then had no access left when they executed TILENX. -/
def State.tileDrained (s : State) (tid tile : Nat) : Bool :=
  match s.teams.get? tid with
  | none => true
  | some t => t.tilesDone.any fun e =>
    e.tile == tile && !s.teamBusy tid e.cmd e.sub && !s.laterBusy tid e.cmd && !s.accessesLeft t.core e.gone

/-- TILE_DONE: a drained tile leaves its Drover's list; a Draining Drover whose list becomes empty is Free, a Saved one once its
context has resumed (R263). A killed team's tiles end here too, as it retires (R262). -/
def execTileDone (d tile : Nat) (s : State) : Host.Outcome State Fault Refusal :=
  match s.drovers.get? d with
  | none => .next s
  | some x =>
    if x.saved then .next s else
    match x.tiles.find? fun e => e.1 == tile && s.tileDrained e.2 tile with
    | none => .next s
    | some (_, tid) =>
      let x := { x with tiles := x.tiles.filter fun e => e != (tile, tid) }
      let s := s.modTeam tid fun t => { t with tilesDone := t.tilesDone.filter fun e => e.tile != tile }
      if x.tiles.isEmpty && x.last ≤ x.next then .next { s with drovers := s.drovers.erase d }
      else .next { s with drovers := s.drovers.set d x }

/-! ## Retirement (R154) -/

/-- May the team retire: every group Gone, its side log drained, its commands complete? -/
def State.mayRetire (s : State) (tid : Nat) : Bool :=
  match s.teams.get? tid with
  | none => false
  | some t =>
    !t.saved && (s.liveGroups tid).isEmpty && (s.groupsOf tid).all (fun g => (s.groups.get? g).all fun x => x.pend.isEmpty) &&
    !((s.core t.core).side.any fun e => e.group / 32 == tid) &&
    !s.teamBusy tid noBound noBound

/-- TEAM_RETIRE: a running stream engine of the team passes through Stopping first (spec/10 R215); then everything the team
holds is freed. -/
def execTeamRetire (tid : Nat) (s : State) : Host.Outcome State Fault Refusal :=
  match s.teams.get? tid with
  | none => .next s
  | some t =>
    if !s.mayRetire tid then .next s else
    let s := s.modCore t.core fun c =>
      { c with streams := c.streams.mapV fun _ e => if e.owner == some tid && e.st == 2 then { e with st := 3 } else e }
    if (s.core t.core).streams.any fun e => e.2.owner == some tid && e.2.st == 3 then .next s else
    let s := s.modCore t.core fun c =>
      { c with
        streams := c.streams.mapV fun _ e => if e.owner == some tid then { e with st := 0, owner := none } else e
        rays := c.rays.filterE fun _ r => r.group / 32 != tid
        travCmds := c.travCmds.filterE fun _ r => r.group / 32 != tid }
    let s := (s.leaveCluster tid).settlePeers tid
    let s := (s.spilled.filter fun e => e.1 / 1024 == tid).foldl (fun s e => s.clearSpill (e.1 / 32) (e.1 % 32)) s
    let s := { s with
      teams := s.teams.erase tid
      groups := s.groups.filterE fun k _ => k / 32 != tid
      frags := s.frags.filterE fun _ f => f.group / 32 != tid
      accs := s.accs.erase tid
      spilled := s.spilled.filterE fun k _ => k / 1024 != tid
      savedRays := s.savedRays.filter fun k => k / 1024 != tid }
    let s := if ((s.launches.get? t.launch).bind Launch.opp).isSome then s.settleOpp t.core else s
    .next (s.syncArenas t.core)

/-! ## TILENX (R266) -/

/-- Which groups of a team wait in TILENX. -/
def State.atTilenx (s : State) (gid : Nat) : Bool :=
  (s.fragsOf gid).any fun k => match (s.frags.get? k).map Frag.st with
    | some (.parked (.tilenx _)) => true
    | _ => false

/-- The tile a team takes next: from the Drover of its current tile, else by a split request that never waits. -/
def State.takeTile (s : State) (t : Team) : Option (Nat × Nat × State) :=
  match t.drover with
  | none => none
  | some d =>
    let own : Option Nat := match s.drovers.get? d with
      | some x => if x.launch == t.launch && !x.saved && x.next < x.last then some x.next else none
      | none => none
    match own with
    | some tile => some (d, tile, s)
    | none =>
      match s.splitFor t.launch t.core with
      | .split d s => (s.drovers.get? d).map fun x => (d, x.next, s)
      | _ => none

/-- The lanes of the given fragments end, each as its own EXIT (spec/07 R159). -/
def State.endLanes (s : State) (frs : List Nat) : State :=
  let s := frs.foldl (fun s k => match s.hereOf k with
    | some h => ((s.noteExit h h.f.mask).abandon h.gid h.f.mask).modGroup h.gid fun g => { g with exited := g.exited ||| h.f.mask }
    | none => s) s
  { s with frags := s.frags.filterE fun k _ => !frs.contains k }

/-- Must a rendezvous wait: the Drover from which the team would take a tile is being saved, saved or restored with its context, which
makes no dispatch and no split until it runs (R265)? -/
def State.tileWaits (s : State) (t : Team) : Bool :=
  t.drover.isSome && !((s.launches.get? t.launch).all fun l => s.runs l)

/-- Complete the rendezvous of a team whose live groups have all arrived. -/
def State.settleTilenx (s : State) (tid : Nat) : State :=
  match s.teams.get? tid with
  | none => s
  | some t =>
    let live := s.liveGroups tid
    if live.isEmpty || !(live.all s.atTilenx) then s else
    let frs := live.flatMap s.fragsOf
    let exits := frs.any fun k => (s.frags.get? k).map Frag.st == some (.parked (.tilenx true))
    if !exits && s.tileWaits t then s else
    let s := s.modTeam tid fun t =>
      { t with
        tile := none
        tilesDone := match t.tile with
          | some x => t.tilesDone ++
            [{ tile := x, cmd := (s.core t.core).nextId, sub := s.subCount, gone := (s.groupsOf tid).filter fun g => !live.contains g }]
          | none => t.tilesDone }
    if exits then s.endLanes frs
    else
      let (s, flag) := match s.takeTile t, s.launches.get? t.launch with
        | some (d, tile, s), some l =>
          let c := l.coords tile
          let s := s.modDrover d fun x => { x with next := x.next + 1, tiles := x.tiles ++ [(tile, tid)] }
          (s.modTeam tid fun t =>
            { t with
              drover := some d, tile := some tile, tx := BitVec.ofNat 32 c.1, ty := BitVec.ofNat 32 c.2.1
              tz := BitVec.ofNat 32 c.2.2, ti := BitVec.ofNat 32 tile }, false)
        | _, _ => (s, true)
      frs.foldl (fun s k => s.answer k flag) s

def execTilenx (w : EngW) (s : State) : Host.Outcome State Fault Refusal :=
  runSlot (.tilenx w) (fun h s =>
    if !s.sole h then .trap h.splitTrap
    else if s.sideBusy h then .stall
    else .placed ((s.park h.fid (.tilenx false)).settleTilenx h.tid)) s

def execTilenxExit (w : EngW) (s : State) : Host.Outcome State Fault Refusal :=
  runSlot (.tilenxExit w) (fun h s =>
    if !s.sole h then .trap h.splitTrap
    else if s.sideBusy h then .stall
    else .placed ((s.park h.fid (.tilenx true)).settleTilenx h.tid)) s

/-- A group of the team has become Gone: every rendezvous of the team is looked at again. -/
def State.afterGone (s : State) (tid : Nat) : State := (s.groupGone tid).settleTilenx tid

end Sys2Proof.Machine
end

