-- ==== Sys2Proof/Machine/Control.lean ====
section
/-! DEFINITION. Control: branches, calls, splits and fusion, exits, yields, software traps, regions and signatures, halts and
progress counters (spec/07 R139 to R161, spec/25 R407, R414, R415, spec/26 R420, R423). -/

namespace Sys2Proof.Machine

/-! ## Landing (spec/03 R33) -/

/-- The target of a format-B instruction: a signed line offset and a slot (spec/03 R44). -/
def Here.target (h : Here) (w : BrW) : VA := h.f.line + (w.lineOff.signExtend 56 <<< 6)

/-- May control land on a slot? `some false`: its TM bit is set. `some true`: the line cannot be read now, so the check waits
for its fetch. `none`: TARGET. -/
def State.landing (s : State) (h : Here) (line : VA) (slot : Nat) : Option Bool :=
  if line == h.f.line then (if lineTM h.f.buf slot then some false else none)
  else if inAperture line.toNat then some true
  else match s.xl h.core h.cx line.toNat .fetch with
  | .ok pa mt => if lineTM (BitVec.ofNat 512 (s.physRead mt pa 64)) slot then some false else none
  | _ => some true

/-- The trap of a missing TM bit. -/
def Here.targetTrap (h : Here) (slot : Nat) : RecInfo := { cause := .target, detail := slot, lanes := h.f.mask.toNat }

/-- Move the fragment by a transfer. -/
def State.goto (s : State) (h : Here) (line : VA) (slot : Fin 5) : State := s.modFrag h.fid fun f => f.leave line slot

/-- The trap of a fetch of a fragment's line (spec/03 R53; spec/23 R381, R386). -/
def State.fetchTrap (s : State) (h : Here) : Option RecInfo :=
  let va := h.f.line.toNat
  let r : RecInfo := { cause := .prot, lanes := h.f.mask.toNat, addr := va }
  if inAperture va then some r
  else match s.xl h.core h.cx va .fetch with
  | .fault d l => some { r with cause := .xlate, detail := d, info := l + 8 }
  | .prot i => some { r with info := i }
  | .ok _ _ => none

/-- Move the fragment by a transfer whose landing has been looked at. A line that cannot be read is entered, and its fetch traps
there; the resumption is not checked for TM (spec/03 R33, R53). -/
def State.land (s : State) (h : Here) (line : VA) (slot : Fin 5) (unread : Bool) : State :=
  let s := s.goto h line slot
  match unread, s.hereOf h.fid with
  | true, some h' =>
    match h'.f.st, s.fetchTrap h' with
    | .ready, some r => s.takeTrap h' r
    | _, _ => s
  | _, _ => s

/-- A transfer: under the TM check. -/
def State.transfer (s : State) (h : Here) (line : VA) (slot : Fin 5) : SlotResult :=
  match s.landing h line slot.val with
  | none => .trap (h.targetTrap slot.val)
  | some c => .moved (s.land h line slot c)

/-- The code pointer of the slot after the current one. -/
def Here.nextPtr (h : Here) : W64 :=
  if h.f.slot.val < 4 then codePtr h.f.line (h.f.slot + 1) else codePtr (h.f.line + 64) 0

/-! ## BR, CALL, RET, JMPI (spec/07 R156, R157) -/

/-- The condition of a branch. -/
def Here.cond (h : Here) (w : BrW) : Bool :=
  match w.cond with
  | .always => true
  | .cset => h.srcC w.a
  | .cclr => !h.srcC w.a
  | .kz => h.srcK w.a 0 &&& h.f.mask == 0
  | .knz => h.srcK w.a 0 &&& h.f.mask != 0

def execBr (w : BrW) (s : State) : Host.Outcome State Fault Refusal :=
  runSlot (.br w) (fun h s => if h.cond w then s.transfer h (h.target w) w.slot else .done s) s

def execCall (w : BrW) (s : State) : Host.Outcome State Fault Refusal :=
  runSlot (.call w) (fun h s =>
    match s.landing h (h.target w) w.slot.val with
    | none => .trap (h.targetTrap w.slot.val)
    | some c => .moved ((s.writeS h w.dst w.ws h.nextPtr).land h (h.target w) w.slot c)) s

/-- A transfer to a code pointer in a register (R155). -/
def jumpSlot (w : EngW) (h : Here) (s : State) : SlotResult :=
  let p := (h.srcS w.a).toNat
  if 2 ^ 56 ≤ p || bitsN p 5 3 != 0 || 5 ≤ p % 8 then
    .trap { cause := .align, lanes := h.f.mask.toNat, addr := p % 2 ^ 56 }
  else s.transfer h (BitVec.ofNat 56 (p / 64 * 64)) (Fin.ofNat 5 (p % 8))

def execRet (w : EngW) (s : State) : Host.Outcome State Fault Refusal := runSlot (.ret w) (jumpSlot w) s
def execJmpi (w : EngW) (s : State) : Host.Outcome State Fault Refusal := runSlot (.jmpi w) (jumpSlot w) s

/-! ## SPLIT (R141) -/

/-- The fusion line of a SPLIT. -/
def Here.fuseLine (h : Here) (w : BrW) : VA := h.f.line + (w.foff.signExtend 56 <<< 6)

/-- Serialised records in the group's split spill area. -/
def Group.records (g : Group) : Nat := (g.fps.filter fun e => e.2.serial).length

/-- Add a pending fusion point to a group. -/
def State.pushPoint (s : State) (gid : Nat) (p : FusePoint) : State :=
  s.modGroup gid fun g => { g with fps := g.fps.set g.nextFp p, nextFp := g.nextFp + 1 }

/-- SPLIT (R141). DESIGN CHOICE: the current fragment goes on in its line (Issuing, at its next slot), and only the new one enters
Ready; R140's table puts both into Ready (log 26). -/
def splitSlot (w : BrW) (h : Here) (s : State) : SlotResult :=
  let k := h.srcK w.b 0
  let t := h.f.mask &&& k
  let e := h.f.mask &&& ~~~k
  if t == 0 then s.transfer h (h.target w) w.slot
  else if e == 0 then .done s
  else match s.landing h (h.target w) w.slot.val with
  | none => .trap (h.targetTrap w.slot.val)
  | some c =>
    let p : FusePoint := { line := h.fuseLine w, mask := h.f.mask }
    match s.freeEntries (fragPart h.fid) with
    | k :: _ =>
      let chain := h.g.nextFp :: h.f.chain
      let s := s.pushPoint h.gid p
      let s := { s with nextFrag := s.nextFrag + 1 }.putFrag k
        { group := h.gid, line := h.target w, slot := w.slot, entry := w.slot, mask := e, chain := chain, last := s.stamp
          uid := s.nextFrag, checkTm := c }
      .done (s.modFrag h.fid fun f => { f with mask := t, chain := chain, sig := 0xFFFFFFFF })
    | [] =>
      if !h.t.splitSpill || 16 ≤ h.g.records then .trap { cause := .split, detail := 0, lanes := h.f.mask.toNat }
      else
        let s := s.pushPoint h.gid { p with serial := true, target := h.target w, tslot := w.slot, e := e }
        .done (s.modFrag h.fid fun f => { f with mask := t, chain := h.g.nextFp :: f.chain })

def execSplit (w : BrW) (s : State) : Host.Outcome State Fault Refusal := runSlot (.split w) (splitSlot w) s

/-! ## FUSE (R142, R158) -/

/-- Live fragments of the group, other than `fid`, whose chain holds the point. -/
def State.sharing (s : State) (gid fid p : Nat) : List Nat :=
  (s.fragsOf gid).filter fun k => k != fid && match s.frags.get? k with
    | some f => f.chain.contains p
    | none => false

/-- Lane conservation at a fusion (R142): arrivals disjoint from each other and from the lanes exited, together the recorded
mask. -/
def FusePoint.conserved (p : FusePoint) (a b : W32) : Bool :=
  a &&& b == 0 && (a ||| b) &&& p.exited == 0 && (a ||| b ||| p.exited) == p.mask

/-- Free the split entries of Gone fragments that no pending point names, and the points that no live fragment holds. -/
def State.reap (s : State) (gid : Nat) : State :=
  let live := (s.fragsOf gid).filterMap s.frags.get?
  let s := s.modGroup gid fun g => { g with fps := g.fps.filterE fun k _ => live.any fun f => f.chain.contains k }
  let fps := match s.groups.get? gid with | some g => g.fps | none => []
  { s with frags := s.frags.filterE fun _ f => f.group != gid || f.st != .gone || f.chain.any fps.has }

/-- Two fragments become one at slot 1 of the fusion line: the lower entry stays (R142). A fused fragment's signature starts
anew (spec/26 R421). -/
def State.fuseAt (s : State) (gid keep drop p : Nat) (mask : W32) : State :=
  let stop := ((s.frags.get? drop).map Frag.stopAt).getD false
  let s := s.modFrag keep fun f =>
    { f with
      mask := mask, chain := f.chain.filter (· != p), sig := 0xFFFFFFFF, slot := 1, done := f.done ||| 1
      stopAt := f.stopAt || stop }
  let s := if keep == drop then s else { s with frags := s.frags.erase drop }
  (s.modGroup gid fun g => { g with fps := g.fps.erase p }).reap gid

/-- Release a fragment that waits in FUSE once it is alone at its point. -/
def State.wakeFusing (s : State) (gid p : Nat) : Except Unit State :=
  match (s.groups.get? gid).bind fun g => g.fps.get? p with
  | none => .ok s
  | some pt =>
    match (s.fragsOf gid).filter fun k => match s.frags.get? k with
        | some f => f.chain.contains p
        | none => false with
    | [k] =>
      match s.frags.get? k with
      | some f =>
        if f.st == .fusing && f.chain.head? == some p then
          if !pt.conserved f.mask pt.arrivedT then .error ()
          else .ok ((s.fuseAt gid k k p (f.mask ||| pt.arrivedT)).modFrag k fun f => { f with st := .ready, latches := [], replay := true })
        else .ok s
      | none => .ok s
    | _ => .ok s

def fuseSlot (h : Here) (s : State) : SlotResult :=
  if h.f.slot != 0 then .trap (h.decodeTrap .ri 5) else
  match h.f.chain with
  | [] => .done s
  | p :: rest =>
    match h.g.fps.get? p with
    | none => .done s
    | some pt =>
      if pt.line != h.f.line then .done s
      else if pt.serial && !pt.ran then
        let s := s.modGroup h.gid fun g => { g with fps := g.fps.set p { pt with ran := true, arrivedT := h.f.mask } }
        .moved (s.modFrag h.fid fun f => { f.leave pt.target pt.tslot with mask := pt.e, checkTm := true })
      else
        let others := s.sharing h.gid h.fid p
        let here := others.filter fun k => match s.frags.get? k with
          | some f => f.st == .fusing && f.chain.head? == some p
          | none => false
        match others, here with
        | [], _ =>
          if !pt.conserved h.f.mask pt.arrivedT then .freeze .signat
          else
            let s := s.modFrag h.fid fun f => { f with mask := f.mask ||| pt.arrivedT, chain := rest, sig := 0xFFFFFFFF }
            .done ((s.modGroup h.gid fun g => { g with fps := g.fps.erase p }).reap h.gid)
        | [_], [k] =>
          match s.frags.get? k with
          | none => .done s
          | some f =>
            if !pt.conserved h.f.mask (f.mask ||| pt.arrivedT) || f.mask &&& pt.arrivedT != 0 then .freeze .signat
            else
              let mask := h.f.mask ||| f.mask ||| pt.arrivedT
              if h.fid < k then
                let s := { s with frags := s.frags.erase k }
                let s := s.modFrag h.fid fun g => { g with mask := mask, chain := rest, sig := 0xFFFFFFFF, stopAt := g.stopAt || f.stopAt }
                .done ((s.modGroup h.gid fun g => { g with fps := g.fps.erase p }).reap h.gid)
              else
                .moved ((s.fuseAt h.gid k h.fid p mask).modFrag k fun f =>
                  { f with st := .ready, latches := [], replay := true })
        | _, _ => .moved (s.modFrag h.fid fun f => { f with st := .fusing, latches := [], stall := false })

def execFuse (w : EngW) (s : State) : Host.Outcome State Fault Refusal := runSlot (.fuse w) fuseSlot s

/-! ## EXIT (R159) -/

/-- The lane sets of R159: live fragments, the spill records' pending and recorded lanes, the lanes exited; none counted
twice, together the group's lane set. -/
def State.lanesConserved (s : State) (gid : Nat) : Bool :=
  match s.groups.get? gid with
  | none => true
  | some g =>
    let masks := ((s.fragsOf gid).filterMap s.frags.get?).map Frag.mask ++
      (g.fps.map fun e => if !e.2.serial then 0 else if e.2.ran then e.2.arrivedT else e.2.e) ++ [g.exited]
    let r := masks.foldl (fun (a : W32 × Bool) m => (a.1 ||| m, a.2 && a.1 &&& m == 0)) (0, true)
    r.2 && r.1 == g.laneSet

/-- The innermost serialised point of a chain whose complement has not run, with the chain from it on. -/
def pendingSerial (fps : SMap FusePoint) : List Nat → Option (Nat × FusePoint × List Nat)
  | [] => none
  | p :: rest =>
    match fps.get? p with
    | some pt => if pt.serial && !pt.ran then some (p, pt, p :: rest) else pendingSerial fps rest
    | none => pendingSerial fps rest

/-- Wake fragments that wait in FUSE at the points of a chain. -/
def State.wakeChain (s : State) (gid : Nat) (chain : List Nat) : Except Unit State :=
  chain.foldl (fun (r : Except Unit State) p => r.bind fun s => s.wakeFusing gid p) (.ok s)

def exitSlot (w : EngW) (h : Here) (s : State) : SlotResult :=
  let out := h.active w.g w.gn
  if out == 0 then .done s else
  let s := (s.noteExit h out).abandon h.gid out
  let left := h.f.mask &&& ~~~out
  let s := s.modGroup h.gid fun g =>
    { g with exited := g.exited ||| out
             fps := g.fps.mapV fun k p => if h.f.chain.contains k then { p with exited := p.exited ||| out } else p }
  let s := s.modFrag h.fid fun f => { f with mask := left }
  if left != 0 then (if s.lanesConserved h.gid then .done s else .freeze .signat)
  else
    let fps := match s.groups.get? h.gid with | some g => g.fps | none => []
    match pendingSerial fps h.f.chain with
    | some (p, pt, chain) =>
      let s := s.modGroup h.gid fun g => { g with fps := g.fps.set p { pt with ran := true } }
      let s := s.modFrag h.fid fun f => { f.leave pt.target pt.tslot with mask := pt.e, chain := chain, checkTm := true }
      match s.wakeChain h.gid (h.f.chain.filter fun q => !chain.contains q) with
      | .error _ => .freeze .signat
      | .ok s => if s.lanesConserved h.gid then .moved (s.reap h.gid) else .freeze .signat
    | none =>
      let s := s.modFrag h.fid fun f => { f with st := .gone, stall := false, latches := [] }
      match s.wakeChain h.gid h.f.chain with
      | .error _ => .freeze .signat
      | .ok s =>
        if !s.lanesConserved h.gid then .freeze .signat
        else
          let s := s.reap h.gid
          .moved (if s.live h.gid then s else s.afterGone h.tid)

def execExit (w : EngW) (s : State) : Host.Outcome State Fault Refusal := runSlot (.exit w) (exitSlot w) s

/-! ## YIELD, TRAPI, BRK (R160, R161, spec/25 R415) -/

def execYield (w : EngW) (s : State) : Host.Outcome State Fault Refusal :=
  runSlot (.yield w) (fun h s => .moved (s.modFrag h.fid fun f =>
    let f := f.mark
    if f.slot.val < 4 then
      { f.shed with slot := f.slot + 1, st := .ready, last := s.stamp, noBrk := false, wait := 0, woken := false }
    else { f.leave (f.line + 64) 0 with last := s.stamp })) s

def execTrapi (w : EngW) (s : State) : Host.Outcome State Fault Refusal :=
  runSlot (.trapi w) (fun h _ => .trap { cause := .trapi, lanes := h.f.mask.toNat, info := w.imm.toNat }) s

def execBrk (w : EngW) (s : State) : Host.Outcome State Fault Refusal :=
  runSlot (.brk w) (fun h s =>
    if h.cx.debugger then .placed (s.haltNow h.gid)
    else .trap { cause := .brk, lanes := h.f.mask.toNat, info := w.imm.toNat }) s

/-! ## Regions and signatures (spec/26 R420, R423) -/

def execRgn (w : EngW) (s : State) : Host.Outcome State Fault Refusal :=
  runSlot (.rgn w) (fun h s =>
    if !s.sole h then .trap h.splitTrap
    else .done (s.modGroup h.gid fun g => { g.heal .rgnpc with
      rgnpc := (codePtr h.f.line h.f.slot).truncate 56, events := if g.rgnpc == 0 then 0 else g.events })) s

def execRgnClose (w : EngW) (s : State) : Host.Outcome State Fault Refusal :=
  runSlot (.rgnClose w) (fun h s =>
    if !s.sole h then .trap h.splitTrap else .done (s.modGroup h.gid fun g => { g.heal .rgnpc with rgnpc := 0, events := 0 })) s

def execSigchk (w : EngW) (s : State) : Host.Outcome State Fault Refusal :=
  runSlot (.sigchk w) (fun h s =>
    if h.f.sig != w.imm then .freeze .signat else .done (s.modFrag h.fid fun f => { f with sig := 0xFFFFFFFF })) s

/-! ## PROG and HALT (spec/25 R407, R414) -/

def execProg (w : EngW) (s : State) : Host.Outcome State Fault Refusal :=
  runSlot (.prog w) (fun h s =>
    let n := w.imm.toNat % 16
    .done (s.modCtx h.t.ctx fun c => { c with progress := c.progress.setD 0 n (c.progress.getD 0 n + 1) })) s

/-- HALT: its fragment stops at the slot after it, the team's others at their next line boundaries. With a debugger the team's
groups are halted; else a record is posted and the team waits on the handler. -/
def execHalt (w : EngW) (s : State) : Host.Outcome State Fault Refusal :=
  runSlot (.halt w) (fun h s =>
    let s := s.account h.fid h.gid (fieldsOf (.halt w))
    let s := s.modFrag h.fid fun f =>
      let f := f.mark.advance
      let g := if f.st == .issuing then { f.shed with st := .ready, paired := false } else f
      if h.cx.debugger then g else { g with st := .parked .halt, hold := g.hold || g.st == .parked .bound }
    if h.cx.debugger then
      .placed ((s.groupsOf h.tid).foldl (fun s g => s.modGroup g fun x => { x with halted := true, stopCause := .debug }) s)
    else
      let s := s.modTeam h.tid fun t => { t with haltedBy := some h.fid }
      match s.hereOf h.fid with
      | some h' => .placed (s.post h.t.ctx (s.recOf h' { cause := .debug, detail := 1, lanes := h.f.mask.toNat }))
      | none => .placed s) s

end Sys2Proof.Machine
end

