-- ==== Sys2Proof/Machine/Copy.lean ====
section
/-! DEFINITION. Copy: per-lane copies, their seals, bulk copies and the combined line copies of the Hinges (spec/10 R212 to
R214, R223, R224, R227). -/

namespace Sys2Proof.Machine

/-! ## Copying bytes with their poison (spec/26 R417) -/

/-- Mark the words of HBM that meet a range. -/
def State.markPoison (s : State) (mt pa n : Nat) : State :=
  if 2 ≤ mt || n == 0 then s
  else { s with poison := (List.range ((pa + n - 1) / 8 - pa / 8 + 1)).foldl (fun p i => p.setD false (pa / 8 + i) true) s.poison }

/-- Mark scratchpad words. -/
def Team.markScr (t : Team) (off n : Nat) : Team :=
  if n == 0 then t
  else { t with scrPoison :=
      (List.range ((off + n - 1) / 4 - off / 4 + 1)).foldl (fun p i => p.setD false (off / 4 + i) true) t.scrPoison }

/-- The bytes of a physical range that hold poison, by offset. -/
def State.badBytes (s : State) (mt pa n : Nat) : List Nat := (List.range n).filter fun i => s.poisoned mt (pa + i) 1

/-- Global element into scratchpad. -/
def State.copyIn (s : State) (tid mt pa off n : Nat) : State :=
  let bad := s.badBytes mt pa n
  (s.dropCopies tid [off / 128]).modTeam tid fun t => bad.foldl (fun t i => t.markScr (off + i) 1) (t.scrPut off n (s.physRead mt pa n))

/-- Scratchpad element to global memory. -/
def State.copyOut (s : State) (tid mt pa off n : Nat) : State :=
  match s.teams.get? tid with
  | none => s
  | some t =>
    let s := s.physWrite mt pa n (t.scrGet off n)
    ((List.range n).filter fun i => t.scrBad (off + i) 1).foldl (fun s i => s.markPoison mt (pa + i) 1) s

/-- Copy `k` bytes between virtual addresses, the destination inside one 8-byte word. A word replaced in part whose old value is
lost is consumed (spec/26 R417). -/
def State.copyUnit (s : State) (core : Nat) (cx : Ctx) (src dst k : Nat) : Except XErr State :=
  match (List.range k).findSome? fun i => s.xlErr core cx (src + i) false with
  | some e => .error e
  | none =>
  match s.xlErr core cx dst true with
  | some e => .error e
  | none =>
    if s.vPartPoison core cx dst k then .error { cause := .uncorr, addr := dst, pa := (s.poisonAt core cx dst k .write).getD 0 } else
    let bad := (List.range k).any fun i => s.vPoison core cx (src + i) 1 .read
    let s := (List.range k).foldl (fun s i => s.touch core cx (src + i) false) s
    let s := s.vstore core cx dst k (s.vread core cx src k)
    match bad, s.xl core cx dst .write with
    | true, .ok pd md => .ok (s.markPoison md pd k)
    | _, _ => .ok s

/-- The record of an engine command's fault, naming its instruction. -/
def Here.report (h : Here) : Report :=
  { cause := .xlate, detail := 0, lanes := h.f.mask, active := h.f.mask, line := h.f.line, slot := h.f.slot, addr := 0
    info := 2 ^ 63 + 2 ^ 62, paired := h.f.paired }

/-- Bytes of a command's writes that no link can deliver are discarded as a store's are (spec/24 R398). -/
def State.noteLostWrite (s : State) (gid fid : Nat) (r : Report) (mt pa va : Nat) : State :=
  if mt == 3 && !s.reach pa then s.noteLost gid fid { r with addr := va } else s

/-! ## CPL (R212) -/

/-- A per-lane operand that may be a scalar or a vector pair. -/
def Here.addr64 (h : Here) (o : Opnd) (l : Nat) : Nat := h.src64 o 0 l

/-- Checks of a lane. -/
def State.cplLane (s : State) (h : Here) (isOut : Bool) (n ga so : Nat) : Option LaneTrap :=
  if ga % n != 0 then some { cause := .align, addr := ga % 2 ^ 56 }
  else if so % n != 0 then some { cause := .align, addr := so }
  else if h.t.fixedLen < so + n then some { cause := .spad, addr := so }
  else s.checkGlobal h ga n (if isOut then .write else .read) true

/-- Lowest and highest of a list. -/
def span (xs : List Nat) : Nat × Nat := (xs.foldl min (xs.headD 0), xs.foldl max 0)

/-- Register the two ranges of a CPL, raise the counts of its lines, and issue its transfers. Of lanes that write one global
element the highest's remains, whichever line lands last (R213). -/
def cplSlot (w : EngW) (isOut : Bool) (h : Here) (s : State) : SlotResult :=
  if s.sideBusy h then .stall else
  let n := 4 * 2 ^ (w.imm.toNat % 4)
  let act := h.active w.g w.gn
  let ls := lanesOf act
  let ga := h.addr64 w.a
  let so (l : Nat) : Nat := h.src32 w.b 0 l
  if ls.isEmpty then .done s else
  match pickTrap (failing act fun l => s.cplLane h isOut n (ga l) (so l)) with
  | some r => .trap r
  | none =>
    let lines := linesOf (ls.map so)
    if !isOut && lines.any fun ln => 15 ≤ h.t.absent.getD 0 ln then .stall else
    let id := (s.core h.core).nextId
    let (g0, g1) := span (ls.map ga)
    let (s0, s1) := span (ls.map so)
    match s.haspAdd h.core [haspRange isOut 0 (id % 256) h.cx.asid g0 (g1 - g0 + n),
        haspScrRange (!isOut) 0 (id % 256) h.cx.asid h.tid s0 (s1 - s0 + n)] with
    | none => .stall
    | some (ids, s) =>
      let s := ls.foldl (fun s l => s.touch h.core h.cx (ga l) isOut) s
      let pa (l : Nat) : Nat × Nat := match s.xl h.core h.cx (ga l) (if isOut then .write else .read) with
        | .ok pa mt => (mt, pa)
        | _ => (0, 0)
      let hidden (l : Nat) : Bool := isOut && ls.any fun k => decide (l < k) && pa k == pa l
      let xs : List Xfer := lines.map fun ln =>
        { group := h.gid, frag := h.fid, report := h.report, team := h.tid, cmd := id, isIn := !isOut, line := ln, width := n
          moves := (ls.filter fun l => so l / 128 == ln && !hidden l).map fun l => ((pa l).1, (pa l).2, so l) }
      let first := id + 1
      let s := s.modCore h.core fun c =>
        { c with
          cpls := c.cpls.set id { entries := ids }
          xfers := (xs.zipIdx.foldl (fun m e => m.set (first + e.2) e.1) c.xfers)
          nextId := first + xs.length }
      let s := s.modGroup h.gid fun g => { g with openCpl := g.openCpl ++ (List.range xs.length).map (first + ·) }
      .done (if isOut then s else s.modTeam h.tid fun t =>
        { t with absent := lines.foldl (fun m ln => m.setD 0 ln (m.getD 0 ln + 1)) t.absent })

def execCplIn (w : EngW) (s : State) : Host.Outcome State Fault Refusal := runSlot (.cplIn w) (cplSlot w false) s
def execCplOut (w : EngW) (s : State) : Host.Outcome State Fault Refusal := runSlot (.cplOut w) (cplSlot w true) s

/-- Fragments of a core that wait for an absent line look again. -/
def State.wakeAbsent (s : State) (core : Nat) : State :=
  (s.frags.filter fun e => fragCore e.1 == core && e.2.st == .parked .absent).foldl (fun s e => s.resume e.1) s

/-- CPL_LINE_LAND: the transfers of one line land; a source line is read once it is present. -/
def execCplLineLand (core id : Nat) (s : State) : Host.Outcome State Fault Refusal :=
  match (s.core core).xfers.get? id with
  | none => .next s
  | some x =>
    let here := match s.teams.get? x.team with
      | some t => x.isIn || !t.absent.has x.line
      | none => true
    if !here then .next s else
    let lost := !x.isIn && x.moves.any fun m => s.partPoisoned m.1 m.2.1 x.width
    let s := if lost then s.freezeGroup x.group 8 ((x.moves.findSome? fun m => s.poisonWord m.1 m.2.1 x.width).getD 0) else x.moves.foldl (fun s m =>
      if x.isIn then s.copyIn x.team m.1 m.2.1 m.2.2 x.width
      else (s.noteLostWrite x.group x.frag x.report m.1 m.2.1 0).copyOut x.team m.1 m.2.1 m.2.2 x.width) s
    let s := s.modCore core fun c => { c with xfers := c.xfers.erase id }
    let s := if x.isIn then
        (s.modTeam x.team fun t => { t with absent := t.absent.setD 0 x.line (t.absent.getD 0 x.line - 1) }).wakeAbsent core
      else s
    if (s.core core).xfers.any fun e => e.2.cmd == x.cmd then .next s
    else
      let ids := match (s.core core).cpls.get? x.cmd with | some c => c.entries | none => []
      .next ((s.haspDrop core ids).modCore core fun c => { c with cpls := c.cpls.erase x.cmd })

/-! ## CPSEAL (R214) -/

/-- Check a stamp address as an 8-byte store would be (R187). -/
def State.stampTrap (s : State) (h : Here) (va : Nat) : Option RecInfo :=
  (pickTrap (((s.laneGlobal h va 8 .write).map fun t => (0, t)).toList)).map fun r => { r with lanes := h.f.mask.toNat }

def execCpseal (w : EngW) (s : State) : Host.Outcome State Fault Refusal :=
  runSlot (.cpseal w) (fun h s =>
    if s.sideBusy h then .stall else
    let va := (h.srcS w.a).toNat
    match s.stampTrap h va with
    | some r => .trap r
    | none =>
      let s := s.modCore h.core fun c =>
        { c with
          seals := c.seals.set c.nextId
            { group := h.gid, ctx := h.t.ctx, xfers := h.g.openCpl, addr := va, value := h.srcS w.b, scope := w.imm.toNat % 8 }
          nextId := c.nextId + 1 }
      .done (s.modGroup h.gid fun g => { g with openCpl := [] })) s

/-- Has the batch landed, with every earlier batch of its group stamped? -/
def Core.sealReady (c : Core) (id : Nat) (b : SealBatch) : Bool :=
  !(b.xfers.any c.xfers.has) && !(c.seals.any fun e => e.1 < id && e.2.group == b.group)

/-- CPSEAL_STAMP_WRITE. -/
def execCpsealStampWrite (core id : Nat) (s : State) : Host.Outcome State Fault Refusal :=
  match (s.core core).seals.get? id with
  | none => .next s
  | some b =>
    if !(s.core core).sealReady id b then .next s else
    match s.stampAt core b.ctx b.addr b.value none with
    | .error s => .next s
    | .ok s => .next (s.modCore core fun c => { c with seals := c.seals.erase id })

/-! ## Reading the Hasp table (R209) -/

/-- An entry as Shento and the debug core read it: a scratchpad range by its offset in the core. -/
def State.haspBits (s : State) (core k : Nat) : BitVec 256 :=
  match (s.core core).hasp.get? k with
  | none => 0
  | some x =>
    let base := if x.scratch then ((s.teams.get? x.team).map Team.base).getD 0 else 0
    BitVec.ofNat 256 (1 + (if x.wlock then 2 else 0) + (if x.scratch then 4 else 0) + x.owner % 32 * 2 ^ 3 + x.tag % 256 * 2 ^ 8 +
      x.asid % 512 * 2 ^ 16 + (base + x.first) % 2 ^ 56 * 2 ^ 32 + (base + x.last) % 2 ^ 56 * 2 ^ 96)

/-! ## BCPY (R223, R224) -/

/-- Read a 64-byte descriptor as the group's load (R220, R224): its trap, or the bytes. -/
def State.readDesc (s : State) (h : Here) (va : Nat) : Except RecInfo (BitVec 512 × State) :=
  match pickTrap (((s.laneGlobal h va 64 .read).map fun t => (0, t)).toList) with
  | some r => .error { r with lanes := h.f.mask.toNat }
  | none =>
    let s := s.touch h.core h.cx va false
    .ok (BitVec.ofNat 512 (s.vload h.core h.cx va 64), s)

/-- The trap of an engine command whose range meets the sync aperture (spec/08 R165). -/
def Here.aperTrap (h : Here) (va : Nat) : RecInfo := { cause := .prot, lanes := h.f.mask.toNat, addr := max va apertureBase % 2 ^ 56 }

def bcpySlot (w : EngW) (h : Here) (s : State) : SlotResult :=
  if s.sideBusy h then .stall else
  let va := (h.srcS w.a).toNat
  match s.readDesc h va with
  | .error r => .trap r
  | .ok (d, s1) =>
    if s.vPoison h.core h.cx va 64 .read then s.eatPoison h .read [(va, 64)] else
    let f (hi lo : Nat) : Nat := bitsN d.toNat hi lo
    let (src, dst, rowb, rows) := (f 55 0, f 119 64, f 159 128, f 191 160)
    let (sp, dp) := (f 223 192, f 255 224)
    if f 63 56 != 0 || f 127 120 != 0 || f 319 312 != 0 || f 511 387 != 0 || 6 ≤ f 386 384 || (1 < rows && dp < rowb)
    then .trap (h.decodeTrap .ri 5) else
    let some' := rows != 0 && rowb != 0
    let sn := (rows - 1) * sp + rowb
    let dn := (rows - 1) * dp + rowb
    if some' && src < dst + dn && dst < src + sn then .trap { cause := .hasp, detail := 3, lanes := h.f.mask.toNat, addr := src }
    else match s.stampTrap h (f 311 256) with
    | some r => .trap r
    | none =>
      if some' && meetsAperture src sn then .trap (h.aperTrap src)
      else if some' && meetsAperture dst dn then .trap (h.aperTrap dst)
      else
        let id := (s1.core h.core).nextId
        match s1.haspAdd h.core (if some' then [haspRange false 1 (id % 256) h.cx.asid src sn,
            haspRange true 1 (id % 256) h.cx.asid dst dn] else []) with
        | none => .stall
        | some (ids, s) =>
          .done (s.modCore h.core fun c =>
            { c with
              bulks := c.bulks.set id { group := h.gid, frag := h.fid, report := h.report, ctx := h.t.ctx, desc := d, entries := ids }
              nextId := id + 1 })

def execBcpy (w : EngW) (s : State) : Host.Outcome State Fault Refusal := runSlot (.bcpy w) (bcpySlot w) s

/-- Copy bytes of a bulk copy from `i` on, until a fault: whole 8-byte words of the destination where a row holds them. -/
def copyBulk (core : Nat) (cx : Ctx) (d : BitVec 512) : Nat → Nat → State → State × Nat × Option XErr
  | 0, i, s => (s, i, none)
  | fuel + 1, i, s =>
    let f (hi lo : Nat) : Nat := bitsN d.toNat hi lo
    let rowb := f 159 128
    if rowb == 0 || rowb * f 191 160 ≤ i then (s, i, none)
    else
      let dst := f 119 64 + i / rowb * f 255 224 + i % rowb
      let k := if dst % 8 == 0 && 8 ≤ rowb - i % rowb then 8 else 1
      match s.copyUnit core cx (f 55 0 + i / rowb * f 223 192 + i % rowb) dst k with
      | .ok s => copyBulk core cx d fuel (i + k) s
      | .error e => (s, i, some e)

/-- A command of a group ends under R223: a record for the group, which parks at its next line boundary when it is live. One that
has consumed an error freezes its group instead (spec/26 R417). -/
def State.engineFault (s : State) (gid fid : Nat) (r : Report) (e : XErr) : State :=
  if e.cause == .uncorr then s.freezeGroup gid e.arr e.pa else
  let s := s.postReport gid fid { r with cause := e.cause, detail := e.detail, addr := e.addr % 2 ^ 56, info := r.info + e.info }
  if s.live gid then s.stopGroup gid else s

/-- Stamp the copies of a group that are ready, in issue order (spec/08 R179). -/
def State.stampBulks (s : State) (core : Nat) (ids : List Nat) : State :=
  ids.foldl (fun s id =>
    match (s.core core).bulks.get? id with
    | none => s
    | some b =>
      if !b.ready || (s.core core).bulks.any fun e => e.1 < id && e.2.group == b.group then s
      else
        let drop (s : State) : State := s.modCore core fun c => { c with bulks := c.bulks.erase id }
        if b.failed then drop s
        else match s.stampAt core b.ctx (bitsN b.desc.toNat 311 256) (BitVec.ofNat 64 (bitsN b.desc.toNat 383 320)) none with
        | .ok s => drop s
        | .error s => s) s

/-- BCPY_COMPLETE: the copy goes on; a translation fault parks it, a permission fault ends it; when it is whole its Hasp entries
are freed and its stamp is written. -/
def execBcpyComplete (core id : Nat) (s : State) : Host.Outcome State Fault Refusal :=
  match (s.core core).bulks.get? id with
  | none => .next s
  | some b =>
    let all := ((s.core core).bulks.map (·.1))
    if b.ready then .next (s.stampBulks core all)
    else if b.parked.isSome || !b.locked then .next s
    else match s.ctxs.get? b.ctx with
    | none => .next s
    | some cx =>
      let set (f : Bulk → Bulk) (s : State) : State := s.modCore core fun c => { c with bulks := c.bulks.modify id f }
      let n := bitsN b.desc.toNat 159 128 * bitsN b.desc.toNat 191 160
      let dest (i : Nat) : Nat :=
        bitsN b.desc.toNat 119 64 + i / bitsN b.desc.toNat 159 128 * bitsN b.desc.toNat 255 224 + i % bitsN b.desc.toNat 159 128
      let lost := (List.range n).find? fun i => s.storeLost core cx (dest i)
      let s := match lost with
        | some i => if i < b.copied then s else s.noteLost b.group b.frag { b.report with addr := dest i }
        | none => s
      match copyBulk core cx b.desc n b.copied s with
      | (s, _, none) =>
        .next ((set (fun b => { b with ready := true, copied := n, entries := [] }) (s.haspDrop core b.entries)).stampBulks core all)
      | (s, i, some e) =>
        if e.cause == .xlate then .next (set (fun b => { b with copied := i / 128 * 128, parked := some e.addr }) s) else
        let s := set (fun b => { b with ready := true, failed := true, copied := i / 128 * 128, entries := [] })
          (s.haspDrop core b.entries)
        .next ((s.engineFault b.group b.frag b.report e).stampBulks core all)

/-- HINGE_COPY_EXPIRE: a Hinge drops its copy of a window line, 2 µs after it arrived (R227). -/
def execHingeCopyExpire (hinge line : Nat) (s : State) : Host.Outcome State Fault Refusal :=
  .next { s with hinges := s.hinges.filter fun e => !(e.1 == hinge && e.2.2 == line) }

end Sys2Proof.Machine
end

