-- ==== Sys2Proof/Machine/Stream.lean ====
section
/-! DEFINITION. Stream: tensor layout records, the stream engines' states and rings, and the instructions on them (spec/10 R215
to R223). -/

namespace Sys2Proof.Machine

/-! ## Tensor layout records (R216, R217) -/

/-- A record's fields. -/
structure Tlr where
  bits : BitVec 512
  deriving DecidableEq, Repr

namespace Tlr

def fld (t : Tlr) (hi lo : Nat) : Nat := bitsN t.bits.toNat hi lo
def ty (t : Tlr) : Ty := Ty.ofCode (BitVec.ofNat 4 (t.fld 3 0))
def drain (t : Tlr) : Bool := t.bits.getLsbD 4
def wsrc (t : Tlr) : Bool := t.bits.getLsbD 5
def rank (t : Tlr) : Nat := t.fld 10 8
def nslot (t : Tlr) : Nat := t.fld 19 16 + 1
def ring (t : Tlr) : Nat := t.fld 63 32
def slotb (t : Tlr) : Nat := t.fld 95 64
def base (t : Tlr) : Nat := if t.wsrc then t.fld 127 96 else t.fld 151 96
def size (t : Tlr) (d : Nat) : Nat := t.fld (191 + 32 * d) (160 + 32 * d)
def box (t : Tlr) (d : Nat) : Nat := t.fld (327 + 8 * d) (320 + 8 * d) + 1
def stride (t : Tlr) (d : Nat) : Nat := if d == 0 then 0 else t.fld (391 + 32 * (d - 1)) (360 + 32 * (d - 1))
/-- Element bits: an e2m1b element takes 4. -/
def ebits (t : Tlr) : Nat := match t.ty with | .e2m1b => 4 | ty => ty.bits
/-- Bytes of a tile's row along dimension 0. -/
def rowb (t : Tlr) : Nat := (t.box 0 * t.ebits + 7) / 8
def dims (t : Tlr) : List Nat := List.range t.rank
/-- Tiles along a dimension. -/
def nt (t : Tlr) (d : Nat) : Nat := ceilDiv (t.size d) (t.box d)
def tiles (t : Tlr) : Nat := (t.dims.map t.nt).foldl (· * ·) 1
/-- Rows of a tile. -/
def rows (t : Tlr) : Nat := ((t.dims.drop 1).map t.box).foldl (· * ·) 1

/-- The REASON for which SEPROG refuses the record, in the order of R217's list. -/
def refuse (t : Tlr) (alloc : Nat) : Option Nat :=
  let eb := max 1 (t.ebits / 8)
  if t.fld 15 11 != 0 || t.fld 31 20 != 0 || t.fld 159 152 != 0 || t.fld 511 488 != 0 || (t.wsrc && !t.drain && t.fld 151 132 != 0) then some 2
  else if t.rank == 0 || 5 < t.rank || t.fld 7 6 == 3 then some 3
  else if (List.range 5).any fun d => t.rank ≤ d && (t.size d != 0 || t.box d != 1 || t.stride d != 0) then some 3
  else if t.wsrc && t.drain then some 8
  else if t.slotb < t.rowb * t.rows then some 4
  else if alloc < t.ring + t.nslot * t.slotb then some 5
  else if t.base % eb != 0 || (List.range 5).any (fun d => t.stride d % eb != 0) then some 6
  else if t.ty == .e2m1b && t.box 0 % 32 != 0 then some 7
  else if t.ring % 128 != 0 || t.slotb % 128 != 0 then some 6
  else none

/-- The tile's index along each dimension. -/
def coord (t : Tlr) (tile : Nat) : List Nat :=
  let order := if t.fld 7 6 == 1 then t.dims.reverse else t.dims
  let digits := (order.foldl (fun (a : List (Nat × Nat) × Nat) d => (a.1 ++ [(d, a.2 % t.nt d)], a.2 / t.nt d)) ([], tile)).1
  let c (d : Nat) : Nat := ((digits.find? fun e => e.1 == d).map (·.2)).getD 0
  t.dims.map fun d =>
    if d == 0 && t.fld 7 6 == 2 && 1 < t.rank && c 1 % 2 == 1 then t.nt 0 - 1 - c 0 else c d

/-- The rows of a tile: address, offset in the slot, valid bits (0 beyond a SIZE). -/
def rowsOf (t : Tlr) (tile : Nat) : List (Nat × Nat × Nat) :=
  let c := t.coord tile
  let i0 := c.headD 0 * t.box 0
  let valid := (min (t.box 0) (t.size 0 - i0)) * t.ebits
  (List.range t.rows).map fun r =>
    let step := (t.dims.drop 1).foldl (fun (a : Nat × Nat × Bool) d =>
      let i := (c.getD d 0) * t.box d + a.1 % t.box d
      (a.1 / t.box d, a.2.1 + i * t.stride d, a.2.2 && i < t.size d)) (r, 0, true)
    (t.base + i0 * t.ebits / 8 + step.2.1, r * t.rowb, if step.2.2 then valid else 0)

/-- First byte and length of the bytes a tile touches outside the ring. -/
def range (t : Tlr) (tile : Nat) : Nat × Nat :=
  let rs := (t.rowsOf tile).filter fun r => r.2.2 != 0
  let lo := (rs.map (·.1)).foldl min ((rs.map (·.1)).headD 0)
  let hi := (rs.map fun r => r.1 + (r.2.2 + 7) / 8).foldl max 0
  (lo, hi - lo)

/-- First byte and length of the whole tensor. -/
def extent (t : Tlr) : Nat × Nat :=
  if t.tiles == 0 then (t.base, 0)
  else (t.base, (t.size 0 * t.ebits + 7) / 8 + (t.dims.map fun d => (t.size d - 1) * t.stride d).sum)

end Tlr

/-! ## Engine states -/

def State.stream (s : State) (core e : Nat) : Stream := (s.core core).streams.getD {} e
def State.setStream (s : State) (core e : Nat) (x : Stream) : State :=
  s.modCore core fun c => { c with streams := c.streams.setD {} e x }
def Stream.layout (x : Stream) : Tlr := { bits := x.tlr }
def Stream.slot (x : Stream) (k : Nat) : Nat := x.slots.getD 0 k

/-- Is the slot the group's: full on a fill ring, empty on a drain ring? -/
def Stream.mine (x : Stream) (k : Nat) : Bool := x.slot k == (if x.layout.drain then 0 else 2)

/-- The slots the engine owns, with their tiles. -/
def Stream.owned (x : Stream) : List (Nat × Nat) := x.slotTile

/-- Offset of a ring slot. -/
def Stream.off (x : Stream) (k : Nat) : Nat := (x.layout.ring + k * x.layout.slotb) % 2 ^ 32

/-- What an RWAIT of its owner's finds: 0 the slot is the group's, 1 it cannot become so, none it waits (R222). -/
def Stream.waitRes (x : Stream) (k : Nat) : Option Nat :=
  if x.mine k then some 0
  else if 4 ≤ x.st then some 1
  else none

/-- The trap of R222. -/
def Here.ringTrap (h : Here) (x : Stream) (k detail : Nat) : RecInfo :=
  { cause := .hasp, detail := detail, lanes := h.f.mask.toNat, addr := x.off k }

/-- DETAIL 4: an Idle engine, another team's, or a slot beyond the ring (R222). -/
def Stream.bars (x : Stream) (team k : Nat) : Bool := x.st == 0 || x.owner != some team || x.layout.nslot ≤ k

/-- Fragments in RWAIT on an engine look again. -/
def State.wakeRing (s : State) (core e : Nat) : State :=
  let x := s.stream core e
  (s.frags.filter fun f => fragCore f.1 == core).foldl (fun s f =>
    match f.2.st with
    | .parked (.ring e' k) =>
      if e' != e then s else
      match s.hereOf f.1 with
      | none => s
      | some h =>
        if h.t.saving || h.t.saved then s
        else if x.bars h.tid k then s.takeTrap h (h.ringTrap x k 4)
        else match x.waitRes k, s.parkedDst f.1 with
        | some 0, _ => s.answer f.1 false
        | some _, .c _ => s.answer f.1 true
        | some _, _ => s.takeTrap h (h.ringTrap x k 5)
        | none, _ => s
    | _ => s) s

/-! ## SEPROG and SECTL (R215, R220, R221) -/

/-- SEPROG writes its flag as a long-latency result. -/
def flagPend (h : Here) (dst : Opnd) (x : Bool) (s : State) : State :=
  match dst with
  | .c r => s.addPend h.gid { frag := h.fid, regs := [.c r.val], cs := [(r.val, x)] }
  | _ => s

def seprogSlot (w : EngW) (h : Here) (s : State) : SlotResult :=
  if s.sideBusy h then .stall else
  let e := w.imm.toNat % 2
  let va := (h.srcS w.a).toNat
  match s.readDesc h va with
  | .error r => .trap r
  | .ok (d, s1) =>
    if s.vPoison h.core h.cx va 64 .read then s.eatPoison h .read [(va, 64)] else
    let x := s.stream h.core e
    let t : Tlr := { bits := d }
    let refused : Option Nat :=
      if (x.owner.isSome && x.owner != some h.tid) || x.st == 2 || x.st == 3 then some 1 else t.refuse h.t.fixedLen
    match refused with
    | some r => .done (flagPend h w.dst true (s1.setStream h.core e { x with reason := r }))
    | none =>
      let r := t.extent
      if !t.wsrc && meetsAperture r.1 r.2 then .trap (h.aperTrap r.1)
      else .done (flagPend h w.dst false (((s1.setStream h.core e
        { st := 1, owner := some h.tid, group := h.gid, frag := h.fid, id := (s1.core h.core).nextId, report := some h.report
          tlr := d, reason := x.reason }).modCore h.core fun c => { c with nextId := c.nextId + 1 }).wakeRing h.core e))

def execSeprog (w : EngW) (s : State) : Host.Outcome State Fault Refusal := runSlot (.seprog w) (seprogSlot w) s

def execSectlStart (w : EngW) (s : State) : Host.Outcome State Fault Refusal :=
  runSlot (.sectlStart w) (fun h s =>
    if s.sideBusy h then .stall else
    let e := w.imm.toNat % 2
    let x := s.stream h.core e
    if x.owner != some h.tid || !(x.st == 1 || x.st == 4) then .done s
    else .done ((s.setStream h.core e { x with st := if x.done < x.layout.tiles then 2 else 5 }).wakeRing h.core e)) s

def execSectlStop (w : EngW) (s : State) : Host.Outcome State Fault Refusal :=
  runSlot (.sectlStop w) (fun h s =>
    if s.sideBusy h then .stall else
    let e := w.imm.toNat % 2
    let x := s.stream h.core e
    if x.owner != some h.tid || x.st == 0 || x.st == 3 then .done s
    else if x.st == 2 then .done (s.setStream h.core e { x with st := 3 })
    else .done ((s.setStream h.core e { reason := x.reason, done := x.done }).wakeRing h.core e)) s

/-- The status word (R221). -/
def Stream.status (x : Stream) (team : Nat) : Nat :=
  let grp := (List.range 16).foldl (fun m k =>
    if x.st != 0 && k < x.layout.nslot && x.mine k then m + 2 ^ k else m) 0
  x.st + (if x.owner == some team then 8 else 0) + x.reason % 16 * 16 + grp * 2 ^ 16 + x.done % 2 ^ 32 * 2 ^ 32

def execSectlQuery (w : EngW) (s : State) : Host.Outcome State Fault Refusal :=
  runSlot (.sectlQuery w) (fun h s =>
    .done (s.writeS h w.dst false (BitVec.ofNat 64 ((s.stream h.core (w.imm.toNat % 2)).status h.tid)))) s

/-! ## RSIG and RWAIT (R222) -/

/-- The slot an instruction names. -/
def Here.ringSlot (h : Here) (w : EngW) : Nat := (match w.b with | .zr => bitsN w.imm.toNat 11 8 | o => h.src64 o 0 0) % 16

def execRsig (w : EngW) (s : State) : Host.Outcome State Fault Refusal :=
  runSlot (.rsig w) (fun h s =>
    let e := w.imm.toNat % 2
    let k := h.ringSlot w
    let x := s.stream h.core e
    if x.bars h.tid k then .trap (h.ringTrap x k 4)
    else if x.slot k == 1 then .trap (h.ringTrap x k 1)
    else if !x.mine k then .trap (h.ringTrap x k 2)
    else if s.sideBusy h then .stall
    else .done (s.setStream h.core e { x with slots := x.slots.setD 0 k (if x.layout.drain then 2 else 0) })) s

def execRwait (w : EngW) (s : State) : Host.Outcome State Fault Refusal :=
  runSlot (.rwait w) (fun h s =>
    let e := w.imm.toNat % 2
    let k := h.ringSlot w
    let x := s.stream h.core e
    if x.bars h.tid k then .trap (h.ringTrap x k 4)
    else match x.waitRes k, w.dst with
    | some 0, _ => .done (s.setFlag h.gid w.dst false)
    | some _, .c _ => .done (s.setFlag h.gid w.dst true)
    | some _, _ => .trap (h.ringTrap x k 5)
    | none, _ => .park (.ring e k) s) s

/-! ## Transfers (R218, R219, R223) -/

/-- The peer a window-source fill reads. -/
def State.peerOf (s : State) (owner : Nat) (t : Tlr) : Option Nat :=
  match s.teams.get? owner with
  | none => none
  | some x =>
    let slot := t.fld 131 128
    if !x.member || x.nslots ≤ slot then none
    else if slot == x.coreslot then some owner
    else s.memberAt x.launch x.cluster slot

/-- STREAM_SLOT_TAKE: the engine takes the slot of the next tile when it is ready, fewer than four are engine-owned, and two
Hasp entries are free. -/
def execStreamSlotTake (core e : Nat) (s : State) : Host.Outcome State Fault Refusal :=
  let x := s.stream core e
  let t := x.layout
  match x.owner with
  | none => .next s
  | some owner =>
    let k := x.cursor % t.nslot
    if x.st != 2 || t.tiles ≤ x.cursor || 4 ≤ x.slotTile.length || x.slot k != (if t.drain then 2 else 0) then .next s else
    match (s.teams.get? owner).bind fun o => s.ctxs.get? o.ctx with
    | none => .next s
    | some cx =>
      let r := t.range x.cursor
      let tag := x.cursor % 256
      let far := if t.wsrc then haspScrRange false (2 + e) tag cx.asid ((s.peerOf owner t).getD owner) r.1 r.2
        else haspRange t.drain (2 + e) tag cx.asid r.1 r.2
      match s.haspAdd core [haspScrRange (!t.drain) (2 + e) tag cx.asid owner (x.off k) t.slotb, far] with
      | none => .next s
      | some (ids, s) =>
        .next (s.setStream core e
          { x with cursor := x.cursor + 1, slots := x.slots.setD 0 k 1, slotTile := x.slotTile.set k x.cursor
                   entries := x.entries.set k ids })

/-- The first byte of a tile outside the ring that cannot be used. -/
def State.tileFault (s : State) (core : Nat) (cx : Ctx) (t : Tlr) (tile : Nat) : Option XErr :=
  (t.rowsOf tile).findSome? fun r =>
    (List.range ((r.2.2 + 7) / 8)).findSome? fun i => s.xlErr core cx (r.1 + i) t.drain

/-- Keep the low `part` bits of a byte. -/
def lowBits (x part : Nat) : Nat := if part == 0 then x else x % 2 ^ part

/-- A source byte of a fill, and whether its word is lost: the tensor's, or a peer's scratchpad. -/
def State.fillByte (s : State) (core : Nat) (cx : Ctx) (peer : Option Nat) (a : Nat) : Nat × Bool :=
  match peer with
  | some p => match s.teams.get? p with
    | some x => (x.scrGet a 1, x.scrBad a 1)
    | none => (0, false)
  | none => (s.vload core cx a 1, s.vPoison core cx a 1 .read)

/-- The bytes a fill writes into its slot, by place from the slot's first, with marks: zero beyond a SIZE. -/
def State.fillBytes (s : State) (core : Nat) (cx : Ctx) (t : Tlr) (tile : Nat) (peer : Option Nat) : List (Nat × Byte × Bool) :=
  (t.rowsOf tile).flatMap fun r =>
    let nb := (r.2.2 + 7) / 8
    (List.range t.rowb).map fun i =>
      if nb ≤ i then (r.2.1 + i, 0, false) else
      let x := s.fillByte core cx peer (r.1 + i)
      (r.2.1 + i, BitVec.ofNat 8 (lowBits x.1 (if i + 1 == nb then r.2.2 % 8 else 0)), x.2)

/-- The bytes a drain writes, by virtual address, with marks. -/
def State.drainBytes (s : State) (core : Nat) (cx : Ctx) (owner : Nat) (t : Tlr) (tile off : Nat) : List (Nat × Byte × Bool) :=
  match s.teams.get? owner with
  | none => []
  | some x =>
    (t.rowsOf tile).flatMap fun r =>
      let nb := (r.2.2 + 7) / 8
      let part := r.2.2 % 8
      (List.range nb).map fun i =>
        let b := x.scrGet (off + r.2.1 + i) 1
        let b := if i + 1 == nb && part != 0 then b % 2 ^ part + s.vload core cx (r.1 + i) 1 / 2 ^ part * 2 ^ part else b
        (r.1 + i, BitVec.ofNat 8 b, x.scrBad (off + r.2.1 + i) 1)

/-- Does a drain merge bits of a poisoned word, where a row ends inside a byte (spec/26 R417)? -/
def State.drainBad (s : State) (core : Nat) (cx : Ctx) (t : Tlr) (tile : Nat) : Bool :=
  (t.rowsOf tile).any fun r => r.2.2 % 8 != 0 && s.vPoison core cx (r.1 + r.2.2 / 8) 1 .write

/-- What the move of such a tile consumes: a word of the destination, in memory or in the scratchpad (spec/26 R428). -/
def State.moveError (s : State) (core : Nat) (cx : Ctx) (t : Tlr) (tile addr : Nat) : XErr :=
  let pa := (t.rowsOf tile).findSome? fun r => s.poisonAt core cx r.1 ((r.2.2 + 7) / 8) .write
  if t.drain then { cause := .uncorr, addr := addr, pa := pa.getD 0 } else { cause := .uncorr, addr := addr, arr := 3 }

/-- Move a tile's rows: a fill writes zero beyond a SIZE, a drain does not write there. Marks go with the data. None: a word
replaced in part whose old value is lost (spec/26 R417). -/
def State.moveTile (s : State) (core : Nat) (cx : Ctx) (owner : Nat) (t : Tlr) (tile off : Nat) (peer : Option Nat) : Option State :=
  if t.drain then
    let bs := s.drainBytes core cx owner t tile off
    let xs := bs.map fun b => (b.1, b.2.1)
    if s.putBad core cx xs || s.drainBad core cx t tile then none else
    some ((bs.filter fun b => b.2.2).foldl (fun s b =>
      match s.xl core cx b.1 .write with
      | .ok pa mt => s.markPoison mt pa 1
      | _ => s) (s.putBytes core cx xs))
  else
    let srcs := (t.rowsOf tile).flatMap fun r => (List.range ((r.2.2 + 7) / 8)).map (r.1 + ·)
    let s := if peer.isSome then s else srcs.foldl (fun s a => s.touch core cx a false) s
    let bs := (s.fillBytes core cx t tile peer).map fun b => (off + b.1, b.2)
    let xs := bs.map fun b => (b.1, b.2.1)
    if ((s.teams.get? owner).map fun x => x.putBad xs).getD false then none else
    some (s.modTeam owner fun x => (bs.filter fun b => b.2.2).foldl (fun x b => x.markScr b.1 1) (x.putBytes xs))

/-- The oldest tile an engine owns a slot for. -/
def Stream.oldest (x : Stream) : Option (Nat × Nat) :=
  x.slotTile.foldl (fun (b : Option (Nat × Nat)) e => match b with
    | none => some e
    | some o => if e.2 < o.2 then some e else b) none

/-- A transfer that cannot be made: the engine is Faulted with REASON 9, and its group is told (R223). -/
def State.streamFault (s : State) (core e : Nat) (x : Stream) (err : XErr) : State :=
  let ids := x.entries.flatMap (·.2)
  let s := (s.haspDrop core ids).setStream core e
    { x with
      st := 6, reason := 9, parked := none, entries := [], slotTile := [], auto := false
      slots := x.slotTile.foldl (fun m k => m.setD 0 k.1 (if x.layout.drain then 2 else 0)) x.slots }
  let s := match x.report with
    | some r => s.engineFault x.group x.frag r err
    | none => s
  s.wakeRing core e

/-- STREAM_TILE_COMPLETE: the oldest engine-owned slot's tile lands or has been read. The last tile's completion makes the engine
Done in the same step (spec/13 R267). -/
def execStreamTileComplete (core e : Nat) (s : State) : Host.Outcome State Fault Refusal :=
  let x := s.stream core e
  let t := x.layout
  match x.owner, x.oldest with
  | some owner, some (k, tile) =>
    if x.parked.isSome then .next s else
    match (s.teams.get? owner).bind fun o => s.ctxs.get? o.ctx with
    | none => .next s
    | some cx =>
      let peer := if t.wsrc then s.peerOf owner t else none
      let r := t.range tile
      let gone : XErr := { cause := .window, detail := 2, addr := r.1 }
      let bad : Option XErr :=
        if t.wsrc then
          match peer.bind s.teams.get? with
          | none => some gone
          | some p => if p.fixedLen < r.1 + r.2 then some gone else none
        else s.tileFault core cx t tile
      let absent := t.wsrc && match peer.bind s.teams.get? with
        | some p => p.absent.any fun l => r.1 < 128 * l.1 + 128 && 128 * l.1 < r.1 + r.2
        | none => false
      match bad with
      | some err =>
        if err.cause == .xlate then .next (s.setStream core e { x with parked := some err.addr })
        else .next (s.streamFault core e x err)
      | none =>
        if absent then .next s else
        let lost := if t.drain then (t.rowsOf tile).findSome? fun r =>
            ((List.range ((r.2.2 + 7) / 8)).map (r.1 + ·)).find? (s.storeLost core cx) else none
        let s := match lost, x.report with
          | some a, some r => s.noteLost x.group x.frag { r with addr := a }
          | _, _ => s
        let s := match peer with
          | some p => s.keepCopies core p ((List.range ((r.1 + r.2 + 127) / 128 - r.1 / 128)).map (r.1 / 128 + ·))
          | none => s
        let s := s.dropCopies owner (if t.drain then [] else (List.range (t.slotb / 128)).map (x.off k / 128 + ·))
        match s.moveTile core cx owner t tile (x.off k) peer with
        | none => .next (s.streamFault core e x (s.moveError core cx t tile r.1))
        | some s =>
          let s := s.haspDrop core (x.entries.getD [] k)
          let done := x.done + 1
          let last := t.tiles ≤ done && (x.st == 2 || x.st == 3)
          .next ((s.setStream core e
            { x with
              done := done, slots := x.slots.setD 0 k (if t.drain then 0 else 2), slotTile := x.slotTile.erase k
              entries := x.entries.erase k, st := if last then 5 else x.st, auto := x.auto && !last }).wakeRing core e)
  | _, _ => .next s

/-- STREAM_STOP_COMPLETE: a Stopping engine whose slots have completed is Stopped. -/
def execStreamStopComplete (core e : Nat) (s : State) : Host.Outcome State Fault Refusal :=
  let x := s.stream core e
  if x.st == 3 && x.slotTile.isEmpty then .next ((s.setStream core e { x with st := 4 }).wakeRing core e) else .next s

/-! ## Shento maps a transfer's page (R223) -/

/-- Does a page-table entry lead to a retired page, as a leaf or to a table that stands there? -/
def State.pteRetired (s : State) (pte : Nat) : Bool :=
  pte.testBit 0 && s.pageRetired (bitsN pte 51 18) && (!pte.testBit 1 || bitsN pte 7 6 < 2)

/-- Write page-table entries, by physical address; none that leads to a retired page (spec/26 R430). -/
def State.applyMap (s : State) (m : List (Nat × BitVec 64)) : State :=
  m.foldl (fun s e => if s.pteRetired e.2.toNat then s else s.physWrite 0 e.1 8 e.2.toNat) s

/-- The XLATE error of an address that Shento cannot map; a write when only writing fails. -/
def State.unmapped (s : State) (core : Nat) (cx : Option Ctx) (a : Nat) (write : Bool) : XErr :=
  ((cx.bind fun cx => s.xlErr core cx a write).filter fun e => e.cause == .xlate).getD { cause := .xlate, addr := a }

/-- TRANSFER_XLATE_SERVICE: with entries to write, Shento maps the page and the transfer goes on; with none it cannot, and the
command ends. -/
def execTransferXlateService (core : Nat) (unit : XferUnit) (map : List (Nat × BitVec 64)) (s : State) :
    Host.Outcome State Fault Refusal :=
  match unit with
  | .stream e =>
    let x := s.stream core e
    match x.parked with
    | none => .next s
    | some a =>
      if map.isEmpty then
        let cx := x.owner.bind fun o => (s.teams.get? o).bind fun t => s.ctxs.get? t.ctx
        .next (s.streamFault core e x (s.unmapped core cx a x.layout.drain))
      else .next ((s.applyMap map).setStream core e { x with parked := none })
  | .bcpy id =>
    match (s.core core).bulks.get? id with
    | none => .next s
    | some b =>
      match b.parked with
      | none => .next s
      | some a =>
        let set (f : Bulk → Bulk) (s : State) : State := s.modCore core fun c => { c with bulks := c.bulks.modify id f }
        if map.isEmpty then
          let f (hi lo : Nat) : Nat := bitsN b.desc.toNat hi lo
          let dst := f 119 64 ≤ a && a < f 119 64 + (f 191 160 - 1) * f 255 224 + f 159 128
          let err := s.unmapped core (s.ctxs.get? b.ctx) a dst
          let s := set (fun b => { b with ready := true, failed := true, parked := none, entries := [] }) (s.haspDrop core b.entries)
          .next ((s.engineFault b.group b.frag b.report err).stampBulks core ((s.core core).bulks.map (·.1)))
        else .next (set (fun b => { b with parked := none }) (s.applyMap map))
  | .coll id =>
    match (s.core core).colls.get? id with
    | none => .next s
    | some b =>
      match b.parked with
      | none => .next s
      | some a =>
        if map.isEmpty then
          let err := s.unmapped core (s.ctxs.get? b.ctx) a b.started    -- DST is written once it has started
          let s := (s.haspDrop core b.entries).modCore core fun c => { c with colls := c.colls.erase id }
          .next (s.engineFault b.group b.frag b.report err)
        else .next ((s.applyMap map).modCore core fun c =>
          { c with colls := c.colls.modify id fun b => { b with parked := none } })
  | .pen =>
    -- the page the Pen asked for (spec/14 R279): nothing waits for it
    match (s.core core).penAsks with
    | [] => .next s
    | _ :: rest => .next ((s.applyMap map).modCore core fun c => { c with penAsks := rest })

end Sys2Proof.Machine
end

