-- ==== Sys2Proof/Machine/Matrix.lean ====
section
/-! DEFINITION. Matrix: the matrix engine, its accumulators, quads and batches (spec/11). -/

namespace Sys2Proof.Machine

/-! ## The step (R228, R229, R232, R76) -/

/-- An element as a step reads it: a float value or an integer. -/
inductive MVal where
  | flt (x : FVal)
  | int (x : Int)
  deriving DecidableEq, Repr

/-- Does the operand type make a float step? -/
def matFloat (t : Ty) : Bool := t != .n8 && t != .i8

/-- The elements of one row of A or column of B: 32 bytes, with its scale word and byte select (R228, R232). -/
def matElems (t : Ty) (raw scale bsel : Nat) : List MVal :=
  let byte (k : Nat) : Nat := raw / 256 ^ k % 256
  match t with
  | .n8 => (List.range 32).map fun k => .int (byte k : Nat)
  | .i8 => (List.range 32).map fun k => .int (sextI 8 (byte k))
  | .bf16 | .f16 => (List.range 16).map fun k => .flt ((fmtOf t).dec false (raw / 65536 ^ k % 65536))
  | .e2m1b => (List.range 64).map fun k =>
      let sel := if bsel == 1 then 0 else if bsel == 2 then 1 else k / 32
      .flt (e2m1Val (raw / 16 ^ k % 16) (scale / 2 ^ (16 * sel) % 256) (scale / 2 ^ (16 * sel + 8) % 256))
  | _ => (List.range 32).map fun k => .flt ((fmtOf t).dec false (byte k))

/-- One element of C after a step: the exact sum of the products added with one rounding, or modulo 2^32. -/
def matCell (isFloat : Bool) (c : W32) (row col : List MVal) : W32 :=
  if isFloat then
    let val (x : MVal) : FVal := match x with | .flt v => v | .int _ => .nan
    BitVec.ofNat 32
      (Fmt.f32.dot .rne false false ((row.zip col).map fun p => (val p.1, val p.2)) [Fmt.f32.dec false c.toNat]).1
  else
    let val (x : MVal) : Int := match x with | .int v => v | .flt _ => 0
    BitVec.ofNat 32 (wrapN 32 ((row.zip col).foldl (fun a p => a + val p.1 * val p.2) (c.toNat : Int)))

/-- A tile's element i, j. -/
def Acc.elem (a : Acc) (tile i j : Nat) : W32 := (a.tiles.getD [] tile).getD 0 (32 * i + j)

/-- Write elements of a tile. -/
def Acc.putElems (a : Acc) (tile : Nat) (es : List (Nat × W32)) : Acc :=
  { a with tiles := a.tiles.setD [] tile (es.foldl (fun m e => m.setD 0 e.1 e.2) (a.tiles.getD [] tile)) }

/-- A step over 32 rows and 32 columns. -/
def Acc.step (a : Acc) (tile : Nat) (isFloat : Bool) (rows cols : List (List MVal)) : Acc :=
  a.putElems tile ((rows.zipIdx).flatMap fun r => (cols.zipIdx).map fun c =>
    (32 * r.2 + c.2, matCell isFloat (a.elem tile r.2 c.2) r.1 c.1))

/-! ## Operand checks (R231, R233, R236) -/

/-- A trap of the instruction as a whole. -/
def Here.wholeTrap (h : Here) (c : Cause) (d info addr : Nat) : RecInfo :=
  { cause := c, detail := d, lanes := h.f.mask.toNat, info := info, addr := addr }

/-- Offset and stride of a scratchpad operand. -/
def matOpnd (x : W64) : Nat × Nat := (x.toNat % 2 ^ 32, x.toNat / 2 ^ 32)

/-- The alignment check of an offset and a stride. -/
def Here.matAlign (h : Here) (al : Nat) (o : Nat × Nat) : Option RecInfo :=
  if o.1 % al != 0 || o.2 % al != 0 then some (h.wholeTrap .align 0 0 o.1) else none

/-- A scratchpad range over all steps: rows of `width` bytes. -/
structure MatRange where
  off : Nat
  str : Nat := 0
  inc : Nat := 0
  n : Nat := 1
  rows : Nat := 32
  width : Nat := 32
  deriving DecidableEq, Repr

/-- Length of the bounding range. -/
def MatRange.len (r : MatRange) : Nat := (r.n - 1) * r.inc + (r.rows - 1) * r.str + r.width

/-- The first offset of the range at or beyond the allocation. The range is R238's bounding range, gaps included (log 44). -/
def MatRange.firstBad (r : MatRange) (size : Nat) : Option Nat :=
  if size < r.off + r.len then some (max r.off size) else none

def Here.matRange (h : Here) (r : MatRange) : Option RecInfo :=
  (r.firstBad h.t.fixedLen).map fun a => h.wholeTrap .spad 0 0 a

/-- The first trap of a list of checks. -/
def firstTrap (l : List (Option RecInfo)) : Option RecInfo := l.findSome? id

/-- A name at or beyond the team's count (R236). -/
def Here.accName (h : Here) (a : Nat) : Option RecInfo :=
  if h.t.acc ≤ a then some (h.wholeTrap .spad 0 a 0) else none

/-- The legal combinations of R230. -/
def matCombo (ta tb : Ty) : Bool :=
  match ta, tb with
  | .n8, .n8 | .n8, .i8 | .i8, .n8 | .i8, .i8 => true
  | .e4m3, .e4m3 | .e4m3, .e5m2 | .e5m2, .e4m3 | .e5m2, .e5m2 => true
  | .bf16, .bf16 | .f16, .f16 | .e2m1b, .e2m1b => true
  | _, _ => false

def Here.comboTrap (h : Here) (ta tb : Ty) : Option RecInfo :=
  if matCombo ta tb then none else some (h.wholeTrap .combo 0 0 0)

/-! ## Acceptance (R237, R238, R240) -/

/-- The tile of a name. -/
def Acc.tileOf (a : Acc) (name : Nat) : Nat := (a.names.get? name).getD name

/-- The tiles an operation still has to access. -/
def MOp.tilesLeft (m : MOp) : List Nat :=
  match m.kind with
  | .steps _ _ tiles .. => tiles.drop m.next
  | .load t _ _ | .store t _ _ _ _ _ _ _ | .read t _ _ _ _ _ _ | .write t _ _ _ _ _ => [t]

/-- The team as an operation reads it: its scratchpad as it stood at the acceptance, but for lines absent then, which are read as they
landed (R231, spec/13 R268). -/
def MOp.view (m : MOp) (t : Team) : Team :=
  match m.image with
  | none => t
  | some i =>
    { t with
      scr := (t.scr.filter fun e => i.absent.has (e.1 / 128)).foldl (fun x e => x.set e.1 e.2)
        (i.bytes.filterE fun k _ => !i.absent.has (k / 128))
      scrPoison := (t.scrPoison.filter fun e => i.absent.has (e.1 / 32)).foldl (fun x e => x.set e.1 e.2)
        (i.poison.filterE fun k _ => !i.absent.has (k / 32)) }

/-- Accept an operation with its Hasp entries; none when the sequencer or the Hasp table is full. -/
def State.acceptMat (s : State) (h : Here) (kind : MKind) (hasp : List Hasp) (batch : Bool) : Option State :=
  let c := s.core h.core
  if 32 ≤ c.mops.length then none else
  let id := c.nextId
  match s.haspAdd h.core (hasp.map fun x => { x with tag := id % 256 }) with
  | none => none
  | some (ids, s) =>
    let image : Option ScrImage :=
      if hasp.any fun x => !x.wlock then some { bytes := h.t.scr, poison := h.t.scrPoison, absent := h.t.absent } else none
    let s := s.modCore h.core fun c =>
      { c with mops := c.mops.set id { group := h.gid, team := h.tid, kind := kind, entries := ids, image := image }, nextId := id + 1 }
    some (if batch then s.modGroup h.gid fun g => { g with openOps := g.openOps ++ [id] } else s)

/-- The entry of a range (R238). -/
def Here.matHasp (h : Here) (wlock : Bool) (r : MatRange) : Hasp := haspScrRange wlock 4 0 h.cx.asid h.tid r.off r.len

/-- Accept or stall. -/
def Here.acceptOr (h : Here) (s : State) (kind : MKind) (hasp : List Hasp) (batch : Bool) : SlotResult :=
  match s.acceptMat h kind hasp batch with
  | some s => .done s
  | none => .stall

/-! ## Quads (R234, R235) -/

/-- The staged quarters of a group's quad, when all four are there. -/
def Acc.quad (a : Acc) (idx : Nat) : Option (List Quarter) :=
  ((List.range 4).map fun p => a.stage.get? (idx / 4 * 4 + p)).foldr (fun q l => match q, l with
    | some q, some l => some (q :: l)
    | _, _ => none) (some [])

/-- The words and scale words of a whole B operand, by 8 × column + word and by column. -/
def quadWords (l : List Quarter) : SMap W32 :=
  (l.zipIdx.flatMap fun e => e.1.words.map fun x => (64 * e.2 + x.1, x.2)).foldl (fun m e => m.setD 0 e.1 e.2) []
def quadScales (l : List Quarter) : SMap W32 :=
  (l.zipIdx.flatMap fun e => e.1.scales.map fun x => (8 * e.2 + x.1, x.2)).foldl (fun m e => m.setD 0 e.1 e.2) []

/-- The fragments that wait for a quad, in acceptance order. -/
def State.quadWaiters (s : State) (tid q : Nat) : List Nat :=
  (s.acc tid).waiters.filter fun k => match (s.frags.get? k).bind fun f => s.groups.get? f.group with
    | some g => g.idx / 4 == q
    | none => false

/-- Let the first waiter of a quad with all four quarters staged issue again. -/
def State.wakeQuad (s : State) (tid q : Nat) : State :=
  if ((s.acc tid).quad (4 * q)).isNone then s else
  match s.quadWaiters tid q with
  | [] => s
  | k :: _ => match (s.frags.get? k).map Frag.st with
    | some (.parked .quad) => s.resume k
    | _ => s

def State.dropWaiter (s : State) (tid fid : Nat) : State :=
  let a := s.acc tid
  s.putAcc tid { a with waiters := a.waiters.filter (· != fid) }

/-- Consume the quad's staging for an operation with B type `tb`, or park until it is this fragment's turn (R235). -/
def Here.withQuad (h : Here) (s : State) (tb : Ty) (go : List Quarter → State → SlotResult) : SlotResult :=
  let a := s.acc h.tid
  let q := h.g.idx / 4
  let first : Bool := match s.quadWaiters h.tid q with | [] => true | k :: _ => k == h.fid
  match a.quad h.g.idx, first with
  | some l, true =>
    if l.any fun x => x.ty != tb then
      -- the staging is kept: the next waiter looks at it
      .placed (((s.dropWaiter h.tid h.fid).wakeQuad h.tid q).takeTrap h (h.wholeTrap .combo 1 0 0))
    else
      let a := { a with stage := a.stage.filterE fun k _ => k / 4 != q, waiters := a.waiters.filter (· != h.fid) }
      go l (s.putAcc h.tid a)
  | _, _ =>
    let a := { a with waiters := if a.waiters.contains h.fid then a.waiters else a.waiters ++ [h.fid] }
    .park .quad (s.putAcc h.tid a)

/-! ## MMA, MLOOP, MLOOPM (R244 to R246) -/

/-- The type code of an IMM field. -/
def immTy (imm : BitVec 32) (hi lo : Nat) : Ty := Ty.ofCode (BitVec.ofNat 4 (immF imm hi lo))

/-- The words of a vector operand's first `n` lanes, whatever lanes are active. -/
def Here.lanesOf (h : Here) (o : Opnd) (n : Nat) : SMap W32 :=
  (List.range n).foldl (fun m l => m.setD 0 l (BitVec.ofNat 32 (h.src32 o 0 l))) []

def mmaSlot (w : EngW) (h : Here) (s : State) : SlotResult :=
  let acc := immF w.imm 3 0
  let (ta, tb) := (immTy w.imm 7 4, immTy w.imm 11 8)
  let quad := w.b.isZr
  let oa := matOpnd (h.srcS w.a)
  let ob := matOpnd (h.srcS w.b)
  let ra : MatRange := { off := oa.1, str := oa.2 }
  let rb : MatRange := { off := ob.1, str := ob.2 }
  match firstTrap ([h.accName acc, h.comboTrap ta tb, h.matAlign 32 oa] ++ (if quad then [] else [h.matAlign 32 ob]) ++
      [h.matRange ra] ++ (if quad then [] else [h.matRange rb])) with
  | some r => .trap r
  | none =>
    if s.sideBusy h then .stall else
    let sa := h.lanesOf w.c 32
    let sb : SMap W32 := match w.c with
      | .v r => h.lanesOf (.v (r + 1)) 32
      | _ => []
    let kind (latch bs : SMap W32) : MKind :=
      .steps ta tb [(s.acc h.tid).tileOf acc] oa.1 oa.2 0 quad ob.1 ob.2 0 latch (immF w.imm 13 12) false 0 0 0 0 sa bs
    let hasp := h.matHasp false ra :: (if quad then [] else [h.matHasp false rb])
    if quad then h.withQuad s tb fun l s => h.acceptOr s (kind (quadWords l) (quadScales l)) hasp true
    else h.acceptOr s (kind [] sb) hasp true

def execMma (w : EngW) (s : State) : Host.Outcome State Fault Refusal := runSlot (.mma w) (mmaSlot w) s

/-- The increment check of R245: the first failing increment in the order INCA, INCB, INCSA, INCSB. -/
def Here.incTrap (h : Here) (x : Nat) (which : List Nat) : Option RecInfo :=
  which.findSome? fun i =>
    let v := x / 2 ^ (16 * i) % 65536
    if v % (if i < 2 then 32 else 4) != 0 then some (h.wholeTrap .align 0 i v) else none

def loopSlot (w : EngW) (multi : Bool) (h : Here) (s : State) : SlotResult :=
  let acc := immF w.imm 3 0
  let (ta, tb) := (immTy w.imm 7 4, immTy w.imm 11 8)
  let n := if multi then immF w.imm 15 12 + 1 else immF w.imm 23 12 + 1
  let e2 := w.dst.isS
  let dd : Nat := match w.dst with | .s r => (h.sreg r.val).toNat | _ => 0
  let (sa, sb) := (dd % 2 ^ 32, dd / 2 ^ 32)
  let oa := matOpnd (h.srcS w.a)
  let ob := matOpnd (h.srcS w.b)
  let inc := (h.srcS w.c).toNat
  let i (k : Nat) : Nat := inc / 2 ^ (16 * k) % 65536
  let ra : MatRange := { off := oa.1, str := oa.2, inc := i 0, n := n }
  let rb : MatRange := { off := ob.1, str := ob.2, inc := i 1, n := n }
  let rsa : MatRange := { off := sa, inc := i 2, n := n, rows := 1, width := 128 }
  let rsb : MatRange := { off := sb, inc := i 3, n := n, rows := 1, width := 128 }
  let ranges := [ra] ++ (if multi then [] else [rb]) ++ (if e2 then [rsa] else []) ++ (if e2 && !multi then [rsb] else [])
  match firstTrap (((List.range (if multi then n else 1)).map fun m => h.accName (acc + m)) ++
      [h.comboTrap ta tb, h.matAlign 32 oa] ++ (if multi then [] else [h.matAlign 32 ob]) ++
      (if e2 then [h.matAlign 4 (sa, 0)] else []) ++ (if e2 && !multi then [h.matAlign 4 (sb, 0)] else []) ++
      [h.incTrap inc (if multi then (if e2 then [0, 2] else [0]) else [0, 1, 2, 3])] ++ ranges.map h.matRange) with
  | some r => .trap r
  | none =>
    if s.sideBusy h then .stall else
    let tiles := (List.range n).map fun m => (s.acc h.tid).tileOf (if multi then acc + m else acc)
    let kind (latch bs : SMap W32) : MKind :=
      .steps ta tb tiles oa.1 oa.2 (i 0) multi ob.1 ob.2 (i 1) latch 0 e2 sa (i 2) sb (i 3) [] bs
    let hasp := ranges.map (h.matHasp false)
    if multi then h.withQuad s tb fun l s => h.acceptOr s (kind (quadWords l) (quadScales l)) hasp true
    else h.acceptOr s (kind [] []) hasp true

def execMloop (w : EngW) (s : State) : Host.Outcome State Fault Refusal := runSlot (.mloop w) (loopSlot w false) s
def execMloopm (w : EngW) (s : State) : Host.Outcome State Fault Refusal := runSlot (.mloopm w) (loopSlot w true) s

/-! ## MQB, MFENCE, MBWAIT, ACCNEW (R247 to R250) -/

def execMqb (w : EngW) (s : State) : Host.Outcome State Fault Refusal :=
  runSlot (.mqb w) (fun h s =>
    let q := h.g.idx / 4
    if h.t.ngroups < 4 * q + 4 then .trap (h.wholeTrap .combo 2 0 0) else
    let word (i : Nat) : W32 := match w.a with | .v r => h.vreg (r.val + i / 32) (i % 32) | _ => 0
    let quarter : Quarter :=
      { ty := immTy w.imm 7 4
        words := (List.range 64).foldl (fun m i => m.setD 0 i (word i)) []
        scales := h.lanesOf w.b 8 }
    let a := s.acc h.tid
    .done ((s.putAcc h.tid { a with stage := a.stage.set h.g.idx quarter }).wakeQuad h.tid q)) s

/-- Closed batches complete from the oldest on while their operations have; the fragments that wait for them go on. -/
def popBatches : List (W32 × List Nat) → List W32 × List (W32 × List Nat)
  | [] => ([], [])
  | (b, ops) :: t =>
    if ops.isEmpty then
      let r := popBatches t
      (b :: r.1, r.2)
    else ([], (b, ops) :: t)

def State.settleBatches (s : State) (gid : Nat) : State :=
  match s.groups.get? gid with
  | none => s
  | some g =>
    let (done, rest) := popBatches g.batches
    let s := s.modGroup gid fun g => { g with batches := rest }
    (s.frags.filter fun e => e.2.group == gid && done.any fun b => e.2.st == .parked (.batch b)).foldl
      (fun s e => s.finishParked e.1) s

def execMfence (w : EngW) (s : State) : Host.Outcome State Fault Refusal :=
  runSlot (.mfence w) (fun h s =>
    let n : W32 := if h.g.batch == 0xFFFFFFFF then 1 else h.g.batch + 1
    let s := s.modGroup h.gid fun g => { g with batch := n, batches := g.batches ++ [(n, g.openOps)], openOps := [] }
    .done ((s.settleBatches h.gid).writeS h w.dst w.ws (n.zeroExtend 64))) s

/-- BATCH_COMPLETE: a group's oldest closed batch completes once its operations have. -/
def execBatchComplete (group : Nat) (s : State) : Host.Outcome State Fault Refusal := .next (s.settleBatches group)

def execMbwait (w : EngW) (s : State) : Host.Outcome State Fault Refusal :=
  runSlot (.mbwait w) (fun h s =>
    let n : W32 := if w.a.isZr then w.imm else (h.srcS w.a).truncate 32
    let d := (n - h.g.batch).toNat
    if n == 0 then .done s
    else if 1 ≤ d && d ≤ 2 ^ 31 - 1 then .trap (h.wholeTrap .syncobj 5 n.toNat 0)
    else if h.g.batches.any fun b => b.1 == n then .park (.batch n) s
    else .done s) s

/-- Tiles of a team that no name and no accepted operation uses. -/
def State.freeTile (s : State) (h : Here) : Option Nat :=
  let a := s.acc h.tid
  let named := (List.range h.t.acc).map a.tileOf
  let busy := ((s.core h.core).mops.filter fun e => e.2.team == h.tid).flatMap fun e => e.2.tilesLeft
  (List.range (h.t.acc + 1)).find? fun t => !named.contains t && !busy.contains t

def execAccnew (w : EngW) (s : State) : Host.Outcome State Fault Refusal :=
  runSlot (.accnew w) (fun h s =>
    let n := immF w.imm 3 0
    match h.accName n with
    | some r => .trap r
    | none =>
      match s.freeTile h with
      | none => .stall
      | some t =>
        let a := s.acc h.tid
        .done (s.putAcc h.tid { a with
          tiles := a.tiles.erase t, names := a.names.set n t, poison := a.poison.filterE fun k _ => k / 512 != t })) s

/-! ## ACCLD, ACCST, ACCRD, ACCWR (R251 to R253) -/

def execAccld (w : EngW) (s : State) : Host.Outcome State Fault Refusal :=
  runSlot (.accld w) (fun h s =>
    let n := immF w.imm 3 0
    let o := matOpnd (h.srcS w.a)
    let r : MatRange := { off := o.1, str := o.2, width := 128 }
    match firstTrap [h.accName n, h.matAlign 4 o, h.matRange r] with
    | some r => .trap r
    | none =>
      if s.sideBusy h then .stall else
      h.acceptOr s (.load ((s.acc h.tid).tileOf n) o.1 o.2) [h.matHasp false r] true) s

/-- Byte width of a stored element. -/
def storeBytes (t : Ty) : Nat :=
  match t with
  | .f32 | .i32 => 4
  | .f16 | .bf16 | .i16 | .n16 => 2
  | _ => 1

def execAccst (w : EngW) (s : State) : Host.Outcome State Fault Refusal :=
  runSlot (.accst w) (fun h s =>
    let n := immF w.imm 3 0
    let (t, t2) := (immTy w.imm 7 4, immTy w.imm 11 8)
    let rm := immF w.imm 14 12
    let o := matOpnd (h.srcS w.a)
    let r : MatRange := { off := o.1, str := o.2, width := 32 * storeBytes t }
    match firstTrap [h.accName n, h.matAlign 4 o, h.matRange r] with
    | some r => .trap r
    | none =>
      if s.sideBusy h then .stall else
      h.acceptOr s (.store ((s.acc h.tid).tileOf n) o.1 o.2 t t2 (if rm == 6 then fsrRm h.g.fsr else rm) (w.imm.getLsbD 15)
        (if w.imm.getLsbD 16 then some ((h.srcS w.b).truncate 32) else none)) [h.matHasp true r] true) s

/-- Element at position `k` of row or column FIRST + i. -/
def rcIndex (first : Nat) (col : Bool) (i l : Nat) : Nat := if col then 32 * l + first + i else 32 * (first + i) + l

def execAccrd (w : EngW) (s : State) : Host.Outcome State Fault Refusal :=
  runSlot (.accrd w) (fun h s =>
    let a := immF w.imm 3 0
    let n := immF w.imm 13 9 + 1
    match h.accName a, w.dst with
    | some r, _ => .trap r
    | none, .v r =>
      h.acceptOr (s.addPend h.gid { frag := h.fid, regs := (List.range n).map fun i => .v (r.val + i), ready := false })
        (.read ((s.acc h.tid).tileOf a) h.g.nextPend (immF w.imm 8 4) n (w.imm.getLsbD 14) r.val (h.active w.g w.gn)) [] false
    | none, _ => .done s) s

def execAccwr (w : EngW) (s : State) : Host.Outcome State Fault Refusal :=
  runSlot (.accwr w) (fun h s =>
    let a := immF w.imm 3 0
    let n := immF w.imm 13 9 + 1
    -- register i of the block; a latch stands for a block of one
    let word (i l : Nat) : W32 := match w.a with
      | .v r => h.vreg (r.val + i) l
      | o => BitVec.ofNat 32 (h.src32 o 0 l)
    match h.accName a with
    | some r => .trap r
    | none =>
      h.acceptOr s (.write ((s.acc h.tid).tileOf a) (immF w.imm 8 4) n (w.imm.getLsbD 14) (h.active w.g w.gn)
        ((List.range (32 * n)).foldl (fun m i => m.setD 0 i (word (i / 32) (i % 32))) [])) [] true) s

/-! ## MATRIX_STEP -/

/-- The scratchpad ranges that an operation's next step reads. -/
def MOp.needs (m : MOp) : List (Nat × Nat) :=
  match m.kind with
  | .steps _ _ _ a astr ainc quad b bstr binc _ _ stream sa sainc sb sbinc _ _ =>
    ((List.range 32).map fun i => (a + m.next * ainc + i * astr, 32)) ++
    (if quad then [] else (List.range 32).map fun j => (b + m.next * binc + j * bstr, 32)) ++
    (if stream then (sa + m.next * sainc, 128) :: (if quad then [] else [(sb + m.next * sbinc, 128)]) else [])
  | .load _ off str => (List.range 32).map fun i => (off + i * str, 128)
  | _ => []

/-- Can the operation take its next step: no earlier operation accesses its tile, and the lines are present (R231, R237)? -/
def Core.matReady (c : Core) (t : Team) (id : Nat) (m : MOp) : Bool :=
  (match m.tilesLeft with
   | [] => true
   | x :: _ => !(c.mops.any fun e => e.1 < id && e.2.team == m.team && e.2.tilesLeft.contains x)) &&
  m.needs.all fun r => t.present r.1 r.2

/-- The value that ACCST stores for an element (R252). -/
def accstValue (t t2 : Ty) (rm : Nat) (sat : Bool) (scale : Option W32) (x : W32) : Nat :=
  let v : FVal := if t2 == .f32 then Fmt.f32.dec false x.toNat
    else let i := sextI 32 x.toNat; .fin (decide (i < 0)) i.natAbs 0
  if t2 != .f32 && !t.isFloat then
    let i := sextI 32 x.toNat
    let b := t.bits
    let (lo, hi) : Int × Int := if t.signed then (-(2 ^ (b - 1)), 2 ^ (b - 1) - 1) else (0, 2 ^ b - 1)
    wrapN b (if sat then (if i < lo then lo else if hi < i then hi else i) else i)
  else
    let v := match scale with
      | some k => (mulVal v (Fmt.f32.dec false k.toNat)).1
      | none => v
    ((fmtOf t).ofVal (Mode.ofNat rm) sat false v).1

/-- Perform an operation's next step. -/
def State.matPerform (s : State) (m : MOp) (t : Team) : State :=
  let t := m.view t
  let a := s.acc m.team
  match m.kind with
  | .steps ta tb tiles ao astr ainc quad b bstr binc latch bsel stream sa sainc sb sbinc ascale bscale =>
    let k := m.next
    let aword (i : Nat) : Nat := if stream then t.scrGet (sa + k * sainc + 4 * i) 4 else (ascale.getD 0 i).toNat
    let bword (j : Nat) : Nat := if stream && !quad then t.scrGet (sb + k * sbinc + 4 * j) 4 else (bscale.getD 0 j).toNat
    let bcol (j : Nat) : Nat :=
      if quad then (List.range 8).foldr (fun w x => (latch.getD 0 (8 * j + w)).toNat + 2 ^ 32 * x) 0
      else t.scrGet (b + k * binc + j * bstr) 32
    let rows := (List.range 32).map fun i => matElems ta (t.scrGet (ao + k * ainc + i * astr) 32) (aword i) bsel
    let cols := (List.range 32).map fun j => matElems tb (bcol j) (bword j) bsel
    (s.countEv t.core 8 1).putAcc m.team (a.step (tiles.getD k 0) (matFloat ta) rows cols)
  | .load tile off str =>
    s.putAcc m.team (a.putElems tile ((List.range 1024).map fun x =>
      (x, BitVec.ofNat 32 (t.scrGet (off + x / 32 * str + 4 * (x % 32)) 4))))
  | .store tile off str ty t2 rm sat scale =>
    let e := storeBytes ty
    let s := (List.range 32).foldl (fun s i =>
      s.modTeam m.team fun t => t.scrPut (off + i * str) (32 * e)
        ((List.range 32).foldr (fun j x => accstValue ty t2 rm sat scale (a.elem tile i j) + 2 ^ (8 * e) * x) 0)) s
    s.dropCopies m.team (linesOf ((List.range 32).flatMap fun i => [off + i * str, off + i * str + 32 * e - 1]))
  | .read tile pend first n col reg lanes =>
    s.modGroup m.group fun g => { g with pend := g.pend.modify pend fun p =>
      { p with
        ready := true
        vs := (lanesOf lanes).flatMap fun l => (List.range n).map fun i =>
          (32 * (reg + i) + l, (a.tiles.getD [] tile).getD 0 (rcIndex first col i l)) } }
  | .write tile first n col lanes words =>
    s.putAcc m.team (a.putElems tile ((lanesOf lanes).flatMap fun l => (List.range n).map fun i =>
      (rcIndex first col i l, words.getD 0 (32 * i + l))))

/-- The elements that the operation's next step reads and those it writes. -/
def MOp.elems (m : MOp) : Nat × List Nat × List Nat :=
  let all := List.range 1024
  let picked (first n : Nat) (col : Bool) (lanes : W32) : List Nat :=
    (lanesOf lanes).flatMap fun l => (List.range n).map fun i => rcIndex first col i l
  match m.kind with
  | .steps _ _ tiles .. => (tiles.getD m.next 0, all, all)
  | .load tile _ _ => (tile, [], all)
  | .store tile .. => (tile, all, [])
  | .read tile _ first n col _ lanes => (tile, picked first n col lanes, [])
  | .write tile first n col lanes _ => (tile, [], picked first n col lanes)

/-- Does the next step consume an accumulator word pair in error: read one of its words, or write only one (R242, spec/26
R417)? -/
def Acc.consumes (a : Acc) (m : MOp) : Bool :=
  let (tile, rd, wr) := m.elems
  !a.poison.isEmpty && ((rd.any fun e => a.poison.has (512 * tile + e / 2)) ||
    wr.any fun e => a.poison.has (512 * tile + e / 2) && !wr.contains (e / 2 * 2 + (1 - e % 2)))

/-- The pairs that a step writes whole lose their marks. -/
def Acc.cleared (a : Acc) (m : MOp) : Acc :=
  if a.poison.isEmpty then a else
  let (tile, _, wr) := m.elems
  { a with poison := wr.foldl (fun p e => p.erase (512 * tile + e / 2)) a.poison }

/-- An operation leaves the sequencer: its Hasp entries go, and its batch no longer waits for it (R240). -/
def State.dropMop (s : State) (core id : Nat) (m : MOp) : State :=
  ((s.haspDrop core m.entries).modCore core fun c => { c with mops := c.mops.erase id }).modGroup m.group fun g =>
    { g with
      openOps := g.openOps.filter (· != id)
      batches := g.batches.map fun b => (b.1, b.2.filter (· != id)) }

/-- An operation that consumed an uncorrectable error goes no further; its group goes to the freeze path (R242). -/
def State.mopError (s : State) (core id : Nat) (m : MOp) (arr : Nat) : State :=
  let s := s.dropMop core id m
  let s := match m.kind with
    | .read _ pend .. => s.modGroup m.group fun g => { g with pend := g.pend.erase pend }
    | _ => s
  s.freezeGroup m.group arr

/-- MATRIX_STEP: one operation of a core takes its next step; after its last it completes. -/
def execMatrixStep (core id : Nat) (s : State) : Host.Outcome State Fault Refusal :=
  match (s.core core).mops.get? id with
  | none => .next s
  | some m =>
  match s.teams.get? m.team with
  | none => .next s
  | some t =>
    if !(s.core core).matReady t id m then .next s
    else if m.needs.any fun r => (m.view t).scrBad r.1 r.2 then .next (s.mopError core id m 3)
    else if (s.acc m.team).consumes m then .next (s.mopError core id m 4)
    else
      let s := s.matPerform m t
      let s := s.putAcc m.team ((s.acc m.team).cleared m)
      let n := match m.kind with | .steps _ _ tiles .. => tiles.length | _ => 1
      if m.next + 1 < n then
        .next (s.modCore core fun c => { c with mops := c.mops.set id { m with next := m.next + 1 } })
      else .next (s.dropMop core id m)

end Sys2Proof.Machine
end

