-- ==== Sys2Proof/Machine/Real.lean ====
section
/-! DEFINITION. Real: correctly rounded transcendental values (spec/06 R121, spec/14 R272), from enclosures in fixed point
with 448 fraction bits. Where an enclosure does not decide a rounding, Config.undecided does (log 16). -/

namespace Sys2Proof.Machine

/-- Fraction bits of the fixed point. -/
def fixP : Nat := 448
def one448 : Nat := 2 ^ fixP
/-- ⌊π × 2^600⌋. -/
def piQ : Nat := 0x3243f6a8885a308d313198a2e03707344a4093822299f31d0082efa98ec4e6c89452821e638d01377be5466cf34e90c6cc0ac29b7c97c50dd3f84d5b5b54709179216d5d98979fb1bd1310b
/-- ⌊π × 2^448⌋. -/
def piP : Nat := piQ / 2 ^ 152
/-- ⌊ln 2 × 2^448⌋. -/
def ln2P : Nat := 0xb17217f7d1cf79abc9e3b39803f2f6af40f343267298b62d8a0d175b8baafa2be7b876206debac98559552fb4afa1b10ed2eae35c1382144
/-- Error bound of every series below, in units of 2^−448. -/
def slack : Nat := 2 ^ 20

/-- A value that is strictly between lo/den and hi/den in magnitude. -/
structure Encl where
  neg : Bool
  lo : Nat
  hi : Nat
  den : Nat
  deriving DecidableEq, Repr

/-- Round an enclosed value; `op` and `arg` name it to Config. -/
def Encl.round (x : Encl) (f : Fmt) (md : Mode) (sat ftz : Bool) (op arg : Nat) : Nat × Nat :=
  let a := f.round md sat ftz x.neg (if x.lo == 0 then 1 else x.lo) x.den true
  let b := f.round md sat ftz x.neg (x.hi - 1) x.den true
  if a == b then a else if Config.undecided op arg then b else a

/-- An enclosure around a computed fixed-point magnitude times 2^k. -/
def Encl.around (neg : Bool) (a : Nat) (k : Int) : Encl :=
  { neg := neg, lo := (a - slack) * 2 ^ k.toNat, hi := (a + slack) * 2 ^ k.toNat, den := one448 * 2 ^ (-k).toNat }

/-- The fixed-point value of a finite float whose exponent is at least −448 and whose size is bounded by its caller. -/
def FVal.fix (x : FVal) : Int := x.atScale (-448)

/-- Σ t^n / n! in fixed point, for 0 ≤ t < 1. -/
def expSeries (t : Nat) : Nat :=
  ((List.range 100).foldl (fun (acc : Nat × Nat) n =>
    let term := acc.2 * t / one448 / (n + 1)
    (acc.1 + term, term)) (one448, one448)).1

/-- e^x for |x| ≤ 2^9, as A × 2^k with A in [1, 2]. -/
def expParts (x : Int) : Nat × Int :=
  let k := x / (ln2P : Int)
  (expSeries (x - k * ln2P).toNat, k)

/-- ln of m in [1, 2], fixed point. -/
def lnSeries (m : Nat) : Nat :=
  let z := (m - one448) * one448 / (m + one448)
  let z2 := z * z / one448
  2 * ((List.range 145).foldl (fun (acc : Nat × Nat) i => (acc.1 + acc.2 / (2 * i + 1), acc.2 * z2 / one448)) (0, z)).1

/-- ln of num/den > 0, fixed point. -/
def lnFix (num den : Nat) : Int :=
  let k := floorLog2 num den
  let m := num * 2 ^ (-k).toNat * one448 / (den * 2 ^ k.toNat)
  (lnSeries m : Int) + k * ln2P

/-- sin θ for 0 ≤ θ ≤ π/2 in fixed point. -/
def sinSeries (t : Nat) : Nat :=
  let t2 := t * t / one448
  ((List.range 60).foldl (fun (acc : Int × Nat) i =>
    (if i % 2 == 0 then acc.1 + acc.2 else acc.1 - acc.2, acc.2 * t2 / one448 / ((2 * i + 2) * (2 * i + 3)))) (0, t)).1.toNat

/-! ## FEXP2, FLOG2, FSIN, FCOS on finite arguments -/

/-- 2^b for a finite b that is not an integer; beyond ±300 any value as far out rounds alike. -/
def exp2Encl (b : FVal) : Encl :=
  let x := b.fix
  let lim : Int := 300 * one448
  if lim < x then ⟨false, 2 ^ 300, 2 ^ 301, 1⟩
  else if x < -lim then ⟨false, 2, 4, 2 ^ 302⟩
  else
    let k := x / (one448 : Int)
    let t := (x - k * one448).toNat * ln2P / one448
    Encl.around false (expSeries t) k

/-- Is the finite value an integer; and which? Values of magnitude 2^9 or more are not asked for. -/
def FVal.isInteger (x : FVal) : Bool :=
  match x with
  | .fin _ m e => e ≥ 0 || m % 2 ^ (-e).toNat == 0
  | _ => false

/-- log2 of m × 2^e, not a power of two. -/
def log2Encl (m : Nat) (e : Int) : Encl :=
  let k := floorLog2 m 1
  let y := m * one448 / 2 ^ k.toNat
  let l : Int := ((lnSeries y * one448 / ln2P : Nat) : Int) + (k + e) * one448
  Encl.around (decide (l < 0)) l.natAbs 0

/-- sin(π r) for r = num / 2^448 in [0, 2): exact, or an enclosure. -/
def sinPiUnit (r : Nat) : FVal × Option Encl :=
  let neg := decide (one448 ≤ r)
  let r := if neg then r - one448 else r
  let r := if one448 < 2 * r then one448 - r else r
  if r == 0 then (.fin false 0 0, none)
  else if 2 * r == one448 then (.fin neg 1 0, none)
  else
    let a := sinSeries (r * piP / one448)
    let x := Encl.around neg a 0
    (.nan, some { x with hi := if one448 < x.hi then one448 else x.hi })

/-- A finite value modulo 2, fixed point. -/
def FVal.mod2 (x : FVal) : Nat :=
  match x with
  | .fin n m e =>
    if 1 ≤ e then 0 else
    let y := m * 2 ^ (e + 448).toNat % (2 * one448)
    if n && y != 0 then 2 * one448 - y else y
  | _ => 0

/-! ## Activations of the Pen (R272), on finite arguments that are not zero -/

def sigmoidEncl (x : FVal) : Encl :=
  let t := x.fix
  let lim : Int := 150 * one448
  if lim < t then ⟨false, one448 - 1, one448, one448⟩
  else if t < -lim then ⟨false, 2, 4, 2 ^ 202⟩
  else
    -- 1 / (1 + e^−a) with e^−a = A × 2^k
    let (a, k) := expParts (-t)
    let den := one448 * 2 ^ (-k).toNat + a * 2 ^ k.toNat
    let v := one448 * 2 ^ (-k).toNat * one448 * 2 ^ 300 / den
    let err := v * slack / one448 + 1
    ⟨false, v - err, v + err + 1, one448 * 2 ^ 300⟩

def tanhEncl (neg : Bool) (x : FVal) : Encl :=
  let t := x.fix
  if 100 * (one448 : Int) < t then ⟨neg, one448 - 1, one448, one448⟩
  else
    let (a, k) := expParts (2 * t)
    let e := a * 2 ^ k.toNat
    Encl.around neg ((e - one448) * one448 / (e + one448)) 0

def softplusEncl (x : FVal) : Encl :=
  let t := x.fix
  let lim : Int := 150 * one448
  if lim < t then ⟨false, t.toNat, t.toNat + 2, one448⟩
  else if t < -lim then ⟨false, 2, 4, 2 ^ 202⟩
  else
    let (a, k) := expParts t
    Encl.around false (lnFix (one448 * 2 ^ (-k).toNat + a * 2 ^ k.toNat) (one448 * 2 ^ (-k).toNat)).toNat 0

/-- sin of an angle in radians, a finite positive value of any size. -/
def sinRadEncl (neg : Bool) (x : FVal) : Encl :=
  let y := (x.atScale (-600)).toNat
  let k := y / piQ
  let r := (y - k * piQ) / 2 ^ 152
  let r := if piP < 2 * r then piP - r else r
  Encl.around (neg != (k % 2 == 1)) (sinSeries r) 0

end Sys2Proof.Machine
end

