-- ==== Sys2Proof/Machine/Pen.lean ====
section
/-! DEFINITION. Pen: per-lane network evaluation: gathering, weight slots, evaluation, results and faults (spec/14, spec/15
R285). -/

namespace Sys2Proof.Machine

/-! ## The network descriptor (R269 to R271) -/

/-- An invalid handle. -/
def penBad (h : Nat) : Bool := decide (2 ^ 56 ≤ h) || h % 64 != 0 || inAperture h

/-- A layer of a network: the byte of its block, outputs, activation, inputs and padded inputs. -/
structure PenLayer where
  off : Nat
  outw : Nat
  act : Nat
  n : Nat
  p : Nat
  deriving DecidableEq, Repr

/-- A network. -/
structure PenNet where
  e4 : Bool                         -- weight type e4m3
  inw : Nat
  layers : List PenLayer
  waddr : Nat
  wbytes : Nat
  deriving DecidableEq, Repr

/-- Inputs of one step. -/
def PenNet.k (e4 : Bool) : Nat := if e4 then 32 else 16

/-- The layers from `l` on, with the size of the image. -/
def penLayers (d : Nat) (e4 : Bool) (last : Nat) : Nat → Nat → Nat → Nat → Option (List PenLayer × Nat)
  | 0, _, _, off => some ([], off)
  | fuel + 1, l, n, off =>
    let f := bitsN d (47 + 16 * l) (32 + 16 * l)
    if last < l then (if f == 0 then penLayers d e4 last fuel (l + 1) n off else none)
    else
      let outw := f % 64 + 1
      let act := bitsN f 8 6
      if f / 512 != 0 || act == 7 || (l == last && 16 < outw) then none
      else
        let k := PenNet.k e4
        let p := (n + k - 1) / k * k
        let size := (outw * p * (if e4 then 1 else 2) + 4 * outw + 63) / 64 * 64
        match penLayers d e4 last fuel (l + 1) outw (off + size) with
        | some (ls, total) => some ({ off := off, outw := outw, act := act, n := n, p := p } :: ls, total)
        | none => none

/-- The network of a descriptor; none when it is malformed. -/
def penNet (desc : BitVec 512) : Option PenNet :=
  let d := desc.toNat
  let f (hi lo : Nat) : Nat := bitsN d hi lo
  let e4 := f 10 10 == 1
  let inw := 16 * (f 17 16 + 1)
  if f 7 0 != 1 || f 15 11 != 0 || f 31 18 != 0 || f 127 96 != 0 || f 191 184 != 0 || f 511 224 != 0 then none
  else match penLayers d e4 (f 9 8) 4 0 inw 0 with
  | none => none
  | some (ls, total) =>
    let waddr := f 183 128
    let wbytes := f 223 192
    if waddr % 64 != 0 || wbytes != total || 32768 < wbytes || meetsAperture waddr wbytes then none
    else some { e4 := e4, inw := inw, layers := ls, waddr := waddr, wbytes := wbytes }

/-! ## What a lane computes (R272) -/

/-- An activation of an f32 code. -/
def penAct (act x : Nat) : Nat :=
  let f := Fmt.f32
  let v := f.dec false x
  let rnd (e : Encl) : Nat := (e.round f .rne false false (0x100 + act) x).1
  match v with
  | .nan => f.nan
  | .inf n =>
    match act with
    | 1 => if n then 0 else x
    | 3 => if n then 0 else 0x3F800000
    | 4 => if n then 0xBF800000 else 0x3F800000
    | 5 => if n then 0 else x
    | 6 => f.nan
    | _ => x
  | .fin n m e =>
    match act with
    | 1 => if n || m == 0 then 0 else x
    | 2 => if n && m != 0 then (f.ofVal .rne false false (.fin n m (e - 4))).1 else x
    | 3 => if m == 0 then 0x3F000000 else rnd (sigmoidEncl v)
    | 4 => if m == 0 then x else rnd (tanhEncl n v.abs)
    | 5 => rnd (softplusEncl v)
    | 6 => if m == 0 then x else rnd (sinRadEncl n v.abs)
    | _ => x

/-- The outputs of a network for one lane's bf16 inputs, as f32 codes. -/
def penEval (net : PenNet) (image : Array Byte) (inputs : List Nat) : List Nat :=
  let byte (i : Nat) : Nat := (image.getD i 0).toNat
  let fmt : Fmt := if net.e4 then .e4m3 else .bf16
  let narrow (v : FVal) : FVal := fmt.dec false (fmt.ofVal .rne net.e4 false v).1
  let k := PenNet.k net.e4
  let eb := if net.e4 then 1 else 2
  let x0 := (inputs.map (Fmt.bf16.dec false)).map fun v => if net.e4 then narrow v else v
  let layer (l : PenLayer) (x : List FVal) : List Nat :=
    let xs := x ++ List.replicate (l.p - l.n) (FVal.fin false 0 0)
    (List.range l.outw).map fun j =>
      let weight (i : Nat) : FVal :=
        let a := l.off + (j * l.p + i) * eb
        fmt.dec false (byte a + (if net.e4 then 0 else 256 * byte (a + 1)))
      let b := l.off + l.outw * l.p * eb + 4 * j
      let bias := byte b + 256 * byte (b + 1) + 65536 * byte (b + 2) + 16777216 * byte (b + 3)
      penAct l.act ((List.range (l.p / k)).foldl (fun acc q =>
        (Fmt.f32.dot .rne false false ((List.range k).map fun i => (weight (q * k + i), xs.getD (q * k + i) .nan))
          [Fmt.f32.dec false acc]).1) bias)
  let rec go : List PenLayer → List FVal → List Nat
    | [], _ => []
    | [l], x => layer l x
    | l :: rest, x => go rest ((layer l x).map fun y => narrow (Fmt.f32.dec false y))
  go net.layers x0

/-! ## Delivery (R278 to R280, R284) -/

/-- NSTAT ends: the fault mask's bits of active lanes go to kD, and with .clr they are cleared. -/
def State.nstatEnd (s : State) (h : Here) (kd : Opnd) (clr : Bool) : State :=
  let s := match kd with
    | .k r => s.modGroup h.gid fun g =>
        let old := h.kreg r.val
        g.setK r.val ((old &&& ~~~h.f.mask) ||| (h.g.penFault &&& h.f.mask))
    | _ => s
  if clr then s.modGroup h.gid fun g => { g with penFault := g.penFault &&& ~~~h.f.mask } else s

/-- Every evaluation of the group numbered below `upto` has been delivered. -/
def State.penDone (s : State) (core gid upto : Nat) : Bool :=
  !(s.core core).nevals.any fun e => e.1 < upto && e.2.group == gid

/-- Complete the NSTATs of a group that wait for nothing more. -/
def State.settleNstat (s : State) (core gid : Nat) : State :=
  (s.fragsOf gid).foldl (fun s k =>
    match s.hereOf k with
    | none => s
    | some h =>
      match h.f.st with
      | .parked (.nstat upto) =>
        if s.penDone core gid upto then
          match s.parkedAt k with
          | some (.nstat w) => (s.nstatEnd h w.dst (w.imm.getLsbD 0)).finishParked k
          | _ => s
        else s
      | _ => s) s

/-- The last lane of an evaluation has been delivered: its registers are released, and faulted lanes of NEVAL.trap post an
imprecise record. -/
def State.nevalEnd (s : State) (core id : Nat) (e : Neval) : State :=
  let s := s.modCore core fun c => { c with nevals := c.nevals.erase id }
  let s := s.modGroup e.group fun g => { g with pend := g.pend.erase e.pend }
  let s := if e.trap && e.faulted != 0 then
      let addr := match lowLane e.faulted with | some l => (e.handles.getD 0 l).toNat % 2 ^ 56 | none => 0
      let s := s.postReport e.group e.frag
        { cause := .pen, detail := e.detail, lanes := e.faulted, active := e.mask, line := e.line, slot := e.slot, addr := addr
          info := 2 ^ 63, paired := e.paired }
      s.stopIssuer e.frag e.uid (s.waitsFor e.group ((List.range e.nout).map fun i => .v (e.dst + i)))
    else s
  (s.unblock e.group).settleNstat core e.group

/-- Deliver a lane: its outputs, or NaN and its fault bit. Its registers are outstanding no longer in that lane. -/
def State.penPut (s : State) (core id lane : Nat) (outs : Except Nat (List Nat)) : State :=
  match (s.core core).nevals.get? id with
  | none => s
  | some e =>
    let bit : W32 := BitVec.ofNat 32 (2 ^ lane)
    let vals := match outs with
      | .ok xs => xs
      | .error _ => List.replicate e.nout Fmt.f32.nan
    let s := s.modGroup e.group fun g =>
      (vals.zipIdx).foldl (fun g v => g.setV (e.dst + v.2) lane (BitVec.ofNat 32 v.1)) g
    let s := s.modGroup e.group fun g => { g with pend := g.pend.modify e.pend fun p => { p with lanes := p.lanes.map (· &&& ~~~bit) } }
    let s := s.unblock e.group
    let e' := { e with left := e.left &&& ~~~bit }
    match outs with
    | .ok _ =>
      if e'.left == 0 then s.nevalEnd core id e' else s.modCore core fun c => { c with nevals := c.nevals.set id e' }
    | .error d =>
      let s := s.modGroup e.group fun g => { g with penFault := g.penFault ||| bit }
      let e' := { e' with faulted := e'.faulted ||| bit, detail := if e.faulted == 0 then d else min e.detail d }
      if e'.left == 0 then s.nevalEnd core id e' else s.modCore core fun c => { c with nevals := c.nevals.set id e' }

/-! ## Slots and tiles (R273 to R276) -/

/-- The slot that holds a key. -/
def Core.penHolder (c : Core) (handle asid : Nat) : Option Nat :=
  (c.penSlots.find? fun e => e.2.handle == handle && e.2.asid == asid && !e.2.drop).map (·.1)

/-- Does a tile that runs or waits need the slot? -/
def State.penNeeded (s : State) (c : Core) (k : Nat) (x : PenSlot) : Bool :=
  !x.ready || c.penTiles.any fun e =>
    (e.2.st == 2 && e.2.fault.isNone && e.2.slot == k) ||
    (e.2.st == 1 && !x.drop && e.2.handle == x.handle && (s.ctxs.get? e.2.ctx).map Ctx.asid == some x.asid)

/-- The slot to fill: a free one, else the least recently used that no tile needs. -/
def State.penVictim (s : State) (c : Core) : Option Nat :=
  match c.penSlots.freeKey 0 8 with
  | some k => some k
  | none => ((c.penSlots.filter fun e => !s.penNeeded c e.1 e.2).foldl (fun (b : Option (Nat × PenSlot)) e =>
      match b with
      | none => some e
      | some x => if e.2.used < x.2.used then some e else b) none).map (·.1)

def State.modPenTile (s : State) (core t : Nat) (f : PenTile → PenTile) : State :=
  s.modCore core fun c => { c with penTiles := c.penTiles.modify t f }

/-- Launch a tile: it runs from the slot that holds its key, or waits for one. -/
def State.penLaunch (s : State) (core t : Nat) : State :=
  match (s.core core).penTiles.get? t with
  | none => s
  | some x =>
    let asid := ((s.ctxs.get? x.ctx).map Ctx.asid).getD 0
    let s := if x.st == 0 then s.countEv core 9 1 else s
    match (s.core core).penHolder x.handle asid with
    | some k =>
      let s := { s with stamp := s.stamp + 1 }
      (s.modPenTile core t fun x => { x with st := 2, slot := k }).modCore core fun c =>
        { c with penSlots := c.penSlots.modify k fun p => { p with used := s.stamp } }
    | none => s.modPenTile core t fun x => { x with st := 1 }

/-- The open tiles of a core. -/
def Core.penOpen (c : Core) : SMap PenTile := c.penTiles.filterE fun _ t => t.st == 0

/-- Put a lane into the open tile of its key. -/
def State.penGather (s : State) (h : Here) (id lane handle : Nat) (inputs : List Nat) : State :=
  let c := s.core h.core
  let sameKey (t : PenTile) : Bool := t.handle == handle && (s.ctxs.get? t.ctx).map Ctx.asid == some h.cx.asid
  let row : PenRow := { neval := id, lane := lane, inputs := inputs }
  match c.penOpen.find? fun e => sameKey e.2 with
  | some (t, x) =>
    let s := s.modPenTile h.core t fun x => { x with rows := x.rows ++ [row] }
    if x.rows.length + 1 == 32 then s.penLaunch h.core t else s
  | none =>
    -- room (R273): the open tile whose window ends first launches
    let s := if 16 ≤ c.penOpen.length then
        match c.penOpen.foldl (fun (b : Option (Nat × PenTile)) e =>
            match b with
            | none => some e
            | some x =>
              if e.2.ends < x.2.ends || (e.2.ends == x.2.ends && e.2.opened < x.2.opened) then some e else b) none with
        | some (t, _) => s.penLaunch h.core t
        | none => s
      else s
    let t := (s.core h.core).nextId
    s.modCore h.core fun c =>
      { c with
        penTiles := c.penTiles.set t
          { handle := handle, ctx := h.t.ctx, opener := h.gid, penwin := h.g.penwin.toNat, opened := t
            ends := c.clock.toNat + h.g.penwin.toNat, rows := [row] }
        nextId := t + 1 }

/-! ## NEVAL, NHLD, NSTAT (R282 to R284) -/

def nevalSlot (w : EngW) (h : Here) (s : State) : SlotResult :=
  if s.sideBusy h then .stall else
  let ls := lanesOf (h.active w.g w.gn)
  if ls.isEmpty then .done s else
  match w.dst with
  | .v rd =>
    let nin := immF w.imm 4 0 + 1
    let nout := immF w.imm 8 5 + 1
    let id := (s.core h.core).nextId
    let handle (l : Nat) : Nat := h.src64 w.a 0 l
    let ev : Neval :=
      { group := h.gid, frag := h.fid, uid := h.f.uid, line := h.f.line, slot := h.f.slot, paired := h.f.paired, mask := h.f.mask
        nin := nin, nout := nout, dst := rd.val, trap := w.imm.getLsbD 9, pend := h.g.nextPend, left := maskOf ls.contains
        handles := ls.foldl (fun m l => m.setD 0 l (BitVec.ofNat 64 (handle l))) [] }
    let regs := (List.range nout).map fun i => .v (rd.val + i)
    let s := s.addPend h.gid { frag := h.fid, regs := regs, ready := false, lanes := some (maskOf ls.contains) }
    let s := s.modCore h.core fun c => { c with nevals := c.nevals.set id ev, nextId := id + 1 }
    -- register r of the block; a latch stands for a block of one
    let word (r l : Nat) : Nat := match w.b with
      | .v ri => (h.vreg (ri.val + r) l).toNat
      | o => h.src32 o 0 l
    let inputs (l : Nat) : List Nat := (List.range nin).flatMap fun r => [word r l % 65536, word r l / 65536]
    let s := ls.foldl (fun s l =>
      if penBad (handle l) then s.penPut h.core id l (.error 0) else s.penGather h id l (handle l) (inputs l)) s
    -- PENWIN = 0: a tile launches once the opening NEVAL's lanes have been gathered
    .done (((s.core h.core).penOpen.filter fun e => e.2.penwin == 0).foldl (fun s e => s.penLaunch h.core e.1) s)
  | _ => .done s

def execNeval (w : EngW) (s : State) : Host.Outcome State Fault Refusal := runSlot (.neval w) (nevalSlot w) s

/-- NHLD.pre: a tile without rows stands for the load, which neither waits for a slot nor posts anything. The instruction does not
wait for the group's earlier accesses; its load does. -/
def execNhldPre (w : EngW) (s : State) : Host.Outcome State Fault Refusal :=
  runSlot (.nhldPre w) (fun h s =>
    let handle := (h.srcS w.a).toNat
    let c := s.core h.core
    if penBad handle || (c.penHolder handle h.cx.asid).isSome || (s.penVictim c).isNone then .done s
    else
      .done (s.modCore h.core fun c =>
        { c with
          penTiles := c.penTiles.set c.nextId
            { handle := handle, ctx := h.t.ctx, opener := h.gid, penwin := 0, opened := c.nextId, ends := 0, st := 1 }
          nextId := c.nextId + 1 })) s

/-- Free a dropped slot that no tile runs from. -/
def State.penRelease (s : State) (core k : Nat) : State :=
  let c := s.core core
  match c.penSlots.get? k with
  | some x =>
    if x.drop && x.ready && !(c.penTiles.any fun e => e.2.st == 2 && e.2.fault.isNone && e.2.slot == k) then
      s.modCore core fun c => { c with penSlots := c.penSlots.erase k }
    else s
  | none => s

def execNhldDrop (w : EngW) (s : State) : Host.Outcome State Fault Refusal :=
  runSlot (.nhldDrop w) (fun h s =>
    let handle := (h.srcS w.a).toNat
    let sameKey (t : PenTile) : Bool := t.handle == handle && (s.ctxs.get? t.ctx).map Ctx.asid == some h.cx.asid
    -- the open tile, and tiles launched before it, take the weights already loaded
    let s := ((s.core h.core).penTiles.filter fun e => e.2.st ≤ 1 && sameKey e.2).foldl (fun s e => s.penLaunch h.core e.1) s
    match (s.core h.core).penHolder handle h.cx.asid with
    | none => .done s
    | some k =>
      let s := s.modCore h.core fun c => { c with penSlots := c.penSlots.modify k fun p => { p with drop := true } }
      .done (s.penRelease h.core k)) s

def execNstat (w : EngW) (s : State) : Host.Outcome State Fault Refusal :=
  runSlot (.nstat w) (fun h s =>
    let upto := (s.core h.core).nextId
    if s.penDone h.core h.gid upto then .done (s.nstatEnd h w.dst (w.imm.getLsbD 0)) else .park (.nstat upto) s) s

/-! ## Events (R274 to R279) -/

/-- The open tiles of a core whose windows have ended by a cycle, in the order in which they end; of two that end together the one
opened first. -/
def Core.penOver (c : Core) (now : Nat) : List Nat :=
  (sortBy (fun (a b : Nat × PenTile) => a.2.ends < b.2.ends || (a.2.ends == b.2.ends && a.2.opened ≤ b.2.opened))
    (c.penOpen.filter fun e => decide (e.2.ends ≤ now))).map (·.1)

/-- Tiles whose windows have ended launch (R274). -/
def State.penExpire (s : State) (core now : Nat) : State := ((s.core core).penOver now).foldl (fun s t => s.penLaunch core t) s

/-- PEN_WINDOW_EXPIRE: an open tile's window ends: the cycles up to then have passed, and with it launch the tiles whose windows ended
before. -/
def execPenWindowExpire (core tile : Nat) (s : State) : Host.Outcome State Fault Refusal :=
  match (s.core core).penTiles.get? tile with
  | some x =>
    if x.st != 0 then .next s else
    let now := max x.ends (s.core core).clock.toNat
    .next ((s.modCore core fun c => { c with clock := BitVec.ofNat 64 now }).penExpire core now)
  | none => .next s

/-- Read a range for the filling load: the bytes, or the DETAIL of R279 with the address. -/
def State.penRead (s : State) (core : Nat) (cx : Ctx) (va n : Nat) : Except (Nat × Nat) Nat :=
  let pages := (List.range ((va + n - 1) / 2 ^ 18 - va / 2 ^ 18 + 1)).map fun i => max va ((va / 2 ^ 18 + i) * 2 ^ 18)
  match pages.findSome? fun a => match s.xl core cx a .read with
    | .ok _ _ => none
    | .fault _ _ => some (3, a)
    | .prot _ => some (4, a) with
  | some e => .error e
  | none => .ok (pages.foldr (fun a x =>
      let k := min (va + n) ((a / 2 ^ 18 + 1) * 2 ^ 18) - a
      s.vload core cx a k + 2 ^ (8 * k) * x) 0)

def State.penTouch (s : State) (core : Nat) (cx : Ctx) (va n : Nat) : State :=
  (List.range ((va + n - 1) / 2 ^ 18 - va / 2 ^ 18 + 1)).foldl (fun s i =>
    s.touch core cx (max va ((va / 2 ^ 18 + i) * 2 ^ 18)) false) s

/-- Read a range of readable pages: ACC is set first (spec/23 R382). -/
def State.penTake (s : State) (core : Nat) (cx : Ctx) (va n : Nat) : Nat × State :=
  let s := s.penTouch core cx va n
  (match s.penRead core cx va n with
   | .ok x => x
   | .error _ => 0, s)

/-- The physical address of a poisoned word of the range, if it holds one. -/
def State.penPoison (s : State) (core : Nat) (cx : Ctx) (va n : Nat) : Option Nat :=
  (List.range (n / 8 + 1)).findSome? fun i => if 8 * i < n then s.poisonAt core cx (va + 8 * i) 8 .read else none

/-- Lanes of a group whose rows hold errors, or whose load did: their evaluation writes nothing more. -/
def State.penAbandon (s : State) (core id : Nat) : State :=
  match (s.core core).nevals.get? id with
  | none => s
  | some e =>
    (s.modCore core fun c => { c with nevals := c.nevals.erase id }).modGroup e.group fun g => { g with pend := g.pend.erase e.pend }

/-- The load of a tile's weights consumed an error of an array, for the group that opened the tile (spec/26 R417): its rows go, and
the tile of the others waits for a load by the group whose row is now the first. -/
def State.penError (s : State) (core tile : Nat) (x : PenTile) (arr pa : Nat) : State :=
  let mine (r : PenRow) : Bool := ((s.core core).nevals.get? r.neval).any fun e => e.group == x.opener
  let rest := x.rows.filter fun r => !mine r && (s.core core).nevals.has r.neval
  let next := (rest.head?.bind fun r => (s.core core).nevals.get? r.neval).map Neval.group
  let s := (x.rows.filter mine).foldl (fun s r => s.penAbandon core r.neval) s
  let s := s.modCore core fun c =>
    { c with penTiles := match next with
        | some g => c.penTiles.set tile { x with rows := rest, opener := g, st := 1 }
        | none => c.penTiles.erase tile }
  s.freezeGroup x.opener arr pa

/-- A slot is discarded: the tiles that run from it, or wait for its load, wait for a fresh load (R275). -/
def State.penDiscard (s : State) (core k : Nat) : State :=
  match (s.core core).penSlots.get? k with
  | none => s
  | some p =>
    (s.haspDrop core p.entries).modCore core fun c =>
      { c with
        penSlots := c.penSlots.erase k
        penTiles := c.penTiles.mapV fun _ t => if t.st == 2 && t.fault.isNone && t.slot == k then { t with st := 1 } else t }

/-- The load of a tile's weights failed: its rows are faulted, and Shento is asked to map the page of a translation fault. -/
def State.penFail (s : State) (core tile : Nat) (e : Nat × Nat) : State :=
  let s := s.modPenTile core tile fun x => { x with st := 2, fault := some e.1 }
  if e.1 == 3 then s.modCore core fun c => { c with penAsks := c.penAsks ++ [e.2] } else s

/-- PEN_SLOT_FILL: a waiting tile takes a slot that holds its key or begins the filling load, whose ranges are registered; a
tile whose slot is being filled ends the load. -/
def execPenSlotFill (core tile : Nat) (s : State) : Host.Outcome State Fault Refusal :=
  match (s.core core).penTiles.get? tile with
  | none => .next s
  | some x =>
  match s.ctxs.get? x.ctx with
  | none => .next s
  | some cx =>
    if x.rows.isEmpty && s.groupBusy core x.opener then .next s
    else if x.st == 1 then
      if ((s.core core).penHolder x.handle cx.asid).isSome then .next (s.penLaunch core tile)
      else match s.penVictim (s.core core) with
      | none => .next s
      | some k =>
        match s.penRead core cx x.handle 64 with
        | .error e => .next (s.penFail core tile e)
        | .ok _ =>
          match s.penPoison core cx x.handle 64 with
          | some pa => .next (s.penError core tile x 8 pa)
          | none =>
            let (d, s) := s.penTake core cx x.handle 64
            let desc := BitVec.ofNat 512 d
            match penNet desc with
            | none => .next (s.penFail core tile (1, 0))
            | some net =>
              match s.haspAdd core [haspRange false 7 0 cx.asid x.handle 64, haspRange false 7 0 cx.asid net.waddr net.wbytes] with
              | none => .next s
              | some (ids, s) =>
                let s := { s with stamp := s.stamp + 1 }
                let slot : PenSlot := { handle := x.handle, asid := cx.asid, desc := desc, image := [], used := s.stamp, entries := ids }
                .next ((s.modPenTile core tile fun x => { x with st := 2, slot := k }).modCore core fun c =>
                  { c with penSlots := c.penSlots.set k slot })
    else if x.st == 2 && x.fault.isNone then
      match (s.core core).penSlots.get? x.slot with
      | none => .next s
      | some p =>
        if p.ready then .next s else
        match penNet p.desc with
        | none => .next s
        | some net =>
          let s' := s.haspDrop core p.entries
          match s.penRead core cx net.waddr net.wbytes with
          | .error e =>
            -- no slot is kept, and every tile that waits for it is faulted
            let mine := (s'.core core).penTiles.filter fun t => t.2.st == 2 && t.2.fault.isNone && t.2.slot == x.slot
            let s' := mine.foldl (fun s t => s.modPenTile core t.1 fun y => { y with fault := some e.1 }) s'
            .next ((s'.penFail core tile e).modCore core fun c => { c with penSlots := c.penSlots.erase x.slot })
          | .ok _ =>
            match s.penPoison core cx net.waddr net.wbytes with
            | some pa => .next ((s.penDiscard core x.slot).penError core tile x 8 pa)
            | none =>
              let (img, s') := s'.penTake core cx net.waddr net.wbytes
              let bytes := (List.range net.wbytes).map fun i => BitVec.ofNat 8 (img / 256 ^ i)
              .next (s'.modCore core fun c =>
                { c with penSlots := c.penSlots.modify x.slot fun p => { p with ready := true, image := bytes, entries := [] } })
    else .next s

/-- PEN_TILE_SCATTER: a tile whose weights are loaded completes; a tile whose load failed delivers faulted lanes. -/
def execPenTileScatter (core tile : Nat) (s : State) : Host.Outcome State Fault Refusal :=
  match (s.core core).penTiles.get? tile with
  | none => .next s
  | some x =>
    let gone (s : State) : State := s.modCore core fun c => { c with penTiles := c.penTiles.erase tile }
    if x.st != 2 then .next s else
    match x.fault with
    | some d => .next (x.rows.foldl (fun s r => s.penPut core r.neval r.lane (.error d)) (gone s))
    | none =>
      match (s.core core).penSlots.get? x.slot with
      | none => .next s
      | some p =>
        if !p.ready then .next s else
        match penNet p.desc with
        | none => .next s
        | some net =>
          let image := p.image.toArray
          let outw := (net.layers.getLast?.map PenLayer.outw).getD 0
          let s := x.rows.foldl (fun s r =>
            match (s.core core).nevals.get? r.neval with
            | none => s
            | some e =>
              if r.bad then (s.penAbandon core r.neval).freezeGroup e.group 11
              else if 2 * e.nin != net.inw || e.nout != outw then s.penPut core r.neval r.lane (.error 2)
              else s.penPut core r.neval r.lane (.ok (penEval net image r.inputs))) (gone s)
          .next (s.penRelease core x.slot)

/-- REGISTER_WRITE: the Pen control register; PRIO 3 stores 0 and the other bits are ignored (R277). -/
def execRegisterWrite (core : Nat) (v : W32) (s : State) : Host.Outcome State Fault Refusal :=
  let p := v.toNat % 4
  if !s.up then .next s
  else .next (s.modCore core fun c => { c with penPrio := BitVec.ofNat 2 (if p == 3 then 0 else p) })

end Sys2Proof.Machine
end

