-- ==== Sys2Proof/Machine/Fold.lean ====
section
/-! DEFINITION. Fold: the shared graph of path vertices: exact weights, records, generations and the Fold instructions
(spec/19, spec/20 R359, R360). -/

namespace Sys2Proof.Machine

/-! ## Exact reals with square roots and powers of π -/

/-- A term c × √r × π^p. -/
structure Mono where
  c : Rat
  r : Rat := 1
  p : Int := 0
  deriving DecidableEq, Repr

/-- A finite sum of terms. -/
abbrev Surd := List Mono

/-- ⌊√n⌋ for n below 4^bits. -/
def bigSqrt (bits n : Nat) : Nat :=
  (List.range bits).foldl (fun r i => let c := r + 2 ^ (bits - 1 - i); if c * c ≤ n then c else r) 0

/-- A number's square root, when it is a square. -/
def sqrtExact (n : Nat) : Option Nat :=
  let r := bigSqrt (bitLen n / 2 + 1) n
  if r * r == n then some r else none

/-- Take a perfect square out of the radicand. -/
def Mono.norm (m : Mono) : Mono :=
  if m.c == 0 || m.r == 0 then { c := 0 } else
  match sqrtExact m.r.num.natAbs, sqrtExact m.r.den with
  | some a, some b => { m with c := m.c * ((a : Rat) / (b : Rat)), r := 1 }
  | _, _ => m

namespace Surd
def rat (x : Rat) : Surd := [{ c := x }]
def add (a b : Surd) : Surd := a ++ b
def mul (a b : Surd) : Surd := a.flatMap fun x => b.map fun y => ({ c := x.c * y.c, r := x.r * y.r, p := x.p + y.p } : Mono).norm
def pow (a : Surd) (n : Nat) : Surd := if n == 2 then mul a a else a
def scale (a : Surd) (x : Rat) : Surd := a.map fun m => ({ m with c := m.c * x } : Mono).norm
/-- Exact when no root and no π is left. -/
def exact (a : Surd) : Option Rat := if a.all fun m => m.r == 1 && m.p == 0 then some (a.foldl (fun x m => x + m.c) 0) else none
end Surd

/-- An interval that holds √r, with about 500 significant bits. -/
def sqrtIv (r : Rat) : Rat × Rat :=
  let t : Int := 500 - ((bitLen r.num.natAbs : Int) - bitLen r.den) / 2
  let x := r.num.natAbs * 2 ^ (2 * t).toNat / (r.den * 2 ^ (-(2 * t)).toNat)
  let a := bigSqrt 520 x
  let u : Rat := if 0 ≤ t then 1 / (2 ^ t.toNat : Nat) else (2 ^ (-t).toNat : Nat)
  ((a : Rat) * u, ((a + 1 : Nat) : Rat) * u)

/-- An interval that holds π. -/
def piIv : Rat × Rat := ((piQ : Rat) / (2 ^ 600 : Nat), ((piQ + 1 : Nat) : Rat) / (2 ^ 600 : Nat))

/-- A positive interval to a power. -/
def ivPow (x : Rat × Rat) (p : Int) : Rat × Rat :=
  let go (y : Rat) : Rat := (List.range p.natAbs).foldl (fun a _ => a * y) 1
  if 0 ≤ p then (go x.1, go x.2) else (1 / go x.2, 1 / go x.1)

/-- An interval that holds a term. -/
def Mono.iv (m : Mono) : Rat × Rat :=
  let s := if m.r == 1 then (1, 1) else sqrtIv m.r
  let q := ivPow piIv m.p
  let lo := s.1 * q.1
  let hi := s.2 * q.2
  if 0 ≤ m.c then (m.c * lo, m.c * hi) else (m.c * hi, m.c * lo)

def Surd.iv (a : Surd) : Rat × Rat := a.foldl (fun x m => let y := m.iv; (x.1 + y.1, x.2 + y.2)) (0, 0)

/-- An f32 code of a rational, rounded once. -/
def ratF32 (x : Rat) : Nat := (Fmt.f32.round .rne false false (decide (x < 0)) x.num.natAbs x.den false).1

/-- An f32 code of a number in an interval; the manual's exact rounding is not known to be undecided here (log 16). -/
def ivF32 (x : Rat × Rat) : Nat :=
  let a := ratF32 x.1
  let b := ratF32 x.2
  if a == b then a else if Config.undecided 0x200 a then b else a

/-- Round a sum. -/
def Surd.f32 (a : Surd) : Nat :=
  match a.exact with
  | some x => ratF32 x
  | none => ivF32 a.iv

/-- Round the reciprocal of a sum; none when it is zero. -/
def Surd.recipF32 (a : Surd) : Option Nat :=
  match a.exact with
  | some x => if x == 0 then none else some (ratF32 (1 / x))
  | none =>
    let (lo, hi) := a.iv
    if lo ≤ 0 && 0 ≤ hi then none else some (ivF32 (1 / hi, 1 / lo))

/-- The exact value of a finite f32 code. -/
def f32Rat (x : Nat) : Option Rat :=
  match Fmt.f32.dec false x with
  | .fin n m e =>
    let v : Rat := ((m * 2 ^ e.toNat : Nat) : Rat) / ((2 ^ (-e).toNat : Nat) : Rat)
    some (if n then -v else v)
  | _ => none

/-! ## Octahedral pairs (R344) -/

def ratAbs (x : Rat) : Rat := if x < 0 then -x else x
def ratSgn (x : Rat) : Rat := if x < 0 then -1 else 1
def dot3 (a b : List Rat) : Rat := (List.zipWith (· * ·) a b).foldl (· + ·) 0
def sub3 (a b : List Rat) : List Rat := List.zipWith (· - ·) a b

/-- The fold of the lower half. -/
def octFold (u v z : Rat) : List Rat :=
  if z < 0 then [(1 - ratAbs v) * ratSgn u, (1 - ratAbs u) * ratSgn v, z] else [u, v, z]

/-- Decode a pair, not normalised. -/
def octDecode (w : Nat) : List Rat :=
  let one (q : Nat) : Rat := let x : Rat := (sextI 16 q : Rat) / 32767; if x < -1 then -1 else x
  let u := one w
  let v := one (w / 65536)
  octFold u v (1 - ratAbs u - ratAbs v)

/-- The nearest integer, ties to even. -/
def ratRne (x : Rat) : Int :=
  let n := x.num.natAbs / x.den
  let r := x.num.natAbs % x.den
  let y : Int := if x.den < 2 * r || (2 * r == x.den && n % 2 == 1) then n + 1 else n
  if x < 0 then -y else y

/-- Encode a vector; a zero or non-finite one is (0, 0). -/
def octEncode (a : List (Option Rat)) : Nat :=
  match a with
  | [some x, some y, some z] =>
    let s := ratAbs x + ratAbs y + ratAbs z
    if s == 0 then 0 else
    match octFold (x / s) (y / s) (z / s) with
    | u :: v :: _ => wrapN 16 (ratRne (32767 * u)) + 65536 * wrapN 16 (ratRne (32767 * v))
    | _ => 0
  | _ => 0

/-! ## Records (R341) -/

/-- A vertex as the Fold unit reads it: sixteen words. -/
abbrev FVert := List Nat

namespace FVert
def w (v : FVert) (i : Nat) : Nat := v.getD i 0
def pos (v : FVert) : Option (List Rat) :=
  match f32Rat (v.w 0), f32Rat (v.w 1), f32Rat (v.w 2) with
  | some x, some y, some z => some [x, y, z]
  | _, _, _ => none
def normal (v : FVert) : List Rat := octDecode (v.w 3)
def fpdf (v : FVert) : Option Rat := f32Rat (v.w 7)
def wc (v : FVert) : Option Rat := f32Rat (v.w 9)
def wm (v : FVert) : Option Rat := f32Rat (v.w 10)
def nohit (v : FVert) : Bool := (v.w 11).testBit 31
def parent (v : FVert) : Nat := v.w 12
def depth (v : FVert) : Nat := bitsN (v.w 14) 23 16
def kind (v : FVert) : Nat := bitsN (v.w 14) 31 24
def isLight (v : FVert) : Bool := v.kind % 2 == 1
def retained (v : FVert) : Bool := 2 ≤ v.kind
end FVert

/-- g(a→b) with b's normal (R344); none when a position is not finite. -/
def geomG (a : Option (List Rat)) (b : Option (List Rat)) (nb : List Rat) : Option Surd :=
  match a, b with
  | some a, some b =>
    let d := sub3 a b
    let dd := dot3 d d
    if dd == 0 then some [] else
    some [({ c := ratAbs (dot3 nb d), r := 1 / (dot3 nb nb * (dd * dd * dd)) } : Mono).norm]
  | _, _ => none

/-- δ (R345). -/
def FVert.delta (v : FVert) : Rat := if v.depth == 0 && (!v.isLight || v.nohit) then 0 else 1

/-! ## Weights (R346 to R348, R353) -/

/-- η. -/
def Fold.eta (f : Fold) : Surd :=
  match f32Rat f.radius.toNat with
  | some r => if r == 0 || f.nl == 0 then [] else [{ c := r * r * (f.nl.toNat : Rat), p := 1 }]
  | none => []

def Fold.b (f : Fold) : Nat := if f.beta then 2 else 1

/-- One side of a connection: the vertex x with parent xp seen from o, with densities po and pr. -/
def Fold.connSide (f : Fold) (x o : FVert) (xp : Option FVert) (po pr : Option Rat) : Option Surd := do
  let b := f.b
  let po ← po
  let P := (← geomG o.pos x.pos x.normal).scale po
  let Pp ← match x.depth == 0, xp with
    | false, some xp => do let pr ← pr; pure ((← geomG x.pos xp.pos xp.normal).scale pr)
    | _, _ => pure []
  let F ← x.fpdf
  let wc ← x.wc
  let wm ← x.wm
  if F == 0 then none else
  let Fb := if b == 2 then F * F else F
  let inner := Surd.rat x.delta ++ (Pp.pow b).scale wc ++
    (f.eta.pow b).mul ((Pp.pow b).scale wm ++ (if x.depth == 0 then [] else Surd.rat Fb))
  pure (((P.pow b).scale (1 / Fb)).mul inner)

/-- 1 / (1 + L + E), or +0. -/
def weightOf (l e : Option Surd) : Nat :=
  match l, e with
  | some l, some e => (Surd.recipF32 (Surd.rat 1 ++ l ++ e)).getD 0
  | _, _ => 0

/-- The weight of a connection; `p` holds p_z, p_zr, p_y, p_yr. -/
def Fold.connW (f : Fold) (y z : FVert) (yp zp : Option FVert) (p : List (Option Rat)) : Nat :=
  let d (i : Nat) : Option Rat := p.getD i none
  weightOf (f.connSide y z yp (d 0) (d 3)) (f.connSide z y zp (d 2) (d 1))

/-- The weight of an emission; `p` holds p_e0, p_e1. -/
def Fold.emitW (f : Fold) (z : FVert) (zp : Option FVert) (p : List (Option Rat)) : Nat :=
  let b := f.b
  weightOf (some []) (do
    let zp ← zp
    let p0 ← p.getD 0 none
    let p1 ← p.getD 1 none
    let Q := (← geomG z.pos zp.pos zp.normal).scale p1
    let F ← z.fpdf
    let wc ← z.wc
    let wm ← z.wm
    if F == 0 then none else
    let r := p0 / F
    pure ((Surd.rat 1 ++ (Q.pow b).scale wc ++ (f.eta.pow b).mul ((Q.pow b).scale wm)).scale (if b == 2 then r * r else r)))

/-- The reciprocal of η^b, a single term. -/
def Fold.etaInv (f : Fold) (b : Nat) : Option Surd :=
  match (f.eta.pow b) with
  | [m] => if m.c == 0 then none else some [{ c := 1 / m.c, p := -m.p }]
  | _ => none

def Fold.mergeSide (f : Fold) (x xp : FVert) (q : Option Rat) : Option Surd := do
  let b := f.b
  let q ← q
  let A := (← geomG x.pos xp.pos xp.normal).scale q
  let F ← x.fpdf
  let wc ← x.wc
  let wm ← x.wm
  let ei ← f.etaInv b
  if F == 0 then none else
  let Fb := if b == 2 then F * F else F
  pure ((((Surd.rat 1 ++ (A.pow b).scale wc).mul ei).scale (1 / Fb)) ++ (A.pow b).scale (wm / Fb))

/-- The weight of a merge; `p` holds q1, q2. -/
def Fold.mergeW (f : Fold) (y z : FVert) (yp zp : Option FVert) (p : List (Option Rat)) : Nat :=
  match yp, zp with
  | some yp, some zp => weightOf (f.mergeSide y yp (p.getD 0 none)) (f.mergeSide z zp (p.getD 1 none))
  | _, _ => 0

/-- G of R353. -/
def geomFactor (y z : FVert) : Nat :=
  match y.pos, z.pos with
  | some a, some b =>
    let d := sub3 b a
    let dd := dot3 d d
    if dd == 0 then 0 else
    let (ny, nz) := (y.normal, z.normal)
    Surd.f32 [({ c := ratAbs (dot3 ny d * dot3 nz d) / (dd * dd), r := 1 / (dot3 ny ny * dot3 nz nz) } : Mono).norm]
  | _, _ => 0

/-! ## Checks and arena access (R349) -/

/-- Base of the oldest live generation. -/
def Fold.base0 (f : Fold) : Nat := ((f.gens.head?).map fun g => g.base.toNat).getD 0

/-- DETAIL 2 or 3 of an index. -/
def Fold.check (f : Fold) (i : Nat) : Option Nat :=
  if i == 0xFFFFFFFF || f.hwm ≤ i then some 2 else if i < f.base0 then some 3 else none

/-- The lowest DETAIL of several indices. -/
def Fold.checks (f : Fold) (l : List Nat) : Option Nat :=
  (l.filterMap f.check).foldl (fun (b : Option Nat) d => match b with | none => some d | some x => some (min x d)) none

/-- The place of an index's generation in the list of live ones. -/
def Fold.genAt (f : Fold) (i : Nat) : Nat :=
  ((List.range f.gens.length).filter fun k => ((f.gens[k]?).map fun g => decide (g.base.toNat ≤ i)).getD false).getLastD 0

/-- Why a lane does not get its result: a DETAIL; a page that is not mapped, with the DETAIL of the lane when it stays so; a poisoned
word, with its physical address. -/
inductive FoldErr where
  | fail (d : Nat) | unmapped (d : Nat) | poison (pa : Nat)
  deriving DecidableEq, Repr

/-- What a lane's work gives: its outputs and the state after it, or its error and the state that the accesses it has made leave
(spec/23 R382). -/
abbrev FoldLane := Except (FoldErr × State) (List Nat × State)

/-- The error of a lane, of those that its accesses met, where `low` is the lowest DETAIL of its other checks (R349). -/
def FoldErr.join (low : Option Nat) (l : List FoldErr) : Option FoldErr :=
  match l.find? fun e => match e with | .poison _ => true | _ => false with
  | some e => some e
  | none =>
  if l.any fun e => match e with | .unmapped _ => true | _ => false then some (.unmapped (low.getD 8))
  else match low with
    | some d => some (.fail d)
    | none => l.head?

/-- Read the record of an index through the Fold unit's translation. -/
def State.foldRead (s : State) (core : Nat) (f : Fold) (i : Nat) : Except FoldErr (FVert × State) :=
  match s.ctxs.get? f.ctx with
  | none => .error (.fail 8)
  | some cx =>
    let a := f.arena + 64 * (i % f.cap)
    match s.xl core cx a .read with
    | .fault _ _ => .error (.unmapped 8)
    | .prot _ => .error (.fail 8)
    | .ok pa mt =>
      match s.poisonWord mt pa 64 with
      | some w => .error (.poison w)
      | none =>
        let s := s.touch core cx a false
        let x := s.physRead mt pa 64
        .ok ((List.range 16).map (fun k => x / 2 ^ (32 * k) % 2 ^ 32), s)

def State.foldWrite (s : State) (core : Nat) (f : Fold) (i : Nat) (ws : List Nat) : Except FoldErr State :=
  match s.ctxs.get? f.ctx with
  | none => .error (.fail 8)
  | some cx =>
    let a := f.arena + 64 * (i % f.cap)
    match s.xl core cx a .write with
    | .fault _ _ => .error (.unmapped 8)
    | .prot _ => .error (.fail 8)
    | .ok pa mt => .ok ((s.touch core cx a true).physWrite mt pa 64 (ws.foldr (fun w x => w % 2 ^ 32 + 2 ^ 32 * x) 0))

/-- Read a parent when its term is used. -/
def State.foldParent (s : State) (core : Nat) (f : Fold) (v : FVert) : Except FoldErr (Option FVert × State) :=
  if v.depth == 0 then .ok (none, s)
  else match s.foldRead core f v.parent with
    | .ok (p, s) => .ok (some p, s)
    | .error e => .error e

/-- Retire the generations that qualify, oldest first (R343). -/
def retireGens : List FoldGen → List FoldGen
  | g :: a :: b :: t => if b.closed && g.pins == 0 then retireGens (a :: b :: t) else g :: a :: b :: t
  | l => l

/-! ## The frame of the Fold instructions (R351, R359) -/

/-- The address check, precise at issue. -/
def State.foldTrap (s : State) (lanes : W32) (va : Nat) : Option RecInfo :=
  if 2 ^ 56 ≤ va || !inAperture va || !s.objExists va then some { cause := .prot, lanes := lanes.toNat, addr := va % 2 ^ 56 }
  else if va % 64 != 0 then some { cause := .syncobj, detail := 4, lanes := lanes.toNat, addr := va }
  else none

/-- The operands of a Fold instruction: as they stand, or as they stood when the operation issued (spec/20 R359). -/
def Here.issued (h : Here) : Here :=
  match h.f.held with
  | none => h
  | some o => { h with g := { h.g with v := o.v, s := o.s, k := o.k }, f := { h.f with latches := o.latches } }

/-- Keep the operands of an operation that waits. -/
def State.holdOps (s : State) (h : Here) (key : Nat) : State :=
  s.modFrag h.fid fun f => { f with held := some { key := key, v := h.g.v, s := h.g.s, k := h.g.k, latches := h.f.latches } }

/-- Does another fragment's operation on the Fold wait? The operations of one group keep their issue order (spec/20 R359). -/
def State.foldQueued (s : State) (h : Here) (key : Nat) : Bool :=
  s.frags.any fun e => e.1 != h.fid && e.2.group == h.gid && e.2.held.any fun o => o.key == key

/-- Run lanes in ascending order: their outputs, the failed ones with their DETAIL; or what stops the instruction whole. -/
def foldLanesGo (work : Nat → State → FoldLane) (mapped : Bool) :
    List Nat → State → Except FoldErr (List (Nat × Except Nat (List Nat)) × State)
  | [], s => .ok ([], s)
  | l :: rest, s =>
    let next (r : Except Nat (List Nat)) (s : State) : Except FoldErr (List (Nat × Except Nat (List Nat)) × State) :=
      match foldLanesGo work mapped rest s with
      | .ok (rs, s) => .ok ((l, r) :: rs, s)
      | .error e => .error e
    match work l s with
    | .ok (out, s) => next (.ok out) s
    | .error (.fail d, s) => next (.error d) s
    | .error (.unmapped d, s) => if mapped then .error (.unmapped d) else next (.error d) s
    | .error (.poison pa, _) => .error (.poison pa)

/-- A Fold instruction: `n` output registers, the value a failed lane delivers, the index of a lane, the lane's work. An
arena page that is not mapped makes the instruction wait for Shento, or fails the lane: a choice of Shento's (log 20). -/
def foldSlot (w : EngW) (engine : Bool) (n : Nat) (bad : List Nat) (idx : Here → Nat → Nat)
    (work : Here → Nat → Nat → State → FoldLane) (h : Here) (s : State) : SlotResult :=
  let h := h.issued
  let va := (h.srcS w.a).toNat
  let act := lanesOf (h.active w.g w.gn)
  if act.isEmpty then .done s else
  match s.foldTrap (h.active w.g w.gn) va with
  | some r => .trap r
  | none =>
    let key := objKey va
    if (engine && s.sideBusy h) || s.foldQueued h key then .stall else
    if ((s.objs.get? key).map Obj.poisoned).getD false then .freeze .uncorr (some 9) else
    let run (mapped : Bool) (s : State) : Except FoldErr (List (Nat × Except Nat (List Nat)) × State) :=
      if s.folds.has key then foldLanesGo (fun l s => work h key l s) mapped act s
      else .ok (act.map fun l => (l, .error 1), s)
    let fin (rs : List (Nat × Except Nat (List Nat))) (s : State) : SlotResult :=
      let failed := rs.filterMap fun e => match e.2 with | .error d => some (e.1, d) | .ok _ => none
      let dst : Nat := match w.dst with | .v r => r.val | _ => 0
      let report : Option Report := match failed with
        | [] => none
        | (l, d) :: _ => some
          { cause := .fold, detail := failed.foldl (fun m e => min m e.2) d, lanes := maskOf fun l => failed.any fun e => e.1 == l
            active := h.f.mask, line := h.f.line, slot := h.f.slot, addr := va, info := 2 ^ 63 + idx h l % 2 ^ 32
            paired := h.f.paired }
      if n == 0 && report.isNone then .done s else
      .done (s.addPend h.gid
        { frag := h.fid, regs := (List.range n).map fun i => .v (dst + i), report := report
          vs := rs.flatMap fun e =>
            let out : List Nat := match e.2 with | .ok xs => xs | .error _ => bad
            out.zipIdx.map fun x => (32 * (dst + x.2) + e.1, BitVec.ofNat 32 x.1) })
    match run true s with
    | .ok (rs, s) => fin rs s
    | .error (.poison pa) => .freeze .uncorr none pa
    | .error _ =>
      let (k, s) := s.takeFree
      if Config.choice k then .placed ((s.holdOps h key).modFrag h.fid fun f => { f with stall := true })
      else match run false s with
        | .ok (rs, s) => fin rs s
        | .error (.poison pa) => .freeze .uncorr none pa
        | .error _ => .stall

/-- The fold of a key. -/
def State.foldAt (s : State) (key : Nat) : Fold := (s.folds.get? key).getD { ctx := 0, beta := false, arena := 0, cap := 1 }

/-- Register `i` of an operand block in a lane; a latch stands for a block of one. -/
def Here.blk (h : Here) (o : Opnd) (i l : Nat) : Nat :=
  match o with | .v r => (h.vreg (r.val + i) l).toNat | o => h.src32 o 0 l

/-! ## VAPP (R345, R352) -/

/-- A stored partial: the canonical NaN for a division by zero or a non-finite input. -/
def stored (x : Option Nat) : Nat := x.getD Fmt.f32.nan

/-- The record of an appended vertex; `p` and `q` are its parent and grandparent. -/
def foldRecord (f : Fold) (r : Nat → Nat) (light keep : Bool) (p q : Option FVert) : List Nat :=
  let depth := match p with | some p => p.depth + 1 | none => 0
  let b := f.b
  let pw (x : Rat) : Rat := if b == 2 then x * x else x
  let nrm := octEncode [f32Rat (r 3), f32Rat (r 4), f32Rat (r 5)]
  let pos : Option (List Rat) := match f32Rat (r 0), f32Rat (r 1), f32Rat (r 2) with
    | some x, some y, some z => some [x, y, z]
    | _, _, _ => none
  let pf := f32Rat (r 9)
  let pr := f32Rat (r 10)
  let half (i : Nat) : Nat := (Fmt.f16.ofVal .rne false false (Fmt.f32.dec false (r (6 + i)))).1
  let (F, RP, WC, WM, dir) : Nat × Nat × Nat × Nat × Nat :=
    match p with
    | none => (if pf.isSome then r 9 else Fmt.f32.nan, 0, 0, 0, 0)
    | some p =>
      let F := stored do pure (((← geomG p.pos pos (octDecode nrm)).scale (← pf)).f32)
      let RP := match q with
        | some q => if 2 ≤ depth then stored do pure (((← geomG p.pos q.pos q.normal).scale (← pr)).f32) else 0
        | none => 0
      let rp := f32Rat RP
      let WC := stored do
        let rp ← rp
        let wc ← p.wc
        let pF ← p.fpdf
        if pF == 0 then none else pure (ratF32 ((p.delta + pw rp * wc) / pw pF))
      let WM := stored do
        let rp ← rp
        let wm ← p.wm
        let pF ← p.fpdf
        if pF == 0 then none else pure (ratF32 ((pw rp * wm + (if 2 ≤ depth then pw pF else 0)) / pw pF))
      let dir := match p.pos, pos with
        | some a, some c => octEncode ((sub3 a c).map some)
        | _, _ => 0
      (F, RP, WC, WM, dir)
  [r 0, r 1, r 2, nrm, dir, half 0 + 65536 * half 1, half 2, F, RP, WC, WM, r 12, r 11, r 13,
   f.gen % 65536 + 65536 * depth + 2 ^ 24 * ((if light then 1 else 0) + (if keep then 2 else 0)), f.cseq.toNat]

/-- One lane of VAPP. -/
def vappLane (w : EngW) (h : Here) (key l : Nat) (s : State) : FoldLane :=
  let f := s.foldAt key
  let light := w.imm.getLsbD 0
  let r (i : Nat) : Nat := h.blk w.b i l
  if !f.open_ || f.next - f.base0 == f.cap || f.next == 0xFFFFFFFF then .ok ([0xFFFFFFFF], s) else
  let parent := r 11
  let parents : Except (FoldErr × State) (Option FVert × Option FVert × State) :=
    if parent == 0xFFFFFFFF then .ok (none, none, s)
    else match f.check parent with
    | some d => .error (.fail d, s)
    | none =>
      match s.foldRead h.core f parent with
      | .error e => .error (e, s)
      | .ok (p, s) =>
        if p.isLight != light then .error (.fail 4, s)
        else if p.depth == 0 then .ok (some p, none, s)
        else match s.foldRead h.core f p.parent with
          | .error e => .error (e, s)
          | .ok (q, s) => .ok (some p, some q, s)
  match parents with
  | .error e => .error e
  | .ok (p, q, s) =>
    match s.foldWrite h.core f f.next (foldRecord f r light (w.imm.getLsbD 1) p q) with
    | .error e => .error (e, s)
    | .ok s' =>
      -- DETAIL 9 comes after an access that fails; nothing is then written
      if p.any fun p => p.depth == 255 then .error (.fail 9, s)
      else
        let s := s'
        .ok ([f.next], { s with folds := s.folds.set key { f with next := f.next + 1, hwm := f.next + 1 } })

def execVapp (w : EngW) (s : State) : Host.Outcome State Fault Refusal :=
  runSlot (.vapp w) (foldSlot w true 1 [0xFFFFFFFF] (fun h l => h.blk w.b 11 l) (vappLane w)) s

/-! ## VCONN, VMERGE, VRWGT (R353 to R355) -/

/-- An access's value and the state after it, or its error. -/
def foldTake {α : Type} (r : Except FoldErr (α × State)) (s : State) : Option α × State × List FoldErr :=
  match r with
  | .ok (x, s) => (some x, s, [])
  | .error e => (none, s, [e])

/-- The vertices of a weight with their parents, after the checks of R349: each check is made on what could be read, and the
lowest DETAIL holds. Mode 0 connects, 1 is emission, 2 merges. -/
def State.foldOperands (s : State) (core : Nat) (f : Fold) (mode ze yi : Nat) :
    Except (FoldErr × State) (FVert × Option FVert × Option FVert × Option FVert × State) :=
  match f.checks (if mode == 1 then [ze] else [ze, yi]) with
  | some d => .error (.fail d, s)
  | none =>
  let (z, s, ez) := foldTake (s.foldRead core f ze) s
  let (y, s, ey) := if mode == 1 then (none, s, []) else foldTake (s.foldRead core f yi) s
  let parents := (z.toList ++ y.toList).filterMap fun v => if v.depth == 0 then none else some v.parent
  let gy := f.genAt yi
  let gz := f.genAt ze
  let bad : Bool :=
    (z.any fun z => z.isLight || (mode == 1 && z.depth == 0) || (mode != 1 && gz < gy && !z.retained) || (mode == 2 && z.depth == 0)) ||
    (y.any fun y => !y.isLight || (gy < gz && !y.retained) || (mode == 2 && y.depth == 0))
  let low := match f.checks parents with
    | some d => some d
    | none => if bad then some 4 else none
  match FoldErr.join low (ez ++ ey), z with
  | some e, _ => .error (e, s)
  | none, none => .error (.fail 8, s)
  | none, some z =>
    let (zp, s, ezp) := foldTake (s.foldParent core f z) s
    let (yp, s, eyp) := match y with
      | some y => foldTake (s.foldParent core f y) s
      | none => (some none, s, [])
    match FoldErr.join none (ezp ++ eyp) with
    | some e => .error (e, s)
    | none => .ok (z, y, zp.getD none, yp.getD none, s)

/-- Weight, second output and CSEQ. -/
def weightLane (w : EngW) (mode : Nat) (within : Bool) (h : Here) (key l : Nat) (s : State) :
    FoldLane :=
  let f := s.foldAt key
  let p (i : Nat) : Nat := h.blk w.b i l
  match s.foldOperands h.core f mode (p 0) (p 1) with
  | .error e => .error e
  | .ok (z, y, zp, yp, s) =>
    let d := ((List.range (if mode == 2 then 2 else 4)).map fun i => f32Rat (p (2 + i)))
    let (wt, aux) : Nat × Nat := match y with
      | none => (f.emitW z zp d, 0)
      | some y =>
        if mode == 0 then (f.connW y z yp zp d, geomFactor y z)
        else
          let inside : Bool := match y.pos, z.pos, f32Rat f.radius.toNat with
            | some a, some b, some r => let e := sub3 a b; decide (dot3 e e ≤ r * r)
            | _, _, _ => false
          if within && !inside then (0, 0)
          else (f.mergeW y z yp zp d, match f.etaInv 1 with | some e => e.f32 | none => 0)
    .ok ([wt, aux, f.cseq.toNat], s)

def nan3 (n : Nat) : List Nat := Fmt.f32.nan :: List.replicate (n - 1) 0

def execVconn (w : EngW) (s : State) : Host.Outcome State Fault Refusal :=
  runSlot (.vconn w) (foldSlot w true 3 (nan3 3) (fun h l => h.blk w.b 0 l) (weightLane w (immF w.imm 0 0) false)) s

def execVmerge (w : EngW) (s : State) : Host.Outcome State Fault Refusal :=
  runSlot (.vmerge w) (foldSlot w true 3 (nan3 3) (fun h l => h.blk w.b 0 l) (weightLane w 2 true)) s

def execVrwgt (w : EngW) (s : State) : Host.Outcome State Fault Refusal :=
  runSlot (.vrwgt w) (foldSlot w true 2 (nan3 2) (fun h l => h.blk w.b 0 l) fun h key l s =>
    match weightLane w (immF w.imm 1 0) false h key l s with
    | .ok ([a, _, c], s) => .ok ([a, c], s)
    | .ok (x, s) => .ok (x, s)
    | .error e => .error e) s

/-! ## VLD (R356) -/

/-- A decoded unit vector's component. -/
def unitF32 (n : List Rat) (c : Rat) : Nat := Surd.f32 [({ c := c, r := 1 / dot3 n n } : Mono).norm]

def vldLane (w : EngW) (h : Here) (key l : Nat) (s : State) : FoldLane :=
  let f := s.foldAt key
  let sel := immF w.imm 3 0
  if sel == 13 then .ok ([f.nl.toNat, f.ne.toNat, f.radius.toNat, f.cseq.toNat], s)
  else if sel == 14 then .ok ([f.hwm, f.next, f.base0, f.word 0 % 2 ^ 32], s)
  else
    let i := h.blk w.b 0 l
    match f.check i with
    | some d => .error (.fail d, s)
    | none =>
    match s.foldRead h.core f i with
    | .error e => .error (e, s)
    | .ok (v, s) =>
      let half (x : Nat) : Nat := (Fmt.f32.ofVal .rne false false (Fmt.f16.dec false (x % 65536))).1
      let out : List Nat :=
        if sel == 0 then [v.w 0, v.w 1, v.w 2]
        else if sel ≤ 2 then let n := octDecode (v.w (sel + 2)); n.map (unitF32 n)
        else if sel == 3 then [half (v.w 5), half (v.w 5 / 65536), half (v.w 6)]
        else [v.w (sel + 3)]
      .ok (out, s)

def execVld (w : EngW) (s : State) : Host.Outcome State Fault Refusal :=
  let n := vldCount (immF w.imm 3 0)
  runSlot (.vld w) (foldSlot w true n (nan3 n) (fun h l => h.blk w.b 0 l) (vldLane w)) s

/-! ## VPIN (R358) -/

def vpinLane (w : EngW) (unpin : Bool) (h : Here) (key l : Nat) (s : State) : FoldLane :=
  let f := s.foldAt key
  let i := h.blk w.b 0 l
  match f.check i with
  | some d => .error (.fail d, s)
  | none =>
    let k := f.genAt i
    let pins := ((f.gens[k]?).map FoldGen.pins).getD 0
    if (unpin && pins == 0) || (!unpin && pins == 65535) then .error (.fail 5, s)
    else
      let gens := f.gens.modify k fun g => { g with pins := if unpin then pins - 1 else pins + 1 }
      .ok ([], { s with folds := s.folds.set key { f with gens := if unpin then retireGens gens else gens } })

def execVpinPin (w : EngW) (s : State) : Host.Outcome State Fault Refusal :=
  runSlot (.vpinPin w) (foldSlot w false 0 [] (fun h l => h.blk w.b 0 l) (vpinLane w false)) s
def execVpinUnpin (w : EngW) (s : State) : Host.Outcome State Fault Refusal :=
  runSlot (.vpinUnpin w) (foldSlot w false 0 [] (fun h l => h.blk w.b 0 l) (vpinLane w true)) s

/-! ## VGEN (R343, R357, R360) -/

/-- End a VGEN: success, a failure with its DETAIL. -/
def vgenEnd (w : EngW) (h : Here) (va : Nat) (s : State) (r : Except Nat State) : SlotResult :=
  match r, w.dst with
  | .ok s, _ => .done (s.setFlag h.gid w.dst false)
  | .error _, .c _ => .done (s.setFlag h.gid w.dst true)
  | .error d, _ => .trap (h.wholeTrap .fold d 0 va)

/-- The frame of VGEN. -/
def vgenSlot (w : EngW) (f : Here → Nat → State → SlotResult) (h : Here) (s : State) : SlotResult :=
  let h := h.issued
  let va := (h.srcS w.a).toNat
  match s.foldTrap h.f.mask va with
  | some r => .trap r
  | none =>
    if s.foldQueued h (objKey va) then .stall
    else if ((s.objs.get? (objKey va)).map Obj.poisoned).getD false then .freeze .uncorr (some 9)
    else f h va s

/-- A RADIUS that R349 refuses: NaN, negative or infinite. -/
def badRadius (x : Nat) : Bool := match f32Rat x with | some r => decide (r < 0) | none => true

/-- Publish the census of the operands. -/
def Fold.publish (f : Fold) (sb sc : Nat) : Fold :=
  { f with nl := BitVec.ofNat 32 sb, ne := BitVec.ofNat 32 (sb / 2 ^ 32), radius := BitVec.ofNat 32 sc, cseq := f.cseq + 1 }

def execVgenOpen (w : EngW) (s : State) : Host.Outcome State Fault Refusal :=
  runSlot (.vgenOpen w) (vgenSlot w fun h va s =>
    let sb := (h.srcS w.b).toNat
    let sc := (h.srcS w.c).toNat
    vgenEnd w h va s <|
      match s.folds.get? (objKey va) with
      | none => .error 1
      | some f =>
        if f.open_ || f.gens.length == 4 then .error 6
        else if badRadius (sc % 2 ^ 32) then .error 7
        else
          let g := (f.gen + 1) % 65536
          let f := { (f.publish sb sc) with
            open_ := true, gen := g, gens := f.gens ++ [{ num := g, base := BitVec.ofNat 32 f.next }] }
          .ok { s with folds := s.folds.set (objKey va) f }) s

def execVgenClose (w : EngW) (s : State) : Host.Outcome State Fault Refusal :=
  runSlot (.vgenClose w) (vgenSlot w fun h va s =>
    let sb := (h.srcS w.b).toNat
    let sc := (h.srcS w.c).toNat
    vgenEnd w h va s <|
      match s.folds.get? (objKey va) with
      | none => .error 1
      | some f =>
        if !f.open_ then .error 6
        else if badRadius (sc % 2 ^ 32) then .error 7
        else
          let gens := f.gens.modify (f.gens.length - 1) fun g => { g with closed := true }
          let f := { (f.publish sb sc) with open_ := false, gens := retireGens gens }
          .ok { s with folds := s.folds.set (objKey va) f }) s

/-- The cores that hold a team of a context. -/
def State.coresOf (s : State) (cx : Nat) : List Nat :=
  ((s.teams.filter fun e => e.2.ctx == cx && !e.2.saved).map fun e => e.2.core).dedup

/-- Does the arena meet the aperture or a page of other memory? -/
def State.arenaOutside (s : State) (core : Nat) (cx : Ctx) (a n : Nat) : Bool :=
  decide (2 ^ 56 < a + n) || meetsAperture a n ||
  (List.range ((a + n - 1) / 2 ^ 18 - a / 2 ^ 18 + 1)).any fun i =>
    match s.leafFor core cx ((a / 2 ^ 18 + i) * 2 ^ 18) with
    | .ok e => 2 ≤ bitsN e.pte.toNat 7 6
    | .error _ => false

/-- VGEN.open.init waits until every core that holds a team of the context can take the arena's entry (R340). -/
def execVgenOpenInit (w : EngW) (s : State) : Host.Outcome State Fault Refusal :=
  runSlot (.vgenOpenInit w) (vgenSlot w fun h va s =>
    let key := objKey va
    let sb := (h.srcS w.b).toNat
    let sc := (h.srcS w.c).toNat
    let cap := sc % 2 ^ 32
    if s.objs.has key || 4 ≤ (s.foldsOf h.t.ctx).length then vgenEnd w h va s (.error 6)
    else if cap < 32 || 2 ^ 26 < cap || sb % 128 != 0 || s.arenaOutside h.core h.cx sb (64 * cap) then vgenEnd w h va s (.error 7)
    else
      let cores := s.coresOf h.t.ctx
      if cores.any fun c => 32 ≤ s.arenasWith c h.t.ctx then .park .foldInit (s.holdOps h key)
      else
        let s := { s with
          objs := s.objs.set key { kind := .fold }
          folds := s.folds.set key { ctx := h.t.ctx, beta := sc.testBit 32, arena := sb, cap := cap } }
        vgenEnd w h va s (.ok (cores.foldl State.syncArenas s))) s

/-- Can a waiting INIT now place its entries? It then issues again. -/
def State.foldInitReady (s : State) (fid : Nat) : Bool :=
  match s.hereOf fid with
  | none => false
  | some h => h.f.st == .parked .foldInit && !((s.coresOf h.t.ctx).any fun c => 32 ≤ s.arenasWith c h.t.ctx)

/-- FOLD_INIT_TIMEOUT: the entry still cannot be placed after 65,536 cycles. -/
def execFoldInitTimeout (fid : Nat) (s : State) : Host.Outcome State Fault Refusal :=
  match s.hereOf fid with
  | none => .next s
  | some h =>
    if h.f.st != .parked .foldInit then .next s
    else if s.foldInitReady fid then .next (s.resume fid)
    else match s.parkedAt fid with
    | some (.vgenOpenInit w) =>
      match w.dst with
      | .c _ => .next ((s.setFlag h.gid w.dst true).finishParked fid)
      | _ => .next (s.takeTrap h (h.wholeTrap .fold 6 0 ((h.issued.srcS w.a).toNat)))
    | _ => .next s

def execVgenCloseFree (w : EngW) (s : State) : Host.Outcome State Fault Refusal :=
  runSlot (.vgenCloseFree w) (vgenSlot w fun h va s =>
    let key := objKey va
    vgenEnd w h va s <|
      match s.folds.get? key with
      | none => .error 1
      | some f =>
        if f.open_ || f.gens.any fun g => g.pins != 0 then .error 6
        else
          let cores := s.coresOf f.ctx
          .ok (cores.foldl State.syncArenas { s with folds := s.folds.erase key, objs := s.objs.erase key })) s

end Sys2Proof.Machine
end

