-- ==== Sys2Proof/Machine/Texture.lean ====
section
/-! DEFINITION. Texture: descriptors, texel formats, filtering, and the instructions TEXS, TEXL and TEXQ (spec/21 R372, R373,
R376, R377). -/

namespace Sys2Proof.Machine

/-! ## Descriptors (R372) -/

/-- A texture descriptor; LEVELS, WIDTH and HEIGHT are stored minus 1. -/
structure TexDesc where
  base : Nat
  fmt : Nat
  levels : Nat
  w : Nat
  h : Nat
  deriving DecidableEq, Repr

/-- Decode 32 bytes; none when malformed. -/
def texDesc (d : Nat) : Option TexDesc :=
  if bitsN d 63 56 != 0 || bitsN d 71 67 != 0 || bitsN d 95 76 != 0 || bitsN d 255 128 != 0 || 4 ≤ bitsN d 66 64 then none
  else some { base := bitsN d 55 0, fmt := bitsN d 66 64, levels := bitsN d 75 72, w := bitsN d 111 96, h := bitsN d 127 112 }

/-- A sampler descriptor. -/
structure Sampler where
  filt : Nat
  aniso : Nat
  au : Nat
  av : Nat
  bias : Nat
  deriving DecidableEq, Repr

/-- Decode 16 bytes; none when malformed. -/
def samplerDesc (d : Nat) : Option Sampler :=
  if bitsN d 31 8 != 0 || bitsN d 127 64 != 0 || bitsN d 5 4 == 3 || bitsN d 7 6 == 3 then none
  else some { filt := bitsN d 1 0, aniso := bitsN d 3 2, au := bitsN d 5 4, av := bitsN d 7 6, bias := bitsN d 63 32 }

/-- Texels of a level along one axis. -/
def levelDim (n m : Nat) : Nat := max 1 ((n + 1) / 2 ^ m)

/-- Bytes of a row of texels or blocks, and rows, of a level. -/
def TexDesc.rowBytes (t : TexDesc) (m : Nat) : Nat :=
  let w := levelDim t.w m
  match t.fmt with
  | 0 => w * 4
  | 1 => w * 8
  | 2 => (w + 3) / 4 * 8
  | _ => (w + 3) / 4 * 16
def TexDesc.rowCount (t : TexDesc) (m : Nat) : Nat :=
  if t.fmt < 2 then levelDim t.h m else (levelDim t.h m + 3) / 4

/-- Address of a level: the first 128-byte boundary after the level before it. -/
def TexDesc.levelAt (t : TexDesc) : Nat → Nat
  | 0 => t.base
  | m + 1 => (t.levelAt m + t.rowBytes m * t.rowCount m + 127) / 128 * 128

/-- The access that holds a texel: its address and size. -/
def TexDesc.texel (t : TexDesc) (m x y : Nat) : Nat × Nat :=
  let a := t.levelAt m
  match t.fmt with
  | 0 => (a + y * t.rowBytes m + 4 * x, 4)
  | 1 => (a + y * t.rowBytes m + 8 * x, 8)
  | 2 => (a + y / 4 * t.rowBytes m + 8 * (x / 4), 8)
  | _ => (a + y / 4 * t.rowBytes m + 16 * (x / 4), 16)

/-! ## Texel values (R372) -/

/-- A decoded texel: exact reals, or half-precision values. -/
inductive Texel where
  | q (c : List Rat)
  | h (c : List FVal)
  deriving DecidableEq, Repr

/-- An endpoint of BC1, expanded by bit replication to byte codes. -/
def bc1End (c : Nat) : List Rat :=
  let five (x : Nat) : Nat := x * 8 + x / 4
  let six (x : Nat) : Nat := x * 4 + x / 16
  [(five (bitsN c 15 11) : Rat) / 255, (six (bitsN c 10 5) : Rat) / 255, (five (bitsN c 4 0) : Rat) / 255]

/-- A texel of a BC1 block. -/
def bc1Texel (b i : Nat) : List Rat :=
  let c0 := b % 65536
  let c1 := b / 65536 % 65536
  let e0 := bc1End c0
  let e1 := bc1End c1
  let mix (p q r : Rat) : List Rat := List.zipWith (fun x y => (x * p + y * q) / r) e0 e1 ++ [1]
  match b / 2 ^ (32 + 2 * i) % 4 with
  | 0 => e0 ++ [1]
  | 1 => e1 ++ [1]
  | 2 => if c1 < c0 then mix 2 1 3 else mix 1 1 2
  | _ => if c1 < c0 then mix 1 2 3 else [0, 0, 0, if Config.bc1Opaque then 1 else 0]

/-! ## BC7 blocks

The manual defers to the Khronos Data Format Specification; what follows is that format as it is generally known (PRESUMED,
log 14). -/

/-- The subset of each texel of a block in two subsets, one bit a texel, and in three, two bits a texel. -/
def bc7Two : List Nat :=
  [ 0xcccc, 0x8888, 0xeeee, 0xecc8, 0xc880, 0xfeec, 0xfec8, 0xec80,
    0xc800, 0xffec, 0xfe80, 0xe800, 0xffe8, 0xff00, 0xfff0, 0xf000,
    0xf710, 0x8e, 0x7100, 0x8ce, 0x8c, 0x7310, 0x3100, 0x8cce,
    0x88c, 0x3110, 0x6666, 0x366c, 0x17e8, 0xff0, 0x718e, 0x399c,
    0xaaaa, 0xf0f0, 0x5a5a, 0x33cc, 0x3c3c, 0x55aa, 0x9696, 0xa55a,
    0x73ce, 0x13c8, 0x324c, 0x3bdc, 0x6996, 0xc33c, 0x9966, 0x660,
    0x272, 0x4e4, 0x4e40, 0x2720, 0xc936, 0x936c, 0x39c6, 0x639c,
    0x9336, 0x9cc6, 0x817e, 0xe718, 0xccf0, 0xfcc, 0x7744, 0xee22 ]

def bc7Three : List Nat :=
  [ 0xaa685050, 0x6a5a5040, 0x5a5a4200, 0x5450a0a8, 0xa5a50000, 0xa0a05050, 0x5555a0a0, 0x5a5a5050,
    0xaa550000, 0xaa555500, 0xaaaa5500, 0x90909090, 0x94949494, 0xa4a4a4a4, 0xa9a59450, 0x2a0a4250,
    0xa5945040, 0xa425054, 0xa5a5a500, 0x55a0a0a0, 0xa8a85454, 0x6a6a4040, 0xa4a45000, 0x1a1a0500,
    0x50a4a4, 0xaaa59090, 0x14696914, 0x69691400, 0xa08585a0, 0xaa821414, 0x50a4a450, 0x6a5a0200,
    0xa9a58000, 0x5090a0a8, 0xa8a09050, 0x24242424, 0xaa5500, 0x24924924, 0x24499224, 0x50a50a50,
    0x500aa550, 0xaaaa4444, 0x66660000, 0xa5a0a5a0, 0x50a050a0, 0x69286928, 0x44aaaa44, 0x66666600,
    0xaa444444, 0x54a854a8, 0x95809580, 0x96969600, 0xa85454a8, 0x80959580, 0xaa141414, 0x96960000,
    0xaaaa1414, 0xa05050a0, 0xa0a5a5a0, 0x96000000, 0x40804080, 0xa9a8a9a8, 0xaaaaaa44, 0x2a4a5254 ]

/-- The texel of the second subset whose index lacks its top bit; in three subsets, that of the third in bits 7 to 4. -/
def bc7Anchor2 : List Nat :=
  [ 15, 15, 15, 15, 15, 15, 15, 15,
    15, 15, 15, 15, 15, 15, 15, 15,
    15, 2, 8, 2, 2, 8, 8, 15,
    2, 8, 2, 2, 8, 8, 2, 2,
    15, 15, 6, 8, 2, 8, 15, 15,
    2, 8, 2, 2, 2, 15, 15, 6,
    6, 2, 6, 8, 15, 15, 2, 2,
    15, 15, 15, 15, 15, 2, 2, 15 ]

def bc7Anchor3 : List Nat :=
  [ 0xf3, 0x83, 0x8f, 0x3f, 0xf8, 0xf3, 0x3f, 0x8f,
    0xf8, 0xf8, 0xf6, 0xf6, 0xf6, 0xf5, 0xf3, 0x83,
    0xf3, 0x83, 0xf8, 0x3f, 0xf3, 0x83, 0xf6, 0x8a,
    0x35, 0xf8, 0x68, 0xa6, 0xf8, 0xf5, 0xaf, 0x8f,
    0xf8, 0x3f, 0xf3, 0xa5, 0xa6, 0x8a, 0x98, 0xaf,
    0x6f, 0xf3, 0x8f, 0xf5, 0x3f, 0x6f, 0x6f, 0x8f,
    0xf3, 0x3f, 0xf5, 0xf5, 0xf5, 0xf8, 0xf5, 0xfa,
    0xf5, 0xfa, 0xf8, 0xfd, 0x3f, 0xfc, 0xf3, 0x83 ]

/-- The fields of a mode, in bits. -/
structure Bc7Mode where
  ns : Nat                          -- subsets
  pb : Nat                          -- partition
  rb : Nat := 0                     -- rotation
  isb : Nat := 0                    -- index selection
  cb : Nat                          -- colour endpoint
  ab : Nat := 0                     -- alpha endpoint
  pbits : Nat := 0                  -- p-bits: 0 none, 1 one an endpoint, 2 one a subset
  ib : Nat                          -- index
  ib2 : Nat := 0                    -- second index
  deriving DecidableEq, Repr

def bc7Modes : List Bc7Mode :=
  [ { ns := 3, pb := 4, cb := 4, pbits := 1, ib := 3 }, { ns := 2, pb := 6, cb := 6, pbits := 2, ib := 3 },
    { ns := 3, pb := 6, cb := 5, ib := 2 }, { ns := 2, pb := 6, cb := 7, pbits := 1, ib := 2 },
    { ns := 1, pb := 0, rb := 2, isb := 1, cb := 5, ab := 6, ib := 2, ib2 := 3 },
    { ns := 1, pb := 0, rb := 2, cb := 7, ab := 8, ib := 2, ib2 := 2 },
    { ns := 1, pb := 0, cb := 7, ab := 7, pbits := 1, ib := 4 },
    { ns := 2, pb := 6, cb := 5, ab := 5, pbits := 1, ib := 2 } ]

/-- The weight of an index, in 1/64. -/
def bc7Weight (bits i : Nat) : Nat :=
  (if bits == 2 then [0, 21, 43, 64] else if bits == 3 then [0, 9, 18, 27, 37, 46, 55, 64]
   else [0, 4, 9, 13, 17, 21, 26, 30, 34, 38, 43, 47, 51, 55, 60, 64]).getD i 0

/-- The subset of a texel under a partition. -/
def Bc7Mode.subset (m : Bc7Mode) (part i : Nat) : Nat :=
  if m.ns == 1 then 0 else if m.ns == 2 then bc7Two.getD part 0 / 2 ^ i % 2 else bc7Three.getD part 0 / 4 ^ i % 4

/-- The texels whose index lacks its top bit. -/
def Bc7Mode.anchors (m : Bc7Mode) (part : Nat) : List Nat :=
  let a3 := bc7Anchor3.getD part 0
  if m.ns == 1 then [0] else if m.ns == 2 then [0, bc7Anchor2.getD part 0] else [0, a3 % 16, a3 / 16]

/-- The index of a texel among indices of `bits` bits that start at bit `lo` of the block. -/
def bc7Index (raw lo bits : Nat) (anchors : List Nat) (i : Nat) : Nat :=
  let short := (anchors.filter (· < i)).length
  raw / 2 ^ (lo + bits * i - short) % 2 ^ (if anchors.contains i then bits - 1 else bits)

/-- The four channels of a texel of a block, as byte codes. A block without a mode is all zero. -/
def bc7Texel (raw i : Nat) : List Nat :=
  match (List.range 8).find? fun k => raw.testBit k with
  | none => [0, 0, 0, 0]
  | some k =>
    let m := bc7Modes.getD k { ns := 1, pb := 0, cb := 0, ib := 2 }
    let f (lo n : Nat) : Nat := raw / 2 ^ lo % 2 ^ n
    let part := f (k + 1) m.pb
    let rot := f (k + 1 + m.pb) m.rb
    let swap := f (k + 1 + m.pb + m.rb) m.isb == 1
    let col := k + 1 + m.pb + m.rb + m.isb
    let ends := 2 * m.ns
    let alpha := col + 3 * ends * m.cb
    let pbit := alpha + ends * m.ab
    let ix := pbit + (if m.pbits == 1 then ends else if m.pbits == 2 then m.ns else 0)
    let anchors := m.anchors part
    -- an endpoint's channel with its p-bit, expanded to eight bits
    let chan (c e : Nat) : Nat :=
      let n := if c < 3 then m.cb else m.ab
      let x := if c < 3 then f (col + (c * ends + e) * m.cb) m.cb else f (alpha + e * m.ab) m.ab
      let (x, n) := if m.pbits == 0 then (x, n) else (2 * x + f (pbit + (if m.pbits == 1 then e else e / 2)) 1, n + 1)
      if n == 0 then 255 else x * 2 ^ (8 - n) + x / 2 ^ (2 * n - 8)
    let first := (m.ib, bc7Index raw ix m.ib anchors i)
    let second := if m.ib2 == 0 then first else (m.ib2, bc7Index raw (ix + 16 * m.ib - anchors.length) m.ib2 [0] i)
    let (ci, ai) := if swap then (second, first) else (first, second)
    let sub := m.subset part i
    let value (c : Nat) : Nat :=
      if c == 3 && m.ab == 0 then 255 else
      let w := let x := if c < 3 then ci else ai; bc7Weight x.1 x.2
      ((64 - w) * chan c (2 * sub) + w * chan c (2 * sub + 1) + 32) / 64
    -- the rotation exchanges a colour with alpha
    (List.range 4).map fun c => if rot == 0 then value c else if c == 3 then value (rot - 1) else if c == rot - 1 then value 3 else value c

/-- Decode the texel (x, y) from the bytes that hold it. -/
def TexDesc.decode (t : TexDesc) (raw x y : Nat) : Texel :=
  let i := y % 4 * 4 + x % 4
  match t.fmt with
  | 0 => .q ((List.range 4).map fun k => ((raw / 256 ^ k % 256 : Nat) : Rat) / 255)
  | 1 => .h ((List.range 4).map fun k => Fmt.f16.dec false (raw / 65536 ^ k % 65536))
  | 2 => .q (bc1Texel raw i)
  | _ => .q ((List.range 4).map fun k => (((bc7Texel raw i).getD k 0 : Nat) : Rat) / 255)

/-- A dyadic rational as a float value. -/
def dyadic (x : Rat) : FVal := .fin (decide (x < 0)) x.num.natAbs (-(x.den.log2 : Int))

/-- The weighted sum of a channel, rounded once (R373). Infinities and NaNs of rgba16f follow spec/04 R75. -/
def weighted (ts : List (Rat × Texel)) (k : Nat) : Nat :=
  if ts.all fun e => match e.2 with | .q _ => true | .h _ => false then
    ratF32 (ts.foldl (fun a e => match e.2 with
      | .q c => a + e.1 * c.getD k 0
      | .h _ => a) 0)
  else
    (Fmt.f32.dot .rne false false (ts.map fun e => (dyadic e.1, match e.2 with
      | .q c => dyadic (c.getD k 0)
      | .h c => c.getD k .nan)) []).1

/-! ## Level and footprint (R373) -/

/-- An interval that holds log2 of a positive rational; a single point when that is rational. -/
def log2Iv (x : Rat) : Rat × Rat :=
  let n := x.num.natAbs
  let k : Int := (n.log2 : Int) - x.den.log2
  if n == 2 ^ n.log2 && x.den == 2 ^ x.den.log2 then (k, k)
  else
    let y := lnFix n x.den * one448 / (ln2P : Int)
    let d : Rat := (one448 : Nat)
    (((y - 2 ^ 24 : Int) : Rat) / d, ((y + 2 ^ 24 : Int) : Rat) / d)

/-- What a level of detail selects: the nearest level, the lower level, and the weight of the next in 1/256. -/
def lodPick (levels : Nat) (x : Rat) : Nat × Nat × Nat :=
  let x : Rat := if x < 0 then 0 else if (levels : Rat) < x then levels else x
  let n := x.floor.toNat
  ((x + 1 / 2).floor.toNat, n, (ratRne ((x - n) * 256)).toNat)

/-- The same for a level of detail in an interval (log 16). -/
def lodPickIv (levels : Nat) (x : Rat × Rat) : Nat × Nat × Nat :=
  let a := lodPick levels x.1
  let b := lodPick levels x.2
  if a == b then a else if Config.undecided 0x201 a.2.1 then b else a

/-- Texel coordinate under an address mode, for a level of w texels. -/
def wrapCoord (mode w : Nat) (i : Int) : Nat :=
  match mode with
  | 0 => (i % (w : Int)).toNat
  | 1 => if i < 0 then 0 else min i.toNat (w - 1)
  | _ => let t := (i % (2 * w : Int)).toNat; if t < w then t else 2 * w - 1 - t

/-- The texels a level contributes, with their weights. -/
def levelTaps (t : TexDesc) (sm : Sampler) (bil : Bool) (m : Nat) (u v : Rat) : List (Rat × Nat × Nat × Nat) :=
  let w := levelDim t.w m
  let h := levelDim t.h m
  if bil then
    let su := ratRne ((u * w - 1 / 2) * 256)
    let sv := ratRne ((v * h - 1 / 2) * 256)
    let fu : Rat := ((su % 256 : Int) : Rat) / 256
    let fv : Rat := ((sv % 256 : Int) : Rat) / 256
    [(0, 0), (1, 0), (0, 1), (1, 1)].map fun (e : Nat × Nat) =>
      ((if e.1 == 1 then fu else 1 - fu) * (if e.2 == 1 then fv else 1 - fv), m,
        wrapCoord sm.au w (su / 256 + e.1), wrapCoord sm.av h (sv / 256 + e.2))
  else [(1, m, wrapCoord sm.au w (u * w).floor, wrapCoord sm.av h (v * h).floor)]

/-- A nearest, bilinear or trilinear sample at one point. -/
def pointTaps (t : TexDesc) (sm : Sampler) (lod : Nat × Nat × Nat) (u v : Rat) : List (Rat × Nat × Nat × Nat) :=
  if sm.filt < 2 then levelTaps t sm (sm.filt == 1) lod.1 u v
  else
    let f : Rat := (lod.2.2 : Rat) / 256
    ((levelTaps t sm true lod.2.1 u v).map fun e => ((1 - f) * e.1, e.2)) ++
      (levelTaps t sm true (min (lod.2.1 + 1) t.levels) u v).map fun e => (f * e.1, e.2)

/-- The level of detail from gradients, scaled by the level-0 size, and the taps: N and the major gradient. -/
def gradLod (t : TexDesc) (sm : Sampler) (bias : Rat) (g : List Rat) : (Nat × Nat × Nat) × Nat × Rat × Rat :=
  let (ux, vx, uy, vy) := (g.getD 0 0, g.getD 1 0, g.getD 2 0, g.getD 3 0)
  let w : Rat := (t.w + 1 : Nat)
  let h : Rat := (t.h + 1 : Nat)
  let sq (a b : Rat) : Rat := a * w * (a * w) + b * h * (b * h)
  let px := sq ux vx
  let py := sq uy vy
  let (big, small, du, dv) := if py ≤ px then (px, py, ux, vx) else (py, px, uy, vy)
  let n := if sm.filt == 3 then
      (([0, 1, 2].find? fun k => decide (sm.aniso ≤ k) || decide (big ≤ small * (4 ^ k : Nat))).map fun k => 2 ^ min k sm.aniso).getD
        (2 ^ sm.aniso)
    else 1
  if big == 0 then ((lodPick t.levels 0), n, du, dv)
  else
    let (lo, hi) := log2Iv (big / ((n * n : Nat) : Rat))
    (lodPickIv t.levels (lo / 2 + bias, hi / 2 + bias), n, du, dv)

/-- Every texel of a sample with its weight; `cs` are the coordinates, lod or gradients. -/
def sampleTaps (t : TexDesc) (sm : Sampler) (bias : Rat) (grad : Bool) (cs : List Rat) : List (Rat × Nat × Nat × Nat) :=
  let u := cs.getD 0 0
  let v := cs.getD 1 0
  if grad then
    let (lod, n, du, dv) := gradLod t sm bias (cs.drop 2)
    (List.range n).flatMap fun (j : Nat) =>
      let off : Rat := ((j : Rat) + 1 / 2) / n - 1 / 2
      (pointTaps t sm lod (u + off * du) (v + off * dv)).map fun e => (e.1 / n, e.2)
  else pointTaps t sm (lodPick t.levels (cs.getD 2 0 + bias)) u v

/-! ## TEXS, TEXL and TEXQ (R376, R377) -/

/-- The first failing check of a lane's loads, in order. -/
def State.texCheck (s : State) (h : Here) (xs : List (Nat × Nat)) : Option LaneTrap :=
  xs.findSome? fun e => s.laneGlobal h e.1 e.2 .read

/-- What a lane samples, its descriptors having been read. -/
inductive TexPlan where
  /-- The canonical NaN in all channels. -/
  | nan
  /-- LODBIAS is not finite: the manual states no result (log 19). -/
  | free
  | taps (t : TexDesc) (l : List (Rat × Nat × Nat × Nat))

def TexPlan.loads : TexPlan → List (Nat × Nat)
  | .taps t l => l.map fun e => t.texel e.2.1 e.2.2.1 e.2.2.2
  | _ => []

/-- The values of the four channels. -/
def State.texValue (s : State) (h : Here) (p : TexPlan) (n : Nat) : List Nat :=
  match p with
  | .nan => List.replicate 4 Fmt.f32.nan
  | .free => (List.range 4).map fun k => (Config.freeWord (n + k)).toNat % 2 ^ 32
  | .taps t l =>
    let ts := l.map fun e =>
      let a := t.texel e.2.1 e.2.2.1 e.2.2.2
      (e.1, t.decode (s.vload h.core h.cx a.1 a.2) e.2.2.1 e.2.2.2)
    (List.range 4).map (weighted ts)

def pack128 (xs : List Nat) : Nat := xs.foldr (fun x a => x + 2 ^ 32 * a) 0

/-- The plan of a TEXS lane. -/
def State.texsPlan (s : State) (h : Here) (w : EngW) (l : Nat) : TexPlan :=
  let grad := w.imm.getLsbD 0
  let r := match w.b with | .v r => r.val | _ => 0
  let cs := (List.range (if grad then 6 else 3)).map fun i => f32Rat (h.vreg (r + i) l).toNat
  match texDesc (s.vload h.core h.cx (h.srcS w.a).toNat 32), samplerDesc (s.vload h.core h.cx (h.srcS w.c).toNat 16) with
  | some t, some sm =>
    if cs.any Option.isNone then .nan else
    match f32Rat sm.bias with
    | none => .free
    | some b => .taps t (sampleTaps t sm b grad (cs.map fun c => c.getD 0))
  | _, _ => .nan

/-- The plan of a TEXL lane; none is four zeros. -/
def State.texlPlan (s : State) (h : Here) (w : EngW) (l : Nat) : Option TexPlan :=
  let r := match w.b with | .v r => r.val | _ => 0
  let c (i : Nat) : Nat := (h.vreg (r + i) l).toNat
  match texDesc (s.vload h.core h.cx (h.srcS w.a).toNat 32) with
  | none => some .nan
  | some t =>
    if t.levels < c 2 || levelDim t.w (c 2) ≤ c 0 || levelDim t.h (c 2) ≤ c 1 then none
    else some (.taps t [(1, c 2, c 0, c 1)])

/-- A texture load: descriptor loads `ds`, then each lane's texels. -/
def texSlot (w : EngW) (ds : Here → List (Nat × Nat)) (plan : State → Here → Nat → Option TexPlan) (h : Here) (s : State) :
    SlotResult :=
  if s.sideBusy h then .stall else
  let act := h.active w.g w.gn
  let loads (l : Nat) : List (Nat × Nat) := ((plan s h l).map TexPlan.loads).getD []
  let bad := failing act fun l => match s.texCheck h (ds h) with
    | some t => some t
    | none => s.texCheck h (loads l)
  match pickTrap bad with
  | some r => .trap r
  | none =>
    let ls := lanesOf act
    let all := if ls.isEmpty then [] else ds h ++ ls.flatMap loads
    if all.any fun e => s.vPoison h.core h.cx e.1 e.2 .read then s.eatPoison h .read all else
    let s := all.foldl (fun s e => s.touch h.core h.cx e.1 false) s
    let vals := ls.map fun l => (l, match plan s h l with
      | some p => pack128 (s.texValue h p (s.free + 4 * l))
      | none => 0)
    let s := { s with free := s.free + 128 }
    .done (s.deliver h w.dst .w16 vals)

def execTexs (w : EngW) (s : State) : Host.Outcome State Fault Refusal :=
  runSlot (.texs w) (fun h s =>
    texSlot w (fun h => [((h.srcS w.a).toNat, 32), ((h.srcS w.c).toNat, 16)]) (fun s h l => some (s.texsPlan h w l)) h s) s

def execTexl (w : EngW) (s : State) : Host.Outcome State Fault Refusal :=
  runSlot (.texl w) (fun h s =>
    texSlot w (fun h => [((h.srcS w.a).toNat, 32)]) (fun s h l => s.texlPlan h w l) h s) s

/-- The value TEXQ writes. -/
def texqValue (d : Option TexDesc) (m : Nat) : Nat :=
  match d with
  | none => 0
  | some t =>
    if t.levels < m then 0
    else levelDim t.w m % 65536 + levelDim t.h m % 65536 * 2 ^ 16 + (t.levels + 1) * 2 ^ 32 + t.fmt * 2 ^ 37

def execTexq (w : EngW) (s : State) : Host.Outcome State Fault Refusal :=
  runSlot (.texq w) (fun h s =>
    if s.sideBusy h then .stall else
    let va := (h.srcS w.a).toNat
    match pickTrap (((s.laneGlobal h va 32 .read).map fun t => (0, t)).toList) with
    | some r => .trap { r with lanes := h.f.mask.toNat }
    | none =>
      if s.vPoison h.core h.cx va 32 .read then s.eatPoison h .read [(va, 32)] else
      let s := s.touch h.core h.cx va false
      let x := texqValue (texDesc (s.vload h.core h.cx va 32)) (w.imm.toNat % 16)
      .done (s.writeS h w.dst w.ws (BitVec.ofNat 64 x))) s

end Sys2Proof.Machine
end

