-- ==== Sys2Proof/Machine/Trav.lean ====
section
/-! DEFINITION. Trav: the traversal unit: exact tests, the walk, deliveries, spills, tree queries and TRSTAT (spec/16, spec/17
R312, R313). -/

namespace Sys2Proof.Machine

/-! ## Extended reals -/

namespace XR
def le (a b : XR) : Bool :=
  match a, b with
  | .ninf, _ | _, .pinf => true
  | .fin x, .fin y => decide (x ≤ y)
  | _, _ => false
def lt (a b : XR) : Bool := !le b a
def max (a b : XR) : XR := if le a b then b else a
def min (a b : XR) : XR := if le a b then a else b
/-- Rounded to f32. -/
def f32 (a : XR) : W32 :=
  match a with
  | .ninf => 0xFF800000
  | .pinf => 0x7F800000
  | .fin x => BitVec.ofNat 32 (ratF32 x)
end XR

/-- The value of an f32 code; none for a NaN. -/
def f32XR (x : Nat) : Option XR :=
  match Fmt.f32.dec false x with
  | .nan => none
  | .inf n => some (if n then .ninf else .pinf)
  | .fin .. => (f32Rat x).map .fin

/-- Three finite f32 codes of a record, from bit `lo` on. -/
def vec3 (x lo : Nat) : Option (List Rat) :=
  match f32Rat (bitsN x (lo + 31) lo), f32Rat (bitsN x (lo + 63) (lo + 32)), f32Rat (bitsN x (lo + 95) (lo + 64)) with
  | some a, some b, some c => some [a, b, c]
  | _, _, _ => none

/-- Exact values of finite f32 words. -/
def wordsRat (l : List W32) : List Rat := l.map fun x => (f32Rat x.toNat).getD 0

/-! ## Boxes, triangles, bricks (R288 to R290) -/

/-- One axis of the test: near and far, or none when it fails. -/
def slab (o d lo hi : Rat) : Option (XR × XR) :=
  if d == 0 then (if lo ≤ o ∧ o ≤ hi then some (.ninf, .pinf) else none)
  else
    let p := (lo - o) / d
    let q := (hi - o) / d
    some (if p ≤ q then (.fin p, .fin q) else (.fin q, .fin p))

/-- tnear of three axes under the bounds, when they pass. -/
def slabs (l : List (Option (XR × XR))) (tmin tcur : XR) : Option XR :=
  let r := l.foldl (fun (a : Option (XR × XR)) s =>
    match a, s with
    | some (n, f), some (n', f') => some (n.max n', f.min f')
    | _, _ => none) (some (tmin, tcur))
  match r with
  | some (n, f) => if n.le f then some n else none
  | none => none

def axes (o d lo hi : List Rat) : List (Option (XR × XR)) :=
  (List.range 3).map fun a => slab (o.getD a 0) (d.getD a 0) (lo.getD a 0) (hi.getD a 0)

/-- The entry parameter of a box that passes. -/
def boxNear (o d lo hi : List Rat) (tmin tcur : XR) : Option XR := slabs (axes o d lo hi) tmin tcur

def cross3 (a b : List Rat) : List Rat :=
  let x (l : List Rat) (i : Nat) : Rat := l.getD i 0
  [x a 1 * x b 2 - x a 2 * x b 1, x a 2 * x b 0 - x a 0 * x b 2, x a 0 * x b 1 - x a 1 * x b 0]

/-- Where the ray line meets a closed triangle: t, u, v, front-facing (R289). -/
def triHit (o d v0 v1 v2 : List Rat) : Option (Rat × Rat × Rat × Bool) :=
  let e1 := sub3 v1 v0
  let e2 := sub3 v2 v0
  let nd := dot3 (cross3 e1 e2) d
  if nd == 0 then none else
  let s := sub3 o v0
  let q := cross3 s e1
  let u := dot3 s (cross3 d e2) / (-nd)
  let v := dot3 d q / (-nd)
  if u < 0 || v < 0 || 1 < u + v then none else some (dot3 e2 q / (-nd), u, v, decide (nd < 0))

/-- The DDA of a brick: the steps taken, and the first occupied voxel with its parameter and axis (R290). -/
def dda (o d org : List Rat) (vox : Rat) (tmin tcur : XR) (occ : Nat) : Nat × Option (XR × Nat × Nat) :=
  let sl (a i : Nat) : Option (XR × XR) :=
    slab (o.getD a 0) (d.getD a 0) (org.getD a 0 + (i : Rat) * vox) (org.getD a 0 + ((i + 1 : Nat) : Rat) * vox)
  let table := (List.range 24).map fun k => sl (k / 8) (k % 8)
  let at_ (a i : Nat) : Option (XR × XR) := table.getD (8 * a + i) none
  let hits := (List.range 512).filterMap fun b =>
    let l := [at_ 0 (b % 8), at_ 1 (b / 8 % 8), at_ 2 (b / 64)]
    (slabs l tmin tcur).map fun t => (t, b, l)
  let order := sortBy (fun x y => x.1.lt y.1 || (x.1 == y.1 && x.2.1 ≤ y.2.1)) hits
  let empty := order.takeWhile fun x => !occ.testBit x.2.1
  match order.drop empty.length with
  | [] => (order.length, none)
  | (t, b, l) :: _ =>
    let ax := ((List.range 3).find? fun a => match l.getD a none with | some s => s.1 == t | none => false).getD 3
    (empty.length + 1, some (t, b, ax))

/-! ## Fetching (R301, R303) -/

/-- What a fetch of a record gives. -/
inductive RFetch where
  | ok (x : Nat) (s : State) | unmapped (a : Nat) | noread (a : Nat) | poison (pa : Nat)
  deriving DecidableEq, Repr

def State.rayFetch (s : State) (core : Nat) (cx : Ctx) (va n : Nat) : RFetch :=
  match s.penRead core cx va n with
  | .error (3, a) => .unmapped a
  | .error (_, a) => .noread a
  | .ok _ =>
    match s.penPoison core cx va n with
    | some pa => .poison pa
    | none => let r := s.penTake core cx va n; .ok r.1 r.2

/-- Count on a group (R310). -/
def State.travCount (s : State) (gid sel n : Nat) : State :=
  s.modGroup gid fun g => { g with travCtr := g.travCtr.setD 0 sel (g.travCtr.getD 0 sel + BitVec.ofNat 64 n) }

/-! ## References and nodes (R286, R287, R312) -/

/-- A reference and its target, checked when it is followed. -/
def followRef (ref node : Nat) : Option (Nat × Nat × Nat) :=
  let ty := ref % 8
  let cnt := bitsN ref 6 4
  let a := wrapN 64 ((node : Int) + 64 * sextI 56 (ref / 256))
  let al := if ty == 1 || ty == 3 then 128 else if ty == 4 then 32 else 64
  if ref.testBit 3 || ref.testBit 7 || ty == 7 || (cnt != 0 && ty != 2 && ty != 6) || 2 ^ 56 ≤ a || inAperture a || a % al != 0
  then none else some (ty, cnt, a)

/-- A box node's own fields: origin and cell sizes. -/
def nodeFields (x : Nat) : Option (List Rat × List Rat) :=
  let e (a : Nat) : Nat := bitsN x (103 + 8 * a) (96 + 8 * a)
  let cell (k : Nat) : Rat := ((2 ^ k : Nat) : Rat) / ((2 ^ 127 : Nat) : Rat)
  if bitsN x 127 120 != 0 || (List.range 3).any fun a => e a == 0 || e a == 255 then none
  else (vec3 x 0).map fun o => (o, (List.range 3).map fun a => cell (e a))

/-- The boxes of the children that are not empty, with index and reference. -/
def nodeBoxes (x : Nat) (org cell : List Rat) : List (Nat × Nat × List Rat × List Rat) :=
  (List.range 8).filterMap fun c =>
    let ref := bitsN x (575 + 64 * c) (512 + 64 * c)
    let q (i : Nat) : Nat := bitsN x (128 + 48 * c + 8 * i + 7) (128 + 48 * c + 8 * i)
    if ref % 8 == 0 || (List.range 3).any fun a => decide (q (a + 3) < q a) then none
    else some (c, ref,
      (List.range 3).map (fun a => org.getD a 0 + (q a : Rat) * cell.getD a 0),
      (List.range 3).map (fun a => org.getD a 0 + ((q (a + 3) + 1 : Nat) : Rat) * cell.getD a 0))

/-- Squared distance from a point to a box. -/
def boxDist (c lo hi : List Rat) : Rat :=
  ((List.range 3).map fun a =>
    let x := c.getD a 0
    let e := if x < lo.getD a 0 then lo.getD a 0 - x else if hi.getD a 0 < x then x - hi.getD a 0 else 0
    e * e).foldl (· + ·) 0

/-! ## The short stack (R296) -/

/-- Push a child: a full short stack drops its oldest, which the trail marks. -/
def Ray.push (r : Ray) (e : RItem) : Ray :=
  if r.live < 8 then { r with stack := e :: r.stack, live := r.live + 1 }
  else { r with stack := e :: r.stack, trail := r.trail ||| (1#64 <<< 63) }

/-- Take the next child that the short stack holds. -/
def Ray.pop (r : Ray) : Option (RItem × Ray) :=
  match r.stack with
  | [] => none
  | e :: rest => if 0 < r.live then some (e, { r with stack := rest, live := r.live - 1 }) else none

/-- The level of the node that held the shallowest dropped child. -/
def Ray.shallowest (r : Ray) : Nat := r.stack.foldl (fun m x => min m x.level) 20

/-- The short stack is empty after drops: the walk re-descends along the trail, fetching again the box nodes of levels 0 to L. The
dropped children are those of nodes on the path to where the walk stands, so that the node last fetched at each of those levels is the
one on the path. -/
def Ray.restart (r : Ray) : Ray :=
  { r with
    redo := (List.range (r.shallowest + 1)).filterMap r.nodes.get?
    trail := r.trail &&& ~~~(1#64 <<< 63) }

/-- The child that the trail names at a level. -/
def Ray.trailAt (r : Ray) (level : Nat) : Nat := r.trail.toNat / 2 ^ (3 * level) % 8

/-- The re-descent has reached level L: `kids` are the children of its node, as fetched, in the order of R294. The walk goes on with
those after the trail's; children dropped at deeper levels come before them. -/
def Ray.rejoin (r : Ray) (kids : List RItem) : Ray :=
  let l := r.shallowest
  let after := (kids.dropWhile fun k => k.ix != r.trailAt l).drop 1
  let stack := (r.stack.filter fun x => x.level != l) ++ after
  { r with
    stack := stack
    live := min 8 stack.length
    trail := if 8 < stack.length then r.trail ||| (1#64 <<< 63) else r.trail }

/-- Follow child `ix` of a node at `level`. -/
def Ray.follow (r : Ray) (level ix : Nat) : Ray :=
  { r with trail := (r.trail &&& ~~~(7#64 <<< (3 * level))) ||| (BitVec.ofNat 64 ix <<< (3 * level)) }

/-! ## Candidates (R294, R295) -/

def Ray.acceptable (r : Ray) (t : XR) : Bool :=
  match f32XR r.tmin.toNat with
  | none => false
  | some lo => lo.le t && (if r.best.isSome then t.lt r.tcur else t.le r.tcur)

def Ray.commit (r : Ray) (c : RHit) : Ray := { r with best := some c, tcur := c.t, cand := none }

/-- Offer a candidate: dropped, committed, or waiting for the lane. -/
def Ray.offer (r : Ray) (c : RHit) (opaq : Bool) : Ray :=
  if !r.acceptable c.t then r
  else if opaq then r.commit c
  else { r with cand := some c, out := some (.shader c) }

/-- The walk is over. -/
def Ray.finish (r : Ray) : Ray := { r with cur := none, stack := [], live := 0, out := some (if r.best.isSome then .hit else .miss) }

/-- An error ends the walk; `a` is the address of the record that failed. -/
def Ray.fail (r : Ray) (d a : Nat) : Ray :=
  let r := { r with cur := none, stack := [], live := 0, redo := [] }
  if r.query then { r with ended := true, err := some (d, a), results := if r.flags.toNat % 4 == 1 then [] else r.results }
  else { r with out := some (.error d a) }

/-! ## The walk (R294, R304) -/

/-- A triangle block's entries from `i` on, until a candidate must wait; the ray and the triangle tests made. -/
def Ray.triangles (r : Ray) (it : RItem) (x n : Nat) : Nat → Nat → Ray × Nat
  | 0, _ => (r, 0)
  | fuel + 1, i =>
    if n ≤ i then (r, 0) else
    let w := x / 2 ^ (384 * i) % 2 ^ 384
    let v (k : Nat) : List Rat := (vec3 w (96 * k)).getD []
    let go (r : Ray) : Ray × Nat := let q := r.triangles it x n fuel (i + 1); (q.1, q.2 + 1)
    match triHit (wordsRat it.frame.o) (wordsRat it.frame.d) (v 0) (v 1) (v 2) with
    | none => go r
    | some (t, u, vv, front) =>
      if !w.testBit 321 && ((r.flags.getLsbD 8 && !front) || (r.flags.getLsbD 9 && front)) then go r
      else
        let c : RHit := { t := .fin t, u := u, v := vv, prim := BitVec.ofNat 32 (bitsN w 319 288), inst := it.frame.inst
                          sh := it.frame.shoff, front := front }
        let r := r.offer c (w.testBit 320 || !r.flags.getLsbD 10)
        if r.out.isSome then ({ r with cur := if i + 1 < n then some { it with kind := 2, first := i + 1 } else none }, 1)
        else go r

/-- Is any entry of a triangle block malformed, and with it the block? -/
def badTriangle (x n : Nat) : Bool :=
  (List.range n).any fun e =>
    let w := x / 2 ^ (384 * e) % 2 ^ 384
    bitsN w 383 322 != 0 || (vec3 w 0).isNone || (vec3 w 96).isNone || (vec3 w 192).isNone

def badKey (x n : Nat) : Bool :=
  (List.range n).any fun e =>
    let w := x / 2 ^ (192 * e) % 2 ^ 192
    bitsN w 191 160 != 0 || (vec3 w 0).isNone

/-- Keep a query's result: in walk order, or among the k nearest. -/
def Ray.keep (r : Ray) (q : QRes) : Ray :=
  if r.flags.toNat % 4 == 1 then
    let le (a b : QRes) : Bool :=
      decide (a.dist < b.dist) || (a.dist == b.dist && (decide (a.key < b.key) || (a.key == b.key && a.order ≤ b.order)))
    { r with results := (insertBy le q r.results).take (bitsN r.flags.toNat 4 2 + 1) }
  else { r with results := r.results ++ [q] }

/-- The qualifying entries of a key block. -/
def Ray.keys (r : Ray) (x n : Nat) : Ray :=
  (List.range n).foldl (fun r e =>
    let w := x / 2 ^ (192 * e) % 2 ^ 192
    let d := sub3 ((vec3 w 0).getD []) (wordsRat r.frame.o)
    let dist := dot3 d d
    let key := BitVec.ofNat 32 (bitsN w 127 96)
    let near : Bool := match r.rho2 with | some q => decide (dist ≤ q) | none => true
    let ok := near && (r.flags.toNat % 4 != 2 || (r.lo ≤ key && key ≤ r.hi))
    let r' := { r with seen := r.seen + 1 }
    if ok then r'.keep { dist := dist, order := r.seen, key := key, payload := BitVec.ofNat 32 (bitsN w 159 128) } else r') r

/-- An instance entered: the frame, or none when it is skipped (R292). -/
def enterInstance (x : Nat) (f : RFrame) : Option RFrame :=
  let m (i : Nat) : FVal := Fmt.f32.dec false (bitsN x (32 * i + 31) (32 * i))
  let v (l : List W32) (i : Nat) : FVal := Fmt.f32.dec false (l.getD i 0).toNat
  let row (l : List W32) (k : Nat) (add : List FVal) : W32 :=
    BitVec.ofNat 32 (Fmt.f32.dot .rne false false ((List.range 3).map fun j => (m (4 * k + j), v l j)) add).1
  let o := (List.range 3).map fun k => row f.o k [m (4 * k + 3)]
  let d := (List.range 3).map fun k => row f.d k []
  if (o ++ d).any (fun w => (f32Rat w.toNat).isNone) || d.all fun w => f32Rat w.toNat == some 0 then none
  else some { o := o, d := d, depth := f.depth + 1, shoff := f.shoff + BitVec.ofNat 32 (bitsN x 479 456)
              inst := BitVec.ofNat 32 (bitsN x 511 480) }

/-- The children of a box node whose boxes a ray up to `tcur`, or a query, meets, in the order of R294 or R304; none for a malformed
node. -/
def Ray.kids (r : Ray) (it : RItem) (x : Nat) (tcur : XR) : Option (List RItem) :=
  match nodeFields x, f32XR r.tmin.toNat with
  | some (org, cell), some tmin =>
    let kids : List RItem := (nodeBoxes x org cell).filterMap fun (c, ref, lo, hi) =>
      let mk (near : Rat) : RItem :=
        { kind := 0, addr := it.addr, ref := BitVec.ofNat 64 ref, level := it.level, ix := c, near := near, frame := it.frame }
      if r.query then
        if 2 ≤ ref % 8 && ref % 8 ≤ 5 then none else
        let dist := boxDist (wordsRat r.frame.o) lo hi
        match r.rho2 with
        | some q => if dist ≤ q then some (mk dist) else none
        | none => some (mk dist)
      else match boxNear (wordsRat it.frame.o) (wordsRat it.frame.d) lo hi tmin tcur with
        | some (.fin t) => some (mk t)
        | _ => none
    some (sortBy (fun (a b : RItem) => decide (a.near < b.near) || (a.near == b.near && a.ix ≤ b.ix)) kids)
  | _, _ => none

/-- A box node fetched for a ray or query. -/
def Ray.node (r : Ray) (it : RItem) (x : Nat) : Ray :=
  match r.kids it x r.tcur with
  | some [] => { r with cur := none }
  | some (k :: rest) => { (rest.foldr (fun e r => r.push e) r) with cur := some k }
  | none => r.fail 2 it.addr

/-- A box node fetched again on a re-descent, at level `l`, at address `a`: it is checked as at any fetch, and above level L the trail's
child leads to the next node, an instance's root standing where it stood (R287, R296). -/
def Ray.redoNode (r : Ray) (l a x : Nat) (rest : List Nat) : Ray :=
  let frame := ((r.stack.find? fun e => e.level == l).map RItem.frame).getD r.frame
  let it : RItem := { kind := 1, addr := a, level := l, frame := frame }
  match nodeFields x with
  | none => r.fail 2 a
  | some _ =>
    match rest with
    | [] =>
      let top := (f32XR r.tmax.toNat).getD .pinf    -- the trail's child passed a bound that has shrunk since
      { r.rejoin ((r.kids it x top).getD []) with redo := [], nodes := r.nodes.set l a }
    | b :: deeper =>
      let c := r.trailAt l
      match followRef (bitsN x (575 + 64 * c) (512 + 64 * c)) a with
      | none => r.fail 2 a
      | some (ty, _, t) => { r with redo := (if ty == 1 then t else b) :: deeper, nodes := r.nodes.set l a }
/-- The record that the walk fetches next. -/
def Ray.record (r : Ray) : Nat :=
  match r.redo, r.cur with
  | a :: _, _ => a
  | [], some it => if it.kind != 0 then it.addr else
    match followRef it.ref.toNat it.addr with
    | some (_, _, a) => a
    | none => it.addr
  | [], none => 0

/-- A fetch's outcome other than the bytes. Poison ends the ray, for nothing of it is delivered (R417). -/
def State.rayStop (s : State) (r : Ray) (k : Nat) (core : Nat) (f : RFetch) : State :=
  let set (r : Ray) (s : State) : State := s.modCore core fun c => { c with rays := c.rays.set k r }
  match f with
  | .unmapped a => set { r with parked := some a } s
  | .noread _ => set (r.fail 6 r.record) s
  | .poison pa => (s.abandon r.group (BitVec.ofNat 32 (2 ^ r.lane))).freezeGroup r.group 8 pa
  | .ok _ s => s

/-- Follow a child reference that has not been skipped. -/
def State.rayFollow (s : State) (core : Nat) (cx : Ctx) (k : Nat) (r : Ray) (it : RItem) : State :=
  let set (r : Ray) (s : State) : State := s.modCore core fun c => { c with rays := c.rays.set k r }
  match followRef it.ref.toNat it.addr, f32XR r.tmin.toNat with
  | some (ty, cnt, a), some tmin =>
    let r := { r.follow it.level it.ix with cur := none }
    let fetch (n : Nat) (go : Nat → State → State) : State :=
      match s.rayFetch core cx a n with
      | .ok x s => go x s
      | f => s.rayStop { r with cur := some it } k core f
    match ty with
    | 1 => set { r with cur := some { kind := 1, addr := a, level := it.level + 1, frame := it.frame } } s
    | 2 => fetch (48 * (cnt + 1)) fun x s =>
        if badTriangle x (cnt + 1) then set (r.fail 2 a) s
        else
          let (r, n) := r.triangles { it with addr := a } x (cnt + 1) 8 0
          set r (s.travCount r.group 3 n)
    | 3 => fetch 128 fun x s =>
        let vox := bitsN x 639 608
        match vec3 x 512, f32Rat vox with
        | some org, some v =>
          if bitsN x 1023 704 != 0 || v ≤ 0 || bitsN vox 30 23 == 0 then set (r.fail 2 a) s
          else
            let (steps, h) := dda (wordsRat it.frame.o) (wordsRat it.frame.d) org v tmin r.tcur (x % 2 ^ 512)
            let s := s.travCount r.group 4 steps
            match h with
            | none => set r s
            | some (t, b, ax) =>
              set (r.offer { t := t, kind := 1, prim := BitVec.ofNat 32 (bitsN x 703 672), inst := it.frame.inst, sh := it.frame.shoff
                             mat := BitVec.ofNat 32 (bitsN x 671 640 + b), axis := ax } true) s
        | _, _ => set (r.fail 2 a) s
    | 4 => fetch 32 fun x s =>
        match vec3 x 0, vec3 x 96 with
        | some lo, some hi =>
          if (List.range 3).any fun i => decide (hi.getD i 0 < lo.getD i 0) then set r s
          else match boxNear (wordsRat it.frame.o) (wordsRat it.frame.d) lo hi tmin r.tcur with
            | some t =>
              set (r.offer { t := t, kind := 2, prim := BitVec.ofNat 32 (bitsN x 255 224), inst := it.frame.inst
                             sh := it.frame.shoff + BitVec.ofNat 32 (bitsN x 223 192) } false) s
            | none => set r s
        | _, _ => set (r.fail 2 a) s
    | 5 => fetch 64 fun x s =>
        let root := bitsN x 439 384
        if bitsN x 447 440 != 0 || root % 128 != 0 || inAperture root then set (r.fail 2 a) s
        else if 2 ≤ it.frame.depth then set (r.fail 4 a) s
        else if bitsN x 455 448 &&& (r.flags.toNat % 256) == 0 then set r s
        else match enterInstance x it.frame with
          | none => set r s
          | some f => set { r with cur := some { kind := 1, addr := root, level := it.level + 1, frame := f } } s
    | 6 => fetch (24 * (cnt + 1)) fun x s =>
        set (if badKey x (cnt + 1) then r.fail 2 a else r.keys x (cnt + 1)) s
    | _ => set r s
  | none, _ => set (r.fail 2 it.addr) s
  | _, none => set (r.fail 8 0) s

/-- The inputs of a ray or query (R297): DETAIL 8, then 1. -/
def Ray.inputs (r : Ray) : Option (Nat × Nat) :=
  let fin (l : List W32) : Bool := l.all fun w => (f32Rat w.toNat).isSome
  let bad := if r.query then !fin r.frame.o || (match f32XR r.tmax.toNat with
      | none => true
      | some x => x.lt (.fin 0))
    else !fin (r.frame.o ++ r.frame.d) || (f32XR r.tmin.toNat).isNone || (f32XR r.tmax.toNat).isNone ||
      r.frame.d.all fun w => f32Rat w.toNat == some 0
  if bad then some (8, 0)
  else if 2 ^ 56 ≤ r.root || r.root % 128 != 0 || inAperture r.root then some (1, r.root)
  else none

/-- May the walk go on: nothing to deliver, no fetch parked, and no more results ready than one TQNEXT takes? -/
def Ray.walks (r : Ray) : Bool :=
  r.phase == 0 && r.out.isNone && r.parked.isNone && !(r.query && (r.ended || (r.flags.toNat % 4 != 1 && 8 ≤ r.results.length)))

/-- RAY_WALK: one visit of the walk: a node, a reference, or the end. -/
def execRayWalk (core ray : Nat) (s : State) : Host.Outcome State Fault Refusal :=
  match (s.core core).rays.get? ray with
  | none => .next s
  | some r =>
  match (s.groups.get? r.group).bind fun g => (s.teams.get? g.team).bind fun t => s.ctxs.get? t.ctx with
  | none => .next s
  | some cx =>
    let set (r : Ray) (s : State) : State := s.modCore core fun c => { c with rays := c.rays.set ray r }
    if !r.walks then .next s
    else if !r.started then
      let r := { r with started := true }
      match r.inputs with
      | some (d, a) => .next (set (r.fail d a) s)
      | none =>
        let tcur := (f32XR r.tmax.toNat).getD .pinf
        .next (set { r with tcur := tcur, cur := some { kind := 1, addr := r.root, frame := r.frame } } s)
    else match r.redo, r.cur with
    | a :: rest, _ =>
      match s.rayFetch core cx a 128 with
      | .ok x s => .next (set (r.redoNode (r.shallowest - rest.length) a x rest) (s.travCount r.group 2 8))
      | f => .next (s.rayStop r ray core f)
    | [], none =>
      match r.pop with
      | some (e, r) => .next (set { r with cur := some e } s)
      | none =>
        if r.stack.isEmpty then .next (set (if r.query then { r with ended := true } else r.finish) s)
        else .next (set r.restart (s.travCount r.group 5 1))
    | [], some it =>
      if it.kind == 1 then
        if 20 < it.level then .next (set (r.fail 3 it.addr) s)
        else match s.rayFetch core cx it.addr 128 with
        | .ok x s => .next (set ({ r with nodes := r.nodes.set it.level it.addr }.node it x) (s.travCount r.group 2 8))
        | f => .next (s.rayStop r ray core f)
      else if it.kind == 2 then
        let cnt := bitsN it.ref.toNat 6 4
        match s.rayFetch core cx it.addr (48 * (cnt + 1)) with
        | .ok x s =>
          if badTriangle x (cnt + 1) then .next (set (r.fail 2 it.addr) s)
          else
            let (r, n) := ({ r with cur := none }).triangles it x (cnt + 1) 8 it.first
            .next (set r (s.travCount r.group 3 n))
        | f => .next (s.rayStop r ray core f)
      else
        let skip : Bool := if r.query then (match r.rho2 with | some q => decide (q < it.near) | none => false)
          else !(XR.fin it.near).le r.tcur || it.ref.toNat % 8 == 6
        if skip then .next (set { r with cur := none } s) else .next (s.rayFollow core cx ray r it)

/-! ## Deliveries (R306, R307, R309) -/

/-- A record's eight words. -/
def hitWords (c : RHit) (hit : Bool) : List W32 :=
  [c.t.f32, BitVec.ofNat 32 (ratF32 c.u), BitVec.ofNat 32 (ratF32 c.v), c.prim, c.inst, c.sh,
   if hit && c.kind == 1 then c.mat else 0,
   BitVec.ofNat 32 ((if hit then 1 else 2) + 16 * c.kind + (if c.front then 64 else 0) + 128 * c.axis)]

def endWords (tmax : W32) (st d : Nat) : List W32 := [tmax, 0, 0, 0, 0xFFFFFFFF, 0, 0, BitVec.ofNat 32 (st + 65536 * d)]

/-- Serve a lane of a command: its registers, and an error that posts a record. -/
def State.travPut (s : State) (core cmd lane : Nat) (words : List W32) (err : Option (Nat × Nat)) : State :=
  match (s.core core).travCmds.get? cmd with
  | none => s
  | some c =>
    let s := s.modGroup c.group fun g => { g with pend := g.pend.modify c.pend fun p =>
      { p with vs := p.vs ++ words.zipIdx.map fun w => (32 * (c.dst + w.2) + lane, w.1) } }
    let c := { c with
      left := c.left &&& ~~~(BitVec.ofNat 32 (2 ^ lane))
      errs := match err with | some e => c.errs.set lane e | none => c.errs }
    (s.modCore core fun x => { x with travCmds := x.travCmds.set cmd c }).travFinish core cmd

/-- What a lane without a waiting ray, or without an open query, receives. -/
def noRay : List W32 := endWords 0 3 9
def noQuery (n : Nat) : List W32 := (0x930 : W32) :: (List.range n).flatMap fun _ => [0xFFFFFFFF, 0]

/-- The ray of a lane in a slot of its core. -/
def Core.rayOf (c : Core) (gid lane : Nat) : Option (Nat × Ray) := c.rays.find? fun e => e.2.group == gid && e.2.lane == lane

/-- What TRRES does to a waiting ray; its next delivery goes to the command (R298). -/
def Ray.resolve (r : Ray) (w : RWait) : Ray :=
  let r := { r with phase := 0, cmd := w.cmd }
  match r.cand with
  | none => r
  | some c =>
    let r := { r with cand := none }
    if w.fn == 1 then r else
    let t : Option XR := match c.kind == 2, w.t with
      | true, some x => f32XR x.toNat
      | _, _ => some c.t
    let r := match t with
      | some t => if r.acceptable t then r.commit { c with t := t } else r
      | none => r
    if w.fn == 2 then r.finish else r

/-- The error that a delivery of status error posts: none unless the lane's TRACE or TQRY carries TRAP (R311). -/
def State.travErr (s : State) (gid lane d a : Nat) : Option (Nat × Nat) :=
  if (s.groups.get? gid).any fun g => g.travTrap.getLsbD lane then some (d, a) else none

/-- A lane without a waiting ray, or without an open query, is answered. -/
def State.noTrav (s : State) (core gid lane : Nat) (w : RWait) (query : Bool) : State :=
  s.travPut core w.cmd lane (if query then noQuery w.n else noRay) (s.travErr gid lane 9 0)

/-- After a final delivery, the instructions that waited find no ray or query. -/
def State.flushWaits (s : State) (core gid lane : Nat) (ws : List RWait) (query : Bool) : State :=
  ws.foldl (fun s w => s.noTrav core gid lane w query) s

/-- RAY_DELIVER: the walk delivers a record to its lane; a final one frees the slot. -/
def execRayDeliver (core ray : Nat) (s : State) : Host.Outcome State Fault Refusal :=
  match (s.core core).rays.get? ray with
  | none => .next s
  | some r =>
    let final (words : List W32) (err : Option (Nat × Nat)) : State :=
      ((s.modCore core fun c => { c with rays := c.rays.erase ray }).travPut core r.cmd r.lane words err).flushWaits core r.group
        r.lane r.waiting false
    match r.out with
    | none => .next s
    | some .hit => match r.best with
      | some c => .next (final (hitWords c true) none)
      | none => .next s
    | some .miss => .next (final (endWords r.tmax 0 0) none)
    | some (.error d a) => .next (final (endWords r.tmax 3 d) (s.travErr r.group r.lane d a))
    | some (.shader c) =>
      let r' := { r with out := none, phase := 1 }
      let r' := match r.waiting with
        | [] => r'
        | w :: rest => { (r'.resolve w) with waiting := rest }
      .next ((s.modCore core fun x => { x with rays := x.rays.set ray r' }).travPut core r.cmd r.lane (hitWords c false) none)

/-- Can a query serve the TQNEXT that waits first? -/
def Ray.canServe (r : Ray) : Bool :=
  match r.waiting with
  | [] => false
  | w :: _ => r.query && (r.ended || (r.flags.toNat % 4 != 1 && w.n ≤ r.results.length))

/-- QUERY_RESULTS_READY: results go to the TQNEXT that waits first; DONE frees the slot. A query with nothing to do for a
TQNEXT waits for one. -/
def execQueryResultsReady (core ray : Nat) (s : State) : Host.Outcome State Fault Refusal :=
  match (s.core core).rays.get? ray with
  | none => .next s
  | some r =>
    if !r.query then .next s else
    match r.waiting with
    | [] => .next (if r.phase == 0 && !r.walks && r.parked.isNone then
        s.modCore core fun c => { c with rays := c.rays.set ray { r with phase := 2 } } else s)
    | w :: rest =>
      if !r.canServe then .next s else
      let out := r.results.take w.n
      let left := r.results.drop w.n
      let done := r.ended && left.isEmpty
      let (d, a) := r.err.getD (0, 0)
      let bad := done && r.err.isSome
      let words : List W32 :=
        BitVec.ofNat 32 (out.length + (if done then 16 else 0) + (if bad then 32 + 256 * d else 0)) ::
        ((out.flatMap fun q => [q.key, q.payload]) ++ (List.range (w.n - out.length)).flatMap fun _ => [0xFFFFFFFF, 0])
      let err := if bad then s.travErr r.group r.lane d a else none
      let s := s.modCore core fun c =>
        { c with rays := if done then c.rays.erase ray else c.rays.set ray { r with results := left, waiting := rest, phase := 0 } }
      let s := s.travPut core w.cmd r.lane words err
      .next (if done then s.flushWaits core r.group r.lane rest true else s)

/-! ## Spills (R300, R301) -/

/-- RAY_SPILL_TIMEOUT: a ray or query that waits on its lane is spilled. -/
def execRaySpillTimeout (core ray : Nat) (s : State) : Host.Outcome State Fault Refusal :=
  match (s.core core).rays.get? ray with
  | none => .next s
  | some r => .next (if r.phase == 0 then s else s.spillRays core fun x => x.group == r.group && x.lane == r.lane)

/-- RAY_FETCH_XLATE_SERVICE: Shento maps the page and the fetch is made again; without a mapping the ray ends. -/
def execRayFetchXlateService (core ray : Nat) (map : List (Nat × BitVec 64)) (s : State) : Host.Outcome State Fault Refusal :=
  match (s.core core).rays.get? ray with
  | none => .next s
  | some r =>
    match r.parked with
    | none => .next s
    | some _ =>
      if map.isEmpty then .next (s.modCore core fun c => { c with rays := c.rays.set ray ({ r with parked := none }.fail 5 r.record) })
      else .next (((s.applyMap map).travCount r.group 7 1).modCore core fun c =>
        { c with rays := c.rays.set ray { r with parked := none } })

/-- Reload a lane's record into a free slot of a core: does its header hold what was written? -/
def State.reloadAt (s : State) (core : Nat) (cx : Ctx) (spill : VA) (gid lane : Nat) : Option (Nat × Ray × Bool × State) :=
  match s.spilled.get? (32 * gid + lane), (s.core core).rays.freeKey 0 256 with
  | some r, some k =>
    let s := s.touch core cx (spill.toNat + 256 * lane) false
    let head := s.vread core cx (spill.toNat + 256 * lane) 8
    let ok := head == 1 + (if r.query then 2 else 0) + r.phase * 4
    let s := { s with
      spilled := s.spilled.erase (32 * gid + lane)
      savedRays := s.savedRays.filter (· != 32 * gid + lane) }.clearSpill gid lane
    some (k, r, ok, s.modCore core fun c => { c with rays := c.rays.set k r })
  | _, _ => none

def State.reloadRay (s : State) (h : Here) (lane : Nat) : Option (Nat × Ray × Bool × State) :=
  s.reloadAt h.core h.cx h.g.spillVA h.gid lane

/-! ## TRACE, TRRES, TQRY, TQNEXT, TRSTAT (R305 to R310) -/

/-- Open a command that will deliver `n` registers to each lane. -/
def State.openTrav (s : State) (h : Here) (dst n : Nat) (lanes : W32) : Nat × State :=
  let id := (s.core h.core).nextId
  let s := s.addPend h.gid { frag := h.fid, regs := (List.range n).map fun i => .v (dst + i), ready := false }
  (id, s.modCore h.core fun c =>
    { c with
      travCmds := c.travCmds.set id
        { group := h.gid, frag := h.fid, line := h.f.line, slot := h.f.slot, paired := h.f.paired, mask := h.f.mask, dst := dst
          pend := h.g.nextPend, left := lanes }
      nextId := id + 1 })

/-- Claim one slot per lane for new rays; what the lanes still had is abandoned (R298, R299). None when slots are missing. -/
def State.claimRays (s : State) (h : Here) (lanes : W32) (trap : Bool) (mk : Nat → Ray) : Option State :=
  let s := s.abandon h.gid lanes
  if 256 < (s.core h.core).rays.length + (lanesOf lanes).length then none
  else
    let s := (s.countEv h.core 10 (lanesOf lanes).length).modGroup h.gid fun g =>
      { g with travTrap := if trap then g.travTrap ||| lanes else g.travTrap &&& ~~~lanes }
    some ((lanesOf lanes).foldl (fun s l =>
      match (s.core h.core).rays.freeKey 0 256 with
      | some k => s.modCore h.core fun c => { c with rays := c.rays.set k (mk l) }
      | none => s) s)

/-- The trap of TRACE and TQRY in a team without a trace spill area. -/
def tsplTrap (lanes : W32) : RecInfo := { cause := .trav, lanes := lanes.toNat }

def traceSlot (w : EngW) (h : Here) (s : State) : SlotResult :=
  let act := h.active w.g w.gn
  if act == 0 then .done s
  else if !h.t.tspl then .trap (tsplTrap act)
  else if s.sideBusy h then .stall
  else match w.dst, w.a with
  | .v rd, .v ra =>
    let id := (s.core h.core).nextId
    let mk (l : Nat) : Ray :=
      let x (i : Nat) : W32 := h.vreg (ra.val + i) l
      { query := false, group := h.gid, lane := l, cmd := id, root := (h.srcS w.b).toNat, flags := w.imm.truncate 12
        tmin := x 3, tmax := x 7, frame := { o := [x 0, x 1, x 2], d := [x 4, x 5, x 6] } }
    match s.claimRays h act (w.imm.getLsbD 11) mk with
    | none => .stall
    | some s => .done (s.openTrav h rd.val 8 act).2
  | _, _ => .done s

def execTrace (w : EngW) (s : State) : Host.Outcome State Fault Refusal := runSlot (.trace w) (traceSlot w) s

/-- Lanes whose spilled ray or query a TRRES or TQNEXT reloads. -/
def State.reloads (s : State) (h : Here) (query : Bool) (ls : List Nat) : List Nat :=
  ls.filter fun l => match s.spilled.get? (32 * h.gid + l) with
    | some r => r.query == query
    | none => false

/-- Resume each lane's ray or query with what the instruction asks (R307, R309). A poisoned spill record is consumed (spec/26 R417). -/
def resumeTrav (h : Here) (query : Bool) (dst n : Nat) (act : W32) (mk : Nat → Nat → RWait) (s : State) : SlotResult :=
  let ls := lanesOf act
  if ls.isEmpty then .done s
  else if s.sideBusy h then .stall
  else
    let rl := s.reloads h query ls
    if 256 < (s.core h.core).rays.length + rl.length then .stall else
    let recs := rl.map fun l => (h.g.spillVA.toNat + 256 * l, 256)
    if recs.any fun e => s.vPoison h.core h.cx e.1 e.2 .read then s.eatPoison h .read recs else
    let (id, s) := s.openTrav h dst n act
    .done (ls.foldl (fun s l =>
      let w := mk id l
      let (s, bad) : State × Option Nat :=
        if rl.contains l then match s.reloadRay h l with
          | some (k, _, ok, s) => (s, if ok then none else some k)
          | none => (s, none)
        else (s, none)
      match bad with
      | some k =>
        -- an invalid record ends the ray (R300)
        match (s.core h.core).rays.get? k with
        | none => s
        | some r =>
          let err := s.travErr h.gid l 7 (h.g.spillVA.toNat + 256 * l)
          let words := if query then (0x730 : W32) :: (List.range w.n).flatMap fun _ => [0xFFFFFFFF, 0] else endWords r.tmax 3 7
          (s.modCore h.core fun c => { c with rays := c.rays.erase k }).travPut h.core id l words err
      | none =>
        match (s.core h.core).rayOf h.gid l with
        | none => s.noTrav h.core h.gid l w query
        | some (k, r) =>
          if r.query != query then s.noTrav h.core h.gid l w query
          else
            let r' := if query then { r with waiting := r.waiting ++ [w], phase := 0 }
              else if r.phase == 1 then r.resolve w else { r with waiting := r.waiting ++ [w] }
            s.modCore h.core fun c => { c with rays := c.rays.set k r' }) s)

def trresSlot (w : EngW) (fn : Nat) (h : Here) (s : State) : SlotResult :=
  match w.dst with
  | .v rd => resumeTrav h false rd.val 8 (h.active w.g w.gn)
      (fun id l => { cmd := id, fn := fn, t := if w.a.isZr then none else some (BitVec.ofNat 32 (h.src32 w.a 0 l)) }) s
  | _ => .done s

def execTrresAccept (w : EngW) (s : State) : Host.Outcome State Fault Refusal := runSlot (.trresAccept w) (trresSlot w 0) s
def execTrresReject (w : EngW) (s : State) : Host.Outcome State Fault Refusal := runSlot (.trresReject w) (trresSlot w 1) s
def execTrresCommit (w : EngW) (s : State) : Host.Outcome State Fault Refusal := runSlot (.trresCommit w) (trresSlot w 2) s

def execTqry (w : EngW) (s : State) : Host.Outcome State Fault Refusal :=
  runSlot (.tqry w) (fun h s =>
    let act := h.active w.g w.gn
    if act == 0 then .done s
    else if !h.t.tspl then .trap (tsplTrap act)
    else if s.sideBusy h then .stall
    else match w.a with
    | .v ra =>
      let mk (l : Nat) : Ray :=
        let x (i : Nat) : W32 := h.vreg (ra.val + i) l
        { query := true, group := h.gid, lane := l, cmd := 0, root := (h.srcS w.b).toNat, flags := w.imm.truncate 12
          tmax := x 3, frame := { o := [x 0, x 1, x 2], d := [] }
          rho2 := match f32XR (x 3).toNat with | some (.fin r) => some (r * r) | _ => none
          lo := x 4, hi := x 5 }
      match s.claimRays h act (w.imm.getLsbD 11) mk with
      | none => .stall
      | some s => .done s
    | _ => .done s) s

def execTqnext (w : EngW) (s : State) : Host.Outcome State Fault Refusal :=
  runSlot (.tqnext w) (fun h s =>
    let n := immF w.imm 2 0 + 1
    match w.dst with
    | .v rd => resumeTrav h true rd.val (1 + 2 * n) (h.active w.g w.gn) (fun id _ => { cmd := id, n := n }) s
    | _ => .done s) s

/-- The value of TRSTAT sel 8 for a lane. -/
def State.rayState (s : State) (h : Here) (l : Nat) : Nat :=
  match (s.core h.core).rayOf h.gid l with
  | some (_, r) => if r.query then 4 else if r.phase == 0 then 1 else 2
  | none => if s.spilled.has (32 * h.gid + l) then 3 else 0

def execTrstat (w : EngW) (s : State) : Host.Outcome State Fault Refusal :=
  runSlot (.trstat w) (fun h s =>
    let sel := immF w.imm 7 0
    let value : Nat :=
      if sel == 0 then 256 - (s.core h.core).rays.length
      else if sel == 1 then ((List.range 32).filter fun l => s.rayState h l != 0).length
      else (h.g.travCtr.getD 0 sel).toNat
    match w.dst with
    | .s _ => if sel == 8 then .trap (h.decodeTrap .ri 4) else .done (s.writeS h w.dst w.ws (BitVec.ofNat 64 value))
    | _ => .done (s.writeVec h w.dst w.ws false (h.active w.g w.gn) fun l => if sel == 8 then s.rayState h l else value)) s

end Sys2Proof.Machine
end

