-- ==== Sys2Proof/Machine/Raster.lean ====
section
/-! DEFINITION. Raster: the tile engine and the splat unit: submissions, tiles, coverage and depth, fragment groups, blending,
flushes, stamps and splats (spec/21 R361 to R371, R374 to R378). -/

namespace Sys2Proof.Machine

/-! ## Target formats (R366) -/

/-- An extended real known within an interval. -/
inductive EV where
  | nan | inf (neg : Bool) | iv (lo hi : Rat)
  deriving DecidableEq, Repr

def EV.ofF (x : FVal) : EV :=
  match x with
  | .nan => .nan
  | .inf n => .inf n
  | .fin n m e =>
    let v : Rat := ((m * 2 ^ e.toNat : Nat) : Rat) / ((2 ^ (-e).toNat : Nat) : Rat)
    let v := if n then -v else v
    .iv v v

def EV.mul (a b : EV) : EV :=
  let infBy (n : Bool) (lo hi : Rat) : EV := if 0 < lo then .inf n else if hi < 0 then .inf !n else .nan
  match a, b with
  | .nan, _ | _, .nan => .nan
  | .inf n, .inf m => .inf (n != m)
  | .inf n, .iv lo hi | .iv lo hi, .inf n => infBy n lo hi
  | .iv a b, .iv c d =>
    let ps := [a * c, a * d, b * c, b * d]
    .iv (ps.foldl min (a * c)) (ps.foldl max (a * c))

def EV.add (a b : EV) : EV :=
  match a, b with
  | .nan, _ | _, .nan => .nan
  | .inf n, .inf m => if n == m then .inf n else .nan
  | .inf n, _ | _, .inf n => .inf n
  | .iv a b, .iv c d => .iv (a + c) (b + d)

/-- ⌊n^(1/5)⌋ for n below 2^(5 × bits). -/
def root5 (bits n : Nat) : Nat :=
  (List.range bits).foldl (fun r i => let c := r + 2 ^ (bits - 1 - i); if c ^ 5 ≤ n then c else r) 0

/-- An interval that holds ((y + 0.055) / 1.055)^2.4 for 0 < y < 1. -/
def srgbPow (y : Rat) : Rat × Rat :=
  let x := (y + 11 / 200) / (211 / 200)
  let p : Rat := (2 ^ 200 : Nat)
  let r := root5 201 (x.num.natAbs ^ 12 * 2 ^ 1000 / x.den ^ 12)
  ((r : Rat) / p, ((r + 1 : Nat) : Rat) / p)

/-- Decode an sRGB code, y = c / 255 (IEC 61966-2-1). -/
def srgbDec (c : Nat) : EV :=
  if c == 255 then .iv 1 1
  else if c ≤ 10 then let x : Rat := (c : Rat) / 255 * (25 / 323); .iv x x
  else let r := srgbPow ((c : Rat) / 255); .iv r.1 r.2

/-- Does the encoding of v round above c, that is, to c + 1 or more? Ties go to even. -/
def srgbAbove (v : Rat) (c : Nat) : Bool :=
  let y : Rat := ((2 * c + 1 : Nat) : Rat) / 510
  if c ≤ 9 then
    let t := y * (25 / 323)
    t < v || (t == v && c % 2 == 1)
  else
    let r := srgbPow y
    if r.2 ≤ v then true else if v ≤ r.1 then false else Config.undecided 0x202 c

/-- The sRGB code of a linear value. -/
def srgbEnc (v : Rat) : Nat :=
  (List.range 8).foldl (fun r i => let c := r + 2 ^ (7 - i); if srgbAbove v (c - 1) then c else r) 0

/-- A code of a value known within an interval (log 16). -/
def EV.code (x : EV) (top : Nat) (f : Rat → Nat) : Nat :=
  match x with
  | .nan => 0
  | .inf n => if n then 0 else top
  | .iv lo hi =>
    let a := f lo
    let b := f hi
    if a == b then a else if Config.undecided 0x203 a then b else a

def unormEnc (v : Rat) : Nat := if v < 0 then 0 else if 1 < v then 255 else (ratRne (v * 255)).toNat

/-- f11 and f10: unsigned floats. -/
def ufFmt (mb : Nat) : Fmt := { eb := 5, mb := mb, bias := 15, flush := false }
def ufEnc (mb : Nat) (v : Rat) : Nat :=
  if v ≤ 0 then 0 else ((ufFmt mb).round .rne true false false v.num.natAbs v.den false).1

/-- Bytes of a pixel by CFMT (R361). -/
def pixelBytes (fmt : Nat) : Nat := [4, 4, 8, 4, 16].getD fmt 4

/-- A channel's exact value: products of source values, and the coefficient of the decoded destination. -/
structure Chan where
  terms : List (FVal × FVal)
  dk : Option FVal
  deriving DecidableEq, Repr

def Chan.ev (c : Chan) (d : EV) : EV :=
  let ts := c.terms.map (fun t => (EV.ofF t.1).mul (EV.ofF t.2)) ++ (c.dk.map fun k => (EV.ofF k).mul d).toList
  match ts with
  | [] => .iv 0 0
  | t :: rest => rest.foldl EV.add t

def Chan.float (c : Chan) (f : Fmt) (d : Nat) : Nat :=
  (f.dot .rne false false (c.terms ++ (c.dk.map fun k => (k, f.dec false d)).toList) []).1

/-- The new bytes of a pixel. -/
def pixelOut (fmt old : Nat) (chan : Nat → Chan) : Nat :=
  let byte (k : Nat) : Nat := old / 256 ^ k % 256
  let lin (k : Nat) : EV := let x : Rat := (byte k : Rat) / 255; .iv x x
  match fmt with
  | 0 => (List.range 4).foldr (fun k a => ((chan k).ev (lin k)).code 255 unormEnc + 256 * a) 0
  | 1 => (List.range 4).foldr (fun k a =>
      (if k == 3 then ((chan k).ev (lin k)).code 255 unormEnc else ((chan k).ev (srgbDec (byte k))).code 255 srgbEnc) + 256 * a) 0
  | 2 => (List.range 4).foldr (fun k a => (chan k).float Fmt.f16 (old / 65536 ^ k % 65536) + 65536 * a) 0
  | 3 =>
    let c (k lo mb : Nat) : Nat :=
      ((chan k).ev (EV.ofF ((ufFmt mb).dec false (old / 2 ^ lo % 2 ^ (mb + 5))))).code (2 ^ (mb + 5) - 2 ^ mb - 1) (ufEnc mb)
    c 0 0 6 + 2 ^ 11 * c 1 11 6 + 2 ^ 22 * c 2 22 5
  | _ => (List.range 4).foldr (fun k a => (chan k).float Fmt.f32 (old / 2 ^ (32 * k) % 2 ^ 32) + 2 ^ 32 * a) 0

/-- 1 − a. -/
def oneLess (a : FVal) : FVal :=
  match a with
  | .nan => .nan
  | .inf n => .inf !n
  | .fin n m e =>
    let e0 := min e 0
    let x : Int := 2 ^ (-e0).toNat - (if n then -1 else 1) * (m * 2 ^ (e - e0).toNat : Nat)
    .fin (decide (x < 0)) x.natAbs e0

def oneVal : FVal := .fin false 1 0

/-- The blend of R366. -/
def blendChan (blend : Nat) (col : List FVal) (k : Nat) : Chan :=
  let s := col.getD k .nan
  let a := col.getD 3 .nan
  match blend with
  | 0 => { terms := [(s, oneVal)], dk := none }
  | 1 => { terms := [(s, a)], dk := some (oneLess a) }
  | _ => { terms := [(s, oneVal)], dk := some oneVal }

/-! ## Records (R361) -/

def bsdBad (d : Nat) : Bool :=
  bitsN d 63 56 != 0 || bitsN d 127 120 != 0 || bitsN d 223 216 != 0 || bitsN d 287 280 != 0 || bitsN d 511 344 != 0
def rtdBad (d : Nat) : Bool :=
  bitsN d 63 56 != 0 || bitsN d 79 67 != 0 || bitsN d 127 112 != 0 || bitsN d 223 216 != 0 || bitsN d 511 256 != 0 ||
    5 ≤ bitsN d 66 64
def drawBad (d : Nat) : Bool :=
  bitsN d 63 56 != 0 || bitsN d 127 120 != 0 || bitsN d 255 139 != 0 || d % 64 != 0 || bitsN d 129 128 == 3 || bitsN d 132 130 == 7

namespace Submission
def gw (b : Submission) : Nat := bitsN b.bsd.toNat 135 128 + 1
def gh (b : Submission) : Nat := bitsN b.bsd.toNat 143 136 + 1
def cap (b : Submission) : Nat := bitsN b.bsd.toNat 159 144 + 1
def bins (b : Submission) : Nat := bitsN b.bsd.toNat 215 160
def lists (b : Submission) : Nat := bitsN b.bsd.toNat 279 224
def drawt (b : Submission) : Nat := bitsN b.bsd.toNat 119 64
def resetWord (b : Submission) : Nat := bitsN b.bsd.toNat 343 288
def fmt (b : Submission) : Nat := bitsN b.rtd.toNat 66 64
def width (b : Submission) : Nat := bitsN b.rtd.toNat 95 80 + 1
def height (b : Submission) : Nat := bitsN b.rtd.toNat 111 96 + 1
def dbase (b : Submission) : Nat := bitsN b.rtd.toNat 215 160
def colourAt (b : Submission) (x y : Nat) : Nat :=
  bitsN b.rtd.toNat 55 0 + y * bitsN b.rtd.toNat 159 128 + x * pixelBytes b.fmt
def depthAt (b : Submission) (x y : Nat) : Nat := b.dbase + y * bitsN b.rtd.toNat 255 224 + 4 * x

/-- Bounding ranges of a pixel rectangle in the colour target, and in the depth target when there is one. -/
def targets (b : Submission) (x0 y0 x1 y1 : Nat) (depth : Bool) : List (Nat × Nat) :=
  if x1 < x0 || y1 < y0 then [] else
  let c := b.colourAt x0 y0
  (c, b.colourAt x1 y1 + pixelBytes b.fmt - c) ::
    (if depth && b.dbase != 0 then [(b.depthAt x0 y0, b.depthAt x1 y1 + 4 - b.depthAt x0 y0)] else [])

/-- The ranges registered at issue: first, length, write-locked (R368). -/
def ranges (b : Submission) : List (Nat × Nat × Bool) :=
  let wr (l : List (Nat × Nat)) : List (Nat × Nat × Bool) := l.map fun r => (r.1, r.2, true)
  match b.kind with
  | 0 =>
    let t := b.tiles.headD 0
    let (tx, ty) := (t % b.gw, t / b.gw)
    (b.lists + 16 * b.cap * t, 16 * b.cap, false) ::
      wr (b.targets (32 * tx) (32 * ty) (min (32 * tx + 31) (b.width - 1)) (min (32 * ty + 31) (b.height - 1)) true)
  | 1 =>
    let n := b.gw * b.gh
    [(b.lists, 16 * b.cap * n, false), (b.bins, 8 * n, true)] ++ (if b.resetWord == 0 then [] else [(b.resetWord, 8, true)]) ++
      wr (b.targets 0 0 (b.width - 1) (b.height - 1) true)
  | _ =>
    let n := bitsN b.bsd.toNat 95 64
    (if n == 0 then [] else [(bitsN b.bsd.toNat 55 0, 32 * n, false)]) ++ wr (b.targets 0 0 (b.width - 1) (b.height - 1) false)
end Submission

/-! ## TLSUB, TLFLUSH, SPSUB and FOUT (R367 to R369, R376, R378) -/

def Here.launchTrap (h : Here) (addr : Nat) : RecInfo :=
  { cause := .launch, detail := 12, lanes := h.f.mask.toNat, addr := addr % 2 ^ 56 }

/-- Check the stamp, take a place in the queue and the Hasp entries, and submit. -/
def State.submit (s : State) (h : Here) (b : Submission) : SlotResult :=
  let die := dieOf h.core
  let e := s.tileEng die
  match s.stampTrap h b.addr.toNat with
  | some r => .trap r
  | none =>
    match b.ranges.find? fun r => meetsAperture r.1 r.2.1 with
    | some r => .trap (h.aperTrap r.1)
    | none =>
      if 64 ≤ (e.subs.filter fun x => !e.stopped.contains x.2.ctx).length then .stall else
      match s.haspAdd h.core (b.ranges.map fun r => haspRange r.2.2 5 (e.nextSub % 256) h.cx.asid r.1 r.2.1) with
      | none => .stall
      | some (ids, s) =>
        .done ({ s with subCount := s.subCount + 1 }.modTileEng die fun e =>
          { e with subs := e.subs.set e.nextSub { b with entries := ids, num := s.subCount }, nextSub := e.nextSub + 1 })

/-- The even pair that holds a stamp's address and value. -/
def Here.stampPair (h : Here) (o : Opnd) : W64 × W64 :=
  match o with
  | .s r => (h.sreg r.val, h.sreg (r.val + 1))
  | _ => (0, 0)

def tileSlot (w : EngW) (flush : Bool) (h : Here) (s : State) : SlotResult :=
  if s.sideBusy h then .stall else
  let va := (h.srcS w.a).toNat
  match s.readDesc h va with
  | .error r => .trap r
  | .ok (bsd, s1) =>
    if s.vPoison h.core h.cx va 64 .read then s.eatPoison h .read [(va, 64)] else
    let t := h.src32 w.b 0 0
    let (tx, ty) := (t % 65536, t / 65536)
    let (gw, gh) := (bitsN bsd.toNat 135 128 + 1, bitsN bsd.toNat 143 136 + 1)
    if bsdBad bsd.toNat || (!flush && (gw ≤ tx || gh ≤ ty)) then .trap (h.launchTrap va) else
    let ra := bitsN bsd.toNat 55 0
    match s1.readDesc h ra with
    | .error r => .trap r
    | .ok (rtd, s2) =>
      if s.vPoison h.core h.cx ra 64 .read then s.eatPoison h .read [(ra, 64)]
      else if rtdBad rtd.toNat then .trap (h.launchTrap ra)
      else
        let (sa, sv) := h.stampPair w.c
        s2.submit h
          { kind := if flush then 1 else 0, core := h.core, group := h.gid, team := h.tid, launch := h.t.launch, ctx := h.t.ctx
            bsdVa := va, bsd := bsd, rtd := rtd, tiles := if flush then List.range (gw * gh) else [ty * gw + tx]
            addr := sa, value := sv, scope := w.imm.toNat % 8 }

def execTlsub (w : EngW) (s : State) : Host.Outcome State Fault Refusal := runSlot (.tlsub w) (tileSlot w false) s
def execTlflush (w : EngW) (s : State) : Host.Outcome State Fault Refusal := runSlot (.tlflush w) (tileSlot w true) s

/-- A splat descriptor that is malformed (R374). -/
def splatBad (d : Nat) : Bool := bitsN d 63 56 != 0 || bitsN d 511 152 != 0 || d % 32 != 0 || 2 ^ 24 < bitsN d 95 64

def execSpsub (w : EngW) (s : State) : Host.Outcome State Fault Refusal :=
  runSlot (.spsub w) (fun h s =>
    if s.sideBusy h then .stall else
    let va := (h.srcS w.a).toNat
    match s.readDesc h va with
    | .error r => .trap r
    | .ok (d, s1) =>
      if s.vPoison h.core h.cx va 64 .read then s.eatPoison h .read [(va, 64)]
      else if splatBad d.toNat then .trap (h.launchTrap va)
      else
        let ra := bitsN d.toNat 151 96
        match s1.readDesc h ra with
        | .error r => .trap r
        | .ok (rtd, s2) =>
          if s.vPoison h.core h.cx ra 64 .read then s.eatPoison h .read [(ra, 64)]
          else if rtdBad rtd.toNat then .trap (h.launchTrap ra)
          else
            let (sa, sv) := h.stampPair w.c
            s2.submit h
              { kind := 2, core := h.core, group := h.gid, team := h.tid, launch := h.t.launch, ctx := h.t.ctx
                bsdVa := va, bsd := d, rtd := rtd, addr := sa, value := sv, scope := w.imm.toNat % 8 }) s

/-- FOUT records the colour of each active lane. -/
def execFout (w : EngW) (s : State) : Host.Outcome State Fault Refusal :=
  runSlot (.fout w) (fun h s =>
    let act := h.active w.g w.gn
    if act == 0 then .done s
    else if !h.t.fragTeam then .trap { cause := .prot, lanes := act.toNat, info := 4 }
    else
      let r := match w.a with | .v r => r.val | _ => 0
      .done (s.modGroup h.gid fun g =>
        { g with colour := (lanesOf act).foldl (fun m l => m.set l ((List.range 4).map fun i => h.vreg (r + i) l)) g.colour })) s

/-! ## The engine's own accesses (R369) -/

/-- A session of the engine: the state it has reached, the submission, and the address at which it must wait. -/
structure Ras where
  s : State
  b : Submission
  park : Option Nat := none

/-- The access is not made: the first such address is kept. -/
def Ras.bad (r : Ras) (va : Nat) : Ras := { r with b := { r.b with bad := r.b.bad.or (some va) } }

/-- Check an access: false when it is not made. Poisoned data, read or written over in part, stop the issuing group (spec/26 R417)
and count as unreadable. -/
def Ras.access (r : Ras) (va n : Nat) (k : AccKind) : Bool × Ras :=
  if r.park.isSome then (false, r) else
  if 2 ^ 56 < va + n || meetsAperture va n then (false, r.bad va) else
  match r.s.ctxs.get? r.b.ctx with
  | none => (false, r.bad va)
  | some cx =>
    let one (a : Nat) : Option (Bool × Nat) := match r.s.xl devAgent cx a k with
      | .ok _ _ => none
      | .fault _ _ => some (!r.b.skips.contains (a / 2 ^ 18), a)
      | .prot _ => some (false, a)
    match [va, va + n - 1].findSome? one with
    | some (true, a) => (false, { r with park := some a })
    | some (false, _) => (false, r.bad va)
    | none =>
      if (if k == .read then r.s.vPoison devAgent cx va n k else r.s.vPartPoison devAgent cx va n) then
        (false, { r.bad va with s := r.s.freezeGroup r.b.group 8 ((r.s.poisonAt devAgent cx va n k).getD 0) })
      else (true, r)

def Ras.read (r : Ras) (va n : Nat) : Option Nat × Ras :=
  match r.access va n .read, r.s.ctxs.get? r.b.ctx with
  | (true, r), some cx =>
    let s := r.s.touch devAgent cx va false
    (some (s.vread devAgent cx va n), { r with s := s })
  | (_, r), _ => (none, r)

def Ras.write (r : Ras) (va n x : Nat) : Ras :=
  match r.access va n .write, r.s.ctxs.get? r.b.ctx with
  | (true, r), some cx => { r with s := r.s.vwrite devAgent cx va n x }
  | (_, r), _ => r

/-! ## Coverage (R363) -/

/-- A covered centre. -/
structure Cover where
  x : Nat
  y : Nat
  b1 : Rat
  b2 : Rat
  z : Rat
  deriving DecidableEq, Repr

/-- The covered centres of a triangle among the given columns and rows, in row-major order. -/
def cover (p : List Rat) (x0 nx y0 ny : Nat) : List Cover :=
  let g (i : Nat) : Rat := p.getD i 0
  let (ax, ay, az, bx, by', bz, cx, cy, cz) := (g 0, g 1, g 2, g 3, g 4, g 5, g 6, g 7, g 8)
  let area := (bx - ax) * (cy - ay) - (by' - ay) * (cx - ax)
  if area == 0 then [] else
  -- derivatives of the weights: a left edge has a positive one in x; a top edge none in x and a positive one in y
  let d1 : Rat × Rat := ((cy - ay) / area, -(cx - ax) / area)
  let d2 : Rat × Rat := (-(by' - ay) / area, (bx - ax) / area)
  let d0 : Rat × Rat := (-d1.1 - d2.1, -d1.2 - d2.2)
  let own (d : Rat × Rat) : Bool := 0 < d.1 || (d.1 == 0 && 0 < d.2)
  -- strictly inside, or on an edge that is a top or a left one
  let isIn (bs : List (Rat × Rat × Rat)) : Bool :=
    bs.all (fun e => decide (0 ≤ e.1)) && (bs.all (fun e => decide (0 < e.1)) || bs.any fun e => e.1 == 0 && own e.2)
  (List.range (nx * ny)).filterMap fun i =>
    let (x, y) := (x0 + i % nx, y0 + i / nx)
    let px : Rat := (x : Rat) + 1 / 2
    let py : Rat := (y : Rat) + 1 / 2
    let b1 := (px - ax) * d1.1 + (py - ay) * d1.2
    let b2 := (px - ax) * d2.1 + (py - ay) * d2.2
    let b0 := 1 - b1 - b2
    if isIn [(b0, d0), (b1, d1), (b2, d2)] then some { x := x, y := y, b1 := b1, b2 := b2, z := b0 * az + b1 * bz + b2 * cz }
    else none

/-- The depth test of R364; FCMP's relations, false on a NaN. -/
def depthTest (func z cur : Nat) : Bool :=
  let a := Fmt.f32.dec false z
  let b := Fmt.f32.dec false cur
  if func == 0 then true
  else if a.isNan || b.isNan then false
  else match func with
  | 1 => ltVal a b
  | 2 => ltVal a b || eqVal a b
  | 3 => ltVal b a
  | 4 => ltVal b a || eqVal a b
  | 5 => eqVal a b
  | _ => false

/-- Test a fragment, and write its depth when it passes and DWRITE is set. -/
def Ras.depth (r : Ras) (draw x y z : Nat) : Bool × Ras :=
  if r.b.dbase == 0 then (true, r) else
  let a := r.b.depthAt x y
  match r.read a 4 with
  | (none, r) => (false, r)
  | (some cur, r) =>
    if !depthTest (bitsN draw 132 130) z cur then (false, r)
    else (true, if draw.testBit 133 then r.write a 4 z else r)

/-! ## TILE_RASTERISE (R362, R363) -/

/-- A list entry that is rasterised, with its draw-table entry. -/
structure TileEntry where
  e : Nat
  draw : Nat
  deriving DecidableEq, Repr

/-- Read the entries of a tile's list that are whole, with their draws. -/
def Ras.entries (r : Ras) (tile n : Nat) : List TileEntry × Ras :=
  (List.range n).foldl (fun (acc : List TileEntry × Ras) k =>
    let a := acc.2.b.lists + 16 * acc.2.b.cap * tile + 16 * k
    match acc.2.read a 16 with
    | (none, r) => (acc.1, r)
    | (some e, r) =>
      if bitsN e 63 56 != 0 || e % 64 != 0 then (acc.1, r.bad a) else
      let da := r.b.drawt + 32 * bitsN e 79 64
      match r.read da 32 with
      | (none, r) => (acc.1, r)
      | (some d, r) => if drawBad d then (acc.1, r.bad da) else (acc.1 ++ [{ e := e, draw := d }], r)) ([], r)

/-- The order key: DRAW, MGI, PI; the entries of an unordered draw keep their list order. -/
def TileEntry.key (t : TileEntry) : Nat :=
  bitsN t.e 79 64 * 2 ^ 48 + if t.draw.testBit 134 then 0 else bitsN t.e 127 96 * 2 ^ 16 + bitsN t.e 95 80

/-- Rasterise one entry: the primitive record, and its passing fragments. -/
def Ras.prim (r : Ras) (tile : Nat) (t : TileEntry) : Option (Nat × List Pixel) × Ras :=
  let pa := bitsN t.e 55 0
  match r.read pa 64 with
  | (none, r) => (none, r)
  | (some p, r) =>
    if bitsN p 511 352 != 0 then (none, r.bad pa) else
    let vs := (List.range 9).map fun i => f32Rat (p / 2 ^ (32 * i) % 2 ^ 32)
    if vs.any Option.isNone then (some (p, []), r) else
    let (tx, ty) := (32 * (tile % r.b.gw), 32 * (tile / r.b.gw))
    let cs := cover (vs.map fun v => v.getD 0) tx (min 32 (r.b.width - tx)) ty (min 32 (r.b.height - ty))
    let (px, r) := cs.foldl (fun (acc : List Pixel × Ras) c =>
      let z := ratF32 c.z
      match acc.2.depth t.draw c.x c.y z with
      | (true, r) => ({ x := c.x, y := c.y, b1 := BitVec.ofNat 32 (ratF32 c.b1), b2 := BitVec.ofNat 32 (ratF32 c.b2)
                        z := BitVec.ofNat 32 z } :: acc.1, r)
      | (false, r) => (acc.1, r)) ([], r)
    (some (p, px.reverse), r)

/-- Groups of at most 32. -/
def chunks32 : Nat → List Pixel → List (List Pixel)
  | 0, _ => []
  | fuel + 1, l => if l.isEmpty then [] else l.take 32 :: chunks32 fuel (l.drop 32)

/-- Queue the fragment groups and contributions of an entry. -/
def TileEng.emit (e : TileEng) (sub tile pos : Nat) (t : TileEntry) (p : Nat) (px : List Pixel) : TileEng :=
  let di := bitsN t.e 79 64
  (chunks32 32 px).foldl (fun e c =>
    { e with
      groups := e.groups ++ [{ sub := sub, tile := tile, pos := pos, draw := BitVec.ofNat 256 t.draw, drawIx := di
                               prim := bitsN t.e 55 0, user := BitVec.ofNat 64 (bitsN p 351 288), px := c, first := e.nextContrib }]
      contribs := c.zipIdx.foldl (fun m q => m.set (e.nextContrib + q.2)
        { sub := sub, x := q.1.x, y := q.1.y, blend := bitsN t.draw 129 128
          unord := if t.draw.testBit 134 then some di else none, lane := q.2 }) e.contribs
      nextContrib := e.nextContrib + c.length }) e

/-- The submission that the engine works on: the first that is not done and that no draw-level pre-emption holds (R371). -/
def TileEng.current (e : TileEng) : Option (Nat × Submission) := e.subs.find? fun x => !x.2.done && !e.stopped.contains x.2.ctx

def TileEng.setSub (e : TileEng) (k : Nat) (b : Submission) : TileEng := { e with subs := e.subs.set k b }

/-- TILE_RASTERISE: the next tile of the first unfinished submission. A translation fault leaves the tile for later and parks
the submission. -/
def execTileRasterise (die : Nat) (s : State) : Host.Outcome State Fault Refusal :=
  let e := s.tileEng die
  match e.current with
  | none => .next s
  | some (k, b) =>
    if b.kind == 2 || b.parked.isSome || !b.locked then .next s else
    match b.tiles with
    | [] => .next (s.modTileEng die fun e => e.setSub k { b with done := true })
    | tile :: rest =>
      let r : Ras := { s := s, b := b }
      let (n, r) := match r.read (b.bins + 8 * tile) 8 with
        | (some n, r) => (min n b.cap, r)
        | (none, r) => (0, r)
      let (es, r) := r.entries tile n
      let es := sortBy (fun a b => a.key ≤ b.key) es
      let (out, r) := es.zipIdx.foldl (fun (acc : List (Nat × TileEntry × Nat × List Pixel) × Ras) q =>
        match acc.2.prim tile q.1 with
        | (some (p, px), r) => (acc.1 ++ [(q.2, q.1, p, px)], r)
        | (none, r) => (acc.1, r)) ([], r)
      match r.park with
      | some a => .next (s.modTileEng die fun e => e.setSub k { b with parked := some a })
      | none =>
        .next (r.s.modTileEng die fun e =>
          (out.foldl (fun e q => e.emit k tile q.1 q.2.1 q.2.2.1 q.2.2.2) e).setSub k
            { r.b with tiles := rest, done := rest.isEmpty })

/-! ## FRAGMENT_GROUP_DISPATCH (R365) -/

/-- The team of a fragment group. -/
def FragGroup.team (f : FragGroup) (b : Submission) (l : Launch) (core : Nat) : Team :=
  { core := core, ctx := b.ctx, launch := b.launch, num := BitVec.ofNat 32 l.nextTeam, ngroups := 1
    tx := BitVec.ofNat 32 (f.tile % b.gw), ty := BitVec.ofNat 32 (f.tile / b.gw), ti := BitVec.ofNat 32 f.pos
    param := BitVec.ofNat 56 (bitsN f.draw.toNat 119 64), prio := l.prio, fragTeam := true }

/-- Put the fragments' values into the group's registers. -/
def FragGroup.fill (f : FragGroup) (g : Group) : Group :=
  let g := (g.setS 0 (BitVec.ofNat 64 f.prim)).setS 1 f.user
  f.px.zipIdx.foldl (fun g q =>
    let (p, l) := q
    ((((g.setV 0 l (BitVec.ofNat 32 p.x)).setV 1 l (BitVec.ofNat 32 p.y)).setV 2 l p.b1).setV 3 l p.b2).setV 4 l p.z) g

/-- A waiting fragment group goes to a core of the die that can accept it: of the launch that is preferred there, its first (spec/18
R327). -/
def execFragmentGroupDispatch (die core : Nat) (s : State) : Host.Outcome State Fault Refusal :=
  if dieOf core != die || 12 * s.rows ≤ core then .next s else
  match (s.fragWaits core).find? fun x => !s.outranked x.2.2 core with
  | none => .next s
  | some (f, b, l) =>
    let blk := bitsN f.draw.toNat 138 135 + 1
    let (tid, s) := s.placeTeam (f.team b l core) blk (BitVec.ofNat 56 (bitsN f.draw.toNat 55 0)) 0
      (fun _ => BitVec.ofNat 32 (2 ^ f.px.length - 1)) false
    let s := s.modLaunch b.launch fun l => { l with nextTeam := l.nextTeam + 1 }
    let s := s.modGroup (32 * tid) f.fill
    .next (s.modTileEng die fun e =>
      { e with
        groups := e.groups.erase f
        contribs := e.contribs.mapV fun k c =>
          if f.first ≤ k && k < f.first + f.px.length then { c with group := some (32 * tid) } else c })

/-! ## PIXEL_BLEND (R366) -/

/-- Has the lane of a contribution ended: exited, or its team is no longer there to run it? -/
def State.laneEnded (s : State) (c : Contrib) : Bool :=
  c.exitAt.isSome || match c.group with
  | some g => !s.live g && !((s.groups.get? g).bind fun x => (s.teams.get? x.team).map Team.saved).getD false
  | none => false

/-- Do two contributions meet at one pixel? -/
def TileEng.samePixel (e : TileEng) (a b : Contrib) : Bool :=
  match e.subs.get? a.sub, e.subs.get? b.sub with
  | some x, some y => x.ctx == y.ctx && x.colourAt a.x a.y == y.colourAt b.x b.y
  | _, _ => false

/-- May the contribution be blended: every lower key on its pixel is gone, and among the contributions of its unordered draw
none has exited before it? -/
def State.blendable (s : State) (e : TileEng) (k : Nat) (c : Contrib) : Bool :=
  s.laneEnded c &&
  !(e.subs.any fun x => x.1 < c.sub && x.2.kind == 2 && !x.2.done && some x.2.ctx == (e.subs.get? c.sub).map Submission.ctx) &&
  !(e.contribs.any fun o =>
    let mate := c.unord.isSome && o.2.unord == c.unord && o.2.sub == c.sub
    o.1 != k && e.samePixel o.2 c &&
    (if mate then s.laneEnded o.2 && (match o.2.exitAt, c.exitAt with
        | some a, some b => decide (a < b)
        | some _, none => true
        | none, some _ => false
        | none, none => decide (o.1 < k))
     else decide (o.1 < k)))

/-- Blend one contribution that may be blended, of a submission that no draw-level pre-emption holds: its pending blends are saved with its
context (R371). -/
def execPixelBlend (die : Nat) (s : State) : Host.Outcome State Fault Refusal :=
  let e := s.tileEng die
  match e.contribs.find? fun x => !e.heldSub x.2.sub && s.blendable e x.1 x.2 &&
      (((e.subs.get? x.2.sub).map fun b => b.parked.isNone && b.locked).getD true) with
  | none => .next s
  | some (k, c) =>
    let drop (s : State) : State := s.modTileEng die fun e => { e with contribs := e.contribs.erase k }
    match e.subs.get? c.sub, c.colour with
    | some b, some col =>
      let r : Ras := { s := s, b := b }
      let a := b.colourAt c.x c.y
      let n := pixelBytes b.fmt
      let r := match r.read a n with
        | (some old, r) => r.write a n (pixelOut b.fmt old (blendChan c.blend (col.map fun (w : W32) => Fmt.f32.dec false w.toNat)))
        | (none, r) => r
      match r.park with
      | some a => .next (s.modTileEng die fun e => e.setSub c.sub { b with parked := some a })
      | none => .next (drop (r.s.modTileEng die fun e => e.setSub c.sub r.b))
    | _, _ => .next (drop s)

/-! ## TILE_ENGINE_XLATE_SERVICE (R369) -/

/-- Shento maps the page of the first parked submission; with no mapping the page's accesses are not made. -/
def execTileEngineXlateService (die : Nat) (map : List (Nat × BitVec 64)) (s : State) : Host.Outcome State Fault Refusal :=
  match (s.tileEng die).subs.findSome? fun x => x.2.parked.map fun a => (x.1, x.2, a) with
  | none => .next s
  | some (k, b, a) =>
    let b := { b with parked := none, skips := if map.isEmpty then b.skips ++ [a / 2 ^ 18] else b.skips }
    .next ((s.applyMap map).modTileEng die fun e => e.setSub k b)

/-! ## SUBMISSION_COMPLETE (R368 to R370) -/

/-- Have the pixels and depths of a submission been written? -/
def TileEng.performed (e : TileEng) (k : Nat) (b : Submission) : Bool :=
  b.done && b.parked.isNone && b.locked && !(e.groups.any fun g => g.sub == k) && !(e.contribs.any fun c => c.2.sub == k)

/-- The submission that completes next, of those that no draw-level pre-emption holds: stamps of one group land in issue order (spec/08 R179). -/
def TileEng.completing (e : TileEng) : Option (Nat × Submission) :=
  e.subs.find? fun x => e.performed x.1 x.2 && !e.stopped.contains x.2.ctx && !(e.subs.any fun o => o.1 < x.1 && o.2.group == x.2.group)

/-- A flush zeroes the counts of its bin table and the RESET word. -/
def Ras.zero (r : Ras) : Ras :=
  let r := (List.range (r.b.gw * r.b.gh)).foldl (fun r t => r.write (r.b.bins + 8 * t) 8 0) r
  if r.b.resetWord == 0 then r else r.write r.b.resetWord 8 0

/-- Free the Hasp entries, post the record of a submission that skipped anything, and write the stamp. -/
def State.endSubmission (s : State) (die k : Nat) (b : Submission) : State :=
  let s0 := (s.haspDrop b.core b.entries).modTileEng die fun e => e.setSub k { b with entries := [] }
  let s1 := match b.bad with
    | some a => s0.postAsync b.ctx .launch 11 (2 ^ 63) (a % 2 ^ 56) (some b.launch)
    | none => s0
  match s1.stampAt b.core b.ctx b.addr.toNat b.value (some b.launch) with
  | .error s' => { s0 with free := s'.free }
  | .ok s => s.modTileEng die fun e => { e with subs := e.subs.erase k }

def execSubmissionComplete (die : Nat) (s : State) : Host.Outcome State Fault Refusal :=
  match (s.tileEng die).completing with
  | none => .next s
  | some (k, b) =>
    if b.kind == 1 && !b.zeroed then
      let r := Ras.zero { s := s, b := b }
      match r.park with
      | some a => .next (s.modTileEng die fun e => e.setSub k { b with parked := some a })
      | none => .next (r.s.endSubmission die k { r.b with zeroed := true })
    else .next (s.endSubmission die k b)

/-! ## SPLAT_RENDER (R375) -/

/-- A splat whose fields are finite. -/
structure Splat where
  cx : Rat
  cy : Rat
  a : Rat
  b : Rat
  c : Rat
  rad : Rat
  col : List Nat
  opac : Nat
  key : Nat
  deriving DecidableEq, Repr

def splatOf (d : Nat) : Option Splat := do
  let f (i : Nat) : Option Rat := f32Rat (d / 2 ^ (32 * i) % 2 ^ 32)
  pure { cx := ← f 0, cy := ← f 1, a := ← f 2, b := ← f 3, c := ← f 4, rad := ← f 5
         col := (List.range 3).map fun i => d / 256 ^ (24 + i) % 256, opac := d / 256 ^ 27 % 256, key := d / 2 ^ 224 % 2 ^ 32 }

/-- α of a splat from q ≥ 0, an f32 code; none when it is certainly below 1/255. -/
def splatAlpha (opac : Nat) (q : Rat) : Option Nat :=
  let o : Rat := (opac : Rat) / 255
  let top : Rat := 99 / 100
  if q == 0 then some (ratF32 (min top o))
  else if 20 < q then none
  else
    let x : Int := -((q / 2) * (one448 : Nat)).floor
    let (a, k) := expParts x
    let p : Rat := ((one448 * 2 ^ (-k).toNat : Nat) : Rat)
    let lo : Rat := o * (((a - slack : Nat) : Rat) / p)
    let hi : Rat := o * (((a + slack : Nat) : Rat) / p)
    some (ivF32 (min top lo, min top hi))

/-- What a pixel accumulates: T, the colours, and the KEY of the first splat with α ≥ 0.5. -/
structure SplatAcc where
  t : Nat
  c : List Nat
  key : Option Nat := none
  stop : Bool := false

def f32Q (x : Nat) : Rat := (f32Rat x).getD 0

/-- One splat at a pixel. -/
def SplatAcc.next (acc : SplatAcc) (tmin : Rat) (px py : Nat) (sp : Splat) : SplatAcc :=
  if acc.stop then acc
  else
    let dx := (px : Rat) + 1 / 2 - sp.cx
    let dy := (py : Rat) + 1 / 2 - sp.cy
    if sp.rad < ratAbs dx || sp.rad < ratAbs dy then acc
    else if f32Q acc.t < tmin then { acc with stop := true }
    else
      let q := sp.a * dx * dx + 2 * sp.b * dx * dy + sp.c * dy * dy
      if q < 0 then acc else
      match splatAlpha sp.opac q with
      | none => acc
      | some al =>
        let a := f32Q al
        if a < 1 / 255 then acc else
        let t := f32Q acc.t
        { acc with
          c := (List.zipWith (fun (c k : Nat) => ratF32 (f32Q c + a * t * ((k : Rat) / 255))) acc.c sp.col)
          t := ratF32 (t * (1 - a))
          key := if (1 : Rat) / 2 ≤ a then acc.key.or (some sp.key) else acc.key }

/-- The channels of the composite over the destination. -/
def SplatAcc.chan (acc : SplatAcc) (k : Nat) : Chan :=
  let t := Fmt.f32.dec false acc.t
  if k == 3 then { terms := [(oneLess t, oneVal)], dk := some t }
  else { terms := [(Fmt.f32.dec false (acc.c.getD k 0), oneVal)], dk := some t }

/-- Render one pixel. -/
def Ras.splatPixel (r : Ras) (tmin : Rat) (sps : List Splat) (x y : Nat) : Ras :=
  let acc : SplatAcc := sps.foldl (fun (a : SplatAcc) sp => a.next tmin x y sp) { t := 0x3F800000, c := [0, 0, 0] }
  let a := r.b.colourAt x y
  let n := pixelBytes r.b.fmt
  let r := match r.read a n with
    | (some old, r) => r.write a n (pixelOut r.b.fmt old acc.chan)
    | (none, r) => r
  match acc.key with
  | some key => if r.b.dbase == 0 then r else r.write (r.b.depthAt x y) 4 key
  | none => r

/-- SPLAT_RENDER: the splats of the first unfinished submission, once earlier fragments have been blended. -/
def execSplatRender (die : Nat) (s : State) : Host.Outcome State Fault Refusal :=
  let e := s.tileEng die
  match e.current with
  | none => .next s
  | some (k, b) =>
    let mine (j : Nat) : Bool := j < k && (e.subs.get? j).any fun x => x.ctx == b.ctx
    if b.kind != 2 || b.parked.isSome || !b.locked || e.groups.any (fun g => mine g.sub) || e.contribs.any (fun c => mine c.2.sub) then .next s else
    match s.ctxs.get? b.ctx with
    | none => .next s
    | some cx =>
      let (sps, r) := (List.range (bitsN b.bsd.toNat 95 64)).foldl (fun (acc : List Splat × Ras) i =>
        match acc.2.read (bitsN b.bsd.toNat 55 0 + 32 * i) 32 with
        | (some d, r) => (acc.1 ++ (splatOf d).toList, r)
        | (none, r) => (acc.1, r)) ([], { s := s, b := b })
      let sps := sortBy (fun a b => decide (a.key ≤ b.key)) sps
      let r := (List.range (b.width * b.height)).foldl
        (fun r i => r.splatPixel (f32Q cx.tmin.toNat) sps (i % b.width) (i / b.width)) r
      match r.park with
      | some a => .next (s.modTileEng die fun e => e.setSub k { b with parked := some a })
      | none => .next (r.s.modTileEng die fun e => e.setSub k { r.b with done := true })

/-- SPLAT_TMIN_WRITE: a value that is not finite, or not in (0, 1], stores the reset (R374). -/
def execSplatTminWrite (ctx : Nat) (v : BitVec 32) (s : State) : Host.Outcome State Fault Refusal :=
  let ok := match f32Rat v.toNat with | some x => decide (0 < x) && decide (x ≤ 1) | none => false
  .next (s.modCtx ctx fun c => { c with tmin := if ok then v else 0x3B800000 })

/-! ## DRAW_PREEMPT (R371) -/

/-- The engine stops before its next tile; fragment teams go through compute pre-emption; the queue, the pending blends and
each flush's progress stay with the context until the engine goes on. -/
def execDrawPreempt (die : Nat) (s : State) : Host.Outcome State Fault Refusal :=
  match (s.tileEng die).current with
  | none => .next s
  | some (_, b) => .next (s.modTileEng die fun e => { e with stopped := e.stopped ++ [b.ctx] })

end Sys2Proof.Machine
end

