-- ==== Sys2Proof/Machine/Launch.lean ====
section
/-! DEFINITION. Launch: commands, launches and tasks, the launch path, completion, work graphs, system calls (spec/12 R254 to R259,
spec/18 R320, R321, R328 to R337, spec/23 R388, R389, spec/26 R432). -/

namespace Sys2Proof.Machine

/-! ## Commands (R320, R334) -/

namespace Cmd
def ty (c : BitVec 512) : Nat := bitsN c.toNat 3 0
def arm (c : BitVec 512) : Nat := bitsN c.toNat 63 32
def rrec (c : BitVec 512) : Nat := bitsN c.toNat 119 64
def gate (c : BitVec 512) : Nat := bitsN c.toNat 183 128
def doneAt (c : BitVec 512) : Nat := bitsN c.toNat 247 192
def stampA (c : BitVec 512) : Nat := bitsN c.toNat 311 256
def stampV (c : BitVec 512) : W64 := BitVec.ofNat 64 (bitsN c.toNat 383 320)
def scope (c : BitVec 512) : Nat := bitsN c.toNat 386 384
def seq (c : BitVec 512) : Nat := bitsN c.toNat 511 448
end Cmd

/-- Byte 0 of an object of the aperture, on a die of the module. -/
def State.objByte0 (s : State) (va : Nat) : Bool := inAperture va && va % 64 == 0 && decide (bitsN va 39 38 < s.dies)

/-- The checks decided from a command's bytes, its TYPE aside. -/
def State.cmdBad (s : State) (c : BitVec 512) (task : Bool) : Bool :=
  let f (hi lo : Nat) : Nat := bitsN c.toNat hi lo
  f 31 4 != 0 || f 127 120 != 0 || f 191 184 != 0 || f 255 248 != 0 || f 319 312 != 0 || f 447 387 != 0 ||
  6 ≤ Cmd.scope c || Cmd.stampA c % 8 != 0 || (Cmd.doneAt c != 0 && !s.objByte0 (Cmd.doneAt c)) ||
  (task && (!s.objByte0 (Cmd.gate c) || 2 ^ 31 ≤ Cmd.arm c))

/-- A launch made from a command. -/
def cmdLaunch (ctx : Nat) (c : BitVec 512) (pc : W64) (seq : W32) (st : Nat) (port : Option Nat) : Launch :=
  { ctx := ctx, cmd := c, recVa := Cmd.rrec c, namePc := pc, nameSeq := seq, st := st, port := port }

/-- The name of a command that a group issues, and the issuing launch's new counts (R329). -/
def State.issueName (s : State) (h : Here) : W64 × W32 × State :=
  let pc := codePtr h.f.line h.f.slot
  match s.launches.get? h.t.launch with
  | none => (pc, 1, s)
  | some l =>
    let (n, counts) := bumpName l.pcCount pc
    (pc, n, s.modLaunch h.t.launch fun l => { l with pcCount := counts })

/-- Room in the launch queue (R331). -/
def State.queueRoom (s : State) (ctx : Nat) : Nat := 4096 - ((s.ctxs.get? ctx).map fun c => c.lq.length).getD 0

/-- Add a launch to its context's queue; its record is read by the issuing agent. -/
def State.enqueue (s : State) (agent : Nat) (l : Launch) : State :=
  let (id, s) := s.addLaunch l
  (s.modCtx l.ctx fun c => { c with lq := c.lq ++ [id] }).imageLaunch agent id

/-- The frame of LAUNCH and TASKPUB: R148, the side log, the record, its checks. -/
def recordSlot (w : EngW) (ty : Nat) (f : Here → BitVec 512 → State → SlotResult) (h : Here) (s : State) : SlotResult :=
  if !s.sole h then .trap h.splitTrap
  else if s.sideBusy h then .stall
  else
    let va := (h.srcS w.a).toNat
    match s.readDesc h va with
    | .error r => .trap r
    | .ok (c, s1) =>
      if s.vPoison h.core h.cx va 64 .read then s.eatPoison h .read [(va, 64)]
      else if Cmd.ty c != ty || s.cmdBad c (ty == 2) then syncFail h w.dst va 3 s1
      else if s.queueRoom h.t.ctx == 0 then .stall
      else f h c s1

def execLaunch (w : EngW) (s : State) : Host.Outcome State Fault Refusal :=
  runSlot (.launch w) (recordSlot w 1 fun h c s =>
    let (pc, n, s) := s.issueName h
    .done ((s.enqueue h.core (cmdLaunch h.t.ctx c pc n 1 none)).setFlag h.gid w.dst false)) s

/-- Put a task into its context's store and arm its gate; the launch and the arm's outcome. -/
def State.storeTask (s : State) (l : Launch) : Nat × State × Except Nat State :=
  let (id, s) := s.addLaunch l
  let s := s.modCtx l.ctx fun c =>
    { c with tasks := match c.tasks.freeKey 0 4096 with | some k => c.tasks.set k id | none => c.tasks }
  (id, s, s.arm l.ctx (objKey (Cmd.gate l.cmd)) (Cmd.arm l.cmd) (some id))

/-- Is a context's task store full? -/
def State.storeFull (s : State) (ctx : Nat) : Bool := ((s.ctxs.get? ctx).map fun c => decide (4096 ≤ c.tasks.length)).getD true

def execTaskpub (w : EngW) (s : State) : Host.Outcome State Fault Refusal :=
  runSlot (.taskpub w) (recordSlot w 2 fun h c s =>
    let gate := Cmd.gate c
    if s.storeFull h.t.ctx then .stall
    else if !s.objExists gate then .trap (h.wholeTrap .prot 0 0 gate)
    else if 0 < s.syncBusy.getD 0 (bitsN gate 39 38) then .stall
    else if ((s.objs.get? (objKey gate)).map Obj.poisoned).getD false then .freeze .uncorr (some 9)
    else
      let (pc, n, s1) := s.issueName h
      match s1.storeTask (cmdLaunch h.t.ctx c pc n 0 none) with
      | (_, _, .ok s2) => .done (s2.setFlag h.gid w.dst false)
      | (_, _, .error 1) => kindTrap h gate
      | (_, _, .error d) => syncFail h w.dst gate d s) s

/-! ## The launch path (spec/12 R254, R258, R259) -/

/-- Replace a field of a record. -/
def putBits (x hi lo v : Nat) : Nat := x - bitsN x hi lo * 2 ^ lo + v % 2 ^ (hi + 1 - lo) * 2 ^ lo

/-- The device's copy: the name filled in. -/
def nameRecord (raw : Nat) (l : Launch) : BitVec 1024 :=
  BitVec.ofNat 1024 (putBits (putBits raw 639 576 l.namePc.toNat) 671 640 l.nameSeq.toNat)

/-- Shento's list of a batch: the count and the record addresses (R330), in a page that Shento provides at an address of its
choice (log 19). -/
def State.batchList (s : State) (cx : Ctx) (l : Launch) (nd : GNode) : Nat × State :=
  let (n, s) := s.takeFree
  let a := (Config.freeWord n).toNat % 2 ^ 55 / 512 * 512
  let s := State.mapPage a 4 cx.root 0 s
  let addr (i : Nat) : Nat := bitsN nd.desc.toNat 183 128 + i * 16 * (bitsN nd.desc.toNat 79 72 + 1)
  let s := s.vwrite devAgent cx a 8 l.batch.length
  (a, l.batch.zipIdx.foldl (fun s e => s.vwrite devAgent cx (a + 8 + 8 * e.2) 8 (addr e.1)) s)

/-- A launch fails a check (R258): it completes without dispatching a team, under a record. -/
def State.failLaunch (s : State) (ln d : Nat) : State :=
  match s.launches.get? ln with
  | none => s
  | some l =>
    let s := s.postAsync l.ctx .launch d 0 l.recVa (some ln)
    s.modLaunch ln fun l => { l with st := 5 }

/-- Checks 1 to 6 of R258. -/
def Launch.badRecord (l : Launch) : Option Nat :=
  let rsv := l.fld 159 147 != 0 || l.fld 223 215 != 0 || l.fld 319 312 != 0 || l.fld 383 376 != 0 || l.fld 415 411 != 0 ||
    l.fld 447 421 != 0 || l.fld 511 480 != 0 || l.fld 575 568 != 0 || l.fld 1023 672 != 0
  if rsv then some 1
  else if 5 ≤ l.fld 146 144 then some 2
  else if l.gran == 0 || 2 ^ 32 ≤ l.tiles then some 3
  else if (List.range 4).any (fun p => 64 < l.blk * groupsIn l.ngroups p + l.pool) || 16 < l.accs || l.spad % 128 != 0 ||
      524288 < scratchBytes l.spad l.ngroups l.sspl then some 4
  else if l.entry % 64 != 0 then some 5
  else if 12 < l.clw * l.clh || l.rw % l.clw != 0 || l.rh % l.clh != 0 then some 6
  else none

/-- Does a rectangle at an origin lie on the mesh of the module (check 7)? -/
def State.onMesh (s : State) (l : Launch) (ox oy : Nat) : Bool := ox + l.rw ≤ 12 && oy + l.rh ≤ s.rows

/-- Route entries that a launch's window takes in each core of its rectangle: one for each slot of a cluster of several cores. -/
def Launch.routes (l : Launch) : Nat := if l.clw * l.clh == 1 then 0 else l.clw * l.clh

/-- Route entries of a core that the tables of launches other than `ln` hold. -/
def State.routesUsed (s : State) (ln core : Nat) : Nat :=
  ((s.launches.filter fun e => e.1 != ln && (e.2.st == 3 || e.2.st == 4) && !e.2.drained && e.2.cores.contains core).map
    fun e => e.2.routes).sum

/-- The Hinges that a rectangle spans: those between two dies on which it has cores. -/
def Launch.spans (l : Launch) : List Nat :=
  let on (d : Nat) : Bool := l.cores.any fun c => dieOf c == d
  [(0, 0, 1), (1, 2, 3), (2, 0, 2), (3, 1, 3)].filterMap fun (k, a, b) => if on a && on b then some k else none

/-- The check of the route tables at an origin (R259): every position of the rectangle has a working core with free route entries,
and no Hinge that the rectangle spans is out of service. The tables themselves follow from the origin and the record. -/
def State.routable (s : State) (ln : Nat) (l : Launch) (ox oy : Nat) : Bool :=
  let l : Launch := { l with ox := ox, oy := oy }
  !(l.spans.any s.deadHinges.contains) && l.cores.all fun c =>
    !s.boot.fenced.contains c && (l.routes == 0 || decide (s.routesUsed ln c + l.routes ≤ Config.routeEntries))

/-- The origin: the record's, or the scheduler's choice, the first that the checks pass when its own does not. -/
def State.originOf (s : State) (ln : Nat) (l : Launch) (ox oy : Nat) : Except Nat (Nat × Nat) :=
  let ok (o : Nat × Nat) : Bool := s.onMesh l o.1 o.2 && s.routable ln l o.1 o.2
  if l.record.getLsbD 408 then
    let o := (l.fld 395 392, l.fld 399 396)
    if !s.onMesh l o.1 o.2 then .error 7 else if !s.routable ln l o.1 o.2 then .error 8 else .ok o
  else if !s.onMesh l 0 0 then .error 7
  else if ok (ox, oy) then .ok (ox, oy)
  else match ((List.range (12 * s.rows)).map fun i => (i % 12, i / 12)).find? ok with
  | some o => .ok o
  | none => .error 8

/-- Is the launch held back by its function's energy budget (spec/26 R432)? One whose estimate exceeds what the window has left waits
for the next window. It is then admitted where the function has no other launch with dispatched teams, and, since none waits forever,
after the planner's patience. What a window has left, and that patience, are the planner's (log 13). -/
def State.energyHold (s : State) (ln : Nat) (l : Launch) (fn : Nat) : Bool × State :=
  let e := l.fld 479 448
  let budget := 1000 * (s.fun_ fn).budget
  let others := s.teams.any fun t => t.2.launch != ln && ((s.ctxs.get? t.2.ctx).map Ctx.fn) == some fn
  if e == 0 || budget == 0 || (l.held.isSome && (!others || decide (Config.patience ≤ l.waits))) then (false, s)
  else (decide (budget < e + Config.spent s.free), { s with free := s.free + 1 })

/-- Take the record into the launch: it is accepted, and its entry of the launch queue frees (R331). -/
def State.takeRecord (s : State) (ln : Nat) (l : Launch) (raw : Nat) : State :=
  let s := s.modCtx l.ctx fun c => { c with lq := c.lq.filter (· != ln) }
  match s.ctxs.get? l.ctx with
  | none => s
  | some cx =>
    let nd := l.node.bind cx.nodes.get?
    let (raw, s) := match nd with
      | some nd =>
        let (a, s) := s.batchList cx l nd
        (putBits (putBits (putBits (putBits raw 31 0 l.batch.length) 63 32 1) 95 64 1) 375 320 a, s)
      | none => (raw, s)
    let l := { l with st := 2, record := nameRecord raw l }
    (s.modLaunch ln fun _ => { l with n := l.tiles }).acceptLaunch ln

/-- The record cannot be read: the launch is accepted and fails with DETAIL 9. -/
def State.lostRecord (s : State) (ln : Nat) (l : Launch) : State :=
  ((s.modCtx l.ctx fun c => { c with lq := c.lq.filter (· != ln) }).acceptLaunch ln).failLaunch ln 9

/-- Checks, the first Drover, and the start of an accepted launch. -/
def State.beginLaunch (s : State) (ln : Nat) (l : Launch) (cx : Ctx) (ox oy : Nat) : State :=
  match l.badRecord with
  | some d => s.failLaunch ln d
  | none =>
    match s.originOf ln l ox oy with
    | .error d => s.failLaunch ln d
    | .ok (x, y) =>
      if l.tiles == 0 then s.modLaunch ln fun l => { l with st := 5 } else
      if l.held == some s.window then s else
      match s.energyHold ln l cx.fn with
      | (true, s) => s.modLaunch ln fun l => { l with held := some s.window, waits := l.waits + 1 }
      | (false, s) =>
        let home := 12 * y + x
        match s.drovers.freeKey (32 * dieOf home) 32 with
        | none => s
        | some d =>
          let s := { s with drovers := s.drovers.set d { launch := ln, home := home, next := 0, last := l.tiles } }
          let opv := l.record.getLsbD 420
          let s := s.modLaunch ln fun l => { l with ox := x, oy := y, st := if opv then 3 else 4 }
          if opv then s else s.startSplits ln

/-- LAUNCH_BEGIN: the launch path takes the record of a queued launch, checks it, and takes the first Drover. A record whose page is
not mapped is read again once Shento has mapped it; when Shento cannot, the launch fails (log 20). -/
def execLaunchBegin (ln ox oy : Nat) (s : State) : Host.Outcome State Fault Refusal :=
  match s.launches.get? ln with
  | none => .next s
  | some l =>
    match s.ctxs.get? l.ctx with
    | none => .next s
    | some cx =>
      if cx.st != 1 then .next s
      else if l.st == 1 then
        if cx.lq.contains ln && cx.lq.head? != some ln then .next s else
        let s := s.imageLaunch devAgent ln
        match s.launches.get? ln with
        | none => .next s
        | some l => match l.image with
          | some (some raw) =>
            let s := s.takeRecord ln l raw
            match s.launches.get? ln with
            | some l => .next (s.beginLaunch ln l cx ox oy)
            | none => .next s
          | some none => .next (s.lostRecord ln l)
          | none =>
            let (n, s) := s.takeFree
            if Config.choice n then .next s else .next (s.lostRecord ln l)
      else if l.st == 2 then .next (s.beginLaunch ln l cx ox oy)
      else .next s

/-- OPP_STABLE: the planner grants the launch a point no higher than the one it asks for, the islands of its rectangle are stable
there, and dispatch begins (R328). -/
def execOppStable (ln : Nat) (granted : Fin 16) (s : State) : Host.Outcome State Fault Refusal :=
  match s.launches.get? ln with
  | none => .next s
  | some l =>
    if l.st != 3 then .next s else
    let s := s.modLaunch ln fun l => { l with st := 4, opp := some (min granted.val (l.fld 419 416)) }
    .next ((s.settleOpps l).startSplits ln)

/-! ## Completion (R321) -/

/-- Every Drover is Free through Draining, every tile is done, every submission has completed. -/
def State.launchDone (s : State) (ln : Nat) (l : Launch) : Bool :=
  l.st == 5 || (l.st == 4 && !l.drained && (s.droversOf ln).isEmpty && !(s.tileEngs.any fun e => e.2.subs.any fun b => b.2.launch == ln)
    && !(s.teams.any fun t => t.2.launch == ln && t.2.fragTeam))

/-- A batch's records return to the pool (R330). -/
def State.returnBatch (s : State) (l : Launch) : State :=
  match l.node with
  | none => s
  | some n => s.modCtx l.ctx fun c =>
      { c with nodes := c.nodes.modify n fun d =>
          { d with alloc := d.alloc.filter (!l.batch.contains ·), emitted := d.emitted.filter (!l.batch.contains ·) } }

/-- What is left of a range of bytes outside another. -/
def cutRange (r : Nat × Nat) (x : Nat × Nat) : List (Nat × Nat) :=
  [(x.1, min (x.1 + x.2) r.1 - x.1), (max x.1 (r.1 + r.2), x.1 + x.2 - max x.1 (r.1 + r.2))].filter fun e => e.2 != 0

/-- Do lower-numbered ranges cover one whole, so that no access counts for it (R388)? -/
def coveredRange (lower : List (Nat × Nat × Nat)) (r : Nat × Nat × Nat) : Bool :=
  (lower.foldl (fun left x => left.flatMap (cutRange (x.1, x.2.1))) [(r.1, r.2.1)]).isEmpty

/-- Reports of the ranges that contradict their hints; the counts are the LLC's (log 18), zero for a launch that dispatched no
team and for a range that lower-numbered ones cover. -/
def State.reportReuse (s : State) (l : Launch) : State :=
  l.reuse.zipIdx.foldl (fun s e =>
    let (n, s) := s.takeFree
    let a := if l.nextTeam == 0 || coveredRange (l.reuse.take e.2) e.1 then 0 else Config.eventCount 256 n
    let m := min a (Config.eventCount 257 n)
    let hint := e.1.2.2
    let fits := match hint with
      | 0 => decide (3 * a ≤ 4 * m)
      | 1 => decide (a ≤ 4 * m) && decide (4 * m ≤ 3 * a)
      | _ => decide (4 * m ≤ a)
    if a < 4096 || fits then s else s.postUsage l.ctx l e.2 hint 0 a m) s

/-- LAUNCH_COMPLETE: the stamp, then the signal. The launch's name is kept while teams of it remain. -/
def execLaunchComplete (ln : Nat) (s : State) : Host.Outcome State Fault Refusal :=
  match s.launches.get? ln with
  | none => .next s
  | some l =>
    let drop (s : State) : State :=
      if s.teams.any fun t => t.2.launch == ln then s.modLaunch ln fun l => { l with st := 4, drained := true }
      else { s with launches := s.launches.erase ln }
    if l.drained then .next (drop s)
    else if !s.launchDone ln l then .next s
    else match s.launchStamp l.ctx (Cmd.stampA l.cmd) (Cmd.stampV l.cmd) (some ln) with
    | .error s => .next s
    | .ok s =>
      let s := s.signalDone l.ctx (Cmd.doneAt l.cmd) (Cmd.scope l.cmd) (some ln)
      let s := ((s.portDone l.ctx l.port).returnBatch l).reportReuse l
      .next (drop s)

/-! ## Work graphs (R330, R335, R336) -/

namespace GNode
def recBytes (d : GNode) : Nat := 16 * (bitsN d.desc.toNat 79 72 + 1)
def nrec (d : GNode) : Nat := bitsN d.desc.toNat 211 192 + 1
def size (d : GNode) : Nat := bitsN d.desc.toNat 68 64 + 1
def addr (d : GNode) (i : Nat) : Nat := bitsN d.desc.toNat 183 128 + i * d.recBytes
/-- The record at an address. -/
def index (d : GNode) (a : Nat) : Option Nat :=
  let p := bitsN d.desc.toNat 183 128
  if a < p || (a - p) % d.recBytes != 0 || d.nrec ≤ (a - p) / d.recBytes then none else some ((a - p) / d.recBytes)
end GNode

/-- The command of a batch's launch. -/
def batchCmd (d : GNode) : BitVec 512 := BitVec.ofNat 512 (1 + bitsN d.desc.toNat 55 0 * 2 ^ 64 + 3 * 2 ^ 384)

/-- Launch a node's open batch. -/
def State.launchBatch (s : State) (ctx node : Nat) : State :=
  match (s.ctxs.get? ctx).bind fun c => c.nodes.get? node with
  | none => s
  | some d =>
    if d.batch.isEmpty then s else
    let l := { cmdLaunch ctx (batchCmd d) d.batchPc (d.seq + 1) 1 none with node := some node, batch := d.batch }
    (s.enqueue devAgent l).modCtx ctx fun c => { c with nodes := c.nodes.set node { d with batch := [], seq := d.seq + 1 } }

/-- Add one record to the open batch; a full batch launches. -/
def State.emitRecord (s : State) (h : Here) (node i : Nat) : State :=
  match (s.ctxs.get? h.t.ctx).bind fun c => c.nodes.get? node with
  | none => s
  | some d =>
    let d1 : GNode := if d.batch.isEmpty then { d with batchPc := codePtr h.f.line h.f.slot, batchLaunch := h.t.launch } else d
    let d := { d1 with batch := d.batch ++ [i], emitted := d.emitted ++ [i] }
    let s := s.modCtx h.t.ctx fun c => { c with nodes := c.nodes.set node d }
    if d.batch.length == d.size then s.launchBatch h.t.ctx node else s

/-- RECALLOC. -/
def execRecalloc (w : EngW) (s : State) : Host.Outcome State Fault Refusal :=
  runSlot (.recalloc w) (fun h s =>
    let node := (h.srcS w.a).toNat
    match h.cx.nodes.get? node with
    | none => .trap (h.wholeTrap .syncobj 7 0 0)
    | some d =>
      let ls := lanesOf (h.active w.g w.gn)
      let cn := w.imm.toNat % 8
      let regs : List Reg := (match w.dst with | .v r => [.v r.val, .v (r.val + 1)] | _ => []) ++ [.c cn]
      let free := (List.range d.nrec).filter fun i => !d.alloc.contains i
      if free.length < ls.length then .done (s.addPend h.gid { frag := h.fid, regs := regs, cs := [(cn, true)] })
      else
        let got := free.take ls.length
        let s := s.modCtx h.t.ctx fun c => { c with nodes := c.nodes.set node { d with alloc := d.alloc ++ got } }
        let vs := match w.dst with
          | .v r => (ls.zip got).flatMap fun e => laneVals r.val 8 e.1 (d.addr e.2)
          | _ => []
        .done (s.addPend h.gid { frag := h.fid, regs := regs, vs := vs, cs := [(cn, false)] })) s

/-- RECEMIT: every active lane is checked first; a record that an earlier lane emits is no longer unemitted. -/
def execRecemit (w : EngW) (s : State) : Host.Outcome State Fault Refusal :=
  runSlot (.recemit w) (fun h s =>
    if s.sideBusy h then .stall else
    let node := (h.srcS w.a).toNat
    let ls := lanesOf (h.active w.g w.gn)
    let d := h.cx.nodes.get? node
    let ixs := ls.map fun l => (l, d.bind fun d => d.index (h.src64 w.b 0 l))
    let good (e : Nat × Option Nat) : Bool := match d, e.2 with
      | some d, some i => d.alloc.contains i && !d.emitted.contains i && !(ixs.any fun o => o.1 < e.1 && o.2 == some i)
      | _, _ => false
    let bad := ixs.filter fun e => !good e
    match bad with
    | (l, _) :: _ =>
      .trap { cause := .syncobj, detail := 7, lanes := (maskOf fun l => bad.any fun e => e.1 == l).toNat
              addr := h.src64 w.b 0 l % 2 ^ 56 }
    | [] =>
      let full := match d with | some d => (d.batch.length + ls.length) / d.size | none => 0
      if s.queueRoom h.t.ctx < full then .stall
      else .done (ixs.foldl (fun s e => match e.2 with | some i => s.emitRecord h node i | none => s) s)) s

/-- WORKGRAPH_BATCH_TIMEOUT: a batch launches partial; it waits while the launch queue is full. -/
def execWorkgraphBatchTimeout (ctx node : Nat) (s : State) : Host.Outcome State Fault Refusal :=
  match (s.ctxs.get? ctx).bind fun c => c.nodes.get? node with
  | none => .next s
  | some d => if bitsN d.desc.toNat 127 96 == 0 || s.queueRoom ctx == 0 then .next s else .next (s.launchBatch ctx node)

/-! ## SYSCALL (R337) -/

/-- Park until Shento answers; service 0's descriptor address is checked as a load. -/
def syscallSlot (w : EngW) (desc : Bool) (h : Here) (s : State) : SlotResult :=
  if !s.sole h then .trap h.splitTrap
  else if s.sideBusy h then .stall
  else if !desc then .park (.syscall (h.srcS w.a)) s
  else match s.readDesc h (h.srcS w.a).toNat with
    | .error r => .trap r
    | .ok (_, s1) =>
      if s.vPoison h.core h.cx (h.srcS w.a).toNat 64 .read then s.eatPoison h .read [((h.srcS w.a).toNat, 64)]
      else .park (.syscall (h.srcS w.a)) s1

def execSyscallNodeCreate (w : EngW) (s : State) : Host.Outcome State Fault Refusal :=
  runSlot (.syscallNodeCreate w) (syscallSlot w true) s
def execSyscallNodeFlush (w : EngW) (s : State) : Host.Outcome State Fault Refusal :=
  runSlot (.syscallNodeFlush w) (syscallSlot w false) s
def execSyscallNodeDelete (w : EngW) (s : State) : Host.Outcome State Fault Refusal :=
  runSlot (.syscallNodeDelete w) (syscallSlot w false) s
def execSyscallWake (w : EngW) (s : State) : Host.Outcome State Fault Refusal :=
  runSlot (.syscallWake w) (syscallSlot w false) s
def execSyscallUnassigned (w : EngW) (s : State) : Host.Outcome State Fault Refusal :=
  runSlot (.syscallUnassigned w) (syscallSlot w false) s

/-- A malformed node descriptor: a reserved field, or a pool that is not aligned. -/
def nodeBad (d : Nat) : Bool :=
  bitsN d 63 56 != 0 || bitsN d 71 69 != 0 || bitsN d 95 80 != 0 || bitsN d 191 184 != 0 || bitsN d 511 212 != 0 ||
    bitsN d 183 128 % 4096 != 0

/-- A waiting conductor takes the oldest wake (R317). -/
def Ctx.takeWake (c : Ctx) : Ctx :=
  match c.cond, c.wakes with
  | 2, x :: rest => { c with cond := 1, condA0 := x, wakes := rest }
  | _, _ => c

def allOnes64 : W64 := 0xFFFFFFFFFFFFFFFF

/-- What a service does and answers; none when Shento's answer must wait (a full launch queue). -/
def State.service (s : State) (h : Here) (svc : Nat) (a : W64) : Option (W64 × State) :=
  let cid := h.t.ctx
  match svc with
  | 0 =>
    match s.loadRange h.core h.cx a.toNat 64 with
    | none => some (allOnes64, s)
    | some (d, s) =>
      match nodeBad d, h.cx.nodes.freeKey 0 4096 with
      | false, some n => some (BitVec.ofNat 64 n, s.modCtx cid fun c => { c with nodes := c.nodes.set n { desc := BitVec.ofNat 512 d } })
      | _, _ => some (allOnes64, s)
  | 1 =>
    match h.cx.nodes.get? a.toNat with
    | none => some (allOnes64, s)
    | some _ => if s.queueRoom cid == 0 then none else some (0, s.launchBatch cid a.toNat)
  | 2 =>
    match h.cx.nodes.get? a.toNat with
    | none => let (n, s) := s.takeFree; some (Config.freeWord n, s)
    | some d => if !d.alloc.isEmpty then some (allOnes64, s) else some (0, s.modCtx cid fun c => { c with nodes := c.nodes.erase a.toNat })
  | 3 =>
    if 64 ≤ h.cx.wakes.length then some (allOnes64, s)
    else some (0, s.modCtx cid fun c => ({ c with wakes := c.wakes ++ [a] } : Ctx).takeWake)
  | _ => some (allOnes64, s)

/-- SYSCALL_ANSWER: Shento performs the service, its answer is written to sD, and the fragment goes on. -/
def execSyscallAnswer (fid : Nat) (s : State) : Host.Outcome State Fault Refusal :=
  match s.hereOf fid with
  | none => .next s
  | some h =>
    match h.f.st, (s.parkedAt fid).bind Instr.engRow with
    | .parked (.syscall arg), some (_, w) =>
      if h.t.saved || h.cx.st != 1 then .next s else
      match s.service h (w.imm.toNat % 65536) arg with
      | none => .next s
      | some (x, s) =>
        let s := match w.dst with | .s r => s.modGroup h.gid fun g => g.setS r.val x | _ => s
        .next (s.finishParked fid)
    | _, _ => .next s

end Sys2Proof.Machine
end

