-- ==== Sys2Proof/Machine/Host.lean ====
section
/-! DEFINITION. Host: host queues and packets, conductors and the command port (spec/18 R314 to R320, R324, spec/24 R396). -/

namespace Sys2Proof.Machine

/-! ## Queues (R314 to R316) -/

def queueKey (fn q : Nat) : Nat := 16 * fn + q
def State.modQueue (s : State) (k : Nat) (f : Queue → Queue) : State := { s with queues := s.queues.modify k f }

/-- Shento halts a queue: the status page's words, then MSI-X vector 0 (spec/24 R396). -/
def State.haltQueue (s : State) (k : Nat) : State :=
  let fn := k / 16
  let s := s.modQueue k fun q => { q with halted := true, held := false }
  { s with halts := s.halts.setD 0 fn (s.halts.getD 0 fn + 1) }.raiseMsix fn 0

/-- A 64-bit word of a function's status page (spec/24 R396). -/
def State.statusWord (s : State) (fn off : Nat) : W64 :=
  if off == 0 then s.halts.getD 0 fn
  else if off == 8 then (s.fun_ fn).charged
  else if off == 16 then BitVec.ofNat 64 ((List.range 16).foldl (fun x q =>
    match s.queues.get? (queueKey fn q) with
    | some y => if y.halted then x + 2 ^ q else x
    | none => x) 0)
  else 0

/-- QUEUE_CREATE: a ring of 2^m packets, m from 4 to 16, for a context of the function. -/
def execQueueCreate (fn : Fin 64) (q : Fin 16) (m : Nat) (base : BitVec 56) (host : Bool) (ctx : Nat) (s : State) :
    Host.Outcome State Fault Refusal :=
  let k := queueKey fn.val q.val
  if !s.up || s.queues.has k || m < 4 || 16 < m || ((s.ctxs.get? ctx).map Ctx.fn) != some fn.val then .next s
  else .next { s with queues := s.queues.set k { m := m, base := base.toNat, host := host, ctx := ctx } }

/-- KICK_WRITE: a tail more than 2^m packets beyond the head halts the queue; a halted queue ignores kicks. -/
def execKickWrite (fn : Fin 64) (q : Fin 16) (tail : BitVec 32) (s : State) : Host.Outcome State Fault Refusal :=
  let k := queueKey fn.val q.val
  match s.queues.get? k with
  | none => .next s
  | some x =>
    if x.halted then .next s
    else if 2 ^ x.m < (tail - x.head).toNat then .next (s.haltQueue k)
    else .next (s.modQueue k fun x => { x with tail := tail })

/-- The packet at the head of a queue, as one 64-byte read. -/
def State.packet (s : State) (x : Queue) : BitVec 512 :=
  BitVec.ofNat 512 (s.physRead (if x.host then 2 else 0) (x.base + 64 * (x.head.toNat % 2 ^ x.m)) 64)

namespace Packet
def ty (p : BitVec 512) : Nat := bitsN p.toNat 7 0
def cmp (p : BitVec 512) : Nat := bitsN p.toNat 9 8
def addr (p : BitVec 512) : Nat := bitsN p.toNat 119 64
def value (p : BitVec 512) : W64 := BitVec.ofNat 64 (bitsN p.toNat 191 128)
def arg (p : BitVec 512) : W64 := BitVec.ofNat 64 (bitsN p.toNat 255 192)
/-- An invalid TYPE or CMP, a checked field, a misaligned ADDR. -/
def bad (p : BitVec 512) : Bool :=
  5 < ty p || (ty p == 4 && cmp p == 3) || bitsN p.toNat 15 11 != 0 || bitsN p.toNat 63 27 != 0 || bitsN p.toNat 127 120 != 0 ||
    bitsN p.toNat 447 256 != 0 || ((ty p == 4 || ty p == 5) && addr p % 8 != 0)
end Packet

/-- Is the queue able to fetch: a packet is exposed, and its context runs? -/
def State.fetching (s : State) (x : Queue) : Bool :=
  !x.halted && x.head != x.tail && ((s.ctxs.get? x.ctx).map Ctx.st) == some 1

/-- The whole, valid packet of the given type at the head of a queue. -/
def State.headPacket (s : State) (k ty : Nat) : Option (Queue × BitVec 512) :=
  match s.queues.get? k with
  | none => none
  | some x =>
    let p := s.packet x
    if s.fetching x && bitsN p.toNat 511 448 == x.seq.toNat && !Packet.bad p && Packet.ty p == ty then some (x, p) else none

/-- A packet has taken effect: it is consumed, and its MSI-X vector is raised. -/
def State.consumePacket (s : State) (k : Nat) (p : BitVec 512) : State :=
  let s := s.modQueue k fun x => { x with head := x.head + 1, seq := x.seq + 1, tries := 0, held := false }
  if p.getLsbD 10 then s.raiseMsix (k / 16) (bitsN p.toNat 26 16) else s

/-- PACKET_REFETCH: a packet whose SEQ does not match is fetched again, 64 times at most; then, and for an invalid packet, the
queue halts. -/
def execPacketRefetch (fn : Fin 64) (q : Fin 16) (s : State) : Host.Outcome State Fault Refusal :=
  let k := queueKey fn.val q.val
  match s.queues.get? k with
  | none => .next s
  | some x =>
    let p := s.packet x
    if !s.fetching x then .next s
    else if bitsN p.toNat 511 448 != x.seq.toNat then
      if 64 ≤ x.tries then .next (s.haltQueue k) else .next (s.modQueue k fun x => { x with tries := x.tries + 1 })
    else if Packet.bad p then .next (s.haltQueue k)
    else .next s

/-- QUEUE_RESET: the queue is no longer halted; packets exposed before the halt are not consumed. -/
def execQueueReset (fn : Fin 64) (q : Fin 16) (s : State) : Host.Outcome State Fault Refusal :=
  let k := queueKey fn.val q.val
  match s.queues.get? k with
  | some x => if x.halted then .next (s.modQueue k fun x => { x with halted := false, tail := x.head, tries := 0 }) else .next s
  | none => .next s

def execHostPacketNop (fn : Fin 64) (q : Fin 16) (s : State) : Host.Outcome State Fault Refusal :=
  let k := queueKey fn.val q.val
  match s.headPacket k 0 with
  | some (_, p) => .next (s.consumePacket k p)
  | none => .next s

/-- START: no effect while the conductor is not Stopped. -/
def execHostPacketStart (fn : Fin 64) (q : Fin 16) (s : State) : Host.Outcome State Fault Refusal :=
  let k := queueKey fn.val q.val
  match s.headPacket k 1 with
  | some (x, p) =>
    let s := s.modCtx x.ctx fun c =>
      if c.cond == 0 then { c with cond := 1, condPc := BitVec.ofNat 64 (Packet.addr p), condA0 := Packet.arg p, condSp := Packet.value p }
      else c
    .next (s.consumePacket k p)
  | none => .next s

/-- WAKE: not consumed while 64 wakes are pending. -/
def execHostPacketWake (fn : Fin 64) (q : Fin 16) (s : State) : Host.Outcome State Fault Refusal :=
  let k := queueKey fn.val q.val
  match s.headPacket k 2 with
  | some (x, p) =>
    if 64 ≤ ((s.ctxs.get? x.ctx).map fun c => c.wakes.length).getD 0 then .next s
    else
      let s := s.modCtx x.ctx fun c => ({ c with wakes := c.wakes ++ [Packet.arg p] } : Ctx).takeWake
      .next (s.consumePacket k p)
  | none => .next s

/-- Fill the slots reserved and not written with NOPs that bear the right SEQ (R318). -/
def Ctx.fillNops (c : Ctx) : Ctx :=
  { c with slots := (List.range (c.ticket - c.consumed)).foldl (fun m i =>
      let t := c.consumed + i
      if m.has (t % 256) then m else m.set (t % 256) (BitVec.ofNat 512 ((t + 1) * 2 ^ 448))) c.slots }

/-- End a context's conductor. -/
def State.stopConductor (s : State) (ctx : Nat) : State := s.modCtx ctx fun c => { c with cond := 0 }.fillNops

def execHostPacketStop (fn : Fin 64) (q : Fin 16) (s : State) : Host.Outcome State Fault Refusal :=
  let k := queueKey fn.val q.val
  match s.headPacket k 3 with
  | some (x, p) => .next ((s.stopConductor x.ctx).consumePacket k p)
  | none => .next s

/-- Does the word of a WAIT satisfy its comparison? A word that cannot be read does not. -/
def State.waitMet (s : State) (x : Queue) (p : BitVec 512) : Bool :=
  let va := Packet.addr p
  match s.ctxs.get? x.ctx with
  | none => false
  | some cx =>
    let w : Option W64 :=
      if inAperture va then
        (if s.objExists va && !((s.objs.get? (objKey va)).map Obj.poisoned).getD false
         then some (BitVec.ofNat 64 (s.objWord (objKey va) (va % 64 / 8))) else none)
      else match s.xl devAgent cx va .read with
      | .ok pa mt => if s.poisoned mt pa 8 then none else some (BitVec.ofNat 64 (s.physRead mt pa 8))
      | _ => none
    match w with
    | some w => mwaitCmp (Packet.cmp p) w (Packet.value p)
    | none => false

/-- The read of a WAIT marks its page as accessed (spec/23 R382). -/
def State.waitRead (s : State) (x : Queue) (p : BitVec 512) : State :=
  match s.ctxs.get? x.ctx with
  | none => s
  | some cx => match s.xl devAgent cx (Packet.addr p) .read with
    | .ok _ _ => if inAperture (Packet.addr p) then s else s.touch devAgent cx (Packet.addr p) false
    | _ => s

/-- WAIT: the queue moves on, or is held. -/
def execHostPacketWait (fn : Fin 64) (q : Fin 16) (s : State) : Host.Outcome State Fault Refusal :=
  let k := queueKey fn.val q.val
  match s.headPacket k 4 with
  | some (x, p) =>
    let s := s.waitRead x p
    .next (if s.waitMet x p then s.consumePacket k p else s.modQueue k fun x => { x with held := true })
  | none => .next s

def execQueueWaitSatisfied (fn : Fin 64) (q : Fin 16) (s : State) : Host.Outcome State Fault Refusal :=
  let k := queueKey fn.val q.val
  match s.headPacket k 4 with
  | some (x, p) =>
    let s' := s.waitRead x p
    if x.held && s'.waitMet x p then .next (s'.consumePacket k p) else .next s
  | none => .next s

/-- STAMP: earlier packets of the queue have taken effect, as they are consumed in order. -/
def execHostPacketStamp (fn : Fin 64) (q : Fin 16) (s : State) : Host.Outcome State Fault Refusal :=
  let k := queueKey fn.val q.val
  match s.headPacket k 5 with
  | some (x, p) =>
    match s.stampAt devAgent x.ctx (Packet.addr p) (Packet.value p) none with
    | .error s => .next s
    | .ok s => .next (s.consumePacket k p)
  | none => .next s

/-! ## Conductors (R317) -/

/-- CONDUCTOR_WAIT: a running conductor takes a pending wake, or waits for one. -/
def execConductorWait (ctx : Nat) (s : State) : Host.Outcome State Fault Refusal :=
  .next (s.modCtx ctx fun c => if c.cond == 1 && c.st == 1 then ({ c with cond := 2 } : Ctx).takeWake else c)

/-- Shento delivers an access fault to a running conductor. -/
def State.condFault (s : State) (ctx : Nat) : State := s.modCtx ctx fun c => { c with condFaults := c.condFaults + 1 }

/-- CONDUCTOR_COUNTER_SIGNAL: AMOADD.D of −n to byte 8 of a counter returns the COUNT it read; every other access is refused, and
one that consumes a poisoned object is an access fault too (R324, spec/26 R417). -/
def execConductorCounterSignal (ctx : Nat) (addr : BitVec 64) (n : Nat) (s : State) : Host.Outcome State Fault Refusal :=
  let va := addr.toNat
  match s.ctxs.get? ctx with
  | none => .next s
  | some c =>
    let key := objKey (va - va % 64)
    if c.cond != 1 || c.st != 1 then .next s
    else if 2 ^ 56 ≤ va || !inAperture va || va % 64 != 8 || !s.objExists va || n == 0 || 2 ^ 32 ≤ n ||
        ((s.objs.get? key).map Obj.poisoned).getD false then .next (s.condFault ctx)
    else match (s.modCtx ctx fun c => { c with condRet := BitVec.ofNat 64 (s.objWord key 1) }).signal ctx key n 5 with
    | .ok s => .next s
    | .error _ => .next (s.condFault ctx)

/-! ## The command port (R318 to R320) -/

/-- The conductor writes its command into the slot of a ticket, SEQ last. -/
def Ctx.writeSlot (c : Ctx) (t : Nat) (cmd : Option (BitVec 512)) : Ctx :=
  match cmd with
  | some x => { c with slots := c.slots.set (t % 256) (BitVec.ofNat 512 (putBits x.toNat 511 448 (t + 1))) }
  | none => c

/-- PORT_RESERVE: AMOADD.D of 1 from the PC `pc` reserves a slot while fewer than 256 are unconsumed and returns its ticket, and the
conductor writes its command there; without a command the slot stays reserved and unwritten. With `slot`, it writes the command
of a ticket that it holds. With no slot free, all ones are returned. -/
def execPortReserve (ctx : Nat) (pc : BitVec 64) (put : PortWrite) (s : State) : Host.Outcome State Fault Refusal :=
  match s.ctxs.get? ctx with
  | none => .next s
  | some c =>
    if c.cond != 1 || c.st != 1 then .next s else
    match put.ticket with
    | some t => if c.consumed ≤ t && t < c.ticket then .next (s.modCtx ctx fun c => c.writeSlot t put.cmd) else .next s
    | none =>
      let t := c.ticket
      if 256 ≤ t - c.consumed then .next (s.modCtx ctx fun c => { c with condRet := allOnes64 })
      else
        .next (s.modCtx ctx fun c =>
          { c with ticket := t + 1, slotPc := c.slotPc.set (t % 256) pc, condRet := BitVec.ofNat 64 t }.writeSlot t put.cmd)

/-- PORT_RESERVE_REFUSED: another AMO returns all ones, a load the number of free slots; nothing is reserved. -/
def execPortReserveRefused (access : PortTry) (s : State) : Host.Outcome State Fault Refusal :=
  .next (s.modCtx access.ctx fun c =>
    if c.cond != 1 || c.st != 1 then c else
    match access.acc with
    | .amo => { c with condRet := allOnes64 }
    | .load => { c with condRet := BitVec.ofNat 64 (256 - (c.ticket - c.consumed)) }
    | .store => c)

/-- The command at the head of a port, once its SEQ matches: the ticket, the command, its name. -/
def Ctx.portHead (c : Ctx) : Option (Nat × BitVec 512 × W64 × W32) :=
  let k := c.consumed % 256
  match c.slots.get? k with
  | none => none
  | some x =>
    if c.st != 1 || Cmd.seq x != c.consumed + 1 then none
    else
      let pc := c.slotPc.getD 0 k
      some (c.consumed, x, pc, (bumpName c.pcCount pc).1)

/-- A consumed slot frees at once; the command counts among those reserved from its PC (R329). -/
def State.consumeSlot (s : State) (ctx : Nat) : State :=
  s.modCtx ctx fun c =>
    let k := c.consumed % 256
    { c with
      consumed := c.consumed + 1, slots := c.slots.erase k, slotPc := c.slotPc.erase k
      pcCount := (bumpName c.pcCount (c.slotPc.getD 0 k)).2 }

/-- Is a port command consumed as a NOP for being malformed? -/
def State.portBad (s : State) (c : BitVec 512) : Bool := 4 ≤ Cmd.ty c || s.cmdBad c (Cmd.ty c == 2)

/-- The head command of a port, when it is well formed and of the given type. -/
def State.portCmd (s : State) (ctx ty : Nat) : Option (Ctx × Nat × BitVec 512 × W64 × W32) :=
  match s.ctxs.get? ctx with
  | none => none
  | some c =>
    match c.portHead with
    | some (t, x, pc, n) => if !s.portBad x && Cmd.ty x == ty then some (c, t, x, pc, n) else none
    | none => none

def openPort (t : Nat) (c : Ctx) : Ctx := { c with portOpen := c.portOpen ++ [t] }

/-- PORT_NOP: a NOP is consumed and completes, with its signal; a malformed command is consumed as one that carries none, under a
record. -/
def execPortNop (ctx : Nat) (s : State) : Host.Outcome State Fault Refusal :=
  match (s.ctxs.get? ctx).bind Ctx.portHead with
  | none => .next s
  | some (_, x, pc, n) =>
    if s.portBad x then
      .next ((s.post ctx { cause := .launch, detail := 10, namePc := pc.toNat, nameSeq := n.toNat }).consumeSlot ctx)
    else if Cmd.ty x == 0 then .next ((s.consumeSlot ctx).signalDone ctx (Cmd.doneAt x) (Cmd.scope x) none)
    else .next s

/-- PORT_LAUNCH: consumed by reading its range record. -/
def execPortLaunch (ctx : Nat) (s : State) : Host.Outcome State Fault Refusal :=
  match s.portCmd ctx 1 with
  | none => .next s
  | some (c, t, x, pc, n) =>
    let l := cmdLaunch ctx x pc n 1 (some t)
    let take (s : State) : State :=
      let (id, s) := ((s.consumeSlot ctx).modCtx ctx (openPort t)).addLaunch l
      let s := s.imageLaunch devAgent id
      match s.launches.get? id with
      | none => s
      | some l => match l.image with
        | some (some raw) => s.takeRecord id l raw
        | _ => s.lostRecord id l
    match s.readRecord devAgent c l.recVa with
    | .wait =>
      let (n, s) := s.takeFree
      if Config.choice n then .next s else .next (take s)
    | _ => .next (take s)

/-- PORT_TASK: placed in the task store, where it waits while that is full; an arm that fails drops the task under a record. -/
def execPortTask (ctx : Nat) (s : State) : Host.Outcome State Fault Refusal :=
  match s.portCmd ctx 2 with
  | none => .next s
  | some (_, t, x, pc, n) =>
    if s.storeFull ctx then .next s
    else if !s.objExists (Cmd.gate x) then
      .next ((s.post ctx { cause := .prot, info := 2 ^ 63, addr := Cmd.gate x, namePc := pc.toNat, nameSeq := n.toNat }).consumeSlot ctx)
    else
    let s := (s.consumeSlot ctx).modCtx ctx (openPort t)
    match s.storeTask (cmdLaunch ctx x pc n 0 (some t)) with
    | (_, _, .ok s2) => .next s2
    | (id, s1, .error d) => .next ((s1.postAsync ctx .syncobj d (2 ^ 63) (Cmd.gate x) (some id)).dropTask id)

/-- PORT_STAMP: its write is queued. -/
def execPortStamp (ctx : Nat) (s : State) : Host.Outcome State Fault Refusal :=
  match s.portCmd ctx 3 with
  | none => .next s
  | some (_, t, x, _, _) => .next ((s.consumeSlot ctx).modCtx ctx fun c => { c with stamps := c.stamps ++ [(t, x)] })

/-- The oldest queued STAMP has completed: its signal follows its write (R320, R321). -/
def State.stampDone (s : State) (ctx : Nat) (x : BitVec 512) (rest : List (Nat × BitVec 512)) : State :=
  (s.modCtx ctx fun c => { c with stamps := rest }).signalDone ctx (Cmd.doneAt x) (Cmd.scope x) none

/-- PORT_STAMP_WRITE: the oldest queued stamp, once every earlier command of the port has completed. -/
def execPortStampWrite (ctx : Nat) (s : State) : Host.Outcome State Fault Refusal :=
  match s.ctxs.get? ctx with
  | none => .next s
  | some c =>
    match c.stamps with
    | [] => .next s
    | (t, x) :: rest =>
      if c.st != 1 || c.portOpen.any (· < t) then .next s else
      match s.launchStamp ctx (Cmd.stampA x) (Cmd.stampV x) none with
      | .error s => .next s
      | .ok s => .next (s.stampDone ctx x rest)

end Sys2Proof.Machine
end

