-- ==== Sys2Proof/Machine/Coll.lean ====
section
/-! DEFINITION. Coll: the load-store domain, collectives with the links' reduction, and undeliverable stores (spec/24 R397 to
R401, spec/04 R65). -/

namespace Sys2Proof.Machine

/-! ## The collective descriptor (R399, R400) -/

namespace CollD

def fld (d : BitVec 512) (hi lo : Nat) : Nat := bitsN d.toNat hi lo
def src (d : BitVec 512) : Nat := fld d 55 0
def dst (d : BitVec 512) : Nat := fld d 119 64
def count (d : BitVec 512) : Nat := fld d 159 128
def ty (d : BitVec 512) : Ty := Ty.ofCode (BitVec.ofNat 4 (fld d 163 160))
def rop (d : BitVec 512) : Nat := fld d 165 164
def rm (d : BitVec 512) : Nat := fld d 168 166
def root (d : BitVec 512) : Nat := fld d 181 176
def tag (d : BitVec 512) : Nat := fld d 223 192
def mask (d : BitVec 512) : Nat := fld d 319 256
def stampA (d : BitVec 512) : Nat := fld d 375 320
def stampV (d : BitVec 512) : W64 := BitVec.ofNat 64 (fld d 447 384)

/-- Bytes of an element. -/
def width (d : BitVec 512) : Nat := (ty d).bits / 8
/-- Participants, and the rank of a module. -/
def parts (d : BitVec 512) : Nat := popCount (mask d) 64
def rank (d : BitVec 512) (m : Nat) : Nat := popCount (mask d % 2 ^ m) 64
def members (d : BitVec 512) : List Nat := (List.range 64).filter fun m => (mask d).testBit m

/-- Elements that FN reads and writes (R400). -/
def srcN (fn : Nat) (d : BitVec 512) : Nat := if fn == 2 then count d / parts d else count d
def dstN (fn : Nat) (d : BitVec 512) : Nat := if fn == 1 then count d / parts d else count d

/-- What R399 traps as RI, DETAIL 5, at issue by the module `me`. -/
def bad (fn me : Nat) (d : BitVec 512) : Bool :=
  let okTy : Bool := match ty d with
    | .n32 | .i32 | .bf16 | .f16 | .f32 | .e4m3 | .e5m2 => true
    | _ => false
  let sn := srcN fn d * width d
  let dn := dstN fn d * width d
  fld d 63 56 != 0 || fld d 127 120 != 0 || fld d 175 169 != 0 || fld d 191 182 != 0 || fld d 255 224 != 0 ||
    fld d 383 376 != 0 || fld d 511 451 != 0 ||
    !okTy || rop d == 3 || 4 < rm d || count d == 0 || 2 ^ 31 < count d || 6 ≤ fld d 450 448 ||
    !(mask d).testBit me || (fn == 3 && !(mask d).testBit (root d)) ||
    ((fn == 1 || fn == 2) && count d % parts d != 0) ||
    src d % width d != 0 || dst d % width d != 0 ||
    (src d < dst d + dn && dst d < src d + sn) || meetsAperture (src d) sn || meetsAperture (dst d) dn

/-- The fields that must be identical on every participant (R401). -/
def same (a b : BitVec 512) : Bool :=
  count a == count b && fld a 163 160 == fld b 163 160 && rop a == rop b && rm a == rm b && root a == root b && mask a == mask b

end CollD

/-! ## The links' reduction (R65) -/

/-- The exponent E of a finite non-zero value, with 2^E ≤ |x| < 2^(E+1). -/
def FVal.lead : FVal → Option Int
  | .fin _ m e => if m == 0 then none else some ((bitLen m : Int) - 1 + e)
  | _ => none

/-- The block exponent: the largest of the elements' exponents. -/
def blockExp (xs : List FVal) : Option Int :=
  (xs.filterMap FVal.lead).foldl (fun b e => match b with
    | none => some e
    | some x => some (if x < e then e else x)) none

/-- The 64-bit significand of an element under the block exponent: to nearest, ties to even. -/
def linkSig (e : Int) (x : FVal) : Int :=
  match x with
  | .fin n m ex =>
    let sh := ex + 62 - e
    let d := 2 ^ (-sh).toNat
    let num := m * 2 ^ sh.toNat
    let q : Nat := num / d + (if roundsUp .rne false (num / d) (num % d) d false then 1 else 0)
    if n then -(q : Int) else q
  | _ => 0

/-- One element of a sum over the participants. -/
def linkSum (f : Fmt) (md : Mode) (e : Option Int) (xs : List FVal) : Nat :=
  let p := xs.any fun x => x.isInf && !x.neg
  let n := xs.any fun x => x.isInf && x.neg
  if xs.any FVal.isNan || (p && n) then f.nan
  else if p || n then f.inf n
  else match e with
  | none => f.signBit (xs.all FVal.neg)
  | some e =>
    let s := xs.foldl (fun (a : Int) x => a + linkSig e x) 0
    (f.round md false false (decide (s < 0)) (s.natAbs * 2 ^ (e - 62).toNat) (2 ^ (62 - e).toNat) false).1

/-- Element i of a vector of bytes. -/
def elemAt (bs : List Byte) (n i : Nat) : Nat :=
  ((bs.drop (n * i)).take n).foldr (fun b x => b.toNat + 256 * x) 0

/-- The bytes of a list of elements. -/
def elemBytes (n : Nat) (xs : List Nat) : List Byte :=
  xs.flatMap fun x => (List.range n).map fun j => BitVec.ofNat 8 (x / 256 ^ j)

/-- Minimum or maximum of two elements: floats as FMIN and FMAX (spec/06 R117). -/
def linkMinMax (t : Ty) (isMax : Bool) (a b : Nat) : Nat :=
  if t.isFloat then (fmtOf t).minmax false isMax a b
  else
    let v (x : Nat) : Int := if t.signed then sextI t.bits x else x
    if decide (v a < v b) != isMax then a else b

/-- Reduce the vectors of the participants, in rank order. -/
def reduceVec (d : BitVec 512) (vs : List (List Byte)) : List Nat :=
  let t := CollD.ty d
  let n := CollD.width d
  let col (i : Nat) : List Nat := vs.map fun v => elemAt v n i
  if CollD.rop d != 0 then
    (List.range (CollD.count d)).map fun i =>
      match col i with
      | [] => 0
      | x :: xs => xs.foldl (linkMinMax t (CollD.rop d == 2)) (linkMinMax t (CollD.rop d == 2) x x)
  else if !t.isFloat then
    (List.range (CollD.count d)).map fun i => (col i).sum % 2 ^ t.bits
  else
    let f := fmtOf t
    let vals (i : Nat) : List FVal := (col i).map (f.dec false)
    (List.range ((CollD.count d + 31) / 32)).flatMap fun b =>
      let ix := ((List.range 32).map (32 * b + ·)).filter (· < CollD.count d)
      let e := blockExp (ix.flatMap vals)
      ix.map fun i => linkSum f (Mode.ofNat (CollD.rm d)) e (vals i)

/-- The result for the module `me`, from every participant's source in rank order (R400). -/
def collResult (fn me : Nat) (d : BitVec 512) (vs : List (List Byte)) : List Byte :=
  let n := CollD.width d
  let b := CollD.count d / CollD.parts d
  match fn with
  | 0 => elemBytes n (reduceVec d vs)
  | 1 => elemBytes n (((reduceVec d vs).drop (b * CollD.rank d me)).take b)
  | 2 => vs.flatMap fun v => elemBytes n ((List.range b).map fun i => elemAt v n i)
  | _ => elemBytes n ((List.range (CollD.count d)).map fun i => elemAt (vs.getD (CollD.rank d (CollD.root d)) []) n i)

/-! ## COLL (R399) -/

/-- Members of the domain, this module among them; without a domain there is none. -/
def State.domMember (s : State) (m : Nat) : Bool := s.domOn && s.domMembers.getLsbD m

def collSlot (w : EngW) (fn : Nat) (h : Here) (s : State) : SlotResult :=
  if s.sideBusy h then .stall else
  let va := (h.srcS w.a).toNat
  match s.readDesc h va with
  | .error r => .trap r
  | .ok (d, s1) =>
    if s.vPoison h.core h.cx va 64 .read then s.eatPoison h .read [(va, 64)]
    else if CollD.bad fn s.domId.val d then .trap (h.decodeTrap .ri 5)
    else
      let outside := (CollD.members d).any fun m => !s.domMember m
      let prot := h.wholeTrap .prot 0 32 (va % 2 ^ 56)
      match s.stampTrap h (CollD.stampA d) with
      | some r => .trap (if outside && r.cause != .align then prot else r)
      | none =>
        if outside then .trap prot else
        let id := (s1.core h.core).nextId
        let n := CollD.width d
        match s1.haspAdd h.core [haspRange false 6 (id % 256) h.cx.asid (CollD.src d) (n * CollD.srcN fn d),
            haspRange true 6 (id % 256) h.cx.asid (CollD.dst d) (n * CollD.dstN fn d)] with
        | none => .stall
        | some (ids, s) =>
          .done (s.modCore h.core fun c =>
            { c with
              colls := c.colls.set id
                { group := h.gid, frag := h.fid, report := h.report, ctx := h.t.ctx, fn := fn, desc := d, entries := ids }
              nextId := id + 1 })

def execCollAllReduce (w : EngW) (s : State) : Host.Outcome State Fault Refusal := runSlot (.collAllReduce w) (collSlot w 0) s
def execCollReduceScatter (w : EngW) (s : State) : Host.Outcome State Fault Refusal := runSlot (.collReduceScatter w) (collSlot w 1) s
def execCollAllGather (w : EngW) (s : State) : Host.Outcome State Fault Refusal := runSlot (.collAllGather w) (collSlot w 2) s
def execCollBroadcast (w : EngW) (s : State) : Host.Outcome State Fault Refusal := runSlot (.collBroadcast w) (collSlot w 3) s

/-! ## Start and completion (R401) -/

def State.modColl (s : State) (core id : Nat) (f : Coll → Coll) : State :=
  s.modCore core fun c => { c with colls := c.colls.modify id f }

/-- Drop a collective and free its Hasp entries. -/
def State.dropColl (s : State) (core id : Nat) (b : Coll) : State :=
  (s.haspDrop core b.entries).modCore core fun c => { c with colls := c.colls.erase id }

/-- What keeps the first inaccessible byte of a range from being read or written. -/
def State.rangeFault (s : State) (core : Nat) (cx : Ctx) (va n : Nat) (write : Bool) : Option XErr :=
  (List.range n).findSome? fun i => s.xlErr core cx (va + i) write

/-- Every member's matching COLL, in rank order; `none` for this module's own. -/
def collPeers (d : BitVec 512) (me : Nat) (peers : List PeerIssue) : Option (List (Option PeerIssue)) :=
  (CollD.members d).foldr (fun m acc =>
    match acc with
    | none => none
    | some l =>
      if m == me then some (none :: l)
      else (peers.find? fun p => p.module.val == m && CollD.tag p.desc == CollD.tag d).map fun p => some p :: l) (some [])

/-- COLL_START: every member has issued, so each reads its source; members that disagree make a mismatch. A poisoned source word
is consumed by a reduction, and carried by a gather or a broadcast (spec/26 R417). -/
def execCollStart (core id : Nat) (peers : List PeerIssue) (s : State) : Host.Outcome State Fault Refusal :=
  match (s.core core).colls.get? id with
  | none => .next s
  | some b =>
    if b.started || b.parked.isSome || !b.locked || !s.domOn then .next s else
    match collPeers b.desc s.domId.val peers, s.ctxs.get? b.ctx with
    | some ps, some cx =>
      let d := b.desc
      if ps.any (fun p => match p with | some p => p.fn.val != b.fn || !CollD.same p.desc d | none => false) then
        .next (s.modColl core id fun b => { b with started := true, mismatch := true })
      else
        let mine := b.fn != 3 || CollD.root d == s.domId.val
        let n := if mine then CollD.width d * CollD.srcN b.fn d else 0
        match s.rangeFault core cx (CollD.src d) n false with
        | some e =>
          if e.cause == .xlate then .next (s.modColl core id fun b => { b with parked := some e.addr })
          else .next ((s.dropColl core id b).engineFault b.group b.frag b.report e)
        | none =>
          let s := (List.range n).foldl (fun s i => s.touch core cx (CollD.src d + i) false) s
          let own : List Byte := (List.range n).map fun i => BitVec.ofNat 8 (s.vload core cx (CollD.src d + i) 1)
          let marks := (List.range n).filter fun i => s.vPoison core cx (CollD.src d + i) 1 .read
          if b.fn < 2 && !marks.isEmpty then .next ((s.dropColl core id b).freezeGroup b.group 8
              ((marks.head?.bind fun i => s.poisonAt core cx (CollD.src d + i) 1 .read).getD 0))
          else
            let res := collResult b.fn s.domId.val d (ps.map fun p => match p with | some p => p.src | none => own)
            let at0 := if b.fn == 2 then n * CollD.rank d s.domId.val else 0
            .next (s.modColl core id fun b => { b with started := true, result := res, bad := marks.map (at0 + ·) })
    | _, _ => .next s

/-- Would writing the result consume poison: a word of DST replaced only in part (spec/26 R417)? Its address. -/
def State.collBad (s : State) (core : Nat) (cx : Ctx) (b : Coll) : Option Nat :=
  let va := CollD.dst b.desc
  let n := b.result.length
  ([va / 8, (va + n - 1) / 8].find? fun w => n != 0 && (8 * w < va || va + n < 8 * w + 8) && s.vPoison core cx (8 * w) 8 .write).map (8 * ·)

/-- Write the result, with its poison marks. -/
def State.collWrite (s : State) (core : Nat) (cx : Ctx) (b : Coll) : State :=
  let va := CollD.dst b.desc
  let s := s.vwrite core cx va b.result.length (b.result.foldr (fun x n => x.toNat + 256 * n) 0)
  b.bad.foldl (fun s i => match s.xl core cx (va + i) .write with
    | .ok pa mt => s.markPoison mt pa 1
    | _ => s) s

/-- The collective's last access has performed: its Hasp entries go, before its stamp is written (spec/08 R178). -/
def State.collFree (s : State) (core id : Nat) (b : Coll) : State :=
  (s.haspDrop core b.entries).modColl core id fun b => { b with entries := [], result := [], bad := [] }

/-- COLL_COMPLETE: DST holds the result and the stamp is written; after a mismatch no DST is written, the stamp receives the
complement of its value, and a record is posted with no group parked. Stamps of one group land in issue order. -/
def execCollComplete (core id : Nat) (s : State) : Host.Outcome State Fault Refusal :=
  match (s.core core).colls.get? id with
  | none => .next s
  | some b =>
    if !b.started || b.parked.isSome || !b.locked || (s.core core).colls.any (fun e => e.1 < id && e.2.group == b.group) then .next s else
    match s.ctxs.get? b.ctx with
    | none => .next s
    | some cx =>
      if b.mismatch then
        match (s.collFree core id b).stampAt core b.ctx (CollD.stampA b.desc) (~~~(CollD.stampV b.desc)) none with
        | .error s => .next s
        | .ok s => .next ((s.dropColl core id b).postReport b.group b.frag { b.report with cause := .launch, detail := 13, info := 2 ^ 63 })
      else
        match s.rangeFault core cx (CollD.dst b.desc) b.result.length true with
        | some e =>
          if e.cause == .xlate then .next (s.modColl core id fun b => { b with parked := some e.addr })
          else .next ((s.dropColl core id b).engineFault b.group b.frag b.report e)
        | none =>
          match s.collBad core cx b with
          | some a => .next ((s.dropColl core id b).freezeGroup b.group 8 ((s.poisonAt core cx a 8 .write).getD 0))
          | none =>
          let s := (s.collWrite core cx b).collFree core id b
          match s.stampAt core b.ctx (CollD.stampA b.desc) (CollD.stampV b.desc) none with
          | .error s => .next s
          | .ok s => .next (s.dropColl core id b)

/-! ## Undeliverable stores (R398) -/

/-- REMOTE_STORE_FAIL: the record of a discarded store is posted, and the group parks at its next line boundary. -/
def execRemoteStoreFail (gid : Nat) (s : State) : Host.Outcome State Fault Refusal :=
  match (s.groups.get? gid).bind Group.lost with
  | none => .next s
  | some (fid, r) =>
    let s := s.modGroup gid fun g => { g with lost := none }
    .next ((s.postReport gid fid r).stopGroup gid)

/-! ## The domain (R397) -/

/-- DOMAIN_CONFIGURE: this module's id and the member set, which holds it. -/
def execDomainConfigure (id : Fin 64) (members : BitVec 64) (s : State) : Host.Outcome State Fault Refusal :=
  if !s.up then .next s
  else .next { s with domOn := true, domId := id, domMembers := members ||| BitVec.ofNat 64 (2 ^ id.val) }

/-- DOMAIN_MEMBER_LEAVE: the domain ends; started collectives wait, as for a member that never issues (R399), but for those that
have performed and only await their stamp. -/
def execDomainMemberLeave (m : Fin 64) (s : State) : Host.Outcome State Fault Refusal :=
  if !s.domMember m.val then .next s else
  .next { s with
    domOn := false
    domMembers := 0
    cores := s.cores.mapV fun _ c =>
      { c with colls := c.colls.mapV fun _ b =>
          if b.entries.isEmpty then b else { b with started := false, mismatch := false, result := [], bad := [] } } }

end Sys2Proof.Machine
end

