-- ==== Sys2Proof/Machine/Integer.lean ====
section
/-! DEFINITION. Integer: NOP, UDF, and the integer, logic, shift, bit-field, compare, select, address and move instructions
(spec/05 R86 to R98). -/

namespace Sys2Proof.Machine

def execNop (s : State) : Host.Outcome State Fault Refusal := runSlot .nop (fun _ s => .done s) s

def execUdf (s : State) : Host.Outcome State Fault Refusal :=
  runSlot .udf (fun h _ => .trap (h.decodeTrap .ri 0)) s

/-! ## Arithmetic (R87, R88) -/

/-- The exact result brought into `w` bits: saturated, or wrapped and read back with the type's signedness. -/
def narrowI (signed sat : Bool) (w : Nat) (x : Int) : Int :=
  let lo : Int := if signed then -(2 ^ (w - 1)) else 0
  let hi : Int := if signed then 2 ^ (w - 1) - 1 else 2 ^ w - 1
  if sat then (if x < lo then lo else if hi < x then hi else x)
  else if signed then sextI w (wrapN w x) else (wrapN w x : Int)

/-- Half `i` of a packed operand. -/
def halfI (signed : Bool) (x i : Nat) : Int :=
  let y := x / 2 ^ (16 * i) % 2 ^ 16
  if signed then sextI 16 y else (y : Int)

/-- Two halves put together. DESIGN CHOICE: bits [63:32] of a scalar register that takes a packed result are zero; R80 sends packed
types to R64, which names no fill (log 41). -/
def packI (lo hi : Int) : Int := (wrapN 16 lo + wrapN 16 hi * 2 ^ 16 : Nat)

/-- The common form of R87. -/
def Here.arith (h : Here) (w : AluW) (f : Int → Int → Int → Int) (l : Nat) : Int :=
  let sg := w.ty.signed
  if w.ty.packed then
    let a := h.src32 w.a w.imm.toNat l
    let b := h.src32 w.b w.imm.toNat l
    let c := h.src32 w.c w.imm.toNat l
    let one (i : Nat) : Int := narrowI sg w.sat 16 (f (halfI sg a i) (halfI sg b i) (halfI sg c i))
    packI (one 0) (one 1)
  else narrowI sg w.sat w.ty.bits (f (h.srcI w w.a l) (h.srcI w w.b l) (h.srcI w w.c l))

/-- The instruction over a function of a, b and c. -/
def arithSlot (w : AluW) (f : Int → Int → Int → Int) (h : Here) (s : State) : SlotResult := .done (s.putI h w (h.arith w f))

def execIadd (w : AluW) (s : State) : Host.Outcome State Fault Refusal := runSlot (.iadd w) (arithSlot w fun a b _ => a + b) s
def execIsub (w : AluW) (s : State) : Host.Outcome State Fault Refusal := runSlot (.isub w) (arithSlot w fun a b _ => a - b) s
def execImul (w : AluW) (s : State) : Host.Outcome State Fault Refusal :=
  runSlot (.imul w) (arithSlot w fun a b _ => if w.xm.getLsbD 0 then a * b / 2 ^ w.ty.bits else a * b) s
def execImad (w : AluW) (s : State) : Host.Outcome State Fault Refusal := runSlot (.imad w) (arithSlot w fun a b c => a * b + c) s
def execImin (w : AluW) (s : State) : Host.Outcome State Fault Refusal :=
  runSlot (.imin w) (arithSlot w fun a b _ => if a < b then a else b) s
def execImax (w : AluW) (s : State) : Host.Outcome State Fault Refusal :=
  runSlot (.imax w) (arithSlot w fun a b _ => if a < b then b else a) s
def execIabs (w : AluW) (s : State) : Host.Outcome State Fault Refusal :=
  runSlot (.iabs w) (arithSlot w fun _ b _ => if b < 0 then -b else b) s
def execIneg (w : AluW) (s : State) : Host.Outcome State Fault Refusal := runSlot (.ineg w) (arithSlot w fun _ b _ => -b) s

/-- Quotient truncated toward zero, with the cases of R88. -/
def quotI (signed : Bool) (w : Nat) (a b : Int) : Int :=
  if b == 0 then (if signed then (if a < 0 then 1 else -1) else 2 ^ w - 1)
  else narrowI signed false w (a.tdiv b)

/-- The remainder takes the dividend's sign. -/
def remI (a b : Int) : Int := if b == 0 then a else a.tmod b

def execIdiv (w : AluW) (s : State) : Host.Outcome State Fault Refusal :=
  runSlot (.idiv w) (arithSlot w fun a b _ => quotI w.ty.signed w.ty.bits a b) s
def execIrem (w : AluW) (s : State) : Host.Outcome State Fault Refusal := runSlot (.irem w) (arithSlot w fun a b _ => remI a b) s

/-! ## Logic, shifts and bit fields (R89 to R92) -/

/-- A bit-by-bit operation on the w-bit codes. -/
def logicSlot (w : AluW) (f : Nat → Nat → Nat) : Here → State → SlotResult :=
  arithSlot w fun a b _ => (f (wrapN w.ty.bits a) (wrapN w.ty.bits b) : Nat)

def execAndI (w : AluW) (s : State) : Host.Outcome State Fault Refusal := runSlot (.andI w) (logicSlot w fun a b => a &&& b) s
def execOrI (w : AluW) (s : State) : Host.Outcome State Fault Refusal := runSlot (.orI w) (logicSlot w fun a b => a ||| b) s
def execXorI (w : AluW) (s : State) : Host.Outcome State Fault Refusal := runSlot (.xorI w) (logicSlot w fun a b => a ^^^ b) s
def execAndn (w : AluW) (s : State) : Host.Outcome State Fault Refusal :=
  runSlot (.andn w) (logicSlot w fun a b => a &&& (2 ^ w.ty.bits - 1 - b)) s

/-- A shift amount (R90): 32 bits of a vector source, the whole of a scalar one or of the immediate, unsigned. -/
def Here.amount (h : Here) (w : AluW) (l : Nat) : Nat :=
  match w.b with
  | .v _ => h.src32 w.b 0 l
  | o => h.src64 o w.imm.toNat l

/-- A shift of the source by an amount, `f width value amount`, packed halves apart. -/
def shiftSlot (w : AluW) (f : Nat → Int → Nat → Int) (h : Here) (s : State) : SlotResult :=
  let sg := w.ty.signed
  .done <| s.putI h w fun l =>
    if w.ty.packed then
      let a := h.src32 w.a w.imm.toNat l
      let b := h.src32 w.b w.imm.toNat l
      let one (i : Nat) : Int := narrowI sg false 16 (f 16 (halfI sg a i) (b / 2 ^ (16 * i) % 2 ^ 16))
      packI (one 0) (one 1)
    else narrowI sg false w.ty.bits (f w.ty.bits (h.srcI w w.a l) (h.amount w l))

def shlI (w : Nat) (a : Int) (n : Nat) : Int := if w ≤ n then 0 else a * 2 ^ n
/-- Arithmetic for a negative value, logical otherwise: `a` is already extended by its signedness. -/
def shrI (w : Nat) (a : Int) (n : Nat) : Int := if w ≤ n then (if a < 0 then -1 else 0) else a / 2 ^ n
def rotI (w : Nat) (a : Int) (n : Nat) : Int :=
  let x := wrapN w a
  let k := n % w
  (x * 2 ^ k % 2 ^ w + x / 2 ^ (w - k) : Nat)

def execShl (w : AluW) (s : State) : Host.Outcome State Fault Refusal := runSlot (.shl w) (shiftSlot w shlI) s
def execShr (w : AluW) (s : State) : Host.Outcome State Fault Refusal := runSlot (.shr w) (shiftSlot w shrI) s
def execRot (w : AluW) (s : State) : Host.Outcome State Fault Refusal := runSlot (.rot w) (shiftSlot w rotI) s

/-- Extract (R91): offset ctl[7:0], width ctl[15:8]. -/
def bfxI (signed : Bool) (a : Int) (ctl : Nat) : Int :=
  let o := ctl % 256
  let n := ctl / 256 % 256
  let f := wrapN n (a / 2 ^ o)
  if signed && n != 0 then sextI n f else (f : Int)

/-- Insert the low bits of `a` into `b` (R91). -/
def bfiN (w a b ctl : Nat) : Nat :=
  let o := ctl % 256
  let n := ctl / 256 % 256
  let m := (2 ^ n - 1) * 2 ^ o % 2 ^ w
  (b &&& (2 ^ w - 1 - m)) ||| (a * 2 ^ o % 2 ^ w &&& m)

def execBfx (w : AluW) (s : State) : Host.Outcome State Fault Refusal :=
  runSlot (.bfx w) (fun h s => .done <| s.putI h w fun l =>
    narrowI w.ty.signed false w.ty.bits (bfxI w.ty.signed (h.srcI w w.a l) (h.src32 w.b w.imm.toNat l))) s

def execBfi (w : AluW) (s : State) : Host.Outcome State Fault Refusal :=
  runSlot (.bfi w) (fun h s => .done <| s.putI h w fun l =>
    narrowI w.ty.signed false w.ty.bits
      (bfiN w.ty.bits (wrapN w.ty.bits (h.srcI w w.a l)) (wrapN w.ty.bits (h.srcI w w.b l)) (h.src32 w.c w.imm.toNat l) : Nat)) s

/-- A function of the w-bit code of b, written as an unsigned value (R92). -/
def unarySlot (w : AluW) (f : Nat → Nat → Nat) (h : Here) (s : State) : SlotResult :=
  .done (s.putI h w fun l => (f w.ty.bits (wrapN w.ty.bits (h.srcI w w.b l)) : Nat))

def clzN (w x : Nat) : Nat := ((List.range w).find? fun i => x.testBit (w - 1 - i)).getD w
def brevN (w x : Nat) : Nat := (List.range w).foldl (fun r i => if x.testBit i then r + 2 ^ (w - 1 - i) else r) 0

def execPopc (w : AluW) (s : State) : Host.Outcome State Fault Refusal := runSlot (.popc w) (unarySlot w fun n x => popCount x n) s
def execClz (w : AluW) (s : State) : Host.Outcome State Fault Refusal := runSlot (.clz w) (unarySlot w clzN) s
/-- BREV: signed and unsigned codes have the same effect (R92), so that a scalar destination is zero-filled (log 41). -/
def execBrev (w : AluW) (s : State) : Host.Outcome State Fault Refusal := runSlot (.brev w) (unarySlot w brevN) s

/-! ## PERM, compare, select, address, move (R93 to R97) -/

/-- Byte permute (R93). -/
def permN (a b sel : Nat) : Nat :=
  let pool := a + b * 2 ^ 32
  (List.range 4).foldl (fun r i =>
    let n := sel / 2 ^ (4 * i) % 16
    let p := pool / 2 ^ (8 * (n % 8)) % 256
    r + (if n < 8 then p else if p.testBit 7 then 255 else 0) * 2 ^ (8 * i)) 0

/-- PERM: n32 and i32 have the same effect (R93), so that a scalar destination is zero-filled (log 41). -/
def execPerm (w : AluW) (s : State) : Host.Outcome State Fault Refusal :=
  runSlot (.perm w) (fun h s => .done <| s.putI h w fun l =>
    (permN (h.src32 w.a w.imm.toNat l) (h.src32 w.b w.imm.toNat l) (h.src32 w.c w.imm.toNat l) : Nat)) s

/-- The relations of R94. -/
def relI (fn : Nat) (a b : Int) : Bool :=
  match fn with
  | 0 => a == b | 1 => a != b | 2 => decide (a < b) | 3 => decide (a ≤ b) | 4 => decide (b < a) | _ => decide (b ≤ a)

def execIcmp (w : AluW) (s : State) : Host.Outcome State Fault Refusal :=
  runSlot (.icmp w) (fun h s => .done <| s.putCmp h w fun l => (relI w.fn.val (h.srcI w w.a l) (h.srcI w w.b l), 0)) s

/-- The bits a SEL, MOV, SHFL, RDLANE or WRLANE moves (R95): 64 for i64 and n64, else the low 32, filled by signedness from
bit 31. -/
def Here.moved (h : Here) (w : AluW) (o : Opnd) (l : Nat) : Int :=
  if w.ty.is64 then h.srcI w o l
  else
    let x := h.src32 o w.imm.toNat l
    if w.ty.signed then sextI 32 x else (x : Int)

def execSel (w : AluW) (s : State) : Host.Outcome State Fault Refusal :=
  runSlot (.sel w) (fun h s => .done <| s.putI h w fun l =>
    let c := if w.dst.isS then h.srcC w.c else (h.srcK w.c 0).getLsbD l
    if c then h.moved w w.a l else h.moved w w.b l) s

/-- The address LEA forms (R96). -/
def Here.leaAddr (h : Here) (w : AluW) (l : Nat) : Int :=
  let a : Nat := if w.ty.is64 then h.src64 w.a 0 l else h.src32 w.a 0 l
  if w.fmtI then (a : Int) + sextI 32 w.imm.toNat
  else
    let b := h.src32 w.b 0 l
    (a : Int) + (if w.xm.getLsbD 3 then sextI 32 b else (b : Int)) * 2 ^ (w.xm.toNat % 8)

def execLea (w : AluW) (s : State) : Host.Outcome State Fault Refusal :=
  runSlot (.lea w) (fun h s => .done <| s.putI h w fun l => (wrapN w.ty.bits (h.leaAddr w l) : Nat)) s

def execMov (w : AluW) (s : State) : Host.Outcome State Fault Refusal :=
  runSlot (.mov w) (fun h s => .done <|
    match w.dst with
    | .k _ => s.writeK h w.dst w.ws (h.active w.g w.gn) (h.srcK w.b w.imm.toNat)
    | .c _ => s.writeC h w.dst w.ws (h.moved w w.b 0 != 0)
    | .s _ =>
      let small := w.b.isK || w.b.isC || (match w.b with
        | .b n => (match h.f.latches.get? n.val with | some (.mask _) | some (.flag _) => true | _ => false)
        | _ => false)
      if small then s.writeS h w.dst w.ws (BitVec.ofNat 64 (h.src32 w.b 0 0)) else s.putI h w fun l => h.moved w w.b l
    | _ => s.putI h w fun l => h.moved w w.b l) s

/-! ## Dot product and sum of differences (R98) -/

/-- Byte `i` of a word, read with a signedness. -/
def byteI (signed : Bool) (x i : Nat) : Int :=
  let y := x / 2 ^ (8 * i) % 256
  if signed then sextI 8 y else (y : Int)

def execDp4i (w : AluW) (s : State) : Host.Outcome State Fault Refusal :=
  runSlot (.dp4i w) (fun h s => .done <| s.putI h w fun l =>
    let sa := w.ty.signed != w.xm.getLsbD 0
    let sb := w.ty.signed != w.xm.getLsbD 1
    let a := h.src32 w.a w.imm.toNat l
    let b := h.src32 w.b w.imm.toNat l
    narrowI w.ty.signed w.sat 32
      ((List.range 4).foldl (fun x i => x + byteI sa a i * byteI sb b i) (h.srcI w w.c l))) s

/-- Sum of absolute differences of elements of `eb` bits. -/
def sadN (eb a b : Nat) : Nat :=
  (List.range (32 / eb)).foldl (fun x i =>
    let p := a / 2 ^ (eb * i) % 2 ^ eb
    let q := b / 2 ^ (eb * i) % 2 ^ eb
    x + (p - q) + (q - p)) 0

def execSad (w : AluW) (s : State) : Host.Outcome State Fault Refusal :=
  runSlot (.sad w) (fun h s => .done <| s.putI h w fun l =>
    (sadN (if w.ty == .n8 then 8 else if w.ty == .v2n16 then 16 else 32) (h.src32 w.a w.imm.toNat l)
      (h.src32 w.b w.imm.toNat l) : Nat)) s

end Sys2Proof.Machine
end

