-- ==== Sys2Proof/Machine/Lane.lean ====
section
/-! DEFINITION. Lane: mask instructions, lane instructions, and the special registers (spec/05 R99 to R108). -/

namespace Sys2Proof.Machine

/-! ## Masks (R102 to R104) -/

def kopF (fn : Nat) (a b : W32) : W32 :=
  match fn with
  | 0 => a &&& b | 1 => a ||| b | 2 => a ^^^ b | 3 => a &&& ~~~b | 4 => ~~~b | _ => b

def execKop (w : AluW) (s : State) : Host.Outcome State Fault Refusal :=
  runSlot (.kop w) (fun h s => .done <|
    s.writeK h w.dst w.ws (h.active w.g w.gn) (kopF w.fn.val (h.srcK w.a 0) (h.srcK w.b w.imm.toNat))) s

def execKpop (w : AluW) (s : State) : Host.Outcome State Fault Refusal :=
  runSlot (.kpop w) (fun h s => .done <|
    s.writeS h w.dst w.ws (BitVec.ofNat 64 (popCount (h.srcK w.b w.imm.toNat &&& h.f.mask).toNat 32))) s

def execKffs (w : AluW) (s : State) : Host.Outcome State Fault Refusal :=
  runSlot (.kffs w) (fun h s => .done <|
    s.writeS h w.dst w.ws (match lowLane (h.srcK w.b w.imm.toNat &&& h.f.mask) with
      | some l => BitVec.ofNat 64 l
      | none => 0xFFFFFFFFFFFFFFFF)) s

def voteF (fn : Nat) (m active : W32) : Bool :=
  match fn with
  | 0 => m == active | 1 => m != 0 | _ => m == 0 || m == active

def execVote (w : AluW) (s : State) : Host.Outcome State Fault Refusal :=
  runSlot (.vote w) (fun h s => .done <|
    s.writeC h w.dst w.ws (voteF w.fn.val (h.srcK w.b w.imm.toNat &&& h.f.mask) h.f.mask)) s

/-! ## Lanes (R105, R106, R108) -/

def execShfl (w : AluW) (s : State) : Host.Outcome State Fault Refusal :=
  runSlot (.shfl w) (fun h s => .done <| s.putI h w fun l =>
    h.moved w w.a (h.shflFrom w l)) s

def execRdlane (w : AluW) (s : State) : Host.Outcome State Fault Refusal :=
  runSlot (.rdlane w) (fun h s =>
    let lane := h.src64 w.b 0 0 % 32
    let n := w.xm.toNat % 256
    let lo := (h.vreg n lane).toNat
    .done <| s.writeS h w.dst w.ws (BitVec.ofNat 64 (if w.ty.is64 then lo + (h.vreg (n + 1) lane).toNat * 2 ^ 32 else lo))) s

def execWrlane (w : AluW) (s : State) : Host.Outcome State Fault Refusal :=
  runSlot (.wrlane w) (fun h s =>
    let lane := h.src64 w.b w.imm.toNat 0 % 32
    let act := h.active w.g w.gn &&& BitVec.ofNat 32 (2 ^ lane)
    .done <| s.writeVec h w.dst w.ws w.ty.is64 act fun _ => h.src64 w.a 0 0) s

def execMatchI (w : AluW) (s : State) : Host.Outcome State Fault Refusal :=
  runSlot (.matchI w) (fun h s =>
    let act := h.active w.g w.gn
    let a (l : Nat) : Nat := if w.ty.is64 then h.src64 w.a 0 l else h.src32 w.a 0 l
    .done <| s.writeVec h w.dst w.ws false act fun l => (maskOf fun m => act.getLsbD m && a m == a l).toNat) s

/-! ## Reductions over the lane tree (R77, R107) -/

/-- A node of the tree: absent, or its value and the flags of its combinations. -/
abbrev TreeNode := Option (Int × Nat)

/-- Combine two nodes: an absent child passes the other unchanged. -/
def combineNode (f : Int → Int → Int × Nat) (a b : TreeNode) : TreeNode :=
  match a, b with
  | none, b => b
  | a, none => a
  | some (x, fx), some (y, fy) => some ((f x y).1, fx ||| fy ||| (f x y).2)

/-- The node of a level that covers lanes [i × 2^k, (i + 1) × 2^k). -/
def treeNode (f : Int → Int → Int × Nat) (leaf : Nat → TreeNode) : Nat → Nat → TreeNode
  | 0, i => leaf i
  | k + 1, i => combineNode f (treeNode f leaf k (2 * i)) (treeNode f leaf k (2 * i + 1))

/-- The prefix over lanes 0 to n − 1: the maximal complete subtrees from left to right. -/
def treePrefix (f : Int → Int → Int × Nat) (leaf : Nat → TreeNode) (n : Nat) : TreeNode :=
  ([5, 4, 3, 2, 1, 0].foldl (fun (acc : TreeNode × Nat) k =>
    if n.testBit k then (combineNode f acc.1 (treeNode f leaf k (acc.2 / 2 ^ k)), acc.2 + 2 ^ k) else acc) (none, 0)).1

/-- The combination of FN. -/
def Here.redOp (h : Here) (w : AluW) (x y : Int) : Int × Nat :=
  if w.ty == .f32 then
    let ftz := fsrFtz h.g.fsr
    let a := x.toNat
    let b := y.toNat
    match w.fn.val with
    | 0 =>
      let r := Fmt.f32.dot (h.mode w.rm 0) false ftz [] [Fmt.f32.dec ftz a, Fmt.f32.dec ftz b]
      ((r.1 : Int), r.2)
    | n => ((Fmt.f32.minmax ftz (n == 2) a b : Nat), 0)
  else
    let nb := w.ty.bits
    let bit (f : Nat → Nat → Nat) : Int := narrowI w.ty.signed false nb (f (wrapN nb x) (wrapN nb y) : Nat)
    (match w.fn.val with
     | 0 => narrowI w.ty.signed false nb (x + y)
     | 1 => if x < y then x else y
     | 2 => if x < y then y else x
     | 3 => bit fun a b => a &&& b
     | 4 => bit fun a b => a ||| b
     | _ => bit fun a b => a ^^^ b, 0)

/-- A leaf: an active lane's value; FTZ reads a subnormal as zero of its sign, and a NaN is the canonical one, which is every
NaN result's (spec/04 R60). -/
def Here.redLeaf (h : Here) (w : AluW) (act : W32) (l : Nat) : TreeNode :=
  if !act.getLsbD l then none
  else if w.ty == .f32 then
    let x := h.src32 w.a 0 l
    let sub := fsrFtz h.g.fsr && x / 2 ^ 23 % 256 == 0
    some ((if sub then x / 2 ^ 31 * 2 ^ 31 else if (Fmt.f32.dec false x).isNan then Fmt.f32.nan else x : Nat), 0)
  else some (h.srcI w w.a l, 0)

/-- The identity of an exclusive scan with no lane below. -/
def redIdentity (t : Ty) (fn : Nat) : Int :=
  if t == .f32 then (match fn with | 1 => 0x7F800000 | 2 => 0xFF800000 | _ => 0)
  else
    let lo : Int := if t.signed then -(2 ^ (t.bits - 1)) else 0
    let hi : Int := if t.signed then 2 ^ (t.bits - 1) - 1 else 2 ^ t.bits - 1
    match fn with
    | 1 => hi
    | 2 => lo
    | 3 => if t.signed then -1 else hi
    | _ => 0

def execGred (w : AluW) (s : State) : Host.Outcome State Fault Refusal :=
  runSlot (.gred w) (fun h s =>
    let act := h.active w.g w.gn
    match treeNode (h.redOp w) (h.redLeaf w act) 5 0 with
    | none => .done (s.writeVec h w.dst w.ws w.ty.is64 0 fun _ => 0)
    | some (x, fl) => .done ((s.writeVec h w.dst w.ws w.ty.is64 act fun _ => wrapN 64 x).raise h.gid fl)) s

def execGscan (w : AluW) (s : State) : Host.Outcome State Fault Refusal :=
  runSlot (.gscan w) (fun h s =>
    let act := h.active w.g w.gn
    let at_ (l : Nat) : Int × Nat :=
      (treePrefix (h.redOp w) (h.redLeaf w act) (if w.xm.getLsbD 0 then l else l + 1)).getD (redIdentity w.ty w.fn.val, 0)
    .done ((s.writeVec h w.dst w.ws w.ty.is64 act fun l => wrapN 64 (at_ l).1).raise h.gid
      (foldLanes act 0 fun a l => a ||| (at_ l).2))) s

/-! ## Special registers (R99 to R101) -/

/-- CAPS (R101). -/
def State.caps (s : State) : Nat :=
  if s.g9 then 0x10 + 4 * 2 ^ 8 + 16 * 2 ^ 11 + 0xF * 2 ^ 16 + (192 - s.boot.fenced.length) * 2 ^ 20
  else 0x10 + 2 * 2 ^ 8 + 8 * 2 ^ 11 + (96 - s.boot.fenced.length) * 2 ^ 20

/-- Let cycles pass on a core (timing is open; log 12). -/
def State.tick (s : State) (core : Nat) : State :=
  let (n, s) := s.takeFree
  s.modCore core fun c => { c with clock := c.clock + Config.elapsed n }

/-- The value of a special register in lane `l` (R100). -/
def State.special (s : State) (h : Here) (n l : Nat) : Nat :=
  match n with
  | 0x00 => l
  | 0x01 => h.g.idx
  | 0x02 => h.g.idx / 4
  | 0x03 => h.t.ngroups
  | 0x04 => h.t.num.toNat
  | 0x05 => h.t.tx.toNat | 0x06 => h.t.ty.toNat | 0x07 => h.t.tz.toNat | 0x08 => h.t.ti.toNat
  | 0x09 => h.t.coreslot
  | 0x0A => h.t.cluster.toNat
  | 0x0B => h.t.nslots
  | 0x0C => (s.launchName h.t.launch).2
  | 0x0D => h.t.param.toNat
  | 0x0E => h.g.spillVA.toNat
  | 0x0F => (s.core h.core).clock.toNat
  | 0x10 => s.caps
  | 0x11 => h.g.fsr.toNat
  | 0x12 => h.f.sig.toNat
  | 0x13 => h.g.rgnpc.toNat
  | _ => h.g.penwin.toNat

def execSrd (w : EngW) (s : State) : Host.Outcome State Fault Refusal :=
  runSlot (.srd w) (fun h s =>
    let n := w.imm.toNat % 256
    let s := if n == 0x0F then s.tick h.core else s
    if w.dst.isS then
      .done (s.writeS h w.dst false (BitVec.ofNat 64 (s.special h n ((lowLane h.f.mask).getD 0))))
    else .done (s.writeVec h w.dst false (w.imm.getLsbD 8) (h.active w.g w.gn) fun l => s.special h n l)) s

def execSwr (w : EngW) (s : State) : Host.Outcome State Fault Refusal :=
  runSlot (.swr w) (fun h s =>
    let x := (h.srcS w.a).toNat
    .done (s.modGroup h.gid fun g =>
      if w.imm.toNat % 256 == 0x11 then g.setFsr x else { g.heal .penwin with penwin := BitVec.ofNat 10 x })) s

end Sys2Proof.Machine
end

