-- ==== Sys2Proof/Machine/Debug.lean ====
section
/-! DEFINITION. Debug: counters, capture windows, causal trials and the debug core (spec/25 R403 to R415). -/

namespace Sys2Proof.Machine

/-! ## Capture windows (R404 to R406) -/

/-- Counter numbers of a selection. -/
def selCtrs (sel : W64) : List Nat := (List.range 8).map fun j => bitsN sel.toNat (6 * j + 5) (6 * j)

/-- What a window measures: the cycles and the eight counters. -/
def State.readWindow (s : State) (core : Nat) (sel : W64) : List W64 :=
  (s.core core).clock :: (selCtrs sel).map (s.readCtr core)

/-- The sums at the end of an interval. -/
def Capture.close (c : Capture) (now : List W64) : List W64 :=
  (c.sum.zip (now.zip c.base)).map fun e => e.1 + (e.2.1 - e.2.2)

/-- PMCAP.start. -/
def pmcapStartSlot (w : EngW) (h : Here) (s : State) : SlotResult :=
  let va := (h.srcS w.a).toNat
  let sel := h.srcS w.b
  let bad : Option LaneTrap := match s.checkGlobal h va 128 .write true with
    | some t => if t.cause == .xlate then none else some t
    | none => none
  match pickTrap ((bad.map fun t => (0, t)).toList) with
  | some r => .trap { r with lanes := h.f.mask.toNat }
  | none =>
    if h.g.capture.isSome || (selCtrs sel).any (47 < ·) || bitsN sel.toNat 63 48 != 0 then .done (s.setFlag h.gid w.dst true)
    else
      let s := s.tick h.core
      let c : Capture :=
        { addr := h.srcS w.a, sel := sel, start := codePtr h.f.line h.f.slot, base := s.readWindow h.core sel
          sum := List.replicate 9 0 }
      .done ((s.modGroup h.gid fun g => { g with capture := some c }).setFlag h.gid w.dst false)

def execPmcapStart (w : EngW) (s : State) : Host.Outcome State Fault Refusal := runSlot (.pmcapStart w) (pmcapStartSlot w) s

/-- The capture record (R405). -/
def Capture.record (c : Capture) (name : Nat × Nat) (sums : List W64) : Nat :=
  name.1 % 2 ^ 64 + name.2 % 2 ^ 32 * 2 ^ 64 + c.intr.toNat * 2 ^ 96 + c.sel.toNat * 2 ^ 128 +
    (sums.zipIdx.foldl (fun a e => a + e.1.toNat * 2 ^ (192 + 64 * e.2)) 0) + c.start.toNat * 2 ^ 768

/-- PMCAP.stop: the record is sixteen 8-byte stores of the group. They go to the side log on a translation fault, or behind the group's
entries there; a load that waits at a peer does not hold them back (R173). -/
def pmcapStopSlot (w : EngW) (h : Here) (s : State) : SlotResult :=
  match h.g.capture with
  | none => .done (s.setFlag h.gid w.dst true)
  | some c =>
    let va := c.addr.toNat
    let bad := (List.range 16).filterMap fun i => (s.laneGlobal h (va + 8 * i) 8 .write).map fun t => (i, t)
    if !onlyXlate bad then
      match pickTrap bad with
      | some r => .trap { r with lanes := h.f.mask.toNat }
      | none => .done s
    else
      let s1 := s.tick h.core
      let x := c.record (s.launchName h.t.launch) (c.close (s1.readWindow h.core c.sel))
      let fin (s : State) : SlotResult :=
        .done ((s.modGroup h.gid fun g => { g with capture := none }).setFlag h.gid w.dst false)
      if s.logBusy h || !bad.isEmpty then
        match s1.sideAdd h [(0, va)] 0 (fun _ => .store ((List.range 128).map fun i => (va + i, BitVec.ofNat 8 (x / 256 ^ i))))
            (fun _ => h.f.mask) with
        | none => .stall
        | some s => fin s
      else fin ((s1.vwrite h.core h.cx va 128 x).noteLostLanes h [0] fun _ => va)

def execPmcapStop (w : EngW) (s : State) : Host.Outcome State Fault Refusal := runSlot (.pmcapStop w) (pmcapStopSlot w) s

/-- COUNTER_EVENT_CONFIG: Shento loads an event code into one counter of every core (R403). -/
def execCounterEventConfig (counter : Fin 48) (code : Fin 12) (s : State) : Host.Outcome State Fault Refusal :=
  if !s.up then .next s else
  let i := counter.val
  -- what counted cycles keeps those it has, and what will count them starts at its present value
  let fix (c : Core) : Core :=
    let x := c.ctrs.getD 0 i
    let x := if s.evCode i == 0 then x + c.clock else x
    { c with ctrs := c.ctrs.setD 0 i (if code.val == 0 then x - c.clock else x) }
  .next { s with evCodes := s.evCodes.set i code.val, cores := s.cores.mapV fun _ c => fix c }

/-! ## Causal trials (R408 to R410) -/

/-- A malformed descriptor. -/
def trialBad (d : BitVec 512) : Bool :=
  let f (hi lo : Nat) : Nat := bitsN d.toNat hi lo
  f 63 56 != 0 || f 127 120 != 0 || f 159 135 != 0 || f 255 208 != 0 || f 511 312 != 0 || 100 < f 134 128 || f 191 160 == 0 ||
    f 207 192 == 0 || f 207 192 % 2 != 0 || f 311 256 % 64 != 0

/-- The progress counters. -/
def Ctx.progressNow (c : Ctx) : List W64 := (List.range 16).map fun n => c.progress.getD 0 n

/-- Set Lg of every group of a context. -/
def State.setDebts (s : State) (cx x : Nat) : State :=
  { s with groups := s.groups.mapV fun _ g =>
      if (s.teams.get? g.team).any fun t => t.ctx == cx then { g with debt := x } else g }

/-- TRIAL_START: a malformed descriptor or a second trial is refused, and the conductor is answered with all ones; a trial that
starts is answered with 0 (log 49). -/
def execTrialStart (ctx : Nat) (desc : BitVec 512) (s : State) : Host.Outcome State Fault Refusal :=
  match s.ctxs.get? ctx with
  | none => .next s
  | some c =>
    if trialBad desc || c.trial.isSome then .next (s.modCtx ctx fun c => { c with condRet := allOnes64 })
    else
      let t : Trial := { desc := desc, base := c.progressNow, noff := List.replicate 16 0, non := List.replicate 16 0 }
      .next ((s.modCtx ctx fun c => { c with trial := some t, condRet := 0 }).setDebts ctx 0)

/-- Add an epoch's time and increments. -/
def Trial.tally (t : Trial) (ns : Nat) (now : List W64) : Trial :=
  let inc := (now.zip t.base).map fun e => e.1 - e.2
  let add (xs : List W64) : List W64 := (xs.zip inc).map fun e => e.1 + e.2
  if t.on then { t with ton := t.ton + ns, non := add t.non } else { t with toff := t.toff + ns, noff := add t.noff }

/-- The report (R410), without DONE. -/
def Trial.report (t : Trial) : Nat :=
  t.toff % 2 ^ 64 + t.ton % 2 ^ 64 * 2 ^ 64 + t.gdOn / 100 % 2 ^ 64 * 2 ^ 128 +
    (t.noff.zipIdx.foldl (fun a e => a + e.1.toNat * 2 ^ (192 + 64 * e.2)) 0) +
    (t.non.zipIdx.foldl (fun a e => a + e.1.toNat * 2 ^ (1216 + 64 * e.2)) 0)

/-- TRIAL_EPOCH_END: the descriptor's EPOCH microseconds have passed while the context was resident, of `ns` since the epoch began.
Every Lg becomes Gd; after the last epoch the report is written, DONE last. -/
def execTrialEpochEnd (ctx ns : Nat) (s : State) : Host.Outcome State Fault Refusal :=
  match s.ctxs.get? ctx with
  | none => .next s
  | some c =>
    match c.trial with
    | none => .next s
    | some t =>
      let len := 1000 * bitsN t.desc.toNat 191 160
      if c.st != 1 || ns < len then .next s else
      let t' := { t.tally len c.progressNow with epoch := t.epoch + 1, base := c.progressNow }
      let s := s.setDebts ctx t.gd
      if t'.epoch < bitsN t.desc.toNat 207 192 then .next (s.modCtx ctx fun c => { c with trial := some t' })
      else
        let a := bitsN t.desc.toNat 311 256
        let s := ((s.vwrite devAgent c a 280 t'.report).vwrite devAgent c (a + 280) 8 1)
        .next (s.modCtx ctx fun c => { c with trial := none })

/-! ## The debug core (R412, R413, R415) -/

/-- The group that stands in a group slot, by hartsel (R412): none in a slot that holds no group, and none on a spare core, which
stands at a mesh position once it is in use. A saved team holds no slot. -/
def State.hartGroup (s : State) (hart : Nat) : Option Nat :=
  let c := bitsN hart 11 6
  let d := bitsN hart 13 12
  let core := 12 * (8 * (d / 2) + c / 6) + 6 * (d % 2) + c % 6
  if 2 ^ 14 ≤ hart || 48 ≤ c then none else
  (((s.teamsOn core).flatMap s.groupsOf).find? fun g => (s.groups.get? g).any fun x => x.idx % 4 == bitsN hart 5 4 && x.slot == bitsN hart 3 0)

/-- The result of an abstract command, in the debug core of the hart's die: its cmderr, and the data that a read gave. -/
def State.dbgAnswer (s : State) (hart cmderr : Nat) (data : Option Nat := none) : State :=
  let d := bitsN hart 13 12
  let c := s.debugs.getD {} d
  if s.asleep then s else
  { s with debugs := s.debugs.setD {} d { cmderr := cmderr, data := (data.map (BitVec.ofNat 128)).getD c.data } }

/-- The context of a group. -/
def State.ctxOf (s : State) (gid : Nat) : Option (Nat × Team) :=
  (s.groups.get? gid).bind fun g => (s.teams.get? g.team).map fun t => (t.ctx, t)

/-- HALTREQ: each fragment finishes the line it is inside, and enters no other. The debugger is then attached to the context. -/
def execHaltreq (hart : Nat) (s : State) : Host.Outcome State Fault Refusal :=
  match (s.hartGroup hart).bind fun gid => (s.ctxOf gid).map fun x => (gid, x.1) with
  | none => .next s
  | some (gid, cx) =>
    .next ((s.modGroup gid fun g => { g with halted := true, stopCause := .debug }).modCtx cx fun c => { c with debugger := true })

/-- RESUMEREQ: the group goes on at its slot; latches are replayed, from its registers as they then stand where the debugger has
written them (`State.dbgWrite`). -/
def execResumereq (hart : Nat) (s : State) : Host.Outcome State Fault Refusal :=
  match s.hartGroup hart with
  | none => .next s
  | some gid => .next (s.modGroup gid fun g => { g with halted := false })

/-- Is the group halted, no fragment being inside a line? -/
def State.isHalted (s : State) (gid : Nat) : Bool :=
  ((s.groups.get? gid).map Group.halted).getD false &&
    !(s.fragsOf gid).any fun k => (s.frags.get? k).map Frag.st == some .issuing

/-- What a debug register number names. -/
inductive DbgReg where
  | s (n : Nat) | k (n : Nat) | c | pc | rgnpc | sig | fsr | v (n lane : Nat)
  deriving DecidableEq, Repr

/-- The table of R413, with the aarsize. -/
def dbgReg (n : Nat) : Option (DbgReg × Nat) :=
  if 0xC000 ≤ n && n < 0xC040 then some (.s (n - 0xC000), 3)
  else if 0xC040 ≤ n && n < 0xC050 then some (.k (n - 0xC040), 2)
  else if n == 0xC050 then some (.c, 2)
  else if n == 0xC060 then some (.pc, 3)
  else if n == 0xC062 then some (.rgnpc, 3)
  else if n == 0xC061 then some (.sig, 2)
  else if n == 0xC063 then some (.fsr, 2)
  else if 0xD000 ≤ n && n < 0xF000 then some (.v ((n - 0xD000) / 32) (n % 32), 2)
  else none

/-- A register of the group, through its fragment. -/
def DbgReg.read (r : DbgReg) (f : Frag) (g : Group) : Nat :=
  match r with
  | .s n => (g.s.getD 0 n).toNat
  | .k n => if n == 0 then f.mask.toNat else (g.k.getD 0 n).toNat
  | .c => g.c.toNat
  | .pc => (codePtr f.line f.slot).toNat
  | .rgnpc => g.rgnpc.toNat
  | .sig => f.sig.toNat
  | .fsr => g.fsr.toNat
  | .v n l => (g.v.getD 0 (32 * n + l)).toNat

/-- Write one; latches lost before are then rebuilt from the registers as they stand. -/
def State.dbgWrite (s : State) (gid fid : Nat) (r : DbgReg) (x : W64) : State :=
  let s := s.forgetLatches gid
  match r with
  | .s n => s.modGroup gid fun g => g.setS n x
  | .k n => s.modGroup gid fun g => g.setK n (x.truncate 32)
  | .c => s.modGroup gid fun g => { g with c := x.truncate 8, badR := g.badR.filter fun r => match r with | .c _ => false | _ => true }
  | .pc => (s.withdraw fid).modFrag fid fun f =>
      ({ f with stopAt := false, st := .ready } : Frag).leave (BitVec.ofNat 56 (x.toNat / 64 * 64)) (Fin.ofNat 5 (x.toNat % 8))
  | .rgnpc => s.modGroup gid fun g => { g.heal .rgnpc with rgnpc := x.truncate 56 }
  | .sig =>
    let s := match s.frags.get? fid with
      | some f => s.modGroup gid fun g => g.heal (.sig f.uid)
      | none => s
    s.modFrag fid fun f => { f with sig := x.truncate 32 }
  | .fsr => s.modGroup gid fun g => g.setFsr x.toNat
  | .v n l => s.modGroup gid fun g => g.setV n l (x.truncate 32)

/-- Is the value no code pointer (spec/07 R155)? -/
def badPtr (x : Nat) : Bool := decide (2 ^ 56 ≤ x) || bitsN x 5 3 != 0 || decide (5 ≤ x % 8)

/-- The cmderr of an Access Register command. -/
def State.accErr (s : State) (gid : Nat) (g : Group) (c : AccReg) : Nat :=
  if !s.isHalted gid then 4
  else if c.postexec then 2
  else if !c.transfer then 0
  else match dbgReg c.regno.toNat with
  | none => 2
  | some (r, size) =>
    if c.aarsize.val != size || (c.write && r == .k 0) then 2
    else match r with
    | .v n _ => if 16 * g.blocks ≤ n then 3 else 0
    | .pc => if c.write && badPtr c.value.toNat then 3 else 0
    | _ => 0

/-- ACCESS_REGISTER: a group with several fragments is seen through the one with the lowest split-table entry; one with none left
has no PC, SIG or mask, which read as zero and take no write. -/
def execAccessRegister (hart : Nat) (cmd : AccReg) (s : State) : Host.Outcome State Fault Refusal :=
  match (s.hartGroup hart).bind fun gid => (s.groups.get? gid).map fun g => (gid, g) with
  | none => .next s
  | some (gid, g) =>
    let fid := (s.fragsOf gid).headD (2 ^ 21)
    let f := (s.frags.get? fid).getD { group := gid }
    let err := s.accErr gid g cmd
    let s := s.dbgAnswer hart err
    match err, dbgReg cmd.regno.toNat with
    | 0, some (r, _) =>
      if !cmd.transfer then .next s
      else if cmd.write then .next (s.dbgWrite gid fid r cmd.value)
      else .next (s.dbgAnswer hart 0 (r.read f g))
    | _, _ => .next s

/-- The debug core reads an object of the aperture by its words (spec/09 R200, spec/19 R338); none where there is no object, or where
it is poisoned. -/
def State.dbgObject (s : State) (va n : Nat) : Option Nat :=
  let key := objKey (va - va % 64)
  if !s.objExists va || ((s.objs.get? key).map Obj.poisoned).getD false then none
  else
    let w (i : Nat) : Nat := s.objWord key (va % 64 / 8 + i)
    some ((w 0 + 2 ^ 64 * (if n == 16 then w 1 else 0)) / 2 ^ (8 * (va % 8)) % 2 ^ (8 * n))

/-- ACCESS_MEMORY: a plain access at .sys under the group's ASID; a fault, alignment among them, posts no record. Objects of the
aperture can be read. -/
def execAccessMemory (hart : Nat) (cmd : AccMem) (s : State) : Host.Outcome State Fault Refusal :=
  match ((s.hartGroup hart).bind s.ctxOf).bind fun x => (s.ctxs.get? x.1).map fun c => (c, x.2.core) with
  | none => .next s
  | some (cx, core) =>
    let n := 2 ^ cmd.size.val
    let va := cmd.addr.toNat
    let k : AccKind := if cmd.write then .write else .read
    if !cmd.virt then .next (s.dbgAnswer hart 2)
    else if va % n != 0 || 2 ^ 56 ≤ va || (inAperture va && cmd.write) then .next (s.dbgAnswer hart 3)
    else if inAperture va then
      match s.dbgObject va n with
      | some x => .next (s.dbgAnswer hart 0 x)
      | none => .next (s.dbgAnswer hart 3)
    else
      match s.xl core cx va k with
      | .ok pa mt =>
        if cmd.write then
          if s.storeLost core cx va || s.vPartPoison core cx va n then .next (s.dbgAnswer hart 3)
          else .next ((s.vstore core cx va n (cmd.value.toNat % 2 ^ (8 * n))).dbgAnswer hart 0)
        else if s.poisoned mt pa n then .next (s.dbgAnswer hart 3)
        else
          let s := s.touch core cx va false
          .next (s.dbgAnswer hart 0 (s.physRead mt pa n))
      | _ => .next (s.dbgAnswer hart 3)

/-- DEBUG_BREAKPOINT_SET: one of eight code breakpoints of a context is set or cleared. -/
def execDebugBreakpointSet (ctx : Nat) (n : Fin 8) (at_ : Option (BitVec 64)) (s : State) : Host.Outcome State Fault Refusal :=
  .next (s.modCtx ctx fun c =>
    { c with brks := match at_ with
        | some a => c.brks.set n.val a
        | none => c.brks.erase n.val })

end Sys2Proof.Machine
end

