-- ==== Sys2Proof/Machine/Context.lean ====
section
/-! DEFINITION. Context: fault records and the trap handler (spec/03 R57, R58), Shento's service of translation faults (spec/23
R386), invalidation (R385), compute pre-emption, save and resumption (R391 to R395), and the life of a context (R390, R391). -/

namespace Sys2Proof.Machine

/-! ## Fault records and the handler -/

/-- FAULT_RECORD_POST: space frees in a full ring, as Shento or the handler consumes its oldest record, and the oldest waiting
record enters it (R58, log 22). -/
def execFaultRecordPost (ctx : Nat) (s : State) : Host.Outcome State Fault Refusal :=
  match s.ctxs.get? ctx with
  | none => .next s
  | some c =>
    match c.held with
    | [] => .next s
    | r :: rest =>
      if c.ringFull then .next (s.consumeRecord ctx)
      else .next ((s.modCtx ctx fun c => { c with held := rest }).enterRing ctx { c with held := rest } r)

/-- The second record that Shento posts when it cannot service a translation fault (R386). -/
def protRecord (r : BitVec 512) : BitVec 512 :=
  let info := bitsN r.toNat 511 448
  let info' := info % 16 + info / 2 ^ 62 % 4 * 2 ^ 62 + (if bitsN r.toNat 23 16 == 0 then 0 else 16)
  BitVec.ofNat 512 (putBits (putBits (putBits r.toNat 5 0 Cause.prot.code) 23 16 0) 511 448 info')

/-- XLATE_SERVICE: with entries to write, Shento maps the page of an invalid entry and resumes the group; otherwise, and for a
malformed or unreadable entry always, it posts a PROT record and hands that to the handler. -/
def execXlateService (frag : Nat) (map : List (Nat × BitVec 64)) (s : State) : Host.Outcome State Fault Refusal :=
  match s.hereOf frag with
  | none => .next s
  | some h =>
    match h.f.st with
    | .parked (.trap r inLine) =>
      if bitsN r.toNat 5 0 != Cause.xlate.code || h.cx.held.contains r then .next s
      else if bitsN r.toNat 23 16 == 0 && !map.isEmpty then .next (((s.applyMap map).consumeRecord h.t.ctx).resume frag)
      else
        let r' := protRecord r
        let s := (s.postBits h.t.ctx r').consumeRecord h.t.ctx
        .next (s.modFrag frag fun f => { f with st := .parked (.trap r' inLine) })
    | _ => .next s

/-- Shento edits a parked group's registers: those of its allocation. -/
def Group.edit (uid : Nat) (g : Group) (e : RegEdit) : Group :=
  match e with
  | .v r l x => if r.val < 16 * g.blocks then g.setV r.val l.val x else g
  | .s r x => g.setS r.val x
  | .k r x => g.setK r.val x
  | .c r x => g.setC r.val x
  | .fsr x => g.setFsr x.toNat
  | .sig _ => g.heal (.sig uid)
  | .rgnpc x => { g.heal .rgnpc with rgnpc := x }
  | .penwin x => { g.heal .penwin with penwin := x }

/-- The parked fragment's own part of an edit: its signature. -/
def Frag.edit (f : Frag) (e : RegEdit) : Frag :=
  match e with
  | .sig x => { f with sig := x }
  | _ => f

/-- Does the fragment wait for the handler's decision? XLATE is Shento's own until it posts PROT, and a record that still waits
in the core has not reached anyone (R58). -/
def Here.withHandler (h : Here) : Bool :=
  match h.f.st with
  | .parked (.trap r _) => bitsN r.toNat 5 0 != Cause.xlate.code && !h.cx.held.contains r
  | .parked .bound | .parked .halt => true
  | _ => false

/-- A team held by a HALT goes on (spec/25 R414). -/
def State.releaseHalt (s : State) (tid : Nat) : State :=
  let s := s.modTeam tid fun t => { t with haltedBy := none }
  ((s.groupsOf tid).flatMap s.fragsOf).foldl (fun s k => s.modFrag k fun f =>
    match f.st with
    | .parked .halt => f.release
    | _ => f) s

/-- TRAP_RESUME: after the handler's edits the fragment executes its slot again; after an imprecise record it goes on at its
line boundary. -/
def execTrapResume (frag : Nat) (edits : List RegEdit) (s : State) : Host.Outcome State Fault Refusal :=
  match s.hereOf frag with
  | none => .next s
  | some h =>
    if !h.withHandler then .next s else
    let s := ((s.modGroup h.gid fun g => edits.foldl (Group.edit h.f.uid) g).modFrag frag fun f => edits.foldl Frag.edit f).consumeRecord h.t.ctx
    let s := if edits.isEmpty then s else s.forgetLatches h.gid
    match h.f.st with
    | .parked .halt => .next (s.releaseHalt h.tid)
    | _ => .next (s.resume frag)

/-- The slot after a skipped one; the skipped slot does not count as executed. -/
def Frag.skipSlot (f : Frag) : Frag :=
  if f.slot.val < 4 then
    { f with slot := f.slot + 1, st := .ready, replay := true, stall := false, latches := [], noBrk := false, paired := false
             checkTm := false, ticket := none, wait := 0, woken := false, held := none }
  else { f.leave (f.line + 64) 0 with ticket := none }

/-- The word of the slot at which a fragment stands: of the line it is in, or of the line it was about to enter. -/
def State.slotWord (s : State) (h : Here) (inLine : Bool) : Option Fields :=
  if inLine then some (Fields.ofWord (lineSlot h.f.buf h.f.slot.val))
  else match s.xl h.core h.cx h.f.line.toNat .fetch with
  | .ok pa mt => some (Fields.ofWord (lineSlot (BitVec.ofNat 512 (s.physRead mt pa 64)) h.f.slot.val))
  | _ => none

/-- TRAP_SKIP: the faulting instruction has no effect, not even on its latch; its word counts for the signature (spec/26
R421), where its line can be read. After an imprecise record or a HALT, Skip is Resume. -/
def execTrapSkip (frag : Nat) (s : State) : Host.Outcome State Fault Refusal :=
  match s.hereOf frag with
  | none => .next s
  | some h =>
    if !h.withHandler then .next s else
    let s := s.consumeRecord h.t.ctx
    match h.f.st with
    | .parked .halt => .next (s.releaseHalt h.tid)
    | .parked (.trap _ inLine) =>
      let w := s.slotWord h inLine
      .next (s.modFrag frag fun f =>
        let f := match w with
          | some w => if noSig w.op.toNat then f else { f with sig := sigUpdate f.sig w }
          | none => f
        f.skipSlot)
    | _ => .next (s.resume frag)

/-- Kill a team, saved or resident. -/
def State.killAny (s : State) (tid : Nat) : State :=
  let s := s.killTeam tid
  let s := { s with saves := s.saves.erase tid, savedRays := s.savedRays.filter fun k => k / 1024 != tid }
  s.modTeam tid fun t => { t with saved := false, saving := false }

/-- TRAP_KILL: the whole team is killed. -/
def execTrapKill (frag : Nat) (s : State) : Host.Outcome State Fault Refusal :=
  match s.hereOf frag with
  | none => .next s
  | some h => if h.withHandler then .next ((s.consumeRecord h.t.ctx).killAny h.tid) else .next s

/-! ## Invalidation (R385) -/

/-- Land a CPL's transfers of one line. -/
def State.landXfer (s : State) (core id : Nat) : State :=
  match execCplLineLand core id s with
  | .next s => s
  | _ => s

/-- The transfers in flight of an ASID, by core and number. -/
def State.xfersOf (s : State) (asid : Nat) : List (Nat × Nat) :=
  s.cores.flatMap fun c => (c.2.xfers.filter fun e =>
    ((s.teams.get? e.2.team).bind fun t => s.ctxs.get? t.ctx).any fun x => x.asid == asid).map fun e => (c.1, e.1)

/-- Is a translation of the ASID in the range? -/
def TlbEntry.inRange (e : TlbEntry) (asid lo hi : Nat) : Bool := e.asid == asid && e.va ≤ hi && lo < e.va + e.size

/-- Drop the translations of an ASID in a range on every agent. -/
def State.dropTlb (s : State) (asid lo hi : Nat) : State :=
  let keep (l : List TlbEntry) : List TlbEntry := l.filter fun e => !e.inRange asid lo hi
  { s with
    cores := s.cores.mapV fun _ c => { c with tlb := keep c.tlb }
    tlb2 := s.tlb2.mapV fun _ l => keep l }

/-- TLB_INVALIDATE: accesses in flight under the old translations perform first. -/
def execTlbInvalidate (asid : Nat) (lo hi : BitVec 56) (s : State) : Host.Outcome State Fault Refusal :=
  let pass (s : State) : State := (s.xfersOf asid).foldl (fun s e => s.landXfer e.1 e.2) s
  .next ((pass (pass s)).dropTlb asid lo.toNat hi.toNat)

/-! ## Compute pre-emption (R392) -/

/-- The teams that are saved and resumed together: the members of a team's cluster. -/
def State.companions (s : State) (tid : Nat) : List Nat :=
  match s.teams.get? tid with
  | none => []
  | some t =>
    if t.member && 1 < t.nslots then
      (s.teams.filter fun e => e.2.launch == t.launch && e.2.cluster == t.cluster && e.2.member).map (·.1)
    else [tid]

/-- Stop a fragment's issue at the slot where it stands. -/
def Frag.stopIssue (f : Frag) : Frag :=
  if f.st == .issuing then { f.shed with st := .ready } else { f with stall := false }

/-- Ask a team to stop: its running engines pass through Stopping, and the open tiles that hold its lanes launch (spec/10 R225,
spec/14 R281). -/
def State.preempt (s : State) (tid : Nat) : State :=
  match s.teams.get? tid with
  | none => s
  | some t =>
    if t.saved || t.saving then s else
    let gs := s.groupsOf tid
    let s := s.modTeam tid fun t => { t with saving := true }
    let s := gs.foldl (fun s g => s.modGroup g fun x => { x with stopCause := .preempt }) s
    let s := (gs.flatMap s.fragsOf).foldl (fun s k => s.modFrag k Frag.stopIssue) s
    let s := s.modCore t.core fun c =>
      { c with streams := c.streams.mapV fun _ x =>
          if x.owner == some tid && x.st == 2 then { x with st := 3, auto := true } else x }
    let c := s.core t.core
    let hit (p : PenTile) : Bool := p.rows.any fun r => (c.nevals.get? r.neval).any fun e => gs.contains e.group
    (c.penOpen.filter fun e => hit e.2).foldl (fun s e => s.penLaunch t.core e.1) s

/-- Does every team of a context satisfy a condition? -/
def State.allTeams (s : State) (cx : Nat) (p : Team → Bool) : Bool := s.teams.all fun t => t.2.ctx != cx || p t.2

/-- The teams of a context. -/
def State.teamsOf (s : State) (cx : Nat) : List Nat := (s.teams.filter fun e => e.2.ctx == cx).map (·.1)

/-- COMPUTE_PREEMPT: a team, with the other members of its cluster, stops issuing; or all teams of a context do, and the context is
Saving. -/
def execComputePreempt (who : Preemptee) (s : State) : Host.Outcome State Fault Refusal :=
  match who with
  | .team team => .next ((s.companions team).foldl State.preempt s)
  | .ctx cx =>
    match (s.ctxs.get? cx).map Ctx.st with
    | some 1 => .next (((s.teamsOf cx).foldl State.preempt s).modCtx cx fun c => { c with st := 2 })
    | _ => .next s

/-! ## Save (R393) -/

/-- Has the team's issued work drained? A Fold operation that waits at its slot has been issued. -/
def State.saveReady (s : State) (tid : Nat) (t : Team) : Bool :=
  let c := s.core t.core
  let mine (g : Nat) : Bool := g / 32 == tid
  t.saving && !t.saved &&
  !(c.side.any fun e => mine e.group) && !(c.xfers.any fun e => mine e.2.group) && !(c.mops.any fun e => mine e.2.group) &&
  !(c.nevals.any fun e => mine e.2.group) && !(c.colls.any fun e => mine e.2.group && e.2.started) &&
  !(c.streams.any fun e => e.2.owner == some tid && (e.2.st == 2 || e.2.st == 3)) &&
  !(s.frags.any fun e => mine e.2.group && e.2.held.isSome) &&
  (s.groupsOf tid).all fun g => (s.groups.get? g).all fun x => x.pend.all fun p =>
    c.travCmds.any fun e => e.2.group == g && e.2.pend == p.1

/-- Rename a fragment's split-table key wherever it is held. -/
def State.renameFrag (s : State) (tid core old new : Nat) : State :=
  match s.frags.get? old with
  | none => s
  | some f =>
    let r (k : Nat) : Nat := if k == old then new else k
    let s := { s with
      frags := (s.frags.erase old).set new f
      cur := if s.cur == some old then none else s.cur
      objs := s.objs.mapV fun _ o => { o with waiters := o.waiters.map r } }
    let s := s.putAcc tid { s.acc tid with waiters := (s.acc tid).waiters.map r }
    let s := s.modTeam tid fun t => { t with haltedBy := t.haltedBy.map r }
    let s := s.modGroup f.group fun g =>
      { g with pend := g.pend.mapV fun _ p => { p with frag := r p.frag }, lost := g.lost.map fun x => (r x.1, x.2) }
    s.modCore core fun c =>
      { c with
        travCmds := c.travCmds.mapV fun _ x => { x with frag := r x.frag }
        bulks := c.bulks.mapV fun _ x => { x with frag := r x.frag }
        colls := c.colls.mapV fun _ x => { x with frag := r x.frag }
        streams := c.streams.mapV fun _ x => { x with frag := r x.frag } }

/-- The keys of all fragments of a team. -/
def State.fragKeys (s : State) (tid : Nat) : List Nat := (s.frags.filter fun e => e.2.group / 32 == tid).map (·.1)

/-- Where a saved fragment is kept: outside every split table, its entry number unchanged. -/
def savedKey (k : Nat) : Nat := 2 ^ 20 + k % 2 ^ 20

/-- The engine state of a team leaves its core for the save area; no Hasp entry survives. -/
def State.saveEngines (s : State) (tid core : Nat) : State :=
  let c := s.core core
  let mine (g : Nat) : Bool := g / 32 == tid
  let bulks := c.bulks.filterE fun _ b => mine b.group
  let colls := c.colls.filterE fun _ b => mine b.group
  let streams := c.streams.filterE fun _ x => x.owner == some tid
  let sv : Save :=
    { seals := (c.seals.filterE fun _ b => mine b.group).mapV fun _ b => { b with xfers := [] }
      bulks := bulks.mapV fun _ b => { b with entries := [], parked := none, locked := b.ready }
      colls := colls.mapV fun _ b => { b with entries := [], parked := none, locked := b.locked && b.entries.isEmpty }
      streams := streams.mapV fun _ x => { x with entries := [], parked := none }
      travCmds := c.travCmds.filterE fun _ x => mine x.group }
  let ids := (bulks.flatMap fun e => e.2.entries) ++ (colls.flatMap fun e => e.2.entries) ++
    (streams.flatMap fun e => e.2.entries.flatMap (·.2))
  let s := { s with saves := s.saves.set tid sv }.haspDrop core ids
  let s := (s.tileEngs.flatMap fun e => e.2.subs.flatMap fun b => if b.2.team == tid then b.2.entries else []).foldl
    (fun s k => s.haspDrop core [k]) s
  let s := { s with tileEngs := s.tileEngs.mapV fun _ e => { e with subs := e.subs.mapV fun _ b =>
      if b.team == tid then { b with entries := [], locked := false } else b } }
  s.modCore core fun c =>
    { c with
      seals := c.seals.filterE fun _ b => !mine b.group
      bulks := c.bulks.filterE fun _ b => !mine b.group
      colls := c.colls.filterE fun _ b => !mine b.group
      streams := c.streams.filterE fun _ x => x.owner != some tid
      travCmds := c.travCmds.filterE fun _ x => !mine x.group }

/-- Capture windows end an interval at a save (spec/25 R404). -/
def State.saveCapture (s : State) (core gid : Nat) : State :=
  s.modGroup gid fun g => { g with
    capture := g.capture.map fun c => { c with sum := c.close (s.readWindow core c.sel), intr := c.intr + 1 } }

/-- No Pen slot is saved, and the next use after a resumption refills one: a save drops the context's slots on a core, once no tile
needs them (spec/14 R281, log 21). -/
def State.dropPenSlots (s : State) (cx core : Nat) : State :=
  let asid := (s.ctxs.get? cx).map Ctx.asid
  ((s.core core).penSlots.filter fun e => some e.2.asid == asid).foldl (fun s e =>
    (s.modCore core fun c => { c with penSlots := c.penSlots.modify e.1 fun x => { x with drop := true } }).penRelease core e.1) s

/-- A saving context all of whose teams are saved is Saved, with its Drovers; its waiting split requests are withdrawn (spec/12
R265). -/
def State.saveCtx (s : State) (cx : Nat) : State :=
  if ((s.ctxs.get? cx).map Ctx.st) != some 2 || !s.allTeams cx Team.saved then s
  else
    let mine (l : Nat) : Bool := (s.launches.get? l).any fun x => x.ctx == cx
    let s := (s.cores.map (·.1)).foldl (State.dropPenSlots · cx) s
    { s.modCtx cx fun c => { c with st := 3 } with
      drovers := s.drovers.mapV fun _ d => if mine d.launch then { d with saved := true } else d
      launches := s.launches.mapV fun _ l => if l.ctx == cx then { l with waiting := [] } else l }

/-- CONTEXT_SAVE of a team: once its issued work has drained, its save set is stored. -/
def State.saveTeam (team : Nat) (s : State) : Host.Outcome State Fault Refusal :=
  match s.teams.get? team with
  | none => .next s
  | some t =>
    if !s.saveReady team t then .next s else
    let gs := s.groupsOf team
    let walking := ((s.core t.core).rays.filter fun e => gs.contains e.2.group && e.2.phase == 0 && (!e.2.query || !e.2.waiting.isEmpty)).map
      fun e => 32 * e.2.group + e.2.lane
    let s := { s with savedRays := s.savedRays ++ walking }.spillRays t.core fun r => gs.contains r.group
    let s := (s.fragKeys team).foldl (fun s k => (s.modFrag k Frag.stopIssue).renameFrag team t.core k (savedKey k)) s
    let s := gs.foldl (fun s g => (s.saveCapture t.core g).modGroup g fun x => { x with openCpl := [] }) (s.tick t.core)
    let s := s.saveEngines team t.core
    let s := (s.modTeam team fun t => { t with saved := true, saving := false }).syncArenas t.core
    let s := s.dropPenSlots t.ctx t.core
    let s := if ((s.launches.get? t.launch).bind Launch.opp).isSome then s.settleOpp t.core else s
    .next (s.saveCtx t.ctx)

/-- CONTEXT_SAVE: of a team, or of a context that has no team left to save. -/
def execContextSave (who : Preemptee) (s : State) : Host.Outcome State Fault Refusal :=
  match who with
  | .team t => s.saveTeam t
  | .ctx cx => .next (s.saveCtx cx)

/-! ## Resumption (R395) -/

/-- Can a core accept a saved team as it stands (R395)? The stream engines it holds must be free there too. -/
def State.canRestore (s : State) (core tid : Nat) (t : Team) : Bool :=
  let gs := (s.groupsOf tid).filterMap s.groups.get?
  let frs := (s.frags.filter fun e => e.2.group / 32 == tid).map fun e => e.2.group % 4
  let sv := (s.saves.get? tid).getD {}
  ((List.range 4).all fun p =>
    s.blocksUsed core p + t.pool.getD 0 p + ((gs.filter fun g => g.idx % 4 == p).map Group.blocks).sum ≤ 64 &&
      s.groupsUsed core p + groupsIn t.ngroups p ≤ 16 && (frs.filter (· == p)).length ≤ (s.freeEntries (4 * core + p)).length) &&
  s.scratchUsed core + scratchBytes t.fixedLen t.ngroups t.splitSpill ≤ 524288 &&
  s.accUsed core + accTiles t.acc ≤ 64 && s.arenasWith core t.ctx ≤ 32 && !s.boot.fenced.contains core &&
  sv.streams.all (fun e => (s.stream core e.1).owner.isNone) && core < 12 * s.rows

/-- The Hasp ranges of a bulk copy and of a collective. -/
def bulkRanges (asid id : Nat) (d : BitVec 512) : List Hasp :=
  let f (hi lo : Nat) : Nat := bitsN d.toNat hi lo
  let (rowb, rows) := (f 159 128, f 191 160)
  if rowb == 0 || rows == 0 then [] else
    [haspRange false 1 (id % 256) asid (f 55 0) ((rows - 1) * f 223 192 + rowb),
     haspRange true 1 (id % 256) asid (f 119 64) ((rows - 1) * f 255 224 + rowb)]

def collRanges (asid id fn : Nat) (d : BitVec 512) : List Hasp :=
  [haspRange false 6 (id % 256) asid (CollD.src d) (CollD.width d * CollD.srcN fn d),
   haspRange true 6 (id % 256) asid (CollD.dst d) (CollD.width d * CollD.dstN fn d)]

/-- Register again what a resumption left without its ranges, oldest first, as entries of the core free (R225, R393): until then the
command waits. -/
def State.relock (s : State) (core : Nat) : State :=
  let asid (cx : Nat) : Nat := ((s.ctxs.get? cx).map Ctx.asid).getD 0
  let s := ((s.core core).bulks.filter fun b => !b.2.locked).foldl (fun s b =>
    match s.haspAdd core (bulkRanges (asid b.2.ctx) b.1 b.2.desc) with
    | some (ids, s) => s.modCore core fun c => { c with bulks := c.bulks.modify b.1 fun x => { x with entries := ids, locked := true } }
    | none => s) s
  let s := ((s.core core).colls.filter fun b => !b.2.locked).foldl (fun s b =>
    match s.haspAdd core (collRanges (asid b.2.ctx) b.1 b.2.fn b.2.desc) with
    | some (ids, s) => s.modCore core fun c => { c with colls := c.colls.modify b.1 fun x => { x with entries := ids, locked := true } }
    | none => s) s
  s.tileEngs.foldl (fun s e => (e.2.subs.filter fun b => !b.2.locked && b.2.core == core &&
      (s.teams.get? b.2.team).all fun t => !t.saved).foldl (fun s b =>
    match s.haspAdd core (b.2.ranges.map fun r => haspRange r.2.2 5 (b.1 % 256) (asid b.2.ctx) r.1 r.2.1) with
    | some (ids, s) => s.modTileEng e.1 fun x => { x with subs := x.subs.modify b.1 fun y => { y with entries := ids, locked := true } }
    | none => s) s) s

/-- A number that names no command. -/
def noCmd : Nat := 2 ^ 64

/-- The engine state of a team enters its new core, under new command numbers in the old order; copies, collectives and submissions
register their ranges again, and an engine that was Running starts again. -/
def State.loadEngines (s : State) (tid core : Nat) : State :=
  let sv := (s.saves.get? tid).getD {}
  let old := sortBy (fun a b => decide (a ≤ b))
    (sv.seals.map (·.1) ++ sv.bulks.map (·.1) ++ sv.colls.map (·.1) ++ sv.travCmds.map (·.1) ++ sv.streams.map (·.2.id))
  let base := (s.core core).nextId
  let new (k : Nat) : Nat := match old.findIdx? (· == k) with | some i => base + i | none => noCmd
  let s := s.modCore core fun c =>
    { c with
      nextId := base + old.length
      seals := sv.seals.foldl (fun m e => m.set (new e.1) e.2) c.seals
      bulks := sv.bulks.foldl (fun m e => m.set (new e.1) e.2) c.bulks
      colls := sv.colls.foldl (fun m e => m.set (new e.1) e.2) c.colls
      travCmds := sv.travCmds.foldl (fun m e => m.set (new e.1) e.2) c.travCmds
      streams := sv.streams.foldl (fun m e =>
        let x := e.2
        m.setD {} e.1 { x with id := new x.id, auto := false, st := if !x.auto then x.st else if x.done < x.layout.tiles then 2 else 5 }) c.streams }
  let s := { s with tileEngs := s.tileEngs.mapV fun _ e => { e with subs := e.subs.mapV fun _ b =>
      if b.team == tid then { b with core := core } else b } }.relock core
  let ray (r : Ray) : Ray := { r with cmd := new r.cmd, waiting := r.waiting.map fun w => { w with cmd := new w.cmd } }
  let s := { s with
    saves := s.saves.erase tid
    spilled := s.spilled.mapV fun k r => if k / 1024 == tid then ray r else r }
  s.modTeam tid fun t =>
    { t with tilesDone := t.tilesDone.map fun e => { e with cmd := base + (old.filter (· < e.cmd)).length } }

/-- Rays that were walking go on in slots of the core, as these are free; a record that no longer holds what was written ends its ray, and a
poisoned one freezes its group (spec/16 R300, R302, spec/26 R417). -/
def State.loadRays (s : State) (tid : Nat) : State :=
  (s.savedRays.filter fun k => k / 1024 == tid).foldl (fun s k =>
    match (s.teams.get? tid).bind fun t => (s.groups.get? (k / 32)).bind fun g => (s.ctxs.get? t.ctx).map fun cx => (t, g, cx) with
    | none => s
    | some (t, g, cx) =>
      let a := g.spillVA.toNat + 256 * (k % 32)
      match s.poisonAt t.core cx a 256 .read with
      | some pa => { s with savedRays := s.savedRays.filter (· != k) }.freezeGroup (k / 32) 8 pa
      | none =>
      match s.reloadAt t.core cx g.spillVA (k / 32) (k % 32) with
      | none => s
      | some (i, r, ok, s) => if ok then s else s.modCore t.core fun c => { c with rays := c.rays.set i (r.fail 7 a) }) s

/-- Place a saved team on a core. -/
def State.restore (s : State) (tid core : Nat) : State :=
  match s.teams.get? tid with
  | none => s
  | some t =>
    let base := s.scrGap core (scratchBytes t.fixedLen t.ngroups t.splitSpill)
    let s := (s.modTeam tid fun t => { t with core := core, base := base, saved := false }).loadEngines tid core
    let s := (s.groupsOf tid).foldl (fun s g => s.modGroup g fun x => { x with slot := 16 }) s
    let s := (s.groupsOf tid).foldl (fun s g => s.modGroup g fun x => { x with slot := s.freeSlot core (x.idx % 4) }) s
    let s := (s.fragKeys tid).foldl (fun s k =>
      match (s.frags.get? k).map fun f => s.freeEntries (4 * core + f.group % 4) with
      | some (e :: _) => (s.renameFrag tid core k e).modFrag e fun f => { f with checkTm := false }
      | _ => s) s
    let s := s.loadRays tid
    let s := (s.groupsOf tid).foldl (fun s g => s.modGroup g fun x =>
      { x with
        debt := s.trialDebt t.ctx
        capture := x.capture.map fun c => { c with base := s.readWindow core c.sel } }) s
    let s := (s.syncArenas core).wakeAbsent core
    let s := if ((s.launches.get? t.launch).bind Launch.opp).isSome then s.settleOpp core else s
    ((s.wakeRing core 0).wakeRing core 1).settleLost tid

/-- Move the submissions that satisfy `p` to another die's engine, behind its own, with their fragment groups and contributions
(spec/21 R371). -/
def State.moveSubs (s : State) (old new : Nat) (p : Submission → Bool) : State :=
  if old == new then s else
  let e := s.tileEng old
  let f := s.tileEng new
  let mv := e.subs.filterE fun _ b => p b
  let cs := e.contribs.filterE fun _ c => mv.has c.sub
  let key {α : Type} (m : SMap α) (base k : Nat) : Nat := base + (m.findIdx? fun x => x.1 == k).getD 0
  let sk := key mv f.nextSub
  let ck := key cs f.nextContrib
  let s := s.modTileEng old fun e =>
    { e with
      subs := e.subs.filterE fun k _ => !mv.has k
      groups := e.groups.filter fun g => !mv.has g.sub
      contribs := e.contribs.filterE fun k _ => !cs.has k }
  s.modTileEng new fun f =>
    { f with
      subs := mv.foldl (fun m b => m.set (sk b.1) b.2) f.subs
      groups := f.groups ++ (e.groups.filter fun g => mv.has g.sub).map fun g => { g with sub := sk g.sub, first := ck g.first }
      contribs := cs.foldl (fun m c => m.set (ck c.1) { c.2 with sub := sk c.2.sub, exitAt := c.2.exitAt.map (f.nextExit + ·) }) f.contribs
      nextSub := f.nextSub + mv.length
      nextExit := f.nextExit + e.nextExit
      nextContrib := f.nextContrib + cs.length }

/-- Move a core by the way its rectangle's origin moves. -/
def moveCore (l : Launch) (ox oy core : Nat) : Nat := 12 * (coreY core + oy - l.oy) + (coreX core + ox - l.ox)

/-- Restore a launch's Drovers at another origin: on the die and home core at the same position (spec/12 R265), with its
submissions on the tile engine of the die there; none when a die has no Drover free. -/
def State.moveLaunch (s : State) (ln : Nat) (l : Launch) (ox oy : Nat) : Option State :=
  let mv := moveCore l ox oy
  let s' : Option State := (s.drovers.filter fun e => e.2.launch == ln).foldl (fun (acc : Option State) e =>
    acc.bind fun s =>
      let home := mv e.2.home
      let s1 : State := { s with drovers := s.drovers.erase e.1 }
      let k := if dieOf home == e.1 / 32 then some e.1 else s1.drovers.freeKey (32 * dieOf home) 32
      k.map fun k => { s1 with
        drovers := s1.drovers.set k { e.2 with home := home }
        teams := s1.teams.mapV fun _ t => if t.launch == ln && t.drover == some e.1 then { t with drover := some k } else t }) (some s)
  s'.map fun s =>
    let s := s.modLaunch ln fun l => { l with ox := ox, oy := oy, refused := l.refused.map mv }
    (s.tileEngs.map (·.1)).foldl (fun s d =>
      ((((s.tileEng d).subs.map fun b => b.2).filter fun b => b.launch == ln).map fun b => b.core).dedup.foldl (fun s c =>
        s.moveSubs d (dieOf (mv c)) fun b => b.launch == ln && b.core == c) s) s

/-- What becomes of a launch's rectangle at a resumption. -/
inductive Relocation where
  | stays (s : State)
  | unroutable
  | waits

/-- Load and check the route tables of a launch that resumes, at the origin where its rectangle then stands (spec/12 R259, R265). -/
def State.relocate (s : State) (ln : Nat) (l : Launch) (ox oy : Nat) : Relocation :=
  if !s.onMesh l ox oy || !s.routable ln l ox oy then .unroutable
  else if ox == l.ox && oy == l.oy then .stays s
  else match s.moveLaunch ln l ox oy with
  | some s => .stays s
  | none => .waits

/-- May a launch's rectangle move: its Drovers and its teams are all saved? -/
def State.movable (s : State) (ln : Nat) : Bool :=
  (s.drovers.all fun e => e.2.launch != ln || e.2.saved) && s.teams.all fun t => t.2.launch != ln || t.2.saved

/-- A context that resumes: Resuming while teams of it are saved, and then Running, with its Drovers as they were saved; a TILENX
that has waited for them then takes its tile (spec/12 R266). -/
def State.resumeCtx (s : State) (cx : Nat) : State :=
  let rest := !s.allTeams cx fun x => !x.saved
  match (s.ctxs.get? cx).map Ctx.st with
  | some 3 | some 4 =>
    if rest then s.modCtx cx fun c => { c with st := 4 }
    else
      let mine (l : Nat) : Bool := (s.launches.get? l).any fun x => x.ctx == cx
      (s.teamsOf cx).foldl State.settleTilenx { s.modCtx cx fun c => { c with st := 1 } with
        drovers := s.drovers.mapV fun _ d => if mine d.launch then { d with saved := false } else d }
  | _ => s

/-- The tile engines go on with a context's submissions (spec/21 R371). -/
def State.endHold (s : State) (cx : Nat) : State :=
  { s with tileEngs := s.tileEngs.mapV fun _ e => { e with stopped := e.stopped.filter (· != cx) } }

/-- The cores for a saved team and the members of its cluster: slot i on the i-th core of the rectangle with top-left core `core`;
none when one of them cannot be accepted there. -/
def State.placement (s : State) (team core : Nat) (t : Team) : Option (List (Nat × Nat)) :=
  let ms := (s.companions team).filterMap fun k => (s.teams.get? k).map fun x => (k, x)
  let (w, hh) := match s.launches.get? t.launch with
    | some l => (l.clw, l.clh)
    | none => (1, 1)
  let multi := t.member && 1 < t.nslots
  let place (x : Team) : Nat := if multi then core + x.coreslot % w + 12 * (x.coreslot / w) else core
  let fits := !multi || (coreX core + w ≤ 12 && coreY core + hh ≤ s.rows)
  if fits && ms.all fun e => e.2.saved && s.canRestore (place e.2) e.1 e.2 then some (ms.map fun e => (e.1, place e.2)) else none

/-- Of a context that is saved or resuming, the first launch whose route tables fail their check where its rectangle stands: the tables
of every launch that goes on are loaded again (spec/12 R259, R265). -/
def State.badTable (s : State) (cx : Nat) : Option Nat :=
  match (s.ctxs.get? cx).map Ctx.st with
  | some 3 | some 4 =>
    (s.launches.find? fun e => e.2.ctx == cx && (e.2.st == 3 || e.2.st == 4) && !e.2.drained &&
      !(s.onMesh e.2 e.2.ox e.2.oy && s.routable e.1 e.2 e.2.ox e.2.oy)).map (·.1)
  | _ => none

/-- Route tables that fail leave the context saved, under a record that names the launch: the teams of a Resuming one that have gone
on stop again. -/
def State.keepSaved (s : State) (cx ln : Nat) : State :=
  let s := s.postAsync cx .launch 8 0 (((s.launches.get? ln).map Launch.recVa).getD 0) (some ln)
  if ((s.ctxs.get? cx).map Ctx.st) == some 4 then ((s.teamsOf cx).foldl State.preempt s).modCtx cx fun c => { c with st := 2 } else s

/-- Resume a team: on cores of its launch's rectangle, which moves with it when everything of the launch is saved. A fragment team
may stand on any core. -/
def State.resumeTeam (s : State) (team core : Nat) (t : Team) : State :=
  match s.placement team core t, s.launches.get? t.launch with
  | some ps, some l =>
    let at_ := ((ps.find? fun p => p.1 == team).map (·.2)).getD core
    let inside := ps.all fun p => l.cores.contains p.2
    let (ox, oy) := if inside || coreX at_ + l.ox < coreX t.core || coreY at_ + l.oy < coreY t.core then (l.ox, l.oy)
      else (coreX at_ + l.ox - coreX t.core, coreY at_ + l.oy - coreY t.core)
    let l' : Launch := { l with ox := ox, oy := oy }
    let put (s' : State) : State := match s'.badTable t.ctx with
      | some ln => s.keepSaved t.ctx ln
      | none => ((ps.foldl (fun s p => s.restore p.1 p.2) s').endHold t.ctx).resumeCtx t.ctx
    if t.fragTeam then put s
    else if s.movable t.launch && ps.all (fun p => l'.cores.contains p.2) then
      match s.relocate t.launch l ox oy with
      | .stays s => put s
      | .unroutable => s.keepSaved t.ctx t.launch
      | .waits => s
    else if inside then put s else s
  | _, _ => s

/-- Resume a context with no team saved: its launches go on where their rectangles stand when these hold the core, and else with it
as their origin. -/
def State.resumeIdle (s : State) (cx core : Nat) : State :=
  let ls := s.launches.filter fun e => e.2.ctx == cx && (e.2.st == 3 || e.2.st == 4) && !e.2.drained && s.movable e.1
  let r : Except Nat State := ls.foldl (fun (acc : Except Nat State) e =>
    acc.bind fun s =>
      let (ox, oy) := if e.2.cores.contains core then (e.2.ox, e.2.oy) else (coreX core, coreY core)
      match s.relocate e.1 e.2 ox oy with
      | .stays s => .ok s
      | .unroutable => .error (e.1 + 1)
      | .waits => .error 0) (.ok s)
  match r with
  | .ok s' => match s'.badTable cx with
    | some ln => s.keepSaved cx ln
    | none => s'.resumeCtx cx
  | .error 0 => s
  | .error k => s.keepSaved cx (k - 1)

/-- CONTEXT_RESUME: a saved team, with the members of its cluster, is placed on cores that can accept them; or a context without a
saved team goes on. Either ends the hold of a draw-level pre-emption. -/
def execContextResume (who : Preemptee) (core : Nat) (s : State) : Host.Outcome State Fault Refusal :=
  match who with
  | .team team =>
    match s.teams.get? team with
    | none => .next s
    | some t => if ((s.ctxs.get? t.ctx).map Ctx.st) == some 5 then .next s else .next (s.resumeTeam team core t)
  | .ctx cx =>
    let s := s.endHold cx
    if !s.allTeams cx (fun x => !x.saved) then .next s
    else match (s.ctxs.get? cx).map Ctx.st with
    | some 3 | some 4 => .next (s.resumeIdle cx core)
    | _ => .next s

/-! ## Abort, reset, creation (R390, R391) -/

/-- Engine commands that would never complete are dropped with their Hasp entries: collectives, parked copies, and the context's
submissions to the tile engines. A transfer that waits for a page ends in a fault; an engine that runs is stopped by its team's
retirement (spec/10 R215). -/
def State.dropCommands (s : State) (cx : Nat) : State :=
  let ofCtx (t : Nat) : Bool := (s.teams.get? t).any fun x => x.ctx == cx
  let s := s.cores.foldl (fun s c =>
    let k := c.1
    let colls := c.2.colls.filterE fun _ b => b.ctx == cx
    let bulks := c.2.bulks.filterE fun _ b => b.ctx == cx && b.parked.isSome
    let streams := c.2.streams.filterE fun _ x => x.owner.any ofCtx && x.parked.isSome
    let ids := (colls.flatMap fun e => e.2.entries) ++ (bulks.flatMap fun e => e.2.entries) ++
      (streams.flatMap fun e => e.2.entries.flatMap (·.2))
    (s.haspDrop k ids).modCore k fun c =>
      { c with
        colls := c.colls.filterE fun i _ => !colls.has i
        bulks := c.bulks.filterE fun i _ => !bulks.has i
        streams := c.streams.mapV fun i x =>
          if streams.has i then { x with st := 6, reason := 9, parked := none, entries := [], slotTile := [], auto := false } else x }) s
  s.tileEngs.foldl (fun s e =>
    let dead := e.2.subs.filterE fun _ b => b.ctx == cx
    let s := dead.foldl (fun s b => s.haspDrop b.2.core b.2.entries) s
    s.modTileEng e.1 fun x =>
      { x with
        subs := x.subs.filterE fun k _ => !dead.has k
        groups := x.groups.filter fun g => !dead.has g.sub
        contribs := x.contribs.filterE fun _ c => !dead.has c.sub
        stopped := x.stopped.filter (· != cx) }) s

/-- Abort a context: its teams are killed, its conductor stops, its queues halt, its Drovers are freed, and its translations are
invalidated. What its groups had issued still drains. -/
def State.abortCtx (s : State) (cx : Nat) : State :=
  match s.ctxs.get? cx with
  | none => s
  | some c =>
    if c.st == 5 then s else
    let tids := (s.teams.filter fun e => e.2.ctx == cx).map (·.1)
    let s := tids.foldl State.killAny s
    let s := s.dropCommands cx
    let mine (l : Nat) : Bool := (s.launches.get? l).any fun x => x.ctx == cx
    let s := { s with drovers := s.drovers.filterE fun _ d => !mine d.launch }
    let live (l : Nat) : Bool := s.teams.any fun t => t.2.launch == l
    let s := { s with launches := (s.launches.filterE fun k l => l.ctx != cx || live k).mapV fun _ l =>
      if l.ctx == cx then { l with st := 4, drained := true } else l }
    let s := s.stopConductor cx
    let s := (s.queues.filter fun q => q.2.ctx == cx && !q.2.halted).foldl (fun s q => s.haltQueue q.1) s
    let s := s.modCtx cx fun c =>
      { c with
        st := 5, tasks := [], lq := [], portOpen := [], stamps := [], nodes := [], slots := [], wakes := [], trial := none }
    s.dropTlb c.asid 0 (2 ^ 56)

def execContextAbort (ctx : Nat) (s : State) : Host.Outcome State Fault Refusal := .next (s.abortCtx ctx)

/-- FUNCTION_LEVEL_RESET: the function's contexts are aborted, every context for the physical function; its count of queue halts
starts again. -/
def execFunctionLevelReset (fn : Fin 64) (s : State) : Host.Outcome State Fault Refusal :=
  let hit (f : Nat) : Bool := fn.val == 0 || f == fn.val
  let s := ((s.ctxs.filter fun e => hit e.2.fn).map (·.1)).foldl State.abortCtx s
  .next { s with
    halts := s.halts.filterE fun f _ => !hit f
    funs := s.funs.mapV fun f x => if hit f then { x with msix := [], table := [], pending := [] } else x }

/-- The context that a descriptor describes (R390); none for a malformed one. -/
def ctxOfDesc (d : BitVec 512) : Option Ctx :=
  let f (hi lo : Nat) : Nat := bitsN d.toNat hi lo
  if f 63 52 != 0 || f 79 79 != 0 || f 127 93 != 0 || f 191 180 != 0 || f 255 244 != 0 || f 13 0 != 0 ||
      f 87 83 < 6 || 16 < f 87 83 || f 92 88 < 6 || 16 < f 92 88 || f 139 128 != 0 || f 203 192 != 0 then none
  else some
    { root := f 51 0, asid := f 72 64, fn := f 78 73, frsz := f 87 83, rrsz := f 92 88, fring := f 179 128, rring := f 243 192
      ftail := BitVec.ofNat 32 (f 287 256), fhead := BitVec.ofNat 32 (f 319 288), rtail := BitVec.ofNat 32 (f 351 320)
      rhead := BitVec.ofNat 32 (f 383 352), dropped := BitVec.ofNat 32 (f 415 384) }

/-- CONTEXT_CREATE: at most 512 contexts are resident, with different ASIDs; an aborted context gives way, and its ASID is released,
once its teams have retired, every access having been performed. No translation made meanwhile is kept. -/
def execContextCreate (ctx : Nat) (desc : BitVec 512) (s : State) : Host.Outcome State Fault Refusal :=
  match ctxOfDesc desc with
  | none => .next s
  | some c =>
    let gone (k : Nat) (x : Ctx) : Bool := x.st == 5 && !s.teams.any fun t => t.2.ctx == k
    let free := match s.ctxs.get? ctx with
      | none => true
      | some x => gone ctx x
    if !s.up || 512 ≤ ctx || !free || s.ctxs.any (fun e => e.1 != ctx && e.2.asid == c.asid && !gone e.1 e.2) then .next s
    else .next ({ s with ctxs := s.ctxs.set ctx c }.dropTlb c.asid 0 (2 ^ 56))

end Sys2Proof.Machine
end

