-- ==== Sys2Proof/Machine/Float.lean ====
section
/-! DEFINITION. Float: the floating-point instructions (spec/06 R116 to R124). -/

namespace Sys2Proof.Machine

/-- A code of a format with the absolute-value bit applied, then the negate bit (spec/03 R41, spec/06 R112). -/
def signMods (f : Fmt) (neg abs : Bool) (x : Nat) : Nat :=
  let y := x % 2 ^ f.width
  let y := if abs then y % 2 ^ (f.width - 1) else y
  if neg then y ^^^ 2 ^ (f.width - 1) else y

/-- The sources a, b and c of type T in lane `l`, after the modifiers and FTZ. -/
def Here.fa (h : Here) (w : AluW) (l : Nat) : FVal :=
  let f := fmtOf w.ty
  f.dec (fsrFtz h.g.fsr) (signMods f w.na w.aa (h.src32 w.a w.imm.toNat l))
def Here.fb (h : Here) (w : AluW) (l : Nat) : FVal :=
  let f := fmtOf w.ty
  f.dec (fsrFtz h.g.fsr) (signMods f w.nb w.ab (h.src32 w.b w.imm.toNat l))
def Here.fc (h : Here) (w : AluW) (l : Nat) : FVal :=
  let f := fmtOf w.ty
  f.dec (fsrFtz h.g.fsr) (signMods f w.nc w.ac (h.src32 w.c w.imm.toNat l))

/-- The mode of lane `l`. -/
def Here.md (h : Here) (w : AluW) (l : Nat) : Mode := h.mode w.rm (h.rand w l)

/-! ## Sums and products (R116) -/

/-- One rounding of products plus addends in type T. -/
def dotSlot (w : AluW) (terms : Here → Nat → List (FVal × FVal) × List FVal) (h : Here) (s : State) : SlotResult :=
  .done <| s.putF h w fun l =>
    let t := terms h l
    (fmtOf w.ty).dot (h.md w l) w.sat (fsrFtz h.g.fsr) t.1 t.2

def execFadd (w : AluW) (s : State) : Host.Outcome State Fault Refusal :=
  runSlot (.fadd w) (dotSlot w fun h l => ([], [h.fa w l, h.fb w l])) s
def execFsub (w : AluW) (s : State) : Host.Outcome State Fault Refusal :=
  runSlot (.fsub w) (dotSlot w fun h l => ([], [h.fa w l, (h.fb w l).flip])) s
/-- FMUL rounds a product alone: the sign of a zero is the product's. -/
def execFmul (w : AluW) (s : State) : Host.Outcome State Fault Refusal :=
  runSlot (.fmul w) (dotSlot w fun h l => ([(h.fa w l, h.fb w l)], [])) s
def execFfma (w : AluW) (s : State) : Host.Outcome State Fault Refusal :=
  runSlot (.ffma w) (dotSlot w fun h l => ([(h.fa w l, h.fb w l)], [h.fc w l])) s

/-! ## Minimum, maximum, compare, class (R117 to R119) -/

def minmaxSlot (w : AluW) (isMax : Bool) (h : Here) (s : State) : SlotResult :=
  let f := fmtOf w.ty
  .done <| s.putF h w fun l =>
    (f.minmax (fsrFtz h.g.fsr) isMax (signMods f w.na w.aa (h.src32 w.a w.imm.toNat l))
      (signMods f w.nb w.ab (h.src32 w.b w.imm.toNat l)), 0)

def execFmin (w : AluW) (s : State) : Host.Outcome State Fault Refusal := runSlot (.fmin w) (minmaxSlot w false) s
def execFmax (w : AluW) (s : State) : Host.Outcome State Fault Refusal := runSlot (.fmax w) (minmaxSlot w true) s

/-- The relations of R118 and their NV. -/
def cmpVal (fn : Nat) (a b : FVal) : Bool × Nat :=
  let un := a.isNan || b.isNan
  let lt := !un && ltVal a b
  let gt := !un && ltVal b a
  let eq := !un && eqVal a b
  let nv := if un then flNV else 0
  match fn with
  | 0 => (eq, 0) | 1 => (!eq, 0)
  | 2 => (lt, nv) | 3 => (lt || eq, nv) | 4 => (gt, nv) | 5 => (gt || eq, nv)
  | 6 => (!un, 0) | _ => (un, 0)

def execFcmp (w : AluW) (s : State) : Host.Outcome State Fault Refusal :=
  runSlot (.fcmp w) (fun h s => .done <| s.putCmp h w fun l => cmpVal w.fn.val (h.fa w l) (h.fb w l)) s

/-- The class bit of R119. -/
def classBit (f : Fmt) (x : FVal) : Nat :=
  match x with
  | .nan => 8
  | .inf n => if n then 0 else 7
  | .fin n m _ =>
    if m == 0 then (if n then 3 else 4)
    else if m < 2 ^ f.mb then (if n then 2 else 5)
    else if n then 1 else 6

def execFclass (w : AluW) (s : State) : Host.Outcome State Fault Refusal :=
  runSlot (.fclass w) (fun h s => .done <| s.putF h w fun l => (2 ^ classBit (fmtOf w.ty) (h.fb w l), 0)) s

/-! ## Quotients and roots (R120) -/

/-- a / b, rounded once. -/
def Fmt.div (f : Fmt) (md : Mode) (sat ftz : Bool) (a b : FVal) : Nat × Nat :=
  match a, b with
  | .nan, _ | _, .nan => (f.nan, 0)
  | .inf _, .inf _ => (f.nan, flNV)
  | .inf n, .fin n' _ _ => (f.inf (n != n'), 0)
  | .fin n _ _, .inf n' => (f.signBit (n != n'), 0)
  | .fin n m e, .fin n' m' e' =>
    if m' == 0 then (if m == 0 then (f.nan, flNV) else (f.inf (n != n'), flDZ))
    else f.round md sat ftz (n != n') (m * 2 ^ (e - e').toNat) (m' * 2 ^ (e' - e).toNat) false

/-- ⌊√n⌋ for n below 2^320. -/
def isqrt (n : Nat) : Nat :=
  (List.range 160).foldl (fun r i => let c := r + 2 ^ (159 - i); if c * c ≤ n then c else r) 0

/-- √b, rounded once. -/
def Fmt.sqrt (f : Fmt) (md : Mode) (sat ftz : Bool) (b : FVal) : Nat × Nat :=
  match b with
  | .nan => (f.nan, 0)
  | .inf n => if n then (f.nan, flNV) else (f.inf false, 0)
  | .fin n m e =>
    if m == 0 then (f.signBit n, 0)
    else if n then (f.nan, flNV)
    else
      let e2 : Int := e / 2
      let x := m * 2 ^ (e - 2 * e2).toNat * 2 ^ 128
      let r := isqrt x
      f.round md sat ftz false (r * 2 ^ e2.toNat) (2 ^ 64 * 2 ^ (-e2).toNat) (r * r != x)

/-- 1 / √b, rounded once. -/
def Fmt.rsqrt (f : Fmt) (md : Mode) (sat ftz : Bool) (b : FVal) : Nat × Nat :=
  match b with
  | .nan => (f.nan, 0)
  | .inf n => if n then (f.nan, flNV) else (0, 0)
  | .fin n m e =>
    if m == 0 then (f.inf n, flDZ)
    else if n then (f.nan, flNV)
    else
      let e2 : Int := e / 2
      let y := m * 2 ^ (e - 2 * e2).toNat
      let r := isqrt (2 ^ 256 / y)
      f.round md sat ftz false (r * 2 ^ (-e2).toNat) (2 ^ 128 * 2 ^ e2.toNat) (r * r * y != 2 ^ 256)

/-- A one-source function of b in type T. -/
def unaryF (w : AluW) (g : Mode → Bool → FVal → Nat × Nat) (h : Here) (s : State) : SlotResult :=
  .done <| s.putF h w fun l => g (h.md w l) (fsrFtz h.g.fsr) (h.fb w l)

def execFrcp (w : AluW) (s : State) : Host.Outcome State Fault Refusal :=
  runSlot (.frcp w) (unaryF w fun md ftz b => (fmtOf w.ty).div md w.sat ftz (.fin false 1 0) b) s
def execFrsq (w : AluW) (s : State) : Host.Outcome State Fault Refusal :=
  runSlot (.frsq w) (unaryF w fun md ftz b => (fmtOf w.ty).rsqrt md w.sat ftz b) s
def execFsqrt (w : AluW) (s : State) : Host.Outcome State Fault Refusal :=
  runSlot (.fsqrt w) (unaryF w fun md ftz b => (fmtOf w.ty).sqrt md w.sat ftz b) s
def execFdiv (w : AluW) (s : State) : Host.Outcome State Fault Refusal :=
  runSlot (.fdiv w) (fun h s => .done <| s.putF h w fun l =>
    (fmtOf w.ty).div (h.md w l) w.sat (fsrFtz h.g.fsr) (h.fa w l) (h.fb w l)) s

/-! ## Transcendentals (R121), type f32 -/

/-- A name for an argument of Config.undecided. -/
def FVal.key : FVal → Nat
  | .fin n m e => (if n then 1 else 0) + 2 * m + 2 ^ 32 * (e + 1024).toNat
  | _ => 0

def exp2F (sat : Bool) (md : Mode) (ftz : Bool) (b : FVal) : Nat × Nat :=
  let f := Fmt.f32
  match b with
  | .nan => (f.nan, 0)
  | .inf n => (if n then 0 else f.inf false, 0)
  | .fin _ m _ =>
    if m == 0 then (0x3F800000, 0)
    else
      let x := b.fix
      if b.isInteger && -300 * (one448 : Int) ≤ x && x ≤ 300 * (one448 : Int) then
        let k := x / (one448 : Int)
        f.round md sat ftz false (2 ^ k.toNat) (2 ^ (-k).toNat) false
      else (exp2Encl b).round f md sat ftz 1 b.key

def log2F (sat : Bool) (md : Mode) (ftz : Bool) (b : FVal) : Nat × Nat :=
  let f := Fmt.f32
  match b with
  | .nan => (f.nan, 0)
  | .inf n => if n then (f.nan, flNV) else (f.inf false, 0)
  | .fin n m e =>
    if m == 0 then (f.inf true, flDZ)
    else if n then (f.nan, flNV)
    else
      let k := floorLog2 m 1
      if m == 2 ^ k.toNat then
        let v := k + e
        f.round md sat ftz (decide (v < 0)) v.natAbs 1 false
      else (log2Encl m e).round f md sat ftz 2 b.key

/-- sin(π b), with the sign of b on an integer. -/
def sinPiF (sat : Bool) (md : Mode) (ftz : Bool) (b : FVal) : Nat × Nat :=
  let f := Fmt.f32
  match b with
  | .nan => (f.nan, 0)
  | .inf _ => (f.nan, flNV)
  | .fin n _ _ =>
    if b.isInteger then (f.signBit n, 0)
    else match sinPiUnit b.mod2 with
      | (v, none) => f.ofVal md sat ftz v
      | (_, some x) => x.round f md sat ftz 3 b.key

/-- cos(π b) = sin(π (b + 1/2)); +0 at the half-integers. -/
def cosPiF (sat : Bool) (md : Mode) (ftz : Bool) (b : FVal) : Nat × Nat :=
  let f := Fmt.f32
  match b with
  | .nan => (f.nan, 0)
  | .inf _ => (f.nan, flNV)
  | .fin _ _ _ =>
    match sinPiUnit ((b.mod2 + one448 / 2) % (2 * one448)) with
    | (v, none) => if v.isZero then (0, 0) else f.ofVal md sat ftz v
    | (_, some x) => x.round f md sat ftz 4 b.key

def execFexp2 (w : AluW) (s : State) : Host.Outcome State Fault Refusal := runSlot (.fexp2 w) (unaryF w (exp2F w.sat)) s
def execFlog2 (w : AluW) (s : State) : Host.Outcome State Fault Refusal := runSlot (.flog2 w) (unaryF w (log2F w.sat)) s
def execFsin (w : AluW) (s : State) : Host.Outcome State Fault Refusal := runSlot (.fsin w) (unaryF w (sinPiF w.sat)) s
def execFcos (w : AluW) (s : State) : Host.Outcome State Fault Refusal := runSlot (.fcos w) (unaryF w (cosPiF w.sat)) s

/-! ## Round to integral, dot products, sign, exponent (R122 to R124) -/

/-- Round to an integral value of the same type; a zero keeps b's sign. -/
def Fmt.integral (f : Fmt) (md : Mode) (b : FVal) : Nat × Nat :=
  match b with
  | .fin n m e =>
    let d := 2 ^ (-e).toNat
    let q := m * 2 ^ e.toNat / d
    let rem := m * 2 ^ e.toNat % d
    let r := q + (if roundsUp md n q rem d false then 1 else 0)
    ((f.round .rne false false n r 1 false).1, if rem == 0 then 0 else flNX)
  | v => f.ofVal md false false v

def execFrnd (w : AluW) (s : State) : Host.Outcome State Fault Refusal :=
  runSlot (.frnd w) (unaryF w fun md _ b => (fmtOf w.ty).integral md b) s

/-- Element `i` of a packed operand of floats of format `f`, negated when asked. -/
def elemF (f : Fmt) (ftz neg : Bool) (x i : Nat) : FVal :=
  f.dec ftz (signMods f neg false (x / 2 ^ (f.width * i)))

def dpSlot (w : AluW) (fa fb : Fmt) (n : Nat) (h : Here) (s : State) : SlotResult :=
  let ftz := fsrFtz h.g.fsr
  .done <| s.putF h w fun l =>
    let a := h.src32 w.a 0 l
    let b := h.src32 w.b 0 l
    let c := Fmt.f32.dec ftz (signMods .f32 w.nc w.ac (h.src32 w.c 0 l))
    Fmt.f32.dot (h.md w l) w.sat ftz ((List.range n).map fun i => (elemF fa ftz w.na a i, elemF fb ftz w.nb b i)) [c]

def execFdp2 (w : AluW) (s : State) : Host.Outcome State Fault Refusal :=
  runSlot (.fdp2 w) (dpSlot w (fmtOf w.ty) (fmtOf w.ty) 2) s
def execFdp4 (w : AluW) (s : State) : Host.Outcome State Fault Refusal :=
  runSlot (.fdp4 w) (dpSlot w (fmtOf w.ty) (fmtOf w.t2) 4) s

def execFcopys (w : AluW) (s : State) : Host.Outcome State Fault Refusal :=
  runSlot (.fcopys w) (fun h s => .done <| s.putF h w fun l =>
    let f := fmtOf w.ty
    let a := h.fa w l
    let neg := (h.src32 w.b w.imm.toNat l).testBit (f.width - 1)
    (f.ofVal .rne false false (if neg then a.abs.flip else a.abs)).1 |> fun r => (r, 0)) s

/-- a × 2^n, rounded once; an exponent beyond ±4000 rounds as far out as the bound does. -/
def Fmt.ldexp (f : Fmt) (md : Mode) (sat ftz : Bool) (a : FVal) (n : Int) : Nat × Nat :=
  match a with
  | .fin neg m e =>
    let n := if n < -4000 then -4000 else if 4000 < n then 4000 else n
    f.ofVal md sat ftz (.fin neg m (e + n))
  | v => f.ofVal md sat ftz v

def execFldexp (w : AluW) (s : State) : Host.Outcome State Fault Refusal :=
  runSlot (.fldexp w) (fun h s => .done <| s.putF h w fun l =>
    (fmtOf w.ty).ldexp (h.md w l) w.sat (fsrFtz h.g.fsr) (h.fa w l) (sextI 32 (h.src32 w.b w.imm.toNat l))) s

/-- The exponent e with b = f × 2^e and 0.5 ≤ |f| < 1. -/
def FVal.frexp (b : FVal) : Int :=
  match b with
  | .fin _ m e => if m == 0 then 0 else floorLog2 m 1 + 1 + e
  | _ => 0

def execFfrexp (w : AluW) (s : State) : Host.Outcome State Fault Refusal :=
  runSlot (.ffrexp w) (fun h s => .done <| s.putF h w fun l =>
    let b := h.fb w l
    if w.xm.getLsbD 0 then (wrapN 64 b.frexp, 0)
    else match b with
      | .fin n m e => ((fmtOf w.ty).ofVal .rne false false (.fin n m (e - b.frexp)) |>.1, 0)
      | v => ((fmtOf w.ty).ofVal .rne false false v |>.1, 0)) s

end Sys2Proof.Machine
end

