-- ==== Sys2Proof/Machine/Convert.lean ====
section
/-! DEFINITION. Convert: conversions, block quantisation and the keyed counter generator (spec/06 R125 to R134). -/

namespace Sys2Proof.Machine

/-! ## CVT, CVTI, CVTF (R125 to R128) -/

/-- The source element of a conversion: IPOS of a source of type T2, as bits. -/
def Here.cvtElem (h : Here) (w : AluW) (l : Nat) : Nat :=
  let n := w.t2.bits
  let x := if n == 64 then h.src64 w.b 0 l else h.src32 w.b 0 l
  x / 2 ^ (n * (w.xm.toNat / 2 ^ 10 % 4)) % 2 ^ n

/-- Place a result of `n` bits at OPOS, every other bit from SRCA; a result of 32 bits or more stands alone. -/
def Here.cvtMerge (h : Here) (w : AluW) (n l r : Nat) : Nat :=
  if 32 ≤ n then r
  else
    let base := if w.dst.isS then h.src64 w.a 0 l else h.src32 w.a 0 l
    let sh := n * (w.xm.toNat / 2 ^ 8 % 4)
    let old := base / 2 ^ sh % 2 ^ n
    base - old * 2 ^ sh + r % 2 ^ n * 2 ^ sh

def execCvt (w : AluW) (s : State) : Host.Outcome State Fault Refusal :=
  runSlot (.cvt w) (fun h s => .done <| s.putF h w fun l =>
    let ftz := fsrFtz h.g.fsr
    let r := (fmtOf w.ty).ofVal (h.md w l) w.sat ftz ((fmtOf w.t2).dec ftz (h.cvtElem w l))
    (h.cvtMerge w w.ty.bits l r.1, r.2)) s

def execCvti (w : AluW) (s : State) : Host.Outcome State Fault Refusal :=
  runSlot (.cvti w) (fun h s => .done <| s.putF h w fun l =>
    let r := toInt (h.md w l) w.ty.signed w.ty.bits ((fmtOf w.t2).dec (fsrFtz h.g.fsr) (h.cvtElem w l))
    (h.cvtMerge w w.ty.bits l (wrapN 64 r.1), r.2)) s

def execCvtf (w : AluW) (s : State) : Host.Outcome State Fault Refusal :=
  runSlot (.cvtf w) (fun h s => .done <| s.putF h w fun l =>
    let e := h.cvtElem w l
    let x : Int := if w.t2.signed then sextI w.t2.bits e else (e : Int)
    let r := (fmtOf w.ty).ofVal (h.md w l) w.sat (fsrFtz h.g.fsr) (.fin (decide (x < 0)) x.natAbs 0)
    (h.cvtMerge w w.ty.bits l r.1, r.2)) s

/-! ## Blocks (R129 to R131) -/

/-- A packed block: data nibbles by element, S, X and the flags. -/
structure E2Block where
  data : Nat
  s : Nat
  x : Nat
  flags : Nat
  deriving DecidableEq, Repr

/-- Is |a| larger than |b|, both finite? -/
def gtMag (a b : FVal) : Bool := ltVal b.abs a.abs

/-- The block of 32 contributed elements (R130): mode 0 .xnone, 1 .xmax, 2 .xset. DESIGN CHOICE: a largest magnitude over no finite
element is 0, so that a block of infinities alone has s = −127 and, under .xmax, X = 0 (log 40). -/
def qpackBlock (xs : List FVal) (mode xset : Nat) (md : Nat → Mode) : E2Block :=
  let bad : E2Block := { data := 0, s := 0xFF, x := 0, flags := flNV }
  if xs.any FVal.isNan || (mode == 2 && (Fmt.e4m3.dec false xset).isNan) then bad
  else
    let zero : FVal := .fin false 0 0
    let fins := (List.range 32).filter fun i => !(xs.getD i zero).isInf
    let at_ (i : Nat) : FVal := xs.getD i zero
    let top : Nat := (fins.foldl (fun (b : Option Nat) i =>
      match b with
      | none => some i
      | some j => if gtMag (at_ i) (at_ j) then some i else b) none).getD 32
    let a := at_ top
    let a2 := fins.foldl (fun b i => if i != top && gtMag (at_ i) b then at_ i else b) zero
    let fits (v : FVal) (k : Nat) (s : Int) : Bool := !gtMag v (.fin false k s)
    let ok (s : Int) : Bool := if mode == 1 then fits a2 6 s && fits a 448 s else fits a 6 s
    let s : Int := (((List.range 255).map fun (i : Nat) => (i : Int) - 127).find? ok).getD 127
    let x := if mode == 1 then (match a with
        | .fin n m e => (Fmt.e4m3.ofVal .rne false false (.fin n m (e - s))).1
        | _ => 0)
      else if mode == 2 then xset % 256 else 0
    let rs := (List.range 32).map fun i => e2Write (md i) s x (at_ i)
    { data := (rs.foldr (fun r acc => r.1 + 16 * acc) 0), s := (s + 127).toNat, x := x
      flags := rs.foldl (fun f r => f ||| r.2) 0 }

/-- The block register layout (R129): lane `l`'s word. -/
def E2Block.lane (b : E2Block) (l : Nat) : Nat :=
  if l < 4 then b.data / 2 ^ (32 * l) % 2 ^ 32 else if l == 4 then b.s + b.x * 2 ^ 8 else 0

def execQpack (w : AluW) (s : State) : Host.Outcome State Fault Refusal :=
  runSlot (.qpack w) (fun h s =>
    let act := h.active w.g w.gn
    if act == 0 then .done (s.writeVec h w.dst w.ws false 0 fun _ => 0)
    else
      let ftz := fsrFtz h.g.fsr
      let xs := (List.range 32).map fun l =>
        if act.getLsbD l then Fmt.f32.dec ftz (h.src32 w.a 0 l) else .fin false 0 0
      let b := qpackBlock xs (w.xm.toNat / 256 % 4) (h.src64 w.b 0 0 % 256) (h.md w)
      .done ((s.writeVec h w.dst w.ws false 0xFFFFFFFF b.lane).raise h.gid b.flags)) s

def execQunpk (w : AluW) (s : State) : Host.Outcome State Fault Refusal :=
  runSlot (.qunpk w) (fun h s => .done <| s.putF h w fun l =>
    let sx := if w.c.isZr then h.src32 w.b 0 4 else h.src64 w.c 0 0
    let code := h.src32 w.b 0 (l / 8) / 2 ^ (4 * (l % 8)) % 16
    (fmtOf w.ty).ofVal (h.md w l) w.sat (fsrFtz h.g.fsr) (e2m1Val code (sx % 256) (sx / 256 % 256))) s

/-! ## The keyed counter generator (R132 to R134) -/

/-- F(K, C) of R132. -/
def kcg (k c : BitVec 64) : BitVec 64 :=
  (List.range 4).foldl (fun x i =>
    let x := x + k + BitVec.ofNat 64 i * 0x9E3779B97F4A7C15
    let x := (x ^^^ (x >>> 29)) * 0xD1B54A32D192ED03
    let x := (x ^^^ (x >>> 32)) * 0xAEF17502108EF2D9
    x ^^^ (x >>> 29)) (c ^^^ k.rotateLeft 17)

def Here.kcgAt (h : Here) (w : AluW) (l : Nat) : Nat :=
  (kcg (BitVec.ofNat 64 (h.src64 w.a 0 l)) (BitVec.ofNat 64 (h.src64 w.b 0 l))).toNat

def execRng (w : AluW) (s : State) : Host.Outcome State Fault Refusal :=
  runSlot (.rng w) (fun h s => .done <| s.putF h w fun l =>
    (if w.ty.is64 then h.kcgAt w l else h.kcgAt w l % 2 ^ 32, 0)) s

def execRngf (w : AluW) (s : State) : Host.Outcome State Fault Refusal :=
  runSlot (.rngf w) (fun h s => .done <| s.putF h w fun l =>
    ((Fmt.f32.ofVal .rne false false (.fin false (h.kcgAt w l / 2 ^ 40) (-24))).1, 0)) s

end Sys2Proof.Machine
end

