-- ==== Sys2Proof/Machine/Reliab.lean ====
section
/-! DEFINITION. Reliab: the Shepherd's decisions, scrubs and page retirement, energy, sleep, boot and attestation (spec/26). -/

namespace Sys2Proof.Machine

/-! ## The Shepherd (R419, R426) -/

/-- Withdraw a fragment's waits, of whichever kind: the instruction that waits issues anew, or not at all. -/
def State.unwait (s : State) (tid gid fid : Nat) : State :=
  let s := s.withdraw fid
  let s := match s.accs.get? tid with
    | some a => if a.waiters.contains fid then s.putAcc tid { a with waiters := a.waiters.filter (· != fid) } else s
    | none => s
  s.modTeam tid fun t => { t with claims := t.claims.filter fun c => c.1 != gid }

/-- Restart a group at RGNPC: outstanding loads and latches are discarded, the signature starts again, and the group goes on at
the RGN's own slot, wherever its fragment stopped. RGNPC and the signature are written, which heals their words. -/
def State.restart (s : State) (gid : Nat) : State :=
  match s.groups.get? gid with
  | none => s
  | some g =>
    let p := g.rgnpc.toNat
    let s := (s.fragsOf gid).foldl (fun s k => s.unwait g.team gid k) s
    let s := s.modGroup gid fun g =>
      { g with pend := g.pend.filterE fun _ p => !p.load, frozen := false, badR := g.badR.filter fun r => match r with | .sig _ => false | _ => true }
    (s.fragsOf gid).foldl (fun s k => s.modFrag k fun f =>
      { ({ f with stopAt := false } : Frag).leave (BitVec.ofNat 56 (p / 64 * 64)) (Fin.ofNat 5 (p % 8)) with
        sig := 0xFFFFFFFF, ticket := none }) s

/-- Cores stay frozen while a group that raised an event on them waits for its decision. The other groups of cores that thaw go on at
their stopping slots: each decision is logged and raises MSI-X vector 1 (R427). -/
def State.thaw (s : State) (gid : Nat) (e : ErrEvent) : State :=
  let hot := (s.groups.filter fun e => e.2.frozen).flatMap fun e =>
    match s.teams.get? e.2.team with
    | some t => s.freezeCores t
    | none => []
  let freed := (s.cores.filter fun c => c.2.frozen && !hot.contains c.1).map (·.1)
  let s := { s with cores := s.cores.mapV fun k c => { c with frozen := c.frozen && hot.contains k } }
  ((freed.flatMap s.teamsOn).flatMap s.liveGroups).foldl (fun s g =>
    match (s.fragsOf g).findSome? s.hereOf with
    | some h => if g == gid then s else (s.logEvent e.kind e.array 1 e.pa (s.errWho h) false).raiseMsix h.cx.fn 1
    | none => s) s

/-- Did the group stop at a poisoned Fold object (R417)? -/
def State.foldPoisoned (s : State) (h : Here) : Bool :=
  match (s.parkedAt h.fid).bind Instr.engRow with
  | some (sg, w) => 0xD4 ≤ sg.op && sg.op ≤ 0xDA && inAperture (h.srcS w.a).toNat &&
      ((s.objs.get? (objKey (h.srcS w.a).toNat)).map Obj.poisoned).getD false
  | none => false

/-- SHEPHERD_DECISION: a group that raised no event goes on at its slot when its core thaws; the source of an event is restarted
when its region is open and this is the region's first event, be its fragment Parked elsewhere, and otherwise its team is killed; a
poisoned Fold object aborts the context. The decision is logged and raises MSI-X vector 1. -/
def execShepherdDecision (gid : Nat) (s : State) : Host.Outcome State Fault Refusal :=
  match s.groups.get? gid with
  | none => .next s
  | some g =>
    if !g.frozen then .next s else
    match (s.teams.get? g.team).bind fun t => (s.ctxs.get? t.ctx).map fun cx => (t, cx) with
    | none => .next s
    | some (t, cx) =>
      let frs := s.fragsOf gid
      let src := (frs.find? fun k => (s.frags.get? k).map Frag.st == some (.parked .frozen)).orElse fun _ => frs.head?
      let h : Here := (src.bind s.hereOf).getD { fid := 2 ^ 21, gid := gid, tid := g.team, f := { group := gid }, g := g, t := t, cx := cx }
      let e := g.error
      let log (d : Nat) (s : State) : State := (s.logEvent e.kind e.array d e.pa (s.errWho h) false).raiseMsix cx.fn 1
      let clear (s : State) : State := s.modGroup gid fun g => { g with frozen := false }
      if s.foldPoisoned h then .next (((clear (log 4 s)).abortCtx t.ctx).thaw gid e)
      else if g.rgnpc != 0 && g.events ≤ 1 && src.isSome then .next (((log 2 s).restart gid).thaw gid e)
      else .next (((clear (log 3 s)).killAny g.team).thaw gid e)

/-! ## What survives a reset of the module (R429, R430, R433) -/

/-- Bytes of a 256 KiB page. -/
def pageBytes : Nat := 2 ^ 18

/-- Positions that no spare covers: each die has two (spec/01 R7, R429). A position stands in the list once for each core that failed
there. -/
def fencedCores (retired : List Nat) : List Nat :=
  (List.range 4).flatMap fun d => ((retired.filter fun k => dieOf k == d).drop 2).dedup

/-- The one-time-programmable state and the flash. -/
def Boot.kept (b : Boot) : Boot :=
  { leaf := b.leaf, keyHash := b.keyHash, minVer := b.minVer, serial := b.serial, retiredCores := b.retiredCores, repairs := b.repairs
    retiredPages := b.retiredPages, fenced := b.fenced, placed := b.placed, rows := b.rows, retiring := b.retiring }

/-- What a reset does with the lists of the flash: spares take the places of the retired cores, positions without one are fenced, and
failing rows are repaired. -/
def Boot.atReset (b : Boot) : Boot :=
  { b with
    fenced := fencedCores b.retiredCores, placed := b.retiredCores.length, repairs := (b.repairs ++ b.rows).dedup, rows := []
    retiring := [] }

/-- What is left when every volatile state is lost: the one-time-programmable state, the flash, the memories outside the module,
and what happens next outside it. -/
def State.cold (s : State) : State :=
  { State.reset with
    g9 := s.g9, hostMem := s.hostMem, domMem := s.domMem, upsets := s.upsets, agenda := s.agenda, free := s.free, window := s.window
    boot := s.boot.kept }

/-- The module sleeps, or has lost its power: nothing goes on until a cold boot. -/
def State.powerOff (s : State) : State := { s.cold with asleep := true }

/-- The module resets under power: the energy counters, the attestation registers and the verified firmware stand. -/
def State.moduleReset (s : State) : State :=
  let b : Boot := { s.boot.kept.atReset with
    aregs := s.boot.aregs, fwVer := s.boot.fwVer, shVer := s.boot.shVer, recovery := s.boot.recovery, report := s.boot.report }
  { s.cold with energy := s.energy, boot := b }

/-! ## Errors, scrubs and page retirement (R416, R429, R430) -/

/-- The error-log fields of a core. -/
def coreWho (core : Nat) : Nat := dieOf core * 2 ^ 16 + coreX core * 2 ^ 18 + coreY core * 2 ^ 22

/-- The error-log fields of an array: of a core's own, the core; of a die's LLC or HBM, the home die of the word; of its synchronisation
engine or control complex, the die. -/
def arrayWho (array core pa : Nat) : Nat :=
  if array == 7 || array == 8 then homeDie pa * 2 ^ 16
  else if array == 9 || array == 13 then dieOf core * 2 ^ 16
  else coreWho core

/-- Is an array one whose errors retire its core: registers, scratchpad, accumulators (R429)? -/
def retiringArray (array : Nat) : Bool := 1 ≤ array && array ≤ 4

/-- Retire a core: a spare takes its place at the next reset, or the position is fenced (R429). One whose retirement waits for that
reset, and a fenced position, are not retired again; a spare that fails is. -/
def State.retireCore (s : State) (core array : Nat) : State :=
  if (s.boot.retiredCores.drop s.boot.placed).contains core || s.boot.fenced.contains core then s
  else { s.logEvent 5 array 0 0 (coreWho core) true with boot := { s.boot with retiredCores := s.boot.retiredCores ++ [core] } }

/-- A failing HBM row: it is repaired at the next reset, and until then its page is to be retired and never mapped again (R430). -/
def State.rowFails (s : State) (pa : Nat) : State :=
  let page := pa / pageBytes
  { s with boot := { s.boot with
      rows := (page :: s.boot.rows).dedup
      retiring := if s.boot.retiredPages.contains page then s.boot.retiring else (page :: s.boot.retiring).dedup } }

/-- 24 hours in nanoseconds. -/
def dayNs : Nat := 24 * 3600 * 10 ^ 9

/-- A corrected error of an HBM row: eight within 24 hours make it a failing one (R430). -/
def State.softRow (s : State) (pa : Nat) : State :=
  let page := pa / pageBytes
  let l := (page, s.time.toNat) :: s.softRows.filter fun e => decide (s.time.toNat - e.2 < dayNs)
  let s := { s with softRows := l }
  if 8 ≤ (l.filter fun e => e.1 == page).length then s.rowFails pa else s

/-- A corrected error changes no value: it is counted, and logged at most once a second for its array. Sixteen entries of one of a
core's arrays within 24 hours retire the core (R428, R429). -/
def State.logCorrected (s : State) (array core pa : Nat) : State :=
  let k := errKey 0 array pa
  let age (e : BitVec 512) : Nat := s.time.toNat - bitsN e.toNat 383 320
  let s := if array == 8 then s.softRow pa else s
  if s.errLog.any fun e => bitsN e.toNat 11 0 == array * 16 && age e < 10 ^ 9 then
    { s with errCounts := s.errCounts.setD 0 k (s.errCounts.getD 0 k + 1) }
  else
    let who := arrayWho array core pa
    let s := s.logEvent 0 array 0 pa who true
    let same (e : BitVec 512) : Bool :=
      bitsN e.toNat 11 0 == array * 16 && bitsN e.toNat 25 16 * 2 ^ 16 == who && age e < dayNs
    if retiringArray array && decide (16 ≤ (s.errLog.filter same).length) then s.retireCore core array else s

/-- Poison created in HBM, or in a dirty word of the LLC, of the word's home die. -/
def State.newPoison (s : State) (array pa n : Nat) : State :=
  (s.markPoison 0 pa n).logEvent 2 array 0 pa (homeDie pa * 2 ^ 16) true

/-- An uncorrectable error of an HBM block: it is poisoned, and its row fails. -/
def State.blockLost (s : State) (b : Nat) : State := (s.newPoison 8 (32 * b) 32).rowFails (32 * b)

/-- Take an HBM address's line out of the LLC of its home die, which refetches it. -/
def State.llcDrop (s : State) (pa : Nat) : State :=
  { s with llc := s.llc.setD [] (homeDie pa) ((s.llc.getD [] (homeDie pa)).filter fun e => e.1 != pa / 128) }

/-- The entries of a TLB that do not translate an address. -/
def dropVa (va : Nat) (l : List TlbEntry) : List TlbEntry := l.filter fun e => !(decide (e.va ≤ va) && decide (va < e.va + e.size))

/-- An error strikes (R416), or another input comes. Without power nothing strikes. -/
def State.strike (s : State) (u : Upset) : State :=
  if s.asleep then s else
  match u with
  | .corrected array core pa => s.logCorrected array core pa
  | .vreg g w => s.modGroup g fun x => { x with badV := x.badV.setD false w true }
  | .reg g r => s.modGroup g fun x => { x with badR := (r :: x.badR).dedup }
  | .scratch t w =>
    let hit (m : MOp) : MOp := if m.team == t then { m with image := m.image.map fun i => { i with poison := i.poison.set w true } } else m
    { s.modTeam t fun x => { x with scrPoison := x.scrPoison.setD false w true } with
      cores := s.cores.mapV fun _ c => { c with mops := c.mops.mapV fun _ m => hit m } }
  | .accum t p => { s with accs := s.accs.modify t fun a => { a with poison := a.poison.setD false p true } }
  | .l1 c ln => s.modCore c fun x => { x with l1 := x.l1.filter (· != ln) }
  | .fetch g => s.freezeGroup g 6
  | .llc pa =>
    match (s.llc.getD [] (homeDie pa)).find? fun e => e.1 == pa / 128 with
    | none => s
    | some (_, true) => s.newPoison 7 (pa / 8 * 8) 8
    | some (_, false) => s.llcDrop pa
  | .hbm b => if s.hbmBytes ≤ 32 * b then s else s.blockLost b
  | .object k =>
    { s with objs := s.objs.modify k fun o => { o with poisoned := true } }.logEvent 2 9 0 0 (k / 2 ^ 32 % 4 * 2 ^ 16) true
  | .penSlot c k => s.penDiscard c k
  | .penRow c t r => s.modPenTile c t fun x => { x with rows := x.rows.zipIdx.map fun e => { e.1 with bad := e.1.bad || e.2 == r } }
  | .entry g => s.freezeGroup g 11
  | .tlb c va => s.modCore c fun x => { x with tlb := dropVa va x.tlb }
  | .tlb2 d va => { s with tlb2 := s.tlb2.modify d (dropVa va) }
  | .control none => s
  | .control (some cx) =>
    match s.ctxs.get? cx with
    | none => s
    | some x => ((s.logEvent 1 13 4 0 (x.asid % 512 * 2 ^ 32 + x.fn % 64 * 2 ^ 41) true).raiseMsix x.fn 1).abortCtx cx
  | .shento => s.moduleReset
  | .reproduced c array =>
    if retiringArray array &&
        s.errLog.any fun e => bitsN e.toNat 11 0 == array * 16 + 1 && bitsN e.toNat 25 16 * 2 ^ 16 == coreWho c then
      s.retireCore c array
    else s
  | .msixWrite fn v x => if s.up && decide (fn < 64) && decide (v < 2048) then s.modFun fn fun f => f.writeEntry v x else s

/-- HBM_SCRUB: a 32-byte block with an error is corrected, which changes no value, or poisoned. -/
def execHbmScrub (block : Nat) (correctable : Bool) (s : State) : Host.Outcome State Fault Refusal :=
  if !s.up || s.hbmBytes ≤ 32 * block then .next s
  else if correctable then .next (s.logCorrected 8 0 (32 * block))
  else .next (s.blockLost block)

/-- Move the listed bytes and marks of a range of keys. -/
def moveKeys {α : Type} (m : SMap α) (lo dst n : Nat) : SMap α :=
  let inside (k : Nat) : Bool := lo ≤ k && k < lo + n
  (m.filter fun e => inside e.1).foldl (fun m e => m.set (dst + (e.1 - lo)) e.2)
    (m.filterE fun k _ => !(decide (dst ≤ k) && decide (k < dst + n)))

/-- PAGE_RETIRE: accesses in flight perform, the page's contents move with their poison marks, Shento writes the new leaves, and
no agent keeps an old translation. Shento chooses when, and the page that takes the place (log 35). -/
def execPageRetire (page target : Nat) (ptes : List (Nat × BitVec 64)) (s : State) : Host.Outcome State Fault Refusal :=
  let lo := page * pageBytes
  let dst := target * pageBytes
  if !s.up || s.hbmBytes < lo + pageBytes || s.hbmBytes < dst + pageBytes || page == target || s.boot.retiredPages.contains page ||
      s.pageRetired target then .next s
  else
    let pass (s : State) : State := (s.cores.flatMap fun c => c.2.xfers.map fun e => (c.1, e.1)).foldl (fun s e => s.landXfer e.1 e.2) s
    let s := pass (pass s)
    let s := { s with mem := moveKeys s.mem lo dst pageBytes, poison := moveKeys s.poison (lo / 8) (dst / 8) (pageBytes / 8) }
    let s := s.applyMap ptes
    let keep (l : List TlbEntry) : List TlbEntry := l.filter fun e =>
      let pa := bitsN e.pte.toNat 51 18 * pageBytes
      2 ≤ bitsN e.pte.toNat 7 6 || lo + pageBytes ≤ pa || pa + e.size ≤ lo
    let b : Boot := { s.boot with retiredPages := s.boot.retiredPages ++ [page], retiring := s.boot.retiring.filter (· != page) }
    let s := { s with
      cores := s.cores.mapV fun _ c => { c with tlb := keep c.tlb }
      tlb2 := s.tlb2.mapV fun _ l => keep l
      boot := b }
    .next (s.logEvent 5 8 0 lo (homeDie lo * 2 ^ 16) true)

/-! ## Energy (R431, R432) -/

/-- Is an island a core's? Islands 0 to 191 are numbered as the cores. -/
def coreIslands : Nat := 192

/-- The functions whose teams a core holds. -/
def State.funsOn (s : State) (core : Nat) : List Nat :=
  ((s.teamsOn core).filterMap fun t => (s.teams.get? t).bind fun x => (s.ctxs.get? x.ctx).map Ctx.fn).dedup

/-- The highest PRIO resident on a core. -/
def State.prioOn (s : State) (core : Nat) : Nat :=
  ((s.teamsOn core).filterMap fun t => (s.teams.get? t).map Team.prio).foldl max 0

/-- The core islands that hold only one function's teams. -/
def State.ownIslands (s : State) (fn : Nat) : List Nat := (List.range coreIslands).filter fun k => s.funsOn k == [fn]

/-- Hold an island a number of points below its grant. -/
def State.lowerBy (s : State) (core n : Nat) : State := { s with lowered := s.lowered.setD 0 core n }.settleOpp core

/-- The planner's step for one function at a window boundary. -/
def State.planFun (s : State) (fn : Nat) : State :=
  let f := s.fun_ fn
  let limit := 1000 * f.budget
  if f.budget == 0 then s.modFun fn fun f => { f with overs := 0 }
  else if limit < f.window then
    let mine := s.ownIslands fn
    let classes := sortBy (fun a b => decide (a ≤ b)) (mine.map s.prioOn).dedup
    let s := match classes[f.overs % max 1 classes.length]? with
      | none => s
      | some p => (mine.filter fun k => s.prioOn k == p && s.opps.getD 0 k != 0).foldl (fun s k => s.lowerBy k (s.lowered.getD 0 k + 1)) s
    s.modFun fn fun f => { f with overs := f.overs + 1 }
  else
    let s := s.modFun fn fun f => { f with overs := 0 }
    if 10 * f.window ≤ 9 * limit then
      (s.ownIslands fn).foldl (fun s k => s.lowerBy k (s.lowered.getD 0 k - 1)) s
    else s

/-- ENERGY_WINDOW: a 1 ms window ends. `cycles` lists (core, function, issue cycles); each core island's energy, which no rule
computes (log 13), is charged in proportion, rounded down. While the module sleeps no island is on (spec/01 R12). The 256 islands, 192
of them cores, are the G9's (spec/01 R12); for the G9S, of which the spec gives no number, the model counts as many (log 13). -/
def execEnergyWindow (cycles : List (Nat × Nat × Nat)) (s : State) : Host.Outcome State Fault Refusal :=
  if s.asleep then .next s else
  let e (i : Nat) : Nat := Config.energy s.window i
  let total (k : Nat) : Nat := ((cycles.filter fun c => c.1 == k).map fun c => c.2.2).sum
  let s := { s with
    energy := (List.range 256).foldl (fun m i => m.setD 0 i (m.getD 0 i + BitVec.ofNat 64 (e i))) s.energy
    funs := s.funs.mapV fun _ f => { f with window := 0 } }
  let s := cycles.foldl (fun s c =>
    let n := if coreIslands ≤ c.1 || total c.1 == 0 then 0 else e c.1 * c.2.2 / total c.1
    s.modFun c.2.1 fun f => { f with charged := f.charged + BitVec.ofNat 64 n, window := f.window + n }) s
  let s := (s.funs.map (·.1)).foldl State.planFun s
  .next { s with window := s.window + 1, time := s.time + 1000000 }

/-- ENERGY_BUDGET_SET: in watts; 0 is unlimited. -/
def execEnergyBudgetSet (fn : Fin 64) (watts : Nat) (s : State) : Host.Outcome State Fault Refusal :=
  if s.up then .next (s.modFun fn.val fun f => { f with budget := watts }) else .next s

/-! ## Sleep, power and boot (R433, R434) -/

/-- MODULE_SLEEP: the module sleeps whole, keeps no state, and wakes through COLD_BOOT alone. -/
def execModuleSleep (s : State) : Host.Outcome State Fault Refusal := .next s.powerOff

/-- POWER_LOSS: volatile state is lost; the leaf counter survives (R436). -/
def execPowerLoss (s : State) : Host.Outcome State Fault Refusal := .next s.powerOff

/-! ## SHA-256 (R435)

The spec names the function; here it is built from its own description: constants from the roots of primes, a window of sixteen
words that slides along the rounds, and working variables a to h (log 15). -/

/-- The largest number below 2^b + r whose k-th power is at most x, bit by bit. -/
def rootGo (k x : Nat) : Nat → Nat → Nat
  | 0, r => r
  | b + 1, r => rootGo k x b (if (r + 2 ^ b) ^ k ≤ x then r + 2 ^ b else r)

/-- The first 32 bits of the fraction of a k-th root. -/
def rootBits (k p : Nat) : W32 := BitVec.ofNat 32 (rootGo k (p * 2 ^ (32 * k)) 40 0)

/-- The first 64 primes. -/
def shaPrimes : List Nat :=
  [2, 3, 5, 7, 11, 13, 17, 19, 23, 29, 31, 37, 41, 43, 47, 53, 59, 61, 67, 71, 73, 79, 83, 89, 97, 101, 103, 107, 109, 113, 127, 131] ++
  [137, 139, 149, 151, 157, 163, 167, 173, 179, 181, 191, 193, 197, 199, 211, 223, 227, 229, 233, 239, 241, 251, 257, 263, 269, 271,
   277, 281, 283, 293, 307, 311]

/-- The working variables, and the chaining value. -/
structure Sha where
  a : W32
  b : W32
  c : W32
  d : W32
  e : W32
  f : W32
  g : W32
  h : W32
  deriving DecidableEq, Repr

namespace Sha

def words (v : Sha) : List W32 := [v.a, v.b, v.c, v.d, v.e, v.f, v.g, v.h]

def start : Sha :=
  let r (i : Nat) : W32 := rootBits 2 (shaPrimes.getD i 0)
  { a := r 0, b := r 1, c := r 2, d := r 3, e := r 4, f := r 5, g := r 6, h := r 7 }

/-- Three views of a word together, as shifts to the right: the last one falls out (`keep` false) or comes round. -/
def mix (keep : Bool) (x : W32) (i j k : Nat) : W32 :=
  x.rotateRight i ^^^ (x.rotateRight j ^^^ (if keep then x.rotateRight k else x >>> k))

/-- One round, with the sum of its constant and its message word. -/
def round (v : Sha) (kw : W32) : Sha :=
  let choose := v.g ^^^ (v.e &&& (v.f ^^^ v.g))
  let most := (v.a &&& v.b) ||| (v.c &&& (v.a ||| v.b))
  let t := kw + v.h + choose + mix true v.e 6 11 25
  { a := t + most + mix true v.a 2 13 22, b := v.a, c := v.b, d := v.c, e := v.d + t, f := v.e, g := v.f, h := v.g }

/-- The rounds of a block: the window gives its oldest word and takes the next one. -/
def rounds : List Nat → List W32 → Sha → Sha
  | [], _, v => v
  | p :: ps, win, v =>
    let w (i : Nat) : W32 := win.getD i 0
    let next := mix false (w 14) 17 19 10 + w 9 + mix false (w 1) 7 18 3 + w 0
    rounds ps (win.drop 1 ++ [next]) (v.round (rootBits 3 p + w 0))

/-- Take in a block of sixteen words. -/
def absorb (v : Sha) (win : List W32) : Sha :=
  let r := rounds shaPrimes win v
  { a := v.a + r.a, b := v.b + r.b, c := v.c + r.c, d := v.d + r.d, e := v.e + r.e, f := v.f + r.f, g := v.g + r.g, h := v.h + r.h }

end Sha

/-- The message as a number, first byte highest. -/
def bigEndian (bs : List Byte) : Nat := bs.foldl (fun x b => x * 256 + b.toNat) 0

/-- The padded message as a number, and its blocks: a one bit, zeros, and the length in bits in the last 64. -/
def shaPadded (bs : List Byte) : Nat × Nat :=
  let blocks := (bs.length + 72) / 64
  let left := 64 * blocks - bs.length
  (bigEndian bs * 2 ^ (8 * left) + 128 * 2 ^ (8 * (left - 1)) + 8 * bs.length, blocks)

/-- Word i of a block's number. -/
def blockWords (x : Nat) : List W32 := (List.range 16).map fun i => BitVec.ofNat 32 (x / 2 ^ (32 * (15 - i)))

/-- SHA-256, as a 32-byte string whose byte i stands in bits [8i + 7 : 8i]. -/
def sha256 (bs : List Byte) : BitVec 256 :=
  let (m, n) := shaPadded bs
  let v := (List.range n).foldl (fun (v : Sha) i => v.absorb (blockWords (m / 2 ^ (512 * (n - 1 - i))))) Sha.start
  let out := v.words.foldl (fun x w => x * 2 ^ 32 + w.toNat) 0
  BitVec.ofNat 256 ((List.range 32).foldl (fun x i => x * 256 + out / 256 ^ i % 256) 0)

/-- The bytes of a 32-byte string. -/
def bytes32 (x : BitVec 256) : List Byte := (List.range 32).map fun i => BitVec.ofNat 8 (x.toNat / 256 ^ i)

/-! ## LMS signatures (R434)

LMS_SHA256_M32_H10 with LM-OTS_SHA256_N32_W4, as RFC 8554 defines them (log 15): type codes 6 and 3, 32-byte strings, a tree of height
10, and 67 chains of 15 steps, one for each hexadecimal digit of a digest and of its checksum. -/

/-- A number as `n` bytes, highest first. -/
def bytesBE (n x : Nat) : List Byte := (List.range n).map fun i => BitVec.ofNat 8 (x / 256 ^ (n - 1 - i))

/-- Bytes [o, o + n) of a string. -/
def sliceB (bs : List Byte) (o n : Nat) : List Byte := (bs.drop o).take n

/-- A digest under a key's identifier, a number and a two-byte tag. -/
def lmsHash (ident : List Byte) (num tag : Nat) (rest : List Byte) : List Byte :=
  bytes32 (sha256 (ident ++ bytesBE 4 num ++ bytesBE 2 tag ++ rest))

/-- Hexadecimal digits, high digit first. -/
def hexDigits (bs : List Byte) : List Nat := bs.flatMap fun b => [b.toNat / 16, b.toNat % 16]

/-- A digest's 64 digits and the three of its checksum: the digits' sum of distances from 15. -/
def otsDigits (digest : List Byte) : List Nat :=
  let ds := hexDigits digest
  ds ++ (hexDigits (bytesBE 2 (16 * (ds.map fun d => 15 - d).sum))).take 3

/-- Walk `n` further steps of chain i, up to its end, step 15. -/
def otsChain (ident : List Byte) (q i : Nat) : Nat → List Byte → List Byte
  | 0, x => x
  | n + 1, x => otsChain ident q i n (lmsHash ident q i (BitVec.ofNat 8 (14 - n) :: x))

/-- The one-time public key that a one-time signature and a message give. -/
def otsKey (ident : List Byte) (q : Nat) (message sig : List Byte) : List Byte :=
  let digest := lmsHash ident q 0x8181 (sliceB sig 4 32 ++ message)
  lmsHash ident q 0x8080 ((otsDigits digest).zipIdx.flatMap fun e =>
    otsChain ident q e.2 (15 - e.1) (sliceB sig (36 + 32 * e.2) 32))

/-- Climb the tree from a node along the path of its siblings. -/
def lmsClimb (ident : List Byte) : List (List Byte) → Nat → List Byte → List Byte
  | [], _, x => x
  | y :: path, node, x => lmsClimb ident path (node / 2) (lmsHash ident (node / 2) 0x8383 (if node % 2 == 1 then y ++ x else x ++ y))

/-- Does a signature of a message verify against a public key: types, identifier and root? -/
def lmsVerify (key message sig : List Byte) : Bool :=
  let ident := sliceB key 8 16
  let q := bigEndian (sliceB sig 0 4)
  let types := key.length == 56 && sig.length == 2508 && sliceB key 0 4 == bytesBE 4 6 && sliceB key 4 4 == bytesBE 4 3 &&
    sliceB sig 4 4 == bytesBE 4 3 && sliceB sig 2184 4 == bytesBE 4 6 && decide (q < 2 ^ 10)
  let leaf := lmsHash ident (2 ^ 10 + q) 0x8282 (otsKey ident q message (sliceB sig 4 2180))
  let path := (List.range 10).map fun i => sliceB sig (2188 + 32 * i) 32
  types && lmsClimb ident path (2 ^ 10 + q) leaf == key.drop 24

/-! ## Boot and attestation (R434 to R436) -/

/-- Extend an attestation register: A := SHA-256(A ‖ M). -/
def Boot.extend (b : Boot) (n : Nat) (m : BitVec 256) : Boot :=
  { b with aregs := b.aregs.setD 0 n (sha256 (bytes32 (b.aregs.getD 0 n) ++ bytes32 m)) }

/-- COLD_BOOT: the first stage and Shento are verified against the fused key hash and minimum version; a failure holds the module in
recovery. Retired cores are replaced or fenced, and failing rows are repaired (R429, R430). -/
def execColdBoot (img : BootImage) (s : State) : Host.Outcome State Fault Refusal :=
  let s := s.cold
  let b := s.boot.atReset
  let good (image sig : List Byte) (v : W32) : Bool :=
    sha256 img.key == b.keyHash && lmsVerify img.key image sig && decide (b.minVer.toNat ≤ v.toNat)
  if !good img.stage1 img.sig1 img.version then
    let b : Boot := { b with recovery := true }
    .next { s with boot := b }
  else
    let b : Boot := { b.extend 0 (sha256 img.stage1) with fwVer := img.version }
    if !good img.shento img.sigS img.shver then
      let b : Boot := { b with recovery := true }
      .next { s with boot := b }
    else
      let m := Config.bootMeasure img.config b.keyHash b.minVer b.retiredCores b.repairs b.retiredPages
      let b : Boot := { ((b.extend 1 (sha256 img.shento)).extend 2 m) with shVer := img.shver }
      .next { s with boot := b }

/-- ATTESTATION_EXTEND: registers 3 to 7, at the driver's request. -/
def execAttestationExtend (n : Fin 8) (m : BitVec 256) (s : State) : Host.Outcome State Fault Refusal :=
  if n.val < 3 || !s.up then .next s else .next { s with boot := s.boot.extend n.val m }

/-- ATTESTATION_REPORT: the leaf counter advances before the signature; without a leaf left the report is refused. -/
def execAttestationReport (nonce : BitVec 256) (s : State) : Host.Outcome State Fault Refusal :=
  let b := s.boot
  if 2 ^ 20 ≤ b.leaf || !s.up then .next s
  else
    let le (n x : Nat) : List Byte := (List.range n).map fun i => BitVec.ofNat 8 (x / 256 ^ i)
    let msg := le 4 1 ++ le 4 b.leaf ++ bytes32 nonce ++ ((List.range 8).flatMap fun i => bytes32 (b.aregs.getD 0 i)) ++
      le 8 b.serial.toNat ++ le 4 b.fwVer.toNat ++ le 4 b.shVer.toNat
    let b : Boot := { b with leaf := b.leaf + 1, report := msg ++ le 2828 (Config.lmsSign b.leaf msg).toNat }
    .next { s with boot := b }

end Sys2Proof.Machine
end

