-- ==== Sys2Proof/Machine/Dispatch.lean ====
section
/-! DEFINITION. Dispatch: one arm per constructor of Instr. -/

namespace Sys2Proof.Machine

def exec (i : Instr) (s : State) : Host.Outcome State Fault Refusal :=
  match i with
  | .nop => Sys2Proof.Machine.execNop s
  | .udf => Sys2Proof.Machine.execUdf s
  | .iadd w => Sys2Proof.Machine.execIadd w s
  | .isub w => Sys2Proof.Machine.execIsub w s
  | .imul w => Sys2Proof.Machine.execImul w s
  | .imad w => Sys2Proof.Machine.execImad w s
  | .idiv w => Sys2Proof.Machine.execIdiv w s
  | .irem w => Sys2Proof.Machine.execIrem w s
  | .imin w => Sys2Proof.Machine.execImin w s
  | .imax w => Sys2Proof.Machine.execImax w s
  | .iabs w => Sys2Proof.Machine.execIabs w s
  | .ineg w => Sys2Proof.Machine.execIneg w s
  | .andI w => Sys2Proof.Machine.execAndI w s
  | .orI w => Sys2Proof.Machine.execOrI w s
  | .xorI w => Sys2Proof.Machine.execXorI w s
  | .andn w => Sys2Proof.Machine.execAndn w s
  | .shl w => Sys2Proof.Machine.execShl w s
  | .shr w => Sys2Proof.Machine.execShr w s
  | .rot w => Sys2Proof.Machine.execRot w s
  | .bfx w => Sys2Proof.Machine.execBfx w s
  | .bfi w => Sys2Proof.Machine.execBfi w s
  | .popc w => Sys2Proof.Machine.execPopc w s
  | .clz w => Sys2Proof.Machine.execClz w s
  | .brev w => Sys2Proof.Machine.execBrev w s
  | .perm w => Sys2Proof.Machine.execPerm w s
  | .icmp w => Sys2Proof.Machine.execIcmp w s
  | .sel w => Sys2Proof.Machine.execSel w s
  | .lea w => Sys2Proof.Machine.execLea w s
  | .mov w => Sys2Proof.Machine.execMov w s
  | .dp4i w => Sys2Proof.Machine.execDp4i w s
  | .sad w => Sys2Proof.Machine.execSad w s
  | .srd w => Sys2Proof.Machine.execSrd w s
  | .swr w => Sys2Proof.Machine.execSwr w s
  | .fadd w => Sys2Proof.Machine.execFadd w s
  | .fsub w => Sys2Proof.Machine.execFsub w s
  | .fmul w => Sys2Proof.Machine.execFmul w s
  | .ffma w => Sys2Proof.Machine.execFfma w s
  | .fmin w => Sys2Proof.Machine.execFmin w s
  | .fmax w => Sys2Proof.Machine.execFmax w s
  | .fcmp w => Sys2Proof.Machine.execFcmp w s
  | .fclass w => Sys2Proof.Machine.execFclass w s
  | .frcp w => Sys2Proof.Machine.execFrcp w s
  | .frsq w => Sys2Proof.Machine.execFrsq w s
  | .fsqrt w => Sys2Proof.Machine.execFsqrt w s
  | .fdiv w => Sys2Proof.Machine.execFdiv w s
  | .fexp2 w => Sys2Proof.Machine.execFexp2 w s
  | .flog2 w => Sys2Proof.Machine.execFlog2 w s
  | .fsin w => Sys2Proof.Machine.execFsin w s
  | .fcos w => Sys2Proof.Machine.execFcos w s
  | .frnd w => Sys2Proof.Machine.execFrnd w s
  | .fdp2 w => Sys2Proof.Machine.execFdp2 w s
  | .fdp4 w => Sys2Proof.Machine.execFdp4 w s
  | .fcopys w => Sys2Proof.Machine.execFcopys w s
  | .fldexp w => Sys2Proof.Machine.execFldexp w s
  | .ffrexp w => Sys2Proof.Machine.execFfrexp w s
  | .cvt w => Sys2Proof.Machine.execCvt w s
  | .cvti w => Sys2Proof.Machine.execCvti w s
  | .cvtf w => Sys2Proof.Machine.execCvtf w s
  | .qpack w => Sys2Proof.Machine.execQpack w s
  | .qunpk w => Sys2Proof.Machine.execQunpk w s
  | .rng w => Sys2Proof.Machine.execRng w s
  | .rngf w => Sys2Proof.Machine.execRngf w s
  | .kop w => Sys2Proof.Machine.execKop w s
  | .kpop w => Sys2Proof.Machine.execKpop w s
  | .kffs w => Sys2Proof.Machine.execKffs w s
  | .vote w => Sys2Proof.Machine.execVote w s
  | .shfl w => Sys2Proof.Machine.execShfl w s
  | .rdlane w => Sys2Proof.Machine.execRdlane w s
  | .wrlane w => Sys2Proof.Machine.execWrlane w s
  | .gred w => Sys2Proof.Machine.execGred w s
  | .gscan w => Sys2Proof.Machine.execGscan w s
  | .matchI w => Sys2Proof.Machine.execMatchI w s
  | .br w => Sys2Proof.Machine.execBr w s
  | .call w => Sys2Proof.Machine.execCall w s
  | .split w => Sys2Proof.Machine.execSplit w s
  | .ret w => Sys2Proof.Machine.execRet w s
  | .jmpi w => Sys2Proof.Machine.execJmpi w s
  | .fuse w => Sys2Proof.Machine.execFuse w s
  | .exit w => Sys2Proof.Machine.execExit w s
  | .yield w => Sys2Proof.Machine.execYield w s
  | .trapi w => Sys2Proof.Machine.execTrapi w s
  | .brk w => Sys2Proof.Machine.execBrk w s
  | .rgn w => Sys2Proof.Machine.execRgn w s
  | .rgnClose w => Sys2Proof.Machine.execRgnClose w s
  | .sigchk w => Sys2Proof.Machine.execSigchk w s
  | .tbar w => Sys2Proof.Machine.execTbar w s
  | .cjoin w => Sys2Proof.Machine.execCjoin w s
  | .cleave w => Sys2Proof.Machine.execCleave w s
  | .cbar w => Sys2Proof.Machine.execCbar w s
  | .rbsur w => Sys2Proof.Machine.execRbsur w s
  | .rbclm w => Sys2Proof.Machine.execRbclm w s
  | .mwait w => Sys2Proof.Machine.execMwait w s
  | .mwaitReevaluate frag => Sys2Proof.Machine.execMwaitReevaluate frag s
  | .mwaitTimeout frag => Sys2Proof.Machine.execMwaitTimeout frag s
  | .sobjBar w => Sys2Proof.Machine.execSobjBar w s
  | .sobjSem w => Sys2Proof.Machine.execSobjSem w s
  | .sobjCell w => Sys2Proof.Machine.execSobjCell w s
  | .sobjInv w => Sys2Proof.Machine.execSobjInv w s
  | .sarv w => Sys2Proof.Machine.execSarv w s
  | .sarvPost w => Sys2Proof.Machine.execSarvPost w s
  | .swait w => Sys2Proof.Machine.execSwait w s
  | .swaitTake w => Sys2Proof.Machine.execSwaitTake w s
  | .swaitTry w => Sys2Proof.Machine.execSwaitTry w s
  | .syncRequestRetry frag => Sys2Proof.Machine.execSyncRequestRetry frag s
  | .cntaSig w => Sys2Proof.Machine.execCntaSig w s
  | .cntaArm w => Sys2Proof.Machine.execCntaArm w s
  | .fenceAcq w => Sys2Proof.Machine.execFenceAcq w s
  | .fenceRel w => Sys2Proof.Machine.execFenceRel w s
  | .fenceAr w => Sys2Proof.Machine.execFenceAr w s
  | .rsig w => Sys2Proof.Machine.execRsig w s
  | .rwait w => Sys2Proof.Machine.execRwait w s
  | .ld w => Sys2Proof.Machine.execLd w s
  | .st w => Sys2Proof.Machine.execSt w s
  | .lds w => Sys2Proof.Machine.execLds w s
  | .sts w => Sys2Proof.Machine.execSts w s
  | .ldc w => Sys2Proof.Machine.execLdc w s
  | .stc w => Sys2Proof.Machine.execStc w s
  | .pref w => Sys2Proof.Machine.execPref w s
  | .ldsc w => Sys2Proof.Machine.execLdsc w s
  | .stsc w => Sys2Proof.Machine.execStsc w s
  | .cctlClean w => Sys2Proof.Machine.execCctlClean w s
  | .cctlInval w => Sys2Proof.Machine.execCctlInval w s
  | .cctlCinv w => Sys2Proof.Machine.execCctlCinv w s
  | .atom w => Sys2Proof.Machine.execAtom w s
  | .atoms w => Sys2Proof.Machine.execAtoms w s
  | .bins w => Sys2Proof.Machine.execBins w s
  | .bffcs w => Sys2Proof.Machine.execBffcs w s
  | .bpls w => Sys2Proof.Machine.execBpls w s
  | .red w => Sys2Proof.Machine.execRed w s
  | .sideLogPerform core mappable => Sys2Proof.Machine.execSideLogPerform core mappable s
  | .longLatencyWriteLand group id => Sys2Proof.Machine.execLongLatencyWriteLand group id s
  | .cplIn w => Sys2Proof.Machine.execCplIn w s
  | .cplOut w => Sys2Proof.Machine.execCplOut w s
  | .cplLineLand core id => Sys2Proof.Machine.execCplLineLand core id s
  | .cpseal w => Sys2Proof.Machine.execCpseal w s
  | .cpsealStampWrite core id => Sys2Proof.Machine.execCpsealStampWrite core id s
  | .seprog w => Sys2Proof.Machine.execSeprog w s
  | .sectlStart w => Sys2Proof.Machine.execSectlStart w s
  | .sectlStop w => Sys2Proof.Machine.execSectlStop w s
  | .sectlQuery w => Sys2Proof.Machine.execSectlQuery w s
  | .streamSlotTake core engine => Sys2Proof.Machine.execStreamSlotTake core engine s
  | .streamTileComplete core engine => Sys2Proof.Machine.execStreamTileComplete core engine s
  | .streamStopComplete core engine => Sys2Proof.Machine.execStreamStopComplete core engine s
  | .transferXlateService core unit map => Sys2Proof.Machine.execTransferXlateService core unit map s
  | .bcpy w => Sys2Proof.Machine.execBcpy w s
  | .bcpyComplete core id => Sys2Proof.Machine.execBcpyComplete core id s
  | .hingeCopyExpire hinge line => Sys2Proof.Machine.execHingeCopyExpire hinge line s
  | .mma w => Sys2Proof.Machine.execMma w s
  | .mloop w => Sys2Proof.Machine.execMloop w s
  | .mloopm w => Sys2Proof.Machine.execMloopm w s
  | .mqb w => Sys2Proof.Machine.execMqb w s
  | .matrixStep core id => Sys2Proof.Machine.execMatrixStep core id s
  | .mfence w => Sys2Proof.Machine.execMfence w s
  | .mbwait w => Sys2Proof.Machine.execMbwait w s
  | .batchComplete group => Sys2Proof.Machine.execBatchComplete group s
  | .accnew w => Sys2Proof.Machine.execAccnew w s
  | .accld w => Sys2Proof.Machine.execAccld w s
  | .accst w => Sys2Proof.Machine.execAccst w s
  | .accrd w => Sys2Proof.Machine.execAccrd w s
  | .accwr w => Sys2Proof.Machine.execAccwr w s
  | .neval w => Sys2Proof.Machine.execNeval w s
  | .penWindowExpire core tile => Sys2Proof.Machine.execPenWindowExpire core tile s
  | .penSlotFill core tile => Sys2Proof.Machine.execPenSlotFill core tile s
  | .penTileScatter core tile => Sys2Proof.Machine.execPenTileScatter core tile s
  | .nhldPre w => Sys2Proof.Machine.execNhldPre w s
  | .nhldDrop w => Sys2Proof.Machine.execNhldDrop w s
  | .nstat w => Sys2Proof.Machine.execNstat w s
  | .vapp w => Sys2Proof.Machine.execVapp w s
  | .vconn w => Sys2Proof.Machine.execVconn w s
  | .vmerge w => Sys2Proof.Machine.execVmerge w s
  | .vrwgt w => Sys2Proof.Machine.execVrwgt w s
  | .vld w => Sys2Proof.Machine.execVld w s
  | .vgenOpen w => Sys2Proof.Machine.execVgenOpen w s
  | .vgenClose w => Sys2Proof.Machine.execVgenClose w s
  | .vgenOpenInit w => Sys2Proof.Machine.execVgenOpenInit w s
  | .vgenCloseFree w => Sys2Proof.Machine.execVgenCloseFree w s
  | .foldInitTimeout frag => Sys2Proof.Machine.execFoldInitTimeout frag s
  | .vpinPin w => Sys2Proof.Machine.execVpinPin w s
  | .vpinUnpin w => Sys2Proof.Machine.execVpinUnpin w s
  | .trace w => Sys2Proof.Machine.execTrace w s
  | .rayWalk core ray => Sys2Proof.Machine.execRayWalk core ray s
  | .rayDeliver core ray => Sys2Proof.Machine.execRayDeliver core ray s
  | .raySpillTimeout core ray => Sys2Proof.Machine.execRaySpillTimeout core ray s
  | .rayFetchXlateService core ray map => Sys2Proof.Machine.execRayFetchXlateService core ray map s
  | .trresAccept w => Sys2Proof.Machine.execTrresAccept w s
  | .trresReject w => Sys2Proof.Machine.execTrresReject w s
  | .trresCommit w => Sys2Proof.Machine.execTrresCommit w s
  | .tqry w => Sys2Proof.Machine.execTqry w s
  | .queryResultsReady core ray => Sys2Proof.Machine.execQueryResultsReady core ray s
  | .tqnext w => Sys2Proof.Machine.execTqnext w s
  | .trstat w => Sys2Proof.Machine.execTrstat w s
  | .texs w => Sys2Proof.Machine.execTexs w s
  | .texl w => Sys2Proof.Machine.execTexl w s
  | .texq w => Sys2Proof.Machine.execTexq w s
  | .tlsub w => Sys2Proof.Machine.execTlsub w s
  | .tlflush w => Sys2Proof.Machine.execTlflush w s
  | .spsub w => Sys2Proof.Machine.execSpsub w s
  | .fout w => Sys2Proof.Machine.execFout w s
  | .tileRasterise die => Sys2Proof.Machine.execTileRasterise die s
  | .fragmentGroupDispatch die core => Sys2Proof.Machine.execFragmentGroupDispatch die core s
  | .pixelBlend die => Sys2Proof.Machine.execPixelBlend die s
  | .tileEngineXlateService die map => Sys2Proof.Machine.execTileEngineXlateService die map s
  | .submissionComplete die => Sys2Proof.Machine.execSubmissionComplete die s
  | .splatRender die => Sys2Proof.Machine.execSplatRender die s
  | .drawPreempt die => Sys2Proof.Machine.execDrawPreempt die s
  | .launch w => Sys2Proof.Machine.execLaunch w s
  | .taskpub w => Sys2Proof.Machine.execTaskpub w s
  | .recalloc w => Sys2Proof.Machine.execRecalloc w s
  | .recemit w => Sys2Proof.Machine.execRecemit w s
  | .workgraphBatchTimeout ctx node => Sys2Proof.Machine.execWorkgraphBatchTimeout ctx node s
  | .syscallNodeCreate w => Sys2Proof.Machine.execSyscallNodeCreate w s
  | .syscallNodeFlush w => Sys2Proof.Machine.execSyscallNodeFlush w s
  | .syscallNodeDelete w => Sys2Proof.Machine.execSyscallNodeDelete w s
  | .syscallWake w => Sys2Proof.Machine.execSyscallWake w s
  | .syscallUnassigned w => Sys2Proof.Machine.execSyscallUnassigned w s
  | .syscallAnswer frag => Sys2Proof.Machine.execSyscallAnswer frag s
  | .tilenx w => Sys2Proof.Machine.execTilenx w s
  | .tilenxExit w => Sys2Proof.Machine.execTilenxExit w s
  | .prog w => Sys2Proof.Machine.execProg w s
  | .halt w => Sys2Proof.Machine.execHalt w s
  | .pmcapStart w => Sys2Proof.Machine.execPmcapStart w s
  | .pmcapStop w => Sys2Proof.Machine.execPmcapStop w s
  | .faultRecordPost ctx => Sys2Proof.Machine.execFaultRecordPost ctx s
  | .xlateService frag map => Sys2Proof.Machine.execXlateService frag map s
  | .trapResume frag edits => Sys2Proof.Machine.execTrapResume frag edits s
  | .trapSkip frag => Sys2Proof.Machine.execTrapSkip frag s
  | .trapKill frag => Sys2Proof.Machine.execTrapKill frag s
  | .splitRequest launch core => Sys2Proof.Machine.execSplitRequest launch core s
  | .droverDispatch drover => Sys2Proof.Machine.execDroverDispatch drover s
  | .teamRetire team => Sys2Proof.Machine.execTeamRetire team s
  | .tileDone drover tile => Sys2Proof.Machine.execTileDone drover tile s
  | .launchBegin launch ox oy => Sys2Proof.Machine.execLaunchBegin launch ox oy s
  | .oppStable launch granted => Sys2Proof.Machine.execOppStable launch granted s
  | .launchComplete launch => Sys2Proof.Machine.execLaunchComplete launch s
  | .kickWrite fn q tail => Sys2Proof.Machine.execKickWrite fn q tail s
  | .hostPacketNop fn q => Sys2Proof.Machine.execHostPacketNop fn q s
  | .hostPacketStart fn q => Sys2Proof.Machine.execHostPacketStart fn q s
  | .hostPacketWake fn q => Sys2Proof.Machine.execHostPacketWake fn q s
  | .hostPacketStop fn q => Sys2Proof.Machine.execHostPacketStop fn q s
  | .hostPacketWait fn q => Sys2Proof.Machine.execHostPacketWait fn q s
  | .queueWaitSatisfied fn q => Sys2Proof.Machine.execQueueWaitSatisfied fn q s
  | .hostPacketStamp fn q => Sys2Proof.Machine.execHostPacketStamp fn q s
  | .queueReset fn q => Sys2Proof.Machine.execQueueReset fn q s
  | .portReserve ctx pc put => Sys2Proof.Machine.execPortReserve ctx pc put s
  | .portReserveRefused access => Sys2Proof.Machine.execPortReserveRefused access s
  | .portNop ctx => Sys2Proof.Machine.execPortNop ctx s
  | .portLaunch ctx => Sys2Proof.Machine.execPortLaunch ctx s
  | .portTask ctx => Sys2Proof.Machine.execPortTask ctx s
  | .portStamp ctx => Sys2Proof.Machine.execPortStamp ctx s
  | .portStampWrite ctx => Sys2Proof.Machine.execPortStampWrite ctx s
  | .conductorCounterSignal ctx addr n => Sys2Proof.Machine.execConductorCounterSignal ctx addr n s
  | .conductorWait ctx => Sys2Proof.Machine.execConductorWait ctx s
  | .collAllReduce w => Sys2Proof.Machine.execCollAllReduce w s
  | .collReduceScatter w => Sys2Proof.Machine.execCollReduceScatter w s
  | .collAllGather w => Sys2Proof.Machine.execCollAllGather w s
  | .collBroadcast w => Sys2Proof.Machine.execCollBroadcast w s
  | .collStart core id peers => Sys2Proof.Machine.execCollStart core id peers s
  | .collComplete core id => Sys2Proof.Machine.execCollComplete core id s
  | .remoteStoreFail group => Sys2Proof.Machine.execRemoteStoreFail group s
  | .tlbInvalidate asid lo hi => Sys2Proof.Machine.execTlbInvalidate asid lo hi s
  | .computePreempt who => Sys2Proof.Machine.execComputePreempt who s
  | .contextSave who => Sys2Proof.Machine.execContextSave who s
  | .contextResume who core => Sys2Proof.Machine.execContextResume who core s
  | .contextAbort ctx => Sys2Proof.Machine.execContextAbort ctx s
  | .functionLevelReset fn => Sys2Proof.Machine.execFunctionLevelReset fn s
  | .haltreq hart => Sys2Proof.Machine.execHaltreq hart s
  | .resumereq hart => Sys2Proof.Machine.execResumereq hart s
  | .accessRegister hart cmd => Sys2Proof.Machine.execAccessRegister hart cmd s
  | .accessMemory hart cmd => Sys2Proof.Machine.execAccessMemory hart cmd s
  | .debugBreakpointSet ctx n at_ => Sys2Proof.Machine.execDebugBreakpointSet ctx n at_ s
  | .counterEventConfig counter code => Sys2Proof.Machine.execCounterEventConfig counter code s
  | .trialStart ctx desc => Sys2Proof.Machine.execTrialStart ctx desc s
  | .trialEpochEnd ctx ns => Sys2Proof.Machine.execTrialEpochEnd ctx ns s
  | .shepherdDecision group => Sys2Proof.Machine.execShepherdDecision group s
  | .hbmScrub block correctable => Sys2Proof.Machine.execHbmScrub block correctable s
  | .pageRetire page target ptes => Sys2Proof.Machine.execPageRetire page target ptes s
  | .energyWindow cycles => Sys2Proof.Machine.execEnergyWindow cycles s
  | .energyBudgetSet fn watts => Sys2Proof.Machine.execEnergyBudgetSet fn watts s
  | .splatTminWrite ctx v => Sys2Proof.Machine.execSplatTminWrite ctx v s
  | .registerWrite core v => Sys2Proof.Machine.execRegisterWrite core v s
  | .moduleSleep => Sys2Proof.Machine.execModuleSleep s
  | .coldBoot img => Sys2Proof.Machine.execColdBoot img s
  | .attestationExtend n m => Sys2Proof.Machine.execAttestationExtend n m s
  | .attestationReport nonce => Sys2Proof.Machine.execAttestationReport nonce s
  | .packetRefetch fn q => Sys2Proof.Machine.execPacketRefetch fn q s
  | .queueCreate fn q m base host ctx => Sys2Proof.Machine.execQueueCreate fn q m base host ctx s
  | .contextCreate ctx desc => Sys2Proof.Machine.execContextCreate ctx desc s
  | .domainConfigure id members => Sys2Proof.Machine.execDomainConfigure id members s
  | .domainMemberLeave m => Sys2Proof.Machine.execDomainMemberLeave m s
  | .powerLoss => Sys2Proof.Machine.execPowerLoss s

end Sys2Proof.Machine
end

