-- ==== Sys2Proof/Machine/Issue.lean ====
section
/-! DEFINITION. Issue: fetching a line, the line-level checks at its entry, shadow replay, the choice of the fragment that
issues, and the issue of one slot (spec/03 R29 to R38, R51; spec/07 R143, R144). -/

namespace Sys2Proof.Machine

/-- The parity byte of a line (spec/03 R30). -/
def parityOf (buf : BitVec 512) : Nat :=
  let x := buf.toNat
  let odd (hi lo : Nat) : Bool := popCount (bitsN x hi lo) (hi + 1 - lo) % 2 == 1
  (List.range 7).foldl (fun p j => if odd (64 * j + 63) (64 * j) then p + 2 ^ j else p)
    (if odd 479 448 != odd 511 488 then 128 else 0)

/-- What a fetch gives. -/
inductive Fetch where
  | ok (buf : BitVec 512) (s : State)
  | trap (r : RecInfo)
  | freeze (arr pa : Nat)
  deriving DecidableEq, Repr

/-- Fetch the fragment's line through translation X (spec/23 R381, R386). A line that fails its parity fails it again when
it is fetched again, since memory holds the same bytes (spec/03 R30). -/
def State.fetchLine (s : State) (h : Here) : Fetch :=
  let va := h.f.line.toNat
  match s.fetchTrap h with
  | some r => .trap r
  | none =>
    let s := s.touch h.core h.cx va false
    match s.xl h.core h.cx va .fetch with
    | .ok pa mt =>
      let s := s.modCore h.core fun c => { c with icache := allocate icacheLines (· == pa / 64) (pa / 64) false c.icache }
      let buf := BitVec.ofNat 512 (s.physRead mt pa 64)
      if s.poisoned mt pa 64 then .freeze 8 ((s.poisonWord mt pa 64).getD 0)
      else if parityOf buf != lineWord buf % 256 then .freeze 6 (pa % 2 ^ 52)
      else .ok buf s
    | _ => .freeze 6 0

/-- The instruction of a slot of a line, or the RI DETAIL that refuses it. -/
def slotDecode (buf : BitVec 512) (j : Nat) : Except RiDetail Instr :=
  decodeIn (Fields.ofWord (lineSlot buf j)) fun n =>
    match decode (lineSlot buf n) with
    | .ok i => i.latchDst
    | .error _ => none

/-- The vector class of R31, by the word's major and destination code. -/
def vectorClass (w : IWord) : Bool :=
  let f := Fields.ofWord w
  let op := f.op.toNat
  (op ≤ 0x35 || (0x40 ≤ op && op ≤ 0x46) || (0x50 ≤ op && op ≤ 0x59)) && !(256 ≤ f.dst.toNat && f.dst.toNat < 320)

/-- The line-level checks in the order of R51, with the DETAIL of R55. -/
def lineCheck (buf : BitVec 512) : Option Nat :=
  let ft := (List.range 5).map (slotFoot buf)
  let at_ (j : Nat) : Foot := ft.getD j {}
  let before (p : Nat → Nat → Bool) : Bool := (List.range 5).any fun t => (List.range t).any fun j => p j t
  let meets (a b : List Reg) : Bool := a.any b.contains
  if bitsN (lineWord buf) 23 8 != 0 then some 0
  else if (ptPairs (linePT buf)).any fun j =>
    let a := lineSlot buf j
    let b := lineSlot buf (j + 1)
    a != 0 && b != 0 && vectorClass a == vectorClass b
  then some 1
  else if before fun j t => meets (at_ t).stored (at_ j).ruleReads then some 2
  else if before fun j t => longLatency (at_ j).op && meets (at_ t).reads (at_ j).stored then some 3
  else if (List.range 5).any fun t => (at_ t).lats.any fun n => t ≤ n then some 4
  else if (List.range 5).any fun t => (at_ t).lats.any fun n => longLatency (at_ n).op || stateBound (at_ n).op then some 5
  else if (Fields.ofWord (lineSlot buf 4)).ws == 1 then some 6
  else none

/-- Shadow replay of the slots executed before this one (spec/03 R38). The replayed latches are identical to the lost ones, also
where a slot's destination is one of its own sources or an EXIT or SPLIT of the line has reduced the mask since. Where the handler
or the debugger has edited the group's registers since (`State.forgetLatches`), the slot is executed again on a scratch state from
the registers, the mask and k0 as they now stand, and only its latch is kept (log 39). -/
def State.replayLatches (s : State) (fid : Nat) : SMap Latch :=
  match s.frags.get? fid with
  | none => []
  | some f =>
    (List.range f.slot.val).foldl (fun ls j =>
      if !f.done.getLsbD j then ls else
      match f.lost.get? j with
      | some l => ls.set j l
      | none =>
      match slotDecode f.buf j with
      | .error _ => ls
      | .ok i =>
        if i.latchDst.isNone then ls else
        let scratch := (s.modGroup f.group fun g => { g with pend := [] }).putFrag fid
          { f with slot := Fin.ofNat 5 j, latches := ls, st := .issuing, stall := false }
        match exec i { scratch with cur := some fid } with
        | .next s' =>
          match (s'.frags.get? fid).bind fun f' => f'.latches.get? j with
          | some l => ls.set j l
          | none => ls
        | _ => ls) []

/-- The other fragments of a partition that could have issued have waited one line longer (R143, log 5). -/
def State.ageOthers (s : State) (fid : Nat) (may : Nat → Frag → Bool) : State :=
  { s with frags := s.frags.mapV fun k f =>
      if k != fid && fragPart k == fragPart fid && f.st == .ready && may k f then { f with wait := f.wait + 1 } else f }

/-- Enter the fragment's line at its slot: fetch, checks, the operand wait, the latches. True when the slot may issue. The line
is kept from the fetch on, so that a slot skipped at a line-level trap is still known (spec/26 R421). -/
def State.enterLine (s : State) (h : Here) (may : Nat → Frag → Bool) : State × Bool :=
  match s.fetchLine h with
  | .freeze arr pa => (s.freeze h .uncorr (some arr) pa, false)
  | .trap r => (s.takeTrap h r, false)
  | .ok buf s =>
    let s := s.modFrag h.fid fun f => { f with buf := buf }
    if h.f.checkTm && !lineTM buf h.f.slot.val then
      (s.takeTrap h { cause := .target, detail := h.f.slot.val, lanes := h.f.mask.toNat }, false)
    else match lineCheck buf with
    | some d => (s.takeTrap h { cause := .line, detail := d, lanes := h.f.mask.toNat }, false)
    | none =>
      if (lineRegs buf h.g h.f.mask h.f.slot.val).any (h.g.outside h.f) then
        (s.modFrag h.fid fun f => { f with st := .blocked, wait := 0 }, false)
      else
        let s := ({ s with stamp := s.stamp + 1 }.countEv h.core 2 1).ageOthers h.fid may
        let s := s.modFrag h.fid fun f =>
          { f with
            st := .issuing, entry := f.slot, latches := [], last := s.stamp, wait := 0, checkTm := false
            done := if f.replay then f.done else 0, visit := if f.replay && f.visit != 0 then f.visit else s.stamp }
        let ls := s.replayLatches h.fid
        (s.modFrag h.fid fun f => { f with latches := ls, lost := [], replay := false }, true)

/-- Do the slots j and j + 1 of a line depend on each other, so that they do not issue together (spec/03 R32)? -/
def pairDepends (buf : BitVec 512) (j : Nat) : Bool :=
  let a := slotFoot buf j
  let b := slotFoot buf (j + 1)
  b.lats.contains j || b.reads.any a.stored.contains

/-- Does the slot issue as a member of a pair that PT names (spec/03 R31, R32)? -/
def Frag.inPair (f : Frag) : Bool :=
  (ptPairs (linePT f.buf)).any fun j => f.entry.val ≤ j && (j == f.slot.val || j + 1 == f.slot.val) && !pairDepends f.buf j

/-- Has the group a Ready fragment? -/
def State.hasReady (s : State) (gid : Nat) : Bool := s.frags.any fun e => e.2.group == gid && e.2.st == .ready

/-- The groups of a context that a trial holds pay 100 for each ns, until Lg reaches Gd. -/
def State.payDebts (s : State) (cx ns : Nat) (t : Trial) : State :=
  { s with groups := s.groups.mapV fun gid g =>
      let mine := match s.teams.get? g.team with | some x => x.ctx == cx && !x.saved | none => false
      if mine && g.debt < t.gd && s.hasReady gid then { g with debt := min t.gd (g.debt + 100 * ns) } else g }

/-- The time a slot takes to issue, under the trials in an on epoch (R409, log 12): a slot of the range adds to Gd and to its
group's Lg. A slot's address is its first byte's. -/
def State.trialTime (s : State) (h : Here) : State :=
  if !s.ctxs.any (fun c => (c.2.trial.map Trial.on).getD false) then s else
  let (n, s) := s.takeFree
  let ns := (Config.elapsed n).toNat
  s.ctxs.foldl (fun s c =>
    match c.2.trial with
    | none => s
    | some t =>
      if !t.on then s else
      let s := s.payDebts c.1 ns t
      let a := h.f.line.toNat + 12 * h.f.slot.val
      if h.t.ctx == c.1 && bitsN t.desc.toNat 55 0 ≤ a && a < bitsN t.desc.toNat 119 64 then
        let d := bitsN t.desc.toNat 134 128 * ns
        (s.modCtx c.1 fun c => { c with trial := some { t with gd := t.gd + d, gdOn := t.gdOn + d } }).modGroup h.gid
          fun g => { g with debt := g.debt + d }
      else s) s

/-- A stalled slot is tried again after something else has happened. -/
def State.unstall (s : State) : State :=
  { s with frags := s.frags.mapV fun _ f => if f.stall then { f with stall := false } else f }

/-- A slot that did not stall has issued, so that a breakpoint fires at it again (spec/25 R415), and counts as an issue
(spec/25 R403, spec/23 R392); it may have ended what others stall on. -/
def State.afterSlot (s : State) (core fid : Nat) : State :=
  match s.frags.get? fid with
  | some f => if f.stall then s else ((s.modFrag fid fun f => { f with noBrk := false }).countEv core 1 1).unstall
  | none => (s.countEv core 1 1).unstall

/-- Issue the slot at which the fragment stands. -/
def State.issueSlot (s : State) (fid : Nat) : Host.Outcome State Fault Refusal :=
  let s := { (s.modFrag fid fun f => { f with paired := f.inPair }) with cur := some fid }
  match s.hereOf fid with
  | none => .next s
  | some h =>
    let brk := if h.f.noBrk then none else h.cx.brks.find? fun e => e.2 == codePtr h.f.line h.f.slot
    match brk with
    | some (n, _) =>
      let s := s.modFrag fid fun f => { f with noBrk := true }
      if h.cx.debugger then .next (s.haltNow h.gid)
      else .next (s.takeTrap h { cause := .brk, detail := 1, lanes := h.f.mask.toNat, info := n })
    | none =>
      match slotDecode h.f.buf h.f.slot.val with
      | .error d => .next ((s.takeTrap h (h.decodeTrap .ri d.code)).afterSlot h.core fid)
      | .ok i =>
        match exec i s with
        | .next s => .next ((s.trialTime h).afterSlot h.core fid)
        | o => o

/-- May the fragment issue? Groups held by a causal trial (spec/25 R409), frozen cores and saved teams do not; a halted group
or team, and a group that a trial holds, only finishes the lines it is inside (spec/25 R412, R414, spec/07 R143); in a team that is
being saved only an instruction that has issued and waits at its slot goes on (spec/23 R392, R393). -/
def State.mayIssue (s : State) (fid : Nat) (f : Frag) : Bool :=
  (f.st == .ready || f.st == .issuing) &&
  match s.hereOf fid with
  | none => false
  | some h =>
    !h.t.saved && (!h.t.saving || f.held.isSome) && (f.st == .issuing || !(h.g.halted || h.t.haltedBy.isSome)) && !(s.core h.core).frozen &&
    match h.cx.trial with
    | some t => f.st == .issuing || t.gd ≤ h.g.debt
    | none => true

/-- Issue a fragment: it enters its line first when it is not inside one. -/
def State.issue (s : State) (fid : Nat) : Host.Outcome State Fault Refusal :=
  let s := s.modFrag fid fun f => { f with stall := false, paired := f.paired && f.st == .issuing }
  match s.hereOf fid with
  | none => .next s
  | some h =>
    if h.f.st == .issuing then s.issueSlot fid
    else
      match { s with cur := some fid }.enterLine h s.mayIssue with
      | (s, true) => s.issueSlot fid
      | (s, false) => .next s

/-- A Fold operation that has issued and waits outside its line goes on, with its operands as they stood: when the arena's entry can
be placed, or a page has been mapped. It needs no turn of its partition, and its fragment then waits, Ready, to issue on (spec/19 R340,
spec/20 R359). -/
def State.runHeld (s : State) (fid : Nat) : Host.Outcome State Fault Refusal :=
  match s.frags.get? fid with
  | none => .next s
  | some f =>
    let due := match f.st with
      | .parked .foldInit => s.foldInitReady fid
      | .ready => f.held.isSome
      | _ => false
    match due, slotDecode f.buf f.slot.val with
    | true, .ok i =>
      match exec i { (s.modFrag fid fun f => { f with st := .issuing, latches := f.lost }) with cur := some fid } with
      | .next t => .next { (t.modFrag fid fun f => if f.st == .issuing then f.shed.release else f) with cur := s.cur }
      | o => o
    | _, _ => .next s

/-! ## The choice of R143 -/

/-- The fragments that a partition may choose from: one that has begun its line keeps issuing it until it leaves it, even while
its slot stalls. -/
def State.candidates (s : State) (stalled : Bool) : List (Nat × Frag) :=
  let ok := s.frags.filter fun e => s.mayIssue e.1 e.2
  ok.filter fun e => e.2.stall == stalled &&
    (e.2.st == .issuing || !ok.any fun x => fragPart x.1 == fragPart e.1 && x.2.st == .issuing)

/-- Does fragment a come before b in the order of R143? Age is counted in issued lines (log 5). -/
def State.before (s : State) (a b : Nat × Frag) : Bool :=
  let prio (f : Frag) : Nat := match s.groups.get? f.group with
    | some g => (match s.teams.get? g.team with | some t => t.prio | none => 0)
    | none => 0
  let old (f : Frag) : Bool := 256 ≤ f.wait
  if old a.2 != old b.2 then old a.2
  else if old a.2 && a.2.wait != b.2.wait then b.2.wait < a.2.wait
  else if !old a.2 && prio a.2 != prio b.2 then prio b.2 < prio a.2
  else if a.2.last != b.2.last then a.2.last < b.2.last
  else a.1 < b.1

/-- The first of a list under an order. -/
def firstBy (lt : Nat × Frag → Nat × Frag → Bool) (l : List (Nat × Frag)) : Option (Nat × Frag) :=
  l.foldl (fun b e => match b with
    | none => some e
    | some x => if lt e x then some e else b) none

/-- The fragment a partition issues next. -/
def State.pickIn (s : State) (part : Nat) (stalled : Bool) : Option Nat :=
  (firstBy s.before ((s.candidates stalled).filter fun e => fragPart e.1 == part)).map (·.1)

/-- The partition that issues next: the one whose turn it is, else the current fragment's while it is inside its line, else
the one whose best fragment has gone longest without issuing (the manual orders fragments only within a partition, log 5). -/
def State.pick (s : State) (stalled : Bool) : Option Nat :=
  let cs := s.candidates stalled
  let cont : Option Nat := s.cur.bind fun fid => (cs.find? fun e => e.1 == fid && e.2.st == .issuing).map (·.1)
  let turn : Option Nat := s.turns.head?.bind fun p => s.pickIn p stalled
  turn.orElse fun _ => cont.orElse fun _ =>
    (firstBy (fun a b => a.2.last < b.2.last) cs).bind fun e => s.pickIn (fragPart e.1) stalled

end Sys2Proof.Machine
end

