-- ==== Sys2Proof/Machine/Due.lean ====
section
/-! DEFINITION. Due: the events that the module's own units cause when nothing stands on the agenda and no fragment issues.
Events that the outside world, the handler or a free choice of Shento decides come from the agenda alone. -/

namespace Sys2Proof.Machine

/-- An event as a function of the state. -/
abbrev Event := State → Host.Outcome State Fault Refusal

/-- The first event of a list that changes the state; taking a free value alone is no change. -/
def firstChange (s : State) : List Event → Option (Host.Outcome State Fault Refusal)
  | [] => none
  | f :: rest =>
    match f s with
    | .next s' => if ({ s' with free := s.free } : State) = s then firstChange s rest else some (.next s')
    | o => some o

/-- The keys of a map, as events of a core. -/
def onKeys {α : Type} (m : SMap α) (f : Nat → List Event) : List Event := m.flatMap fun e => f e.1

/-- Memory, copies and landings of one core. -/
def coreMemEvents (k : Nat) (c : Core) : List Event :=
  (if c.side.isEmpty then [] else [execSideLogPerform k true]) ++
  onKeys c.xfers (fun i => [execCplLineLand k i]) ++
  onKeys c.seals (fun i => [execCpsealStampWrite k i]) ++
  onKeys c.streams (fun e => [execStreamSlotTake k e, execStreamTileComplete k e, execStreamStopComplete k e]) ++
  onKeys c.bulks (fun i => [execBcpyComplete k i]) ++
  onKeys c.colls (fun i => [execCollStart k i [], execCollComplete k i]) ++
  (if c.bulks.any (fun b => !b.2.locked) || c.colls.any (fun b => !b.2.locked) then [fun s => .next (s.relock k)] else [])

/-- The matrix engine, the Pen and the traversal unit of one core. -/
def coreUnitEvents (k : Nat) (c : Core) : List Event :=
  onKeys c.mops (fun i => [execMatrixStep k i]) ++
  (if c.penTiles.isEmpty then [] else [fun s => .next (s.penExpire k (s.core k).clock.toNat)]) ++
  onKeys c.penTiles (fun i => [execPenSlotFill k i, execPenTileScatter k i]) ++
  onKeys c.rays (fun i => [execRayDeliver k i, execQueryResultsReady k i, execRayWalk k i])

/-- A group's events: landings, batches, undeliverable stores, the Shepherd. -/
def groupEvents (gid : Nat) (g : Group) : List Event :=
  onKeys g.pend (fun i => [execLongLatencyWriteLand gid i]) ++
  (if g.batches.isEmpty then [] else [execBatchComplete gid]) ++
  (if g.lost.isSome then [execRemoteStoreFail gid] else []) ++
  (if g.frozen then [execShepherdDecision gid] else [])

/-- A fragment parked under an imprecise record is Parked through a trap: the waiting rays of its lanes spill (spec/16 R300). -/
def boundSpill (fid : Nat) : Event := fun s =>
  match s.hereOf fid with
  | none => .next s
  | some h =>
    if h.g.halted || h.t.saving then .next s
    else .next (s.spillRays h.core fun x => x.group == h.gid && x.phase != 0 && h.f.mask.getLsbD x.lane)

/-- Events of a parked or stalled fragment that a unit or Shento ends. -/
def fragEvents (fid : Nat) (f : Frag) : List Event :=
  match f.st with
  | .parked .foldInit => [fun s => s.runHeld fid]
  | .ready => if f.held.isSome then [fun s => s.runHeld fid] else []
  | .parked (.syscall _) => [execSyscallAnswer fid]
  | .parked .bound => [boundSpill fid]
  | .issuing => if f.stall then [execSyncRequestRetry fid] else []
  | _ => []

/-- The tile engine and the splat unit of one die. -/
def dieEvents (s : State) (d : Nat) (e : TileEng) : List Event :=
  if e.subs.isEmpty && e.contribs.isEmpty then [] else
  [execPixelBlend d] ++
  (if e.groups.isEmpty then []
   else ((List.range (12 * s.rows)).filter fun k => dieOf k == d).map fun k => execFragmentGroupDispatch d k) ++
  [execTileRasterise d, execSplatRender d, execSubmissionComplete d] ++
  (e.subs.filter fun b => !b.2.locked).map fun b s => .next (s.relock b.2.core)

/-- Launches, Drovers and teams. -/
def gridEvents (s : State) : List Event :=
  s.launches.flatMap (fun e => (e.2.waiting.map fun c => execSplitRequest e.1 c) ++
    (if e.2.st == 4 && !e.2.drained then (e.2.cores.filter fun c => !e.2.refused.contains c).map fun c => execSplitRequest e.1 c else [])) ++
  onKeys s.drovers (fun d => execDroverDispatch d :: (((s.drovers.get? d).map Drover.tiles).getD []).map fun t => execTileDone d t.1) ++
  onKeys s.teams (fun t => [execTeamRetire t, execContextSave (.team t)]) ++
  onKeys (s.ctxs.filter fun c => c.2.st == 2) (fun c => [execContextSave (.ctx c)]) ++
  ((s.teams.filter fun t => !t.2.saved && s.savedRays.any fun k => k / 1024 == t.1).map fun t s => .next (s.loadRays t.1)) ++
  onKeys (s.launches.filter fun e => e.2.st != 0) (fun l => [execLaunchComplete l, execLaunchBegin l 0 0])

/-- A context's port, and a host queue. -/
def portEvents (cx : Nat) : List Event :=
  [execPortStampWrite cx, execPortNop cx, execPortLaunch cx, execPortTask cx, execPortStamp cx]

def queueEvents (k : Nat) : List Event :=
  let fn : Fin 64 := Fin.ofNat 64 (k / 16)
  let q : Fin 16 := Fin.ofNat 16 (k % 16)
  [execQueueWaitSatisfied fn q, execHostPacketNop fn q, execHostPacketStart fn q, execHostPacketWake fn q, execHostPacketStop fn q,
   execHostPacketWait fn q, execHostPacketStamp fn q]

/-- The planner has brought a launch's islands to a point of its choice (spec/18 R328). -/
def oppEvent (l : Nat) : Event := fun s =>
  let (n, s) := s.takeFree
  execOppStable l (Fin.ofNat 16 (Config.freeWord n).toNat) s

/-- What only the passing of time brings, last: windows and timeouts of a unit, timed waits, operating points, rays that have
waited long while a slot of their core stalls (spec/16 R299), fetches tried again, and the debts of causal trials. -/
def timeEvents (s : State) : List Event :=
  (s.cores.flatMap fun c => ((c.2.penOver (c.2.penOpen.foldl (fun m e => max m e.2.ends) 0)).take 1).map fun i => execPenWindowExpire c.1 i) ++
  onKeys (s.frags.filter fun e => s.atMwait e.1) (fun k => [execMwaitTimeout k, execMwaitReevaluate k]) ++
  onKeys (s.launches.filter fun e => e.2.st == 3) (fun l => [oppEvent l]) ++
  ((s.cores.filter fun c => s.frags.any fun f => fragCore f.1 == c.1 && f.2.stall).flatMap fun c =>
    onKeys c.2.rays fun r => [execRaySpillTimeout c.1 r]) ++
  (s.ctxs.flatMap fun c => onKeys c.2.nodes fun n => [execWorkgraphBatchTimeout c.1 n]) ++
  onKeys s.queues (fun k => [execPacketRefetch (Fin.ofNat 64 (k / 16)) (Fin.ofNat 16 (k % 16))]) ++
  onKeys s.ctxs (fun cx => [fun s =>
    match (s.ctxs.get? cx).bind Ctx.trial with
    | some t => .next (s.payDebts cx t.gd t)
    | none => .next s])

/-- The first internal event that is due, in a fixed order of the units. -/
def State.due (s : State) : Option (Host.Outcome State Fault Refusal) :=
  firstChange s
    ((s.cores.flatMap fun c => coreMemEvents c.1 c.2) ++ (s.groups.flatMap fun g => groupEvents g.1 g.2) ++
     (s.cores.flatMap fun c => coreUnitEvents c.1 c.2) ++ (s.frags.flatMap fun f => fragEvents f.1 f.2) ++
     (s.tileEngs.flatMap fun e => dieEvents s e.1 e.2) ++ gridEvents s ++ onKeys s.ctxs portEvents ++ onKeys s.queues queueEvents ++
     timeEvents s)

/-- A parked MWAIT whose word now satisfies its comparison, or can no longer be read. -/
def State.mwaitDue (s : State) : Option (Host.Outcome State Fault Refusal) :=
  (s.frags.find? fun e => s.atMwait e.1 && match s.mwaitSees e.1 with
    | some (sat, _, _) => sat
    | none => true).map fun e => execMwaitReevaluate e.1 s

end Sys2Proof.Machine
end

