-- ==== Sys2Proof/Machine/Step.lean ====
section
/-! DEFINITION. Step: one step of the module. The next error strikes, or the agenda's first event happens, or a waiting MWAIT is
released by a write, or one slot issues, or an internal event that is due happens, or a stalled slot is tried again, or nothing changes. The units and
the issue of slots take turns, so that neither keeps the other from going on (spec/07 R145). -/

namespace Sys2Proof.Machine

/-- After an event, stalled slots are tried again. -/
def afterEvent (o : Host.Outcome State Fault Refusal) : Host.Outcome State Fault Refusal :=
  match o with
  | .next s => .next s.unstall
  | o => o

/-- The issue of the next slot, if a fragment may issue; the units move after it. -/
def State.issueNext (s : State) : Option (Host.Outcome State Fault Refusal) :=
  (s.pick false).map fun fid => { s with turns := s.turns.drop 1, units := true }.issue fid

/-- The next move of the units, if one is due; a slot issues after it. -/
def State.unitNext (s : State) : Option (Host.Outcome State Fault Refusal) := { s with units := false }.due.map afterEvent

/-- One step in which no error strikes. -/
def State.move (s : State) : Host.Outcome State Fault Refusal :=
  match s.agenda with
  | i :: rest => afterEvent (exec i { s with agenda := rest })
  | [] =>
    match s.mwaitDue with
    | some o => afterEvent o
    | none =>
      match if s.units then s.unitNext.orElse fun _ => s.issueNext else s.issueNext.orElse fun _ => s.unitNext with
      | some o => o
      | none =>
        match s.pick true with
        | some fid => s.issue fid
        | none => .next s

/-- One step: an error that strikes an array of the module comes before anything else (spec/26 R416). -/
def step (s : State) : Host.Outcome State Fault Refusal :=
  match s.upsets with
  | u :: rest => afterEvent (.next ({ s with upsets := rest }.strike u))
  | [] => s.move

/-- The line that holds an instruction in slot 0, NOPs after it, and a line word with TM bit 0 and the parity of R30. -/
def fetchLineOf (w : Nat) : BitVec 512 :=
  let x := BitVec.ofNat 512 (w % 2 ^ 96) ||| (1#512 <<< 507)
  x ||| (BitVec.ofNat 512 (parityOf x) <<< 480)

/-- Place a program of one instruction: context 0 with a page table that maps one page, a launch, a team of one group on core
0 holding 16 register blocks, and its fragment at the start of a line whose slot 0 is the instruction. It stands for the
launch of a kernel (log 7). -/
def State.withFetchWord (s : State) (nbits w : Nat) : State :=
  let mem := writeLE s.mem 0x10000 8 0x14001
  let mem := writeLE mem 0x14000 8 0x15001
  let mem := writeLE mem 0x15000 8 0x16001
  let mem := writeLE mem 0x16008 8 0x4003F
  let mem := writeLE mem 0x40000 64 (fetchLineOf (w % 2 ^ nbits)).toNat
  let s := { s with
    mem := mem
    poison := clearPoison s.poison 0x40000 64
    ctxs := s.ctxs.set 0 { root := 0x10000, asid := 0, fn := 0, frsz := 6, rrsz := 6, fring := 0x20000, rring := 0x30000 }
    launches := s.launches.set 0 { ctx := 0, cmd := 0, st := 4 }
    teams := s.teams.set 0 { core := 0, ctx := 0, launch := 0 }
    groups := s.groups.set 0 { team := 0, idx := 0, blocks := 16 }
    frags := [(0, { group := 0, line := 0x40000, mask := 0xFFFFFFFF })]
    tlb2 := s.tlb2.erase 0
    upsets := []
    agenda := []
    turns := [0]
    units := false
    cur := none }
  s.modCore 0 fun c => { c with tlb := [], frozen := false }

end Sys2Proof.Machine
end

