-- ==== Sys2Proof/Safety.lean ====
section
/-! DEFINITION. Safety: what the claims about the machine are said in: the canonical form of the memories, when an instruction
row runs, what it leaves unchanged, and the result of a register write. -/

namespace Sys2Proof.Machine

/-! ## Invariants -/

/-- The canonical form of a memory: addresses strictly rising, and no entry equal to what an unlisted address reads as. -/
def Memory.wf (m : List Host.Cell) : Bool := SMap.wfD m memDefault

/-- Every memory of the state is in canonical form. -/
def State.MemOk (s : State) : Prop :=
  Memory.wf s.mem = true ∧ Memory.wf s.hostMem = true ∧ Memory.wf s.domMem = true

/-! ## When an instruction row runs -/

/-- Row `i` runs in `s`: `h` is the current fragment, which issues, checks 5 to 7 of spec/03 R51 pass, none of the row's
destination registers has an outstanding write (spec/07 R144), and no register that it reads holds an uncorrectable error
(spec/26 R416). -/
structure Runs (i : Instr) (h : Here) (s : State) : Prop where
  here : s.here = some h
  st : h.f.st = .issuing
  checks : preCheck i h s = none
  free : h.mustWait i = false
  good : readsBad i h = false

/-- The group has one live fragment and nothing in its split spill area (spec/07 R148), so a team instruction may run. -/
structure RunsSole (i : Instr) (h : Here) (s : State) : Prop extends Runs i h s where
  sole : s.sole h = true

/-- The state in which fragment `fid` issues its slot: it is current, and its fragment knows whether it issues in a pair. -/
def State.issuing (s : State) (fid : Nat) : State := { s.modFrag fid (fun f => { f with paired := f.inPair }) with cur := some fid }

/-- The state in which a step issues a slot: the partition's turn is over, and the units move after it. -/
def State.turned (s : State) : State := { s with turns := s.turns.drop 1, units := true }

/-! ## What an instruction leaves unchanged -/

/-- Every byte of every memory reads as before, and no word's poison mark changes. -/
def SameMem (s t : State) : Prop :=
  (∀ a, memByte t.mem a = memByte s.mem a) ∧ (∀ a, memByte t.hostMem a = memByte s.hostMem a) ∧
  (∀ a, memByte t.domMem a = memByte s.domMem a) ∧ t.poison = s.poison

/-- The registers of a group are those of another, but for those that `p` names. -/
def SameRegs (g g' : Group) (p : Reg → Bool) : Prop :=
  (∀ n l, l < 32 → p (.v n) = false → g'.v.getD 0 (32 * n + l) = g.v.getD 0 (32 * n + l)) ∧
  (∀ n, p (.s n) = false → g'.s.getD 0 n = g.s.getD 0 n) ∧
  (∀ n, p (.k n) = false → g'.k.getD 0 n = g.k.getD 0 n) ∧
  (∀ n, p (.c n) = false → g'.c.getLsbD n = g.c.getLsbD n) ∧
  (p .fsr = false → g'.fsr = g.fsr) ∧ g'.penwin = g.penwin ∧ g'.spillVA = g.spillVA

/-- The registers of every group are as before, but for those of the executing group that `p` names. -/
def RegFrame (h : Here) (s t : State) (p : Reg → Bool) : Prop :=
  ∀ k g, s.groups.get? k = some g →
    ∃ g', t.groups.get? k = some g' ∧ SameRegs g g' (if k = h.gid then p else fun _ => false)

/-- The frame of an instruction that stores nothing: memory, the accumulators, the contexts with their fault rings, and every
register but those that `p` names are as before. -/
structure Frame (h : Here) (s t : State) (p : Reg → Bool) : Prop where
  mem : SameMem s t
  regs : RegFrame h s t p
  accs : t.accs = s.accs
  ctxs : t.ctxs = s.ctxs

/-- No register. -/
def noReg : Reg → Bool := fun _ => false

/-- The registers of a destination operand: one, or a pair of vector registers. -/
def dstRegs (o : Opnd) (wide : Bool) : Reg → Bool := fun r => (opRegs o (if wide then 2 else 1) 1).contains r

/-- The state with other groups and fragments. -/
def State.withHere (s : State) (gs : SMap Group) (fs : SMap Frag) : State := { s with groups := gs, frags := fs }

/-- Nothing but the executing group's registers and the executing fragment changes. -/
def OnlyHere (h : Here) (s t : State) : Prop :=
  t = s.withHere t.groups t.frags ∧
  (∀ k, k ≠ h.gid → t.groups.get? k = s.groups.get? k) ∧ (∀ k, k ≠ h.fid → t.frags.get? k = s.frags.get? k)

/-- The instruction has completed: the fragment goes on at the next slot, or at slot 0 of the next line (spec/03 R33), with its
mask and pending fusion points as before, and its signature moved as spec/26 R421 and R422 say. -/
def WentOn (i : Instr) (h : Here) (t : State) : Prop :=
  ∃ f, t.frags.get? h.fid = some f ∧ f.group = h.gid ∧ f.mask = h.f.mask ∧ f.chain = h.f.chain ∧
    f.sig = (if noSig (fieldsOf i).op.toNat then h.f.sig else sigUpdate h.f.sig (fieldsOf i)) ∧
    f.line = (if h.f.slot.val < 4 then h.f.line else h.f.line + 64) ∧
    f.slot.val = (if h.f.slot.val < 4 then h.f.slot.val + 1 else 0)

/-- The fragment has been placed at a line and slot, its mask, pending fusion points and signature as before. -/
def PlacedAt (h : Here) (t : State) (line : VA) (slot : Fin 5) : Prop :=
  ∃ f, t.frags.get? h.fid = some f ∧ f.group = h.gid ∧ f.mask = h.f.mask ∧ f.chain = h.f.chain ∧ f.sig = h.f.sig ∧
    f.line = line ∧ f.slot = slot

/-- Row `i` completes: its effect takes `s` to `u`, and the fragment goes on. -/
def Completes (i : Instr) (h : Here) (s u : State) : Prop := exec i s = .next (u.finish h i)

/-- Row `i` completes with effect `u`, storing nothing and changing no register but those that `p` names. -/
def CompletesQuiet (i : Instr) (h : Here) (s u : State) (p : Reg → Bool) : Prop :=
  Completes i h s u ∧ Frame h s (u.finish h i) p

/-- Row `i` takes a precise trap (spec/03 R53): it has none of its effect. -/
def Traps (i : Instr) (h : Here) (s : State) (r : RecInfo) : Prop := exec i s = .next (s.takeTrap h r)

/-- Row `i` parks its fragment at its slot under `w`, with effect `u` so far. -/
def Parks (i : Instr) (h : Here) (s u : State) (w : Wait) : Prop := exec i s = .next (u.park h.fid w)

/-- Row `i` waits at issue: no effect yet. -/
def Stalls (i : Instr) (h : Here) (s : State) : Prop := exec i s = .next (s.modFrag h.fid fun f => { f with stall := true })

/-- Row `i` transfers control to a slot, `u` being the state with the rest of its effect (spec/03 R33). Where the target slot's TM bit
is known to be clear it traps as TARGET with the slot as DETAIL. Where it is known to be set, the fragment is placed there. A line
that cannot be read now is entered, and its fetch traps there, unless the fragment has been asked to stop at the line boundary. -/
structure Transfers (i : Instr) (h : Here) (s u : State) (line : VA) (slot : Fin 5) : Prop where
  bad : s.landing h line slot.val = none → Traps i h s { cause := .target, detail := slot.val, lanes := h.f.mask.toNat }
  good : s.landing h line slot.val = some false → exec i s = .next ((u.goto h line slot).account h.fid h.gid (fieldsOf i)) ∧
    PlacedAt h (u.goto h line slot) line slot ∧ (u.goto h line slot).groups = u.groups ∧ OnlyHere h s (u.goto h line slot)
  fetch : s.landing h line slot.val = some true → h.f.stopAt = false → h.f.hold = false →
    ∃ h' r, (u.goto h line slot).hereOf h.fid = some h' ∧ (u.goto h line slot).fetchTrap h' = some r ∧
      exec i s = .next (((u.goto h line slot).takeTrap h' r).account h.fid h.gid (fieldsOf i))
  stops : s.landing h line slot.val = some true → h.f.stopAt = true ∨ h.f.hold = true →
    exec i s = .next ((u.goto h line slot).account h.fid h.gid (fieldsOf i)) ∧ PlacedAt h (u.goto h line slot) line slot

/-! ## The result of a register write -/

/-- What an instruction of formats R and I writes. -/
inductive Result where
  /-- The lanes of `act` of a vector destination: the low 32 bits of `f l`, and of a pair its high 32 bits. -/
  | vec (dst : Opnd) (ws wide : Bool) (act : W32) (f : Nat → Nat)
  | scal (dst : Opnd) (ws : Bool) (x : W64)
  /-- The bits of `act` of a mask destination. -/
  | mask (dst : Opnd) (ws : Bool) (act x : W32)
  | flag (dst : Opnd) (ws : Bool) (x : Bool)

/-- Lane `l` of vector register `n` after the write: WS keeps every register from being written (spec/03 R34), and zr discards. -/
def Result.vAt (r : Result) (h : Here) (n l : Nat) : W32 :=
  match r with
  | .vec (.v d) false wide act f =>
    if act.getLsbD l then
      if n = d.val then BitVec.ofNat 32 (f l)
      else if wide = true ∧ n = d.val + 1 then BitVec.ofNat 32 (f l / 2 ^ 32) else h.vreg n l
    else h.vreg n l
  | _ => h.vreg n l

def Result.sAt (r : Result) (h : Here) (n : Nat) : W64 :=
  match r with
  | .scal (.s d) false x => if n = d.val then x else h.sreg n
  | _ => h.sreg n

/-- Mask register `n` after the write: k0 holds nothing, so a write of it is discarded (spec/03 R45). -/
def Result.kAt (r : Result) (h : Here) (n : Nat) : W32 :=
  match r with
  | .mask (.k d) false act x => if n = d.val ∧ n ≠ 0 then (h.kreg n &&& ~~~act) ||| (x &&& act) else h.g.k.getD 0 n
  | _ => h.g.k.getD 0 n

def Result.cAt (r : Result) (h : Here) (n : Nat) : Bool :=
  match r with
  | .flag (.c d) false x => if n = d.val then x else h.g.c.getLsbD n
  | _ => h.g.c.getLsbD n

/-- Row `i` has written `r` and raised the float flags `fl`, and nothing else has changed: every other register, the other
groups and fragments, and the rest of the machine with all of memory are as before. -/
def Wrote (i : Instr) (h : Here) (s t : State) (r : Result) (fl : Nat) : Prop :=
  OnlyHere h s t ∧ WentOn i h t ∧ ∃ g, t.groups.get? h.gid = some g ∧
    (∀ n l, l < 32 → g.v.getD 0 (32 * n + l) = r.vAt h n l) ∧ (∀ n, g.s.getD 0 n = r.sAt h n) ∧
    (∀ n, g.k.getD 0 n = r.kAt h n) ∧ (∀ n, n < 8 → g.c.getLsbD n = r.cAt h n) ∧
    g.fsr = h.g.fsr ||| BitVec.ofNat 32 fl ∧
    g = { h.g with v := g.v, s := g.s, k := g.k, c := g.c, fsr := g.fsr, badV := g.badV, badR := g.badR }

/-- Row `i` runs from `s` to a state in which it has written `r` and raised `fl`. -/
def Writes (i : Instr) (h : Here) (s : State) (r : Result) (fl : Nat := 0) : Prop :=
  ∃ t, exec i s = .next t ∧ Wrote i h s t r fl

/-- The result of an integer entry: the value per active lane, or once into a scalar register (spec/03 R46, spec/05 R80). -/
def intResult (h : Here) (w : AluW) (f : Nat → Int) : Result :=
  if w.dst.isS then .scal w.dst w.ws (BitVec.ofNat 64 (wrapN 64 (f 0)))
  else .vec w.dst w.ws w.ty.is64 (h.active w.g w.gn) fun l => wrapN 64 (f l)

/-- The result of a float entry, and the flags it raises: those of every active lane, or of the one scalar operation. -/
def floatResult (h : Here) (w : AluW) (f : Nat → Nat × Nat) : Result :=
  if w.dst.isS then .scal w.dst w.ws (BitVec.ofNat 64 (f 0).1)
  else .vec w.dst w.ws w.ty.is64 (h.active w.g w.gn) fun l => (f l).1

def floatFlags (h : Here) (w : AluW) (f : Nat → Nat × Nat) : Nat :=
  if w.dst.isS then (f 0).2 else foldLanes (h.active w.g w.gn) 0 fun a l => a ||| (f l).2

/-- The result of a comparison: mask bits of the active lanes, or a flag once (spec/05 R94). -/
def cmpResult (h : Here) (w : AluW) (f : Nat → Bool) : Result :=
  match w.dst with
  | .c _ => .flag w.dst w.ws (f 0)
  | _ => .mask w.dst w.ws (h.active w.g w.gn) (maskOf fun l => (h.active w.g w.gn).getLsbD l && f l)

def cmpFlags (h : Here) (w : AluW) (f : Nat → Bool × Nat) : Nat :=
  match w.dst with
  | .c _ => (f 0).2
  | _ => foldLanes (h.active w.g w.gn) 0 fun a l => a ||| (f l).2

/-! ## The memory that accesses change -/

/-- The byte of an address's leaf entry that holds ACC and DIRTY (spec/23 R380). -/
def State.leafByte (s : State) (core : Nat) (cx : Ctx) (va : Nat) : List Nat :=
  match s.leafFor core cx va with
  | .ok e => [e.pteAddr + 1]
  | .error _ => []

/-- The bytes of HBM in which accesses at these addresses, in order, set ACC, and DIRTY for a write (spec/23 R382). -/
def State.accBytes (s : State) (core : Nat) (cx : Ctx) (write : Bool) : List Nat → List Nat
  | [] => []
  | va :: vas => s.leafByte core cx va ++ (s.touch core cx va write).accBytes core cx write vas

/-- The same as bytes of memory 0. -/
def State.accMarks (s : State) (h : Here) (write : Bool) (vas : List Nat) : List (Nat × Nat) :=
  (s.accBytes h.core h.cx write vas).map fun a => (0, a)

/-- The bytes of a physical range: of memory 0 (HBM), 1 (the host's) or 2 (the domain's), by memory type (spec/23 R383). -/
def State.physBytes (s : State) (mt pa n : Nat) : List (Nat × Nat) :=
  let from_ (m a : Nat) : List (Nat × Nat) := (List.range n).map fun i => (m, a + i)
  if mt < 2 then from_ 0 pa
  else if mt = 2 then from_ 1 pa
  else if s.reach pa = false then []
  else if pa / 2 ^ 46 % 64 = s.domId.val then from_ 0 (pa % 2 ^ 46)
  else from_ 2 pa

/-- The bytes that stores of `n` bytes change, each given by its address and value, in order: the entry in which ACC and DIRTY
are set, and the bytes stored to. -/
def State.storeBytes (s : State) (core : Nat) (cx : Ctx) (n : Nat) : List (Nat × Nat) → List (Nat × Nat)
  | [] => []
  | (va, x) :: es =>
    (match s.xl core cx va .write with
     | .ok pa mt => (s.leafByte core cx va).map (fun a => (0, a)) ++ s.physBytes mt pa n
     | _ => []) ++ (s.vstore core cx va n x).storeBytes core cx n es

/-- Every byte of every memory but those of `bs` reads as before. -/
def Stored (s t : State) (bs : List (Nat × Nat)) : Prop :=
  (∀ a, (0, a) ∉ bs → memByte t.mem a = memByte s.mem a) ∧ (∀ a, (1, a) ∉ bs → memByte t.hostMem a = memByte s.hostMem a) ∧
  (∀ a, (2, a) ∉ bs → memByte t.domMem a = memByte s.domMem a)

/-- An instruction that only marks leaf entries in memory: it goes on, every other byte, every register, the accumulators and the
contexts being as before. -/
structure Marked (i : Instr) (h : Here) (s t : State) (write : Bool) (vas : List Nat) : Prop where
  next : exec i s = .next t
  went : WentOn i h t
  stored : Stored s t (s.accMarks h write vas)
  regs : RegFrame h s t noReg
  ctxs : t.ctxs = s.ctxs
  accs : t.accs = s.accs

/-- A load has issued: nothing has changed but ACC of the entries used, and the values are on their way to the destination
registers as one outstanding write. -/
structure Loaded (h : Here) (s t : State) (w : MemW) (vals : List (Nat × Nat)) (vas : List Nat) : Prop where
  stored : Stored s t (s.accMarks h false vas)
  poison : t.poison = s.poison
  regs : RegFrame h s t noReg
  ctxs : t.ctxs = s.ctxs
  accs : t.accs = s.accs
  pend : ∃ g g', t.groups.get? h.gid = some g ∧ (s.deliver h w.dst w.width vals).groups.get? h.gid = some g' ∧ g.pend = g'.pend

/-- A store has performed `es`, addresses with their values, in order: nothing else of memory has changed, no register, and the
bytes of the last one hold its value. -/
structure StoredAll (h : Here) (s t : State) (n : Nat) (es : List (Nat × Nat)) : Prop where
  stored : Stored s t (s.storeBytes h.core h.cx n es)
  regs : RegFrame h s t noReg
  ctxs : t.ctxs = s.ctxs
  accs : t.accs = s.accs
  last : ∀ es' va x pa mt, es = es' ++ [(va, x)] →
    (es'.foldl (fun s e => s.vstore h.core h.cx e.1 n e.2) s).xl h.core h.cx va .write = .ok pa mt → mt < 2 →
    readLE t.mem pa n = x % 256 ^ n

/-! ## Atomics and synchronisation -/

/-- The lanes `ls` of an atomic: lane, address and operands. -/
def Here.atomOps (h : Here) (w : MemW) (ls : List Nat) : List (Nat × Nat × AtomArgs) := ls.map fun l => (l, h.atomEa w l, h.atomArgs w l)

/-- The bytes in which atomics of a major, in order, may change memory. -/
def State.atomBytes (s : State) (core : Nat) (cx : Ctx) (tid m : Nat) (w : MemW) : List (Nat × Nat × AtomArgs) → List (Nat × Nat)
  | [] => []
  | (_, a, x) :: os =>
    (if inAperture a then [] else (s.leafByte core cx a).map (fun b => (0, b)) ++
      match (s.touch core cx a true).xl core cx a .atomic with
      | .ok pa mt => s.physBytes mt pa w.width.bytes
      | _ => []) ++ (s.atomApply core cx tid m w a x).2.atomBytes core cx tid m w os

/-- Atomics of a major have been performed for the lanes `ls` in ascending order: nothing but their locations and the leaf entries
of these has changed, and the location of a single lane holds what its operation writes. -/
structure Atomics (h : Here) (s t : State) (w : MemW) (m : Nat) (ls : List Nat) : Prop where
  mem : t.mem = (s.atomLanes h.core h.cx h.tid m w (h.atomOps w ls)).2.mem
  objs : t.objs = (s.atomLanes h.core h.cx h.tid m w (h.atomOps w ls)).2.objs
  stored : Stored s t (s.atomBytes h.core h.cx h.tid m w (h.atomOps w ls))
  one : ∀ l pa mt x, ls = [l] → inAperture (h.atomEa w l) = false →
    (s.touch h.core h.cx (h.atomEa w l) true).xl h.core h.cx (h.atomEa w l) .atomic = .ok pa mt → mt < 2 →
    (atomEval m w (h.atomArgs w l) (readLE (s.touch h.core h.cx (h.atomEa w l) true).mem pa w.width.bytes)).1 = some x →
    readLE t.mem pa w.width.bytes = x % 256 ^ w.width.bytes
  regs : RegFrame h s t noReg
  ctxs : t.ctxs = s.ctxs
  accs : t.accs = s.accs

/-- The values returned are on their way to the destination. -/
def Returning (h : Here) (s t : State) (w : MemW) (vals : List (Nat × Nat)) : Prop :=
  ∃ g g', t.groups.get? h.gid = some g ∧ (s.deliver h w.dst w.width vals false).groups.get? h.gid = some g' ∧ g.pend = g'.pend

/-- The row ends with success: its flag destination, if it has one, is 0. -/
def Succeeds (i : Instr) (h : Here) (s u : State) (dst : Opnd) : Prop :=
  CompletesQuiet i h s (u.setFlag h.gid dst false) (dstRegs dst false)

/-- The row fails with a DETAIL: its flag destination is 1, or it traps as SYNCOBJ (spec/09 R202). -/
def Fails (i : Instr) (h : Here) (s : State) (dst : Opnd) (va d : Nat) : Prop :=
  (dst.isC = true → CompletesQuiet i h s (s.setFlag h.gid dst true) (dstRegs dst false)) ∧
  (dst.isC = false → Traps i h s { cause := .syncobj, detail := d, lanes := h.f.mask.toNat, addr := va % 2 ^ 56 })

/-- A row of the synchronisation engine runs: its group's side log is empty, its address names an object, and the engine takes the
request. -/
structure SyncTaken (i : Instr) (h : Here) (s : State) (w : MemW) : Prop extends Runs i h s where
  side : s.sideBusy h = false
  addr : s.syncTrap h (h.atomEa w 0) = none
  take : s.syncBusy.getD 0 (bitsN (h.atomEa w 0) 39 38) = 0

/-- The same where the row reads its object, which then is not poisoned. -/
structure SyncRuns (i : Instr) (h : Here) (s : State) (w : MemW) : Prop extends SyncTaken i h s w where
  clean : ((s.objs.get? (objKey (h.atomEa w 0))).map Obj.poisoned).getD false = false

/-- The same for a counter row (spec/18 R333). -/
structure CounterRuns (i : Instr) (h : Here) (s : State) (w : MemW) : Prop extends Runs i h s where
  side : s.sideBusy h = false
  addr : h.atomEa w 0 < 2 ^ 56 ∧ inAperture (h.atomEa w 0) = true ∧ s.objExists (h.atomEa w 0) = true ∧ h.atomEa w 0 % 64 = 0
  arg : (h.srcS w.b).toNat < 2 ^ 32
  take : s.syncBusy.getD 0 (bitsN (h.atomEa w 0) 39 38) = 0
  clean : ((s.objs.get? (objKey (h.atomEa w 0))).map Obj.poisoned).getD false = false

/-- A parked instruction has ended, its flag destination, if it has one, at `x`: its fragment goes on at the next slot. -/
def Answered (s t : State) (fid : Nat) (x : Bool) : Prop :=
  t = s.withHere t.groups t.frags ∧ ∃ f f', s.frags.get? fid = some f ∧ t.frags.get? fid = some f' ∧
    f'.mask = f.mask ∧ f'.chain = f.chain ∧ (f'.st = .ready ∨ f'.st = .parked .bound) ∧
    f'.line = (if f.slot.val < 4 then f.line else f.line + 64) ∧ f'.slot.val = (if f.slot.val < 4 then f.slot.val + 1 else 0) ∧
    ∀ r g, s.parkedDst fid = .c r → s.groups.get? f.group = some g →
      ∃ g', t.groups.get? f.group = some g' ∧ g'.c.getLsbD r.val = x

/-! ## Streams -/

/-- No fragment of a core waits at a ring of engine `e`. -/
def State.noRingWait (s : State) (core e : Nat) : Prop :=
  ∀ x ∈ s.frags, fragCore x.1 = core → ∀ k, x.2.st ≠ .parked (.ring e k)

/-- A long-latency flag result is on its way to the destination. -/
def FlagComing (h : Here) (t : State) (dst : Opnd) (x : Bool) : Prop :=
  ∀ r, dst = .c r → ∃ g id p, t.groups.get? h.gid = some g ∧ g.pend.get? id = some p ∧ p.cs = [(r.val, x)] ∧ p.ready = true

/-! ## The matrix engine -/

/-- A matrix row has been accepted: the sequencer of its core holds its operation, and memory, every register and the contexts are as
before. -/
structure Accepted (i : Instr) (h : Here) (s t : State) (kind : MKind) : Prop where
  next : exec i s = .next t
  went : WentOn i h t
  mem : SameMem s t
  regs : RegFrame h s t noReg
  ctxs : t.ctxs = s.ctxs
  op : ∃ m, (t.core h.core).mops.get? (s.core h.core).nextId = some m ∧ m.kind = kind ∧ m.group = h.gid ∧ m.team = h.tid ∧ m.next = 0

/-- The sequencer and the Hasp table of the core have room for an operation with `n` ranges (spec/11 R237, R238). -/
def State.matRoom (s : State) (h : Here) (n : Nat) : Prop :=
  (s.core h.core).mops.length < 32 ∧ n ≤ (s.core h.core).haspFree.length

/-! ## Folds -/

/-- A Fold instruction runs, with the operands that it issued with (spec/20 R359): its address names an object that is not poisoned
(spec/19 R351). -/
structure FoldRuns (i : Instr) (h : Here) (s : State) (w : EngW) : Prop extends Runs i h s where
  addr : s.foldTrap (h.issued.active w.g w.gn) (h.issued.srcS w.a).toNat = none
  clean : ((s.objs.get? (objKey (h.issued.srcS w.a).toNat)).map Obj.poisoned).getD false = false
  first : s.foldQueued h.issued (objKey (h.issued.srcS w.a).toNat) = false

/-- A VGEN fails with a DETAIL: its flag destination is 1, or it traps as FOLD. -/
def GenFails (i : Instr) (h : Here) (s : State) (w : EngW) (d : Nat) : Prop :=
  (w.dst.isC = true → CompletesQuiet i h s (s.setFlag h.gid w.dst true) (dstRegs w.dst false)) ∧
  (w.dst.isC = false → Traps i h s { cause := .fold, detail := d, lanes := h.f.mask.toNat, addr := (h.issued.srcS w.a).toNat })

/-- The outputs of a Fold instruction's lanes, from register `dst` on, as an outstanding write's values. -/
def foldVals (dst : Nat) (rs : List (Nat × List Nat)) : List (Nat × W32) :=
  rs.flatMap fun e => e.2.zipIdx.map fun x => (32 * (dst + x.2) + e.1, BitVec.ofNat 32 x.1)

/-! ## Descriptors, flags and answers -/

/-- A row has completed with a flag: it goes on, its flag destination, if it has one, is `x`, and no other register changes. -/
structure Gave (i : Instr) (h : Here) (s t : State) (dst : Opnd) (x : Bool) : Prop where
  next : exec i s = .next t
  went : WentOn i h t
  regs : RegFrame h s t (dstRegs dst false)
  accs : t.accs = s.accs
  flag : ∀ r, dst = .c r → ∃ g, t.groups.get? h.gid = some g ∧ g.c.getLsbD r.val = x

/-- The same, and of memory only the leaf entries of the addresses it read are marked. -/
structure Flagged (i : Instr) (h : Here) (s t : State) (vas : List Nat) (dst : Opnd) (x : Bool) : Prop extends Gave i h s t dst x where
  stored : Stored s t (s.accMarks h false vas)

/-- A range record that cannot be read now (spec/12 R254): misplaced, or its page is not mapped or not readable. -/
def State.noRecord (s : State) (agent : Nat) (cx : Ctx) (va : Nat) : Prop :=
  va % 128 ≠ 0 ∨ 2 ^ 56 ≤ va ∨ inAperture va = true ∨ ∀ pa mt, s.xl agent cx va .read ≠ .ok pa mt

/-- A range record that is read: its bytes. -/
def State.hasRecord (s : State) (agent : Nat) (cx : Ctx) (va raw : Nat) : Prop :=
  va % 128 = 0 ∧ va < 2 ^ 56 ∧ inAperture va = false ∧ ∃ pa mt, s.xl agent cx va .read = .ok pa mt ∧
    let u := s.touch agent cx va false
    u.poisoned mt pa 128 = false ∧ u.physRead mt pa 128 = raw

/-- An issued launch has read its record, as far as memory shows it: nothing but the leaf entries of the addresses `vas` that the row
read is marked when the record cannot be read now, and also that of the record when it is read and names no reuse list. -/
def ReadRecord (h : Here) (s t : State) (vas : List Nat) (agent rr : Nat) (l : Launch) : Prop :=
  let u := vas.foldl (fun s va => s.touch h.core h.cx va false) s
  (u.noRecord agent h.cx rr → Stored s t (s.accMarks h false vas)) ∧
  (∀ raw, u.hasRecord agent h.cx rr raw → l.image = some (some raw) ∧ (bitsN raw 567 512 = 0 →
    Stored s t (s.accMarks h false vas ++ (u.accBytes agent h.cx false [rr]).map fun a => (0, a))))

/-- A 64-byte descriptor can be read: its bytes pass the checks of a load, and none is poisoned. -/
def State.readable64 (s : State) (h : Here) (va : Nat) : Prop :=
  s.laneGlobal h va 64 .read = none ∧ s.vPoison h.core h.cx va 64 .read = false

/-- The fragment of a parked instruction goes on at the next slot, and a scalar destination holds `x`. -/
def WentOnWith (h : Here) (t : State) (fid : Nat) (dst : Opnd) (x : W64) : Prop :=
  (∃ f, t.frags.get? fid = some f ∧ f.mask = h.f.mask ∧ (f.st = .ready ∨ f.st = .parked .bound) ∧
    f.line = (if h.f.slot.val < 4 then h.f.line else h.f.line + 64) ∧
    f.slot.val = (if h.f.slot.val < 4 then h.f.slot.val + 1 else 0)) ∧
  ∃ g, t.groups.get? h.gid = some g ∧ ∀ n, g.s.getD 0 n = match dst with
    | .s r => if n = r.val then x else h.g.s.getD 0 n
    | _ => h.g.s.getD 0 n

end Sys2Proof.Machine
end

