-- ==== Sys2Proof/Certificates/Slice0/Obligations.lean ====
section
/-! DEFINITION. Obligations: the statements for the provers, from the numbered rules of the specification. A statement about every
state holds in states that no run reaches; where a clause needs a form of the state, it names it as a premise. What a statement
takes from the model's own choices it says in its title. -/

open Sys2Proof Sys2Proof.Machine

/-! ## Encoding -/

/-- Decode and encode agree (spec/03 R39 to R51): a well-formed instruction of any format, with every operand and modifier at
any value its encoding admits, is what its word decodes to. -/
def Obligations.DecodeOfEncode : Prop :=
  ∀ i : Instr, WellFormed i → decode (encode i) = .ok i

/-- One word has one meaning: what decodes is well-formed and encodes to the same word, but for UDF, which decodes whatever its
other fields hold (spec/03 R50). -/
def Obligations.EncodeOfDecode : Prop :=
  ∀ (w : IWord) (i : Instr), decode w = .ok i → i = .udf ∨ (WellFormed i ∧ encode i = w)

/-- Words written out from the manual's encodings decode to what they stand for: one or two of each format. The encoding checks
of spec/03 R51 steps 1 and 2: a reserved format or an unassigned major is RI with DETAIL 0 whatever the other fields hold, a major
in a format that is not its own, or a NOP in any format but 0 (spec/05 R86), is RI with DETAIL 1, and none of them decodes. -/
def Obligations.WordsDecode : Prop :=
  (decode 0x0120004_00ABAA000_00000004 =
     .ok (.iadd { fmtI := true, dst := .v 1, a := .v 1, b := .imm, ty := .i32, imm := 4 }) ∧
   decode 0x23000140_200C0280_A0000000 = .ok (.ffma { dst := .v 5, a := .v 4, b := .v 6, c := .v 5, ty := .f32 }) ∧
   decode 0xF7A0570A_E2B8AE00_00000003 = .ok (.prog { imm := 3 }) ∧
   decode 0x68A0570A_E2B8AE00_00000000 = .ok (.rgn {}) ∧
   decode 0xF0A0548A_E2B8AE00_00000000 = .ok (.tilenx { dst := .c 2 }) ∧
   decode 0xDC600A00_A210AE00_000004FF = .ok (.trace { dst := .v 40, a := .v 20, b := .s 8, imm := 0x4FF }) ∧
   decode 0xFF000000_00000000_00000000 = .ok .udf ∧ decode 0 = .ok .nop) ∧
  (∀ f : Fields, f.op ≠ 0xFF →
     (f.op ≠ 0 → 6 ≤ f.fmt.toNat ∨ majorAssigned f.op.toNat = false → decode f.word = .error .major) ∧
     (f.op = 0 → f.fmt ≠ 0 → decode f.word = .error .format) ∧
     (f.fmt.toNat < 6 → f.op ≠ 0 → majorAssigned f.op.toNat = true → formatOk f.op.toNat f.fmt.toNat = false →
       decode f.word = .error .format))

/-! ## Steps and invariants -/

/-- A step runs the decoded instruction. A slot that decodes, and at which no breakpoint fires, runs by `exec`; around it the
issue is counted unless the slot stalls, the pair noted, a causal trial charged, and slots that waited may try again. A step in
which no error strikes and no event stands on the agenda issues the slot of the fragment that is chosen: at once when it is inside
its line, and when it is Ready after it has entered the line, whose words are the 64 bytes that memory holds at the program
counter's translation (spec/03 R29 to R33). -/
def Obligations.StepRunsDecoded : Prop :=
  (∀ (s : State) (fid : Nat) (h : Here) (i : Instr), (s.issuing fid).hereOf fid = some h →
    h.f.noBrk = true ∨ h.cx.brks.all (fun e => e.2 != codePtr h.f.line h.f.slot) = true →
    slotDecode h.f.buf h.f.slot.val = .ok i →
    s.issueSlot fid =
      match exec i (s.issuing fid) with
      | .next t => .next ((t.trialTime h).afterSlot h.core fid)
      | o => o) ∧
  (∀ (s : State) (fid : Nat) (h : Here), s.upsets = [] → s.agenda = [] → s.mwaitDue = none → s.units = false →
    s.pick false = some fid → s.turned.hereOf fid = some h →
    let u := s.touch h.core h.cx h.f.line.toNat false
    (h.f.st = .issuing →
      step s = (s.turned.modFrag fid fun f => { f with stall := false, paired := f.paired && f.st == .issuing }).issueSlot fid) ∧
    (∀ pa mt, h.f.st = .ready → inAperture h.f.line.toNat = false → s.xl h.core h.cx h.f.line.toNat .fetch = .ok pa mt →
      u.xl h.core h.cx h.f.line.toNat .fetch = .ok pa mt → u.poisoned mt pa 64 = false →
      let buf := BitVec.ofNat 512 (u.physRead mt pa 64)
      parityOf buf = lineWord buf % 256 → (h.f.checkTm = true → lineTM buf h.f.slot.val = true) → lineCheck buf = none →
      (lineRegs buf h.g h.f.mask h.f.slot.val).any (h.g.outside h.f) = false →
      ∃ t : State, step s = t.issueSlot fid ∧ t.groups = s.groups ∧
        ∃ f : Frag, t.frags.get? fid = some f ∧ f.buf = buf ∧ f.slot = h.f.slot ∧ f.line = h.f.line ∧ f.st = .issuing))

/-- The state after reset: the module is a G9, awake, nothing is resident, and every memory is empty and so in canonical form. That an
unlisted byte reads 0, that a core without a listed entry has every register at zero, and that reset with no input placed steps to itself
are the model's choices (logs 1, 3 and 7). -/
def Obligations.ResetState : Prop :=
  State.reset.MemOk ∧ State.reset.g9 = true ∧ State.reset.asleep = false ∧ State.reset.mem = [] ∧ State.reset.hostMem = [] ∧
  State.reset.domMem = [] ∧ State.reset.frags = [] ∧ State.reset.ctxs = [] ∧ State.reset.launches = [] ∧
  (∀ k, State.reset.core k = {}) ∧ (∀ a, memByte State.reset.mem a = 0) ∧ step State.reset = .next State.reset

/-- Every step keeps the memories in canonical form: addresses strictly rising and no byte listed at the value an unlisted one
has, so that equal memories are equal data. -/
def Obligations.StepKeepsMemory : Prop :=
  ∀ s t : State, s.MemOk → step s = .next t → t.MemOk

/-! ## Integer, logic and lane instructions (spec/05) -/

/-- NOP (R86) completes with no effect but to go on to the next slot, UDF traps as RI with DETAIL 0 (spec/03 R50). That an
instruction row without a current fragment stops by name is the model's choice (log 9). Software traps (R161; spec/25 R415; spec/07 R148): TRAPI traps as
TRAPI with its immediate as INFO; BRK halts the group under a debugger and else traps as BRK; an instruction that needs the
group whole traps as SPLIT with DETAIL 1 while it is split. -/
def Obligations.NopAndSoftwareTraps : Prop :=
  ((∀ s h, s.here = some h → ∃ t, exec .nop s = .next t ∧ OnlyHere h s t ∧ WentOn .nop h t ∧ t.groups = s.groups) ∧
   (∀ s h, s.here = some h →
     exec .udf s = .next (s.takeTrap h { cause := .ri, detail := 0, lanes := h.f.mask.toNat })) ∧
   (∀ s, s.here = none → exec .nop s = .fault .noFragment ∧ exec .udf s = .fault .noFragment)) ∧
  (∀ (s : State) (h : Here) (w : EngW),
     (Runs (.trapi w) h s → Traps (.trapi w) h s { cause := .trapi, lanes := h.f.mask.toNat, info := w.imm.toNat }) ∧
     (Runs (.brk w) h s → h.cx.debugger = false →
       Traps (.brk w) h s { cause := .brk, lanes := h.f.mask.toNat, info := w.imm.toNat }) ∧
     (Runs (.brk w) h s → h.cx.debugger = true → ∃ t g f, exec (.brk w) s = .next t ∧ SameMem s t ∧ t.groups.get? h.gid = some g ∧
       g = { h.g with halted := true, stopCause := .debug } ∧ t.frags.get? h.fid = some f ∧ f.line = h.f.line ∧ f.slot = h.f.slot) ∧
     (∀ i ∈ [Instr.rgn w, .rgnClose w, .tbar w, .cjoin w, .cleave w, .cbar w, .rbsur w, .rbclm w, .tilenx w, .tilenxExit w],
       Runs i h s → s.sole h = false → Traps i h s { cause := .split, detail := 1, lanes := h.f.mask.toNat }))

/-- Integer arithmetic (R87): the exact result per active lane, or once into a scalar register, saturated or taken modulo 2^w
and read back with the type's signedness; packed halves apart. Nothing else changes. -/
def Obligations.IntegerArithmetic : Prop :=
  ∀ (s : State) (h : Here) (w : AluW),
    (Runs (.iadd w) h s → Writes (.iadd w) h s (intResult h w (h.arith w fun a b _ => a + b))) ∧
    (Runs (.isub w) h s → Writes (.isub w) h s (intResult h w (h.arith w fun a b _ => a - b))) ∧
    (Runs (.imul w) h s → Writes (.imul w) h s
      (intResult h w (h.arith w fun a b _ => if w.xm.getLsbD 0 then a * b / 2 ^ w.ty.bits else a * b))) ∧
    (Runs (.imad w) h s → Writes (.imad w) h s (intResult h w (h.arith w fun a b c => a * b + c))) ∧
    (Runs (.imin w) h s → Writes (.imin w) h s (intResult h w (h.arith w fun a b _ => min a b))) ∧
    (Runs (.imax w) h s → Writes (.imax w) h s (intResult h w (h.arith w fun a b _ => max a b))) ∧
    (Runs (.iabs w) h s → Writes (.iabs w) h s (intResult h w (h.arith w fun _ b _ => (b.natAbs : Int)))) ∧
    (Runs (.ineg w) h s → Writes (.ineg w) h s (intResult h w (h.arith w fun _ b _ => -b)))

/-- Division (R88): a well-formed IDIV or IREM has an integer type and no .sat; the quotient is truncated toward zero, the
remainder is a − b × q, and the open cases are decided as the rule's table does. -/
def Obligations.Division : Prop :=
  ∀ (s : State) (h : Here) (w : AluW),
    let a := fun l => h.srcI w w.a l
    let b := fun l => h.srcI w w.b l
    let least : Int := -(2 ^ (w.ty.bits - 1))
    (WellFormed (.idiv w) → w.ty.isInt = true ∧ w.sat = false) ∧ (WellFormed (.irem w) → w.ty.isInt = true ∧ w.sat = false) ∧
    (WellFormed (.idiv w) → Runs (.idiv w) h s → Writes (.idiv w) h s (intResult h w fun l =>
      if b l = 0 then (if w.ty.signed = true then (if a l < 0 then 1 else -1) else 2 ^ w.ty.bits - 1)
      else if w.ty.signed = true ∧ a l = least ∧ b l = -1 then least else (a l).tdiv (b l))) ∧
    (WellFormed (.irem w) → Runs (.irem w) h s → Writes (.irem w) h s (intResult h w fun l =>
      if b l = 0 then a l
      else if w.ty.signed = true ∧ a l = least ∧ b l = -1 then 0 else a l - b l * (a l).tdiv (b l)))

/-- Logic and shifts (R89, R90): bit by bit on the w-bit codes, for the integer types and without .sat; the shift amount is
unsigned, the low 32 bits of a vector source or all 64 of another, and an amount of w or more gives 0, or the sign fill of a
signed SHR; ROT turns left by the amount modulo w and takes no packed type. -/
def Obligations.LogicAndShifts : Prop :=
  ∀ (s : State) (h : Here) (w : AluW),
    let n := w.ty.bits
    let code (o : Opnd) (l : Nat) : Nat := wrapN n (h.srcI w o l)
    let back (x : Int) : Int := narrowI w.ty.signed false n x
    let half (o : Opnd) (i l : Nat) : Int := halfI w.ty.signed (h.src32 o w.imm.toNat l) i
    let amount (l : Nat) : Nat := match w.b with
      | .v _ => h.src32 w.b 0 l
      | o => h.src64 o w.imm.toNat l
    let amt (i l : Nat) : Nat := h.src32 w.b w.imm.toNat l / 2 ^ (16 * i) % 2 ^ 16
    let back16 (x : Int) : Int := narrowI w.ty.signed false 16 x
    (∀ i ∈ [Instr.andI w, .orI w, .xorI w, .andn w, .rot w], WellFormed i →
      w.ty.isInt = true ∧ w.ty.packed = false ∧ w.sat = false) ∧
    (∀ i ∈ [Instr.shl w, .shr w], WellFormed i → (w.ty.isInt = true ∨ w.ty.packed = true) ∧ w.sat = false) ∧
    (w.sat = false → w.ty.packed = false →
      (Runs (.andI w) h s → Writes (.andI w) h s (intResult h w fun l => back (code w.a l &&& code w.b l : Nat))) ∧
      (Runs (.orI w) h s → Writes (.orI w) h s (intResult h w fun l => back (code w.a l ||| code w.b l : Nat))) ∧
      (Runs (.xorI w) h s → Writes (.xorI w) h s (intResult h w fun l => back (code w.a l ^^^ code w.b l : Nat))) ∧
      (Runs (.andn w) h s → Writes (.andn w) h s
        (intResult h w fun l => back (code w.a l &&& (2 ^ n - 1 - code w.b l) : Nat)))) ∧
    (w.ty.packed = false →
      (Runs (.shl w) h s → Writes (.shl w) h s (intResult h w fun l =>
        back (if n ≤ amount l then 0 else h.srcI w w.a l * 2 ^ amount l))) ∧
      (Runs (.shr w) h s → Writes (.shr w) h s (intResult h w fun l =>
        back (if n ≤ amount l then (if h.srcI w w.a l < 0 then -1 else 0) else h.srcI w w.a l / 2 ^ amount l))) ∧
      (Runs (.rot w) h s → Writes (.rot w) h s (intResult h w fun l =>
        back ((code w.a l * 2 ^ (amount l % n) % 2 ^ n + code w.a l / 2 ^ (n - amount l % n) : Nat) : Int)))) ∧
    (w.ty.packed = true →
      (Runs (.shl w) h s → Writes (.shl w) h s (intResult h w fun l => packI
        (back16 (if 16 ≤ amt 0 l then 0 else half w.a 0 l * 2 ^ amt 0 l))
        (back16 (if 16 ≤ amt 1 l then 0 else half w.a 1 l * 2 ^ amt 1 l)))) ∧
      (Runs (.shr w) h s → Writes (.shr w) h s (intResult h w fun l => packI
        (back16 (if 16 ≤ amt 0 l then (if half w.a 0 l < 0 then -1 else 0) else half w.a 0 l / 2 ^ amt 0 l))
        (back16 (if 16 ≤ amt 1 l then (if half w.a 1 l < 0 then -1 else 0) else half w.a 1 l / 2 ^ amt 1 l)))))

/-- Bit fields, counts, reversal and byte permute (R91 to R93), for the types that the rules give them. That BREV and
PERM with a 32-bit type write zeros to the upper half of a scalar destination is the model's choice (log 41). -/
def Obligations.BitFields : Prop :=
  ∀ (s : State) (h : Here) (w : AluW),
    let n := w.ty.bits
    let code (o : Opnd) (l : Nat) : Nat := wrapN n (h.srcI w o l)
    let back (x : Int) : Int := narrowI w.ty.signed false n x
    let imm := w.imm.toNat
    (∀ i ∈ [Instr.bfx w, .bfi w, .popc w, .clz w, .brev w], WellFormed i → w.ty ∈ [Ty.i32, .n32, .i64, .n64] ∧ w.sat = false) ∧
    (WellFormed (.perm w) → w.ty ∈ [Ty.n32, .i32] ∧ w.sat = false) ∧
    (Runs (.bfx w) h s → Writes (.bfx w) h s (intResult h w fun l =>
      let o := h.src32 w.b imm l % 256
      let k := h.src32 w.b imm l / 256 % 256
      let f := wrapN k (h.srcI w w.a l / 2 ^ o)
      back (if w.ty.signed = true ∧ 0 < k then sextI k f else (f : Int)))) ∧
    (Runs (.bfi w) h s → Writes (.bfi w) h s (intResult h w fun l =>
      let o := h.src32 w.c imm l % 256
      let k := h.src32 w.c imm l / 256 % 256
      let m := (2 ^ k - 1) * 2 ^ o % 2 ^ n
      back ((code w.b l &&& (2 ^ n - 1 - m)) ||| (code w.a l * 2 ^ o % 2 ^ n &&& m) : Nat))) ∧
    (Runs (.popc w) h s → Writes (.popc w) h s (intResult h w fun l =>
      (((List.range n).filter fun i => (code w.b l).testBit i).length : Int))) ∧
    (Runs (.clz w) h s → ∃ f : Nat → Int, Writes (.clz w) h s (intResult h w f) ∧ ∀ l, 0 ≤ f l ∧ f l ≤ n ∧
      (∀ i : Nat, (i : Int) < f l → (code w.b l).testBit (n - 1 - i) = false) ∧
      (f l < n → (code w.b l).testBit (n - 1 - (f l).toNat) = true)) ∧
    (Runs (.brev w) h s → ∃ f : Nat → Nat, Writes (.brev w) h s (intResult h w fun l => (f l : Int)) ∧
      ∀ l i, (f l).testBit i = (decide (i < n) && (code w.b l).testBit (n - 1 - i))) ∧
    (Runs (.perm w) h s → ∃ f : Nat → Nat, Writes (.perm w) h s (intResult h w fun l => (f l : Int)) ∧ ∀ l i, f l < 2 ^ 32 ∧ (i < 4 →
        let k := h.src32 w.c imm l / 16 ^ i % 16
        let p := (h.src32 w.a imm l + h.src32 w.b imm l * 2 ^ 32) / 256 ^ (k % 8) % 256
        f l / 256 ^ i % 256 = if k < 8 then p else if 128 ≤ p then 255 else 0))

/-- Compare, select, address formation, move, dot product and sum of differences (R94 to R98). -/
def Obligations.CompareSelectMove : Prop :=
  ∀ (s : State) (h : Here) (w : AluW),
    (WellFormed (.mov w) → w.dst.isV = true ∨ w.dst.isS = true ∨ w.dst.isK = true ∨ w.dst.isC = true) ∧
    let a := fun l => h.srcI w w.a l
    let b := fun l => h.srcI w w.b l
    let rel := fun l => match w.fn.val with
      | 0 => decide (a l = b l) | 1 => decide (a l ≠ b l) | 2 => decide (a l < b l)
      | 3 => decide (a l ≤ b l) | 4 => decide (b l < a l) | _ => decide (b l ≤ a l)
    (Runs (.icmp w) h s → Writes (.icmp w) h s (cmpResult h w rel)) ∧
    (Runs (.sel w) h s → Writes (.sel w) h s (intResult h w fun l =>
      if (if w.dst.isS then h.srcC w.c else (h.srcK w.c 0).getLsbD l) then h.moved w w.a l else h.moved w w.b l)) ∧
    (Runs (.lea w) h s → Writes (.lea w) h s (intResult h w fun l => (wrapN w.ty.bits
      (((if w.ty.is64 then h.src64 w.a 0 l else h.src32 w.a 0 l : Nat) : Int) +
        if w.fmtI then sextI 32 w.imm.toNat
        else (if w.xm.getLsbD 3 then sextI 32 (h.src32 w.b 0 l) else (h.src32 w.b 0 l : Int)) * 2 ^ (w.xm.toNat % 8)) : Nat))) ∧
    (Runs (.mov w) h s →
      (w.dst.isV = true → Writes (.mov w) h s (intResult h w fun l => h.moved w w.b l)) ∧
      (w.dst.isS = true → w.b.isK = true ∨ w.b.isC = true →
        Writes (.mov w) h s (.scal w.dst w.ws (BitVec.ofNat 64 (h.src32 w.b 0 0)))) ∧
      (w.dst.isS = true → w.b.isV = true ∨ w.b.isS = true ∨ w.b.isImm = true ∨ w.b.isZr = true →
        Writes (.mov w) h s (intResult h w fun l => h.moved w w.b l)) ∧
      (∀ n, w.dst.isS = true → w.b = .b n → match h.f.latches.get? n.val with
        | some (.mask x) => Writes (.mov w) h s (.scal w.dst w.ws (x.zeroExtend 64))
        | some (.flag x) => Writes (.mov w) h s (.scal w.dst w.ws (if x then 1 else 0))
        | _ => Writes (.mov w) h s (intResult h w fun l => h.moved w w.b l)) ∧
      (w.dst.isK = true → Writes (.mov w) h s (.mask w.dst w.ws (h.active w.g w.gn) (h.srcK w.b w.imm.toNat))) ∧
      (w.dst.isC = true → Writes (.mov w) h s (.flag w.dst w.ws (decide (h.moved w w.b 0 ≠ 0))))) ∧
    (Runs (.dp4i w) h s → Writes (.dp4i w) h s (intResult h w fun l =>
      let p := fun i => byteI (w.ty.signed != w.xm.getLsbD 0) (h.src32 w.a w.imm.toNat l) i *
        byteI (w.ty.signed != w.xm.getLsbD 1) (h.src32 w.b w.imm.toNat l) i
      narrowI w.ty.signed w.sat 32 (h.srcI w w.c l + p 0 + p 1 + p 2 + p 3))) ∧
    (Runs (.sad w) h s → Writes (.sad w) h s (intResult h w fun l =>
      let e := if w.ty == .n8 then 8 else if w.ty == .v2n16 then 16 else 32
      let d := fun i => ((h.src32 w.a w.imm.toNat l / 2 ^ (e * i) % 2 ^ e : Nat) : Int) -
        (h.src32 w.b w.imm.toNat l / 2 ^ (e * i) % 2 ^ e : Nat)
      (((List.range (32 / e)).map fun i => (d i).natAbs).sum : Nat)))

/-- Special registers (R99 to R101): SRD writes the register's value per active lane or once into a scalar register, and nothing else
of the machine changes; but reading CLOCK lets an open number of cycles pass on the core first (log 12). Each number names what R100
says: the lane, the group, the team, its tile, its cluster, the launch, the core's clock, CAPS, or a register of the group or fragment,
and a well-formed SRD names one of them. SWR replaces FSR, whose reserved bits read as zero and whose RM is a mode, or PENWIN, with the
register's error mark. -/
def Obligations.SpecialRegisters : Prop :=
  ∀ (s : State) (h : Here) (w : EngW),
    let n := w.imm.toNat % 256
    (Runs (.srd w) h s → ∃ u t, exec (.srd w) s = .next t ∧
      Wrote (.srd w) h u t
        (if w.dst.isS then .scal w.dst false (BitVec.ofNat 64 (u.special h n ((lowLane h.f.mask).getD 0)))
         else .vec w.dst false (w.imm.getLsbD 8) (h.active w.g w.gn) fun l => u.special h n l) 0 ∧
      (n ≠ 0x0F → u = s) ∧
      (n = 0x0F → ∃ e, u = { s.modCore h.core fun c => { c with clock := c.clock + e } with free := s.free + 1 })) ∧
    (Runs (.swr w) h s → ∃ t g, exec (.swr w) s = .next t ∧ OnlyHere h s t ∧ WentOn (.swr w) h t ∧
      t.groups.get? h.gid = some g ∧
      g = if n = 0x11 then h.g.setFsr (h.srcS w.a).toNat
        else { h.g.heal .penwin with penwin := BitVec.ofNat 10 (h.srcS w.a).toNat }) ∧
    (WellFormed (.srd w) → n ≤ 0x14) ∧ (WellFormed (.swr w) → n = 0x11 ∨ n = 0x14) ∧
    (∀ l, ∀ e ∈ [(0x00, l), (0x01, h.g.idx), (0x02, h.g.idx / 4), (0x03, h.t.ngroups), (0x04, h.t.num.toNat), (0x05, h.t.tx.toNat),
        (0x06, h.t.ty.toNat), (0x07, h.t.tz.toNat), (0x08, h.t.ti.toNat), (0x09, h.t.coreslot), (0x0A, h.t.cluster.toNat),
        (0x0B, h.t.nslots), (0x0C, (s.launchName h.t.launch).2), (0x0D, h.t.param.toNat), (0x0E, h.g.spillVA.toNat),
        (0x0F, (s.core h.core).clock.toNat), (0x10, s.caps), (0x11, h.g.fsr.toNat), (0x12, h.f.sig.toNat), (0x13, h.g.rgnpc.toNat),
        (0x14, h.g.penwin.toNat)], s.special h e.1 l = e.2) ∧
    (s.g9 = true → s.caps = 0x10 + 4 * 2 ^ 8 + 16 * 2 ^ 11 + 0xF * 2 ^ 16 + (192 - s.boot.fenced.length) * 2 ^ 20) ∧
    (s.g9 = false → s.caps = 0x10 + 2 * 2 ^ 8 + 8 * 2 ^ 11 + (96 - s.boot.fenced.length) * 2 ^ 20) ∧
    (∀ x, (fsrStored x).toNat / 512 = 0 ∧ fsrRm (fsrStored x) ≤ 4)

/-! ## Float and conversion instructions (spec/06) -/

/-- Sums and products (R116, R123): one rounding of the exact sum of products and addends, from sources read with their sign
bits and FTZ applied, under the instruction's rounding mode; the flags raised are sticky. Nothing else changes. Minimum,
maximum, comparison, class, sign and exponent (R117 to R119, R122, R124): FMIN, FMAX, FCLASS, FCOPYS and FFREXP raise no flag;
FCMP raises NV for an ordered relation of a NaN only. Quotients, roots and transcendentals (R120, R121): each is one rounding of
the exact value, with the special values, DZ and NV of the rules; here the four quotients and roots are pinned at their special
values, and every one of the eight writes its result and flags and nothing else. -/
def Obligations.FloatArithmetic : Prop :=
  (∀ (s : State) (h : Here) (w : AluW),
     let f := fmtOf w.ty
     let ftz := fsrFtz h.g.fsr
     let sum (p : Nat → List (FVal × FVal)) (q : Nat → List FVal) : Nat → Nat × Nat := fun l => f.dot (h.md w l) w.sat ftz (p l) (q l)
     let c32 := fun l => Fmt.f32.dec ftz (signMods .f32 w.nc w.ac (h.src32 w.c 0 l))
     let dp (fb : Fmt) (n : Nat) : Nat → Nat × Nat := fun l => Fmt.f32.dot (h.md w l) w.sat ftz
       ((List.range n).map fun i =>
         (elemF f ftz w.na (h.src32 w.a 0 l) i, elemF fb ftz w.nb (h.src32 w.b 0 l) i)) [c32 l]
     let put (i : Instr) (r : Nat → Nat × Nat) : Prop := Runs i h s → Writes i h s (floatResult h w r) (floatFlags h w r)
     put (.fadd w) (sum (fun _ => []) fun l => [h.fa w l, h.fb w l]) ∧
     put (.fsub w) (sum (fun _ => []) fun l => [h.fa w l, (h.fb w l).flip]) ∧
     put (.fmul w) (sum (fun l => [(h.fa w l, h.fb w l)]) fun _ => []) ∧
     put (.ffma w) (sum (fun l => [(h.fa w l, h.fb w l)]) fun l => [h.fc w l]) ∧
     put (.fdp2 w) (dp f 2) ∧ put (.fdp4 w) (dp (fmtOf w.t2) 4)) ∧
  (∀ (s : State) (h : Here) (w : AluW),
     let f := fmtOf w.ty
     let ftz := fsrFtz h.g.fsr
     let code (neg abs : Bool) (o : Opnd) (l : Nat) : Nat := signMods f neg abs (h.src32 o w.imm.toNat l)
     let put (i : Instr) (r : Nat → Nat × Nat) : Prop := Runs i h s → Writes i h s (floatResult h w r) (floatFlags h w r)
     let un := fun l => (h.fa w l).isNan || (h.fb w l).isNan
     let lt := fun l => !un l && ltVal (h.fa w l) (h.fb w l)
     let gt := fun l => !un l && ltVal (h.fb w l) (h.fa w l)
     let eq := fun l => !un l && eqVal (h.fa w l) (h.fb w l)
     let nv := fun l => if un l then flNV else 0
     let rel : Nat → Bool × Nat := fun l => match w.fn.val with
       | 0 => (eq l, 0) | 1 => (!eq l, 0) | 2 => (lt l, nv l) | 3 => (lt l || eq l, nv l)
       | 4 => (gt l, nv l) | 5 => (gt l || eq l, nv l) | 6 => (!un l, 0) | _ => (un l, 0)
     put (.fmin w) (fun l => (f.minmax ftz false (code w.na w.aa w.a l) (code w.nb w.ab w.b l), 0)) ∧
     put (.fmax w) (fun l => (f.minmax ftz true (code w.na w.aa w.a l) (code w.nb w.ab w.b l), 0)) ∧
     (Runs (.fcmp w) h s → Writes (.fcmp w) h s (cmpResult h w fun l => (rel l).1) (cmpFlags h w rel)) ∧
     put (.fclass w) (fun l => (2 ^ classBit f (h.fb w l), 0)) ∧
     put (.frnd w) (fun l => f.integral (h.md w l) (h.fb w l)) ∧
     put (.fcopys w) (fun l =>
       ((f.ofVal .rne false false
         (if (h.src32 w.b w.imm.toNat l).testBit (f.width - 1) then (h.fa w l).abs.flip else (h.fa w l).abs)).1, 0)) ∧
     put (.fldexp w) (fun l => f.ldexp (h.md w l) w.sat ftz (h.fa w l) (sextI 32 (h.src32 w.b w.imm.toNat l))) ∧
     (w.xm.getLsbD 0 = true → put (.ffrexp w) fun l => (wrapN 64 (h.fb w l).frexp, 0)) ∧
     (w.xm.getLsbD 0 = false → put (.ffrexp w) fun l => ((f.ofVal .rne false false (match h.fb w l with
       | .fin n m e => .fin n m (e - (h.fb w l).frexp)
       | v => v)).1, 0))) ∧
  ((∀ (s : State) (h : Here) (w : AluW),
     let f := fmtOf w.ty
     let ftz := fsrFtz h.g.fsr
     let put (i : Instr) (r : Nat → Nat × Nat) : Prop := Runs i h s → Writes i h s (floatResult h w r) (floatFlags h w r)
     put (.frcp w) (fun l => f.div (h.md w l) w.sat ftz (.fin false 1 0) (h.fb w l)) ∧
     put (.fdiv w) (fun l => f.div (h.md w l) w.sat ftz (h.fa w l) (h.fb w l)) ∧
     put (.fsqrt w) (fun l => f.sqrt (h.md w l) w.sat ftz (h.fb w l)) ∧
     put (.frsq w) (fun l => f.rsqrt (h.md w l) w.sat ftz (h.fb w l)) ∧
     put (.fexp2 w) (fun l => exp2F w.sat (h.md w l) ftz (h.fb w l)) ∧
     put (.flog2 w) (fun l => log2F w.sat (h.md w l) ftz (h.fb w l)) ∧
     put (.fsin w) (fun l => sinPiF w.sat (h.md w l) ftz (h.fb w l)) ∧
     put (.fcos w) (fun l => cosPiF w.sat (h.md w l) ftz (h.fb w l))) ∧
   (∀ (f : Fmt) (md : Mode) (sat ftz n n' : Bool) (m : Nat) (e e' : Int), m ≠ 0 →
     f.div md sat ftz (.fin n m e) (.fin n' 0 e') = (f.inf (n != n'), flDZ) ∧
     f.div md sat ftz (.fin n 0 e) (.fin n' 0 e') = (f.nan, flNV) ∧
     f.div md sat ftz (.inf n) (.inf n') = (f.nan, flNV) ∧
     f.sqrt md sat ftz (.fin true m e) = (f.nan, flNV) ∧ f.sqrt md sat ftz (.fin n 0 e) = (f.signBit n, 0) ∧
     f.rsqrt md sat ftz (.fin n 0 e) = (f.inf n, flDZ) ∧ f.rsqrt md sat ftz (.fin true m e) = (f.nan, flNV)))

/-- Conversions, block quantisation and random words (R125 to R134). -/
def Obligations.Conversions : Prop :=
  ∀ (s : State) (h : Here) (w : AluW),
    let ftz := fsrFtz h.g.fsr
    let act := h.active w.g w.gn
    let put (i : Instr) (r : Nat → Nat × Nat) : Prop := Runs i h s → Writes i h s (floatResult h w r) (floatFlags h w r)
    let merge (l : Nat) (r : Nat × Nat) : Nat × Nat := (h.cvtMerge w w.ty.bits l r.1, r.2)
    let xs := (List.range 32).map fun l => if act.getLsbD l then Fmt.f32.dec ftz (h.src32 w.a 0 l) else .fin false 0 0
    let blk := qpackBlock xs (w.xm.toNat / 256 % 4) (h.src64 w.b 0 0 % 256) (h.md w)
    put (.cvt w) (fun l => merge l ((fmtOf w.ty).ofVal (h.md w l) w.sat ftz ((fmtOf w.t2).dec ftz (h.cvtElem w l)))) ∧
    put (.cvti w) (fun l =>
      let r := toInt (h.md w l) w.ty.signed w.ty.bits ((fmtOf w.t2).dec ftz (h.cvtElem w l))
      merge l (wrapN 64 r.1, r.2)) ∧
    put (.cvtf w) (fun l =>
      let x : Int := if w.t2.signed then sextI w.t2.bits (h.cvtElem w l) else (h.cvtElem w l : Int)
      merge l ((fmtOf w.ty).ofVal (h.md w l) w.sat ftz (.fin (decide (x < 0)) x.natAbs 0))) ∧
    (Runs (.qpack w) h s → act ≠ 0 → Writes (.qpack w) h s (.vec w.dst w.ws false 0xFFFFFFFF blk.lane) blk.flags) ∧
    (Runs (.qpack w) h s → act = 0 → Writes (.qpack w) h s (.vec w.dst w.ws false 0 fun _ => 0)) ∧
    put (.qunpk w) (fun l =>
      let sx := if w.c.isZr then h.src32 w.b 0 4 else h.src64 w.c 0 0
      (fmtOf w.ty).ofVal (h.md w l) w.sat ftz
        (e2m1Val (h.src32 w.b 0 (l / 8) / 2 ^ (4 * (l % 8)) % 16) (sx % 256) (sx / 256 % 256))) ∧
    put (.rng w) (fun l => (if w.ty.is64 then h.kcgAt w l else h.kcgAt w l % 2 ^ 32, 0)) ∧
    put (.rngf w) (fun l => ((Fmt.f32.ofVal .rne false false (.fin false (h.kcgAt w l / 2 ^ 40) (-24))).1, 0))

/-! ## Masks and lanes (spec/05) -/

/-- KPOP and KFFS (R103): the number of set bits, and the lowest set bit's index or all ones, of kB ∧ active, where active is
the fragment's active mask; each executes once, so a well-formed one is unguarded and has a scalar destination. -/
def Obligations.KpopKffs : Prop :=
  ∀ (s : State) (h : Here) (w : AluW),
    let m := h.srcK w.b w.imm.toNat &&& h.f.mask
    (WellFormed (.kpop w) → w.g = 0 ∧ w.gn = false ∧ w.dst.isS = true) ∧
    (WellFormed (.kffs w) → w.g = 0 ∧ w.gn = false ∧ w.dst.isS = true) ∧
    (Runs (.kpop w) h s → Writes (.kpop w) h s
      (.scal w.dst w.ws (BitVec.ofNat 64 ((List.range 32).filter fun l => m.getLsbD l).length))) ∧
    (Runs (.kffs w) h s → m = 0 → Writes (.kffs w) h s (.scal w.dst w.ws 0xFFFFFFFFFFFFFFFF)) ∧
    (∀ l, Runs (.kffs w) h s → l < 32 → m.getLsbD l = true → (∀ j, j < l → m.getLsbD j = false) →
      Writes (.kffs w) h s (.scal w.dst w.ws (BitVec.ofNat 64 l)))

/-- KOP and VOTE (R102, R104): bitwise on the lanes active under the mask and the guard; the vote tests kB ∧ active. Lane moves
and tree reductions (R105 to R107): SHFL reads lane j of its source whether or not it is active; RDLANE and WRLANE act on lane b
mod 32; GRED gives every active lane the value of the tree over the active lanes, and GSCAN each its prefix, exclusive when
XM[0] is set. -/
def Obligations.MasksAndLanes : Prop :=
  (∀ (s : State) (h : Here) (w : AluW),
     let a := h.srcK w.a 0
     let b := h.srcK w.b w.imm.toNat
     let m := b &&& h.f.mask
     (Runs (.kop w) h s → Writes (.kop w) h s (.mask w.dst w.ws (h.active w.g w.gn)
       (match w.fn.val with
        | 0 => a &&& b | 1 => a ||| b | 2 => a ^^^ b | 3 => a &&& ~~~b | 4 => ~~~b | _ => b))) ∧
     (Runs (.vote w) h s → Writes (.vote w) h s (.flag w.dst w.ws
       (match w.fn.val with
        | 0 => decide (m = h.f.mask) | 1 => decide (m ≠ 0) | _ => decide (m = 0 ∨ m = h.f.mask))))) ∧
  (∀ (s : State) (h : Here) (w : AluW),
     let act := h.active w.g w.gn
     let b := fun l => match w.b with | .v _ => h.src32 w.b 0 l | o => h.src64 o w.imm.toNat l
     let j := fun l => match w.fn.val with
       | 0 => b l % 32 | 1 => if b l ≤ l then l - b l else l | 2 => if l + b l < 32 then l + b l else l | _ => l ^^^ (b l % 32)
     let n := w.xm.toNat % 256
     let rl := h.src64 w.b 0 0 % 32
     let wl := h.src64 w.b w.imm.toNat 0 % 32
     let pre := fun l => (treePrefix (h.redOp w) (h.redLeaf w act) (if w.xm.getLsbD 0 then l else l + 1)).getD
       (redIdentity w.ty w.fn.val, 0)
     (Runs (.shfl w) h s → Writes (.shfl w) h s (intResult h w fun l => h.moved w w.a (j l))) ∧
     (Runs (.rdlane w) h s → Writes (.rdlane w) h s (.scal w.dst w.ws (BitVec.ofNat 64
       ((h.vreg n rl).toNat + if w.ty.is64 then (h.vreg (n + 1) rl).toNat * 2 ^ 32 else 0)))) ∧
     (Runs (.wrlane w) h s → Writes (.wrlane w) h s
       (.vec w.dst w.ws w.ty.is64 (act &&& BitVec.ofNat 32 (2 ^ wl)) fun _ => h.src64 w.a 0 0)) ∧
     (∀ x fl, Runs (.gred w) h s → treeNode (h.redOp w) (h.redLeaf w act) 5 0 = some (x, fl) →
       Writes (.gred w) h s (.vec w.dst w.ws w.ty.is64 act fun _ => wrapN 64 x) fl) ∧
     (Runs (.gred w) h s → treeNode (h.redOp w) (h.redLeaf w act) 5 0 = none →
       act = 0 ∧ Writes (.gred w) h s (.vec w.dst w.ws w.ty.is64 act fun _ => 0)) ∧
     (Runs (.gscan w) h s → Writes (.gscan w) h s (.vec w.dst w.ws w.ty.is64 act fun l => wrapN 64 (pre l).1)
       (foldLanes act 0 fun a l => a ||| (pre l).2)))

/-- MATCH (R108): each active lane gets the mask of the active lanes whose a equals its own bit for bit, with T of 32 or 64
bits. -/
def Obligations.Match : Prop :=
  ∀ (s : State) (h : Here) (w : AluW), Runs (.matchI w) h s →
    let act := h.active w.g w.gn
    let a := fun l => if w.ty.is64 then h.src64 w.a 0 l else h.src32 w.a 0 l
    ∃ f : Nat → W32, Writes (.matchI w) h s (.vec w.dst w.ws false act fun l => (f l).toNat) ∧
      ∀ l m, m < 32 → (f l).getLsbD m = (act.getLsbD m && decide (a m = a l))

/-! ## Control (spec/07) -/

/-- Branches, calls and jumps (R155 to R157; spec/03 R33): an untaken BR goes on to the next slot. A transfer lands on its line
and slot, with nothing else changed but a CALL's link register, which gets the pointer of the slot after the CALL; where the
target slot's TM bit is known to be clear it traps as TARGET with the slot as DETAIL, and a malformed pointer in RET or JMPI
traps as ALIGN. That a target line that cannot be read is entered and its fetch traps there, and that TARGET has ADDR 0, are the model's
choices (log 26). EXIT and YIELD (R159, R160). An EXIT that its guard leaves without a lane does nothing; one that leaves lanes goes on
with them; the last lanes of a fragment without pending fusion points make it Gone; and where the innermost of its points is serialised
and its complement has not run, the fragment goes on at the point's target with the complement's lanes. Where the lanes are not conserved
an EXIT takes the freeze path. YIELD goes on Ready at the next slot,
with the newest stamp of its partition, or stops at a line boundary where it has been asked to. -/
def Obligations.BranchesAndExits : Prop :=
  (∀ (s : State) (h : Here),
     (∀ w, Runs (.br w) h s →
       (h.cond w = false → Completes (.br w) h s s ∧ OnlyHere h s (s.finish h (.br w))) ∧
       (h.cond w = true → Transfers (.br w) h s s (h.target w) w.slot)) ∧
     (∀ w, Runs (.call w) h s → ∃ u g, Transfers (.call w) h s u (h.target w) w.slot ∧ OnlyHere h s u ∧
       u.groups.get? h.gid = some g ∧ g = { h.g with s := g.s, badR := g.badR } ∧
       ∀ n, g.s.getD 0 n = (Result.scal w.dst w.ws h.nextPtr).sAt h n) ∧
     (∀ (w : EngW) (i : Instr), i = .ret w ∨ i = .jmpi w → Runs i h s →
       let p := (h.srcS w.a).toNat
       (2 ^ 56 ≤ p ∨ bitsN p 5 3 ≠ 0 ∨ 5 ≤ p % 8 → Traps i h s { cause := .align, lanes := h.f.mask.toNat, addr := p % 2 ^ 56 }) ∧
       (∀ j : Fin 5, p < 2 ^ 56 → bitsN p 5 3 = 0 → p % 8 = j.val →
         Transfers i h s s (BitVec.ofNat 56 (p / 64 * 64)) j))) ∧
  (∀ (s : State) (h : Here) (w : EngW),
     let out := h.active w.g w.gn
     let gone := ((s.noteExit h out).abandon h.gid out).modGroup h.gid fun g =>
       { g with
         exited := g.exited ||| out
         fps := g.fps.mapV fun k p => if h.f.chain.contains k then { p with exited := p.exited ||| out } else p }
     let left := gone.modFrag h.fid fun f => { f with mask := h.f.mask &&& ~~~out }
     let dead := left.modFrag h.fid fun f => { f with st := .gone, stall := false, latches := [] }
     (Runs (.exit w) h s → out = 0 → Completes (.exit w) h s s) ∧
     (Runs (.exit w) h s → out ≠ 0 → h.f.mask &&& ~~~out ≠ 0 → left.lanesConserved h.gid = true →
       Completes (.exit w) h s left) ∧
     (Runs (.exit w) h s → out ≠ 0 → h.f.mask &&& ~~~out = 0 → h.f.chain = [] → dead.lanesConserved h.gid = true →
       exec (.exit w) s = .next
         ((if (dead.reap h.gid).live h.gid then dead.reap h.gid else (dead.reap h.gid).afterGone h.tid).account h.fid h.gid
           (fieldsOf (.exit w)))) ∧
     (Runs (.exit w) h s → out ≠ 0 → h.f.mask &&& ~~~out ≠ 0 → left.lanesConserved h.gid = false →
       exec (.exit w) s = .next (s.freeze h .signat)) ∧
     (Runs (.exit w) h s → out ≠ 0 → h.f.mask &&& ~~~out = 0 → h.f.chain = [] → dead.lanesConserved h.gid = false →
       exec (.exit w) s = .next (s.freeze h .signat)) ∧
     (∀ p rest pt, Runs (.exit w) h s → out ≠ 0 → h.f.mask &&& ~~~out = 0 → h.f.chain = p :: rest → h.g.fps.get? p = some pt →
       pt.serial = true → pt.ran = false →
       let pt' : FusePoint := { pt with exited := pt.exited ||| out, ran := true }
       let on := (left.modGroup h.gid fun g => { g with fps := g.fps.set p pt' }).modFrag h.fid fun f =>
         { f.leave pt.target pt.tslot with mask := pt.e, chain := h.f.chain, checkTm := true }
       (on.lanesConserved h.gid = false → exec (.exit w) s = .next (s.freeze h .signat)) ∧
       (on.lanesConserved h.gid = true →
         ∃ t f g, exec (.exit w) s = .next t ∧ t.frags.get? h.fid = some f ∧ f.mask = pt.e ∧ f.chain = h.f.chain ∧
           f.line = pt.target ∧ f.slot = pt.tslot ∧ (f.st = .ready ∨ f.st = .parked .bound) ∧
           t.groups.get? h.gid = some g ∧ g.exited = h.g.exited ||| out ∧ g.fps.get? p = some pt')) ∧
     (Runs (.yield w) h s → ∃ t f, exec (.yield w) s = .next t ∧ OnlyHere h s t ∧ t.groups = s.groups ∧
       t.frags.get? h.fid = some f ∧ f.mask = h.f.mask ∧ f.chain = h.f.chain ∧ f.sig = h.f.sig ∧ f.last = s.stamp ∧
       f.line = (if h.f.slot.val < 4 then h.f.line else h.f.line + 64) ∧
       f.slot.val = (if h.f.slot.val < 4 then h.f.slot.val + 1 else 0) ∧
       f.st = if h.f.slot.val = 4 ∧ (h.f.stopAt = true ∨ h.f.hold = true) then .parked .bound else .ready))

/-- SPLIT (R141): with lanes on both sides it goes on with the lanes of kB, and the others become a new fragment at the target
in the partition's lowest free entry, both under a new pending fusion point that records the mask; without a free entry the
others become a record of the split spill area, or it traps as SPLIT where that has no room; with all lanes in kB it goes on, and with none in kB it transfers to the target, and no fragment is made. That a target line that cannot be read is forked to and traps
there, and that TARGET has ADDR 0, are the model's choices (log 26). FUSE (R142, R158): outside slot 0 it traps as RI with DETAIL 5;
where the innermost pending fusion point is not of this line it does nothing; a serialised split runs its recorded lanes first;
the last fragment to arrive goes on, in the lower entry, with the lanes of both sides, if the lanes are conserved, and else takes
the freeze path; a fragment that others still share the point with waits. -/
def Obligations.SplitAndFuse : Prop :=
  (∀ (s : State) (h : Here) (w : BrW), Runs (.split w) h s →
     let k := h.srcK w.b 0
     let t := h.f.mask &&& k
     let e := h.f.mask &&& ~~~k
     let land := s.landing h (h.target w) w.slot.val
     let p : FusePoint := { line := h.fuseLine w, mask := h.f.mask }
     (t ≠ 0 → e = 0 → Completes (.split w) h s s) ∧
     (t = 0 → Transfers (.split w) h s s (h.target w) w.slot) ∧
     (land = none → e ≠ 0 → Traps (.split w) h s { cause := .target, detail := w.slot.val, lanes := h.f.mask.toNat }) ∧
     (∀ c n rest, t ≠ 0 → e ≠ 0 → land = some c → s.freeEntries (fragPart h.fid) = n :: rest →
       ∃ u f f' g, exec (.split w) s = .next u ∧ Frame h s u noReg ∧ u.groups.get? h.gid = some g ∧
         g.fps = h.g.fps.set h.g.nextFp p ∧
         u.frags.get? h.fid = some f ∧ f.mask = t ∧ f.chain = h.g.nextFp :: h.f.chain ∧ f.sig = 0xFFFFFFFF ∧
         u.frags.get? n = some f' ∧ f'.mask = e ∧ f'.chain = h.g.nextFp :: h.f.chain ∧ f'.sig = 0xFFFFFFFF ∧ f'.st = .ready ∧
         f'.line = h.target w ∧ f'.slot = w.slot ∧ f'.group = h.gid) ∧
     (∀ c, t ≠ 0 → e ≠ 0 → land = some c → s.freeEntries (fragPart h.fid) = [] →
       (h.t.splitSpill = false ∨ 16 ≤ h.g.records → Traps (.split w) h s { cause := .split, detail := 0, lanes := h.f.mask.toNat }) ∧
       (h.t.splitSpill = true → h.g.records < 16 →
         ∃ u f g, exec (.split w) s = .next u ∧ Frame h s u noReg ∧ u.groups.get? h.gid = some g ∧
           g.fps = h.g.fps.set h.g.nextFp { p with serial := true, target := h.target w, tslot := w.slot, e := e } ∧
           u.frags.get? h.fid = some f ∧ f.mask = t ∧ f.chain = h.g.nextFp :: h.f.chain ∧ f.sig = h.f.sig))) ∧
  (∀ (s : State) (h : Here) (w : EngW), Runs (.fuse w) h s →
     (h.f.slot ≠ 0 → Traps (.fuse w) h s { cause := .ri, detail := 5, lanes := h.f.mask.toNat }) ∧
     (h.f.slot = 0 → (∀ p pt, h.f.chain.head? = some p → h.g.fps.get? p = some pt → pt.line ≠ h.f.line) →
       Completes (.fuse w) h s s) ∧
     (∀ p rest pt, h.f.slot = 0 → h.f.chain = p :: rest → h.g.fps.get? p = some pt → pt.line = h.f.line →
       (pt.serial = true → pt.ran = false →
         ∃ u f g, exec (.fuse w) s = .next u ∧ Frame h s u noReg ∧ u.frags.get? h.fid = some f ∧ f.mask = pt.e ∧ f.line = pt.target ∧
           f.slot = pt.tslot ∧ f.chain = h.f.chain ∧ u.groups.get? h.gid = some g ∧
           g.fps.get? p = some { pt with ran := true, arrivedT := h.f.mask }) ∧
       (pt.serial = false ∨ pt.ran = true → s.sharing h.gid h.fid p = [] → pt.conserved h.f.mask pt.arrivedT = true →
         ∃ u f g, exec (.fuse w) s = .next u ∧ Frame h s u noReg ∧ u.frags.get? h.fid = some f ∧ f.mask = h.f.mask ||| pt.arrivedT ∧
           f.chain = rest ∧ f.sig = 0xFFFFFFFF ∧ f.line = h.f.line ∧ f.slot = 1 ∧ u.groups.get? h.gid = some g ∧ g.fps.get? p = none) ∧
       (pt.serial = false ∨ pt.ran = true → s.sharing h.gid h.fid p = [] → pt.conserved h.f.mask pt.arrivedT = false →
         exec (.fuse w) s = .next (s.freeze h .signat)) ∧
       (∀ k f', pt.serial = false ∨ pt.ran = true → s.sharing h.gid h.fid p = [k] → s.frags.get? k = some f' → f'.st = .fusing →
         f'.chain.head? = some p → f'.mask &&& pt.arrivedT = 0 → pt.conserved h.f.mask (f'.mask ||| pt.arrivedT) = true →
         ∃ u f, exec (.fuse w) s = .next u ∧ Frame h s u noReg ∧ u.frags.get? (min h.fid k) = some f ∧
           f.mask = h.f.mask ||| f'.mask ||| pt.arrivedT ∧ f.sig = 0xFFFFFFFF ∧ f.slot = 1 ∧ u.frags.get? (max h.fid k) = none) ∧
       (∀ k f' ks, pt.serial = false ∨ pt.ran = true → s.sharing h.gid h.fid p = k :: ks → s.frags.get? k = some f' →
         ks ≠ [] ∨ f'.st ≠ .fusing ∨ f'.chain.head? ≠ some p →
         ∃ u f, exec (.fuse w) s = .next u ∧ Frame h s u noReg ∧ u.groups = s.groups ∧ u.frags.get? h.fid = some f ∧ f.st = .fusing ∧
           f.mask = h.f.mask ∧ f.line = h.f.line ∧ f.slot = h.f.slot)))

/-- Taking a precise trap (spec/03 R53, R54, R58; spec/23 R390): the fragment is parked at its slot with its record, which goes
into the fault ring at the tail, with the next sequence number, or waits while the ring is full. -/
def Obligations.TrapEntry : Prop :=
  ∀ (s : State) (h : Here) (r : RecInfo), s.here = some h →
    let rec_ := (s.recOf h r).bits
    let t := s.takeTrap h r
    let seq := h.cx.ftail + 1
    (∃ f w, t.frags.get? h.fid = some f ∧ f.st = .parked w ∧
      w = .trap rec_ (h.f.st != .ready && h.f.st != .blocked) ∧ f.line = h.f.line ∧ f.slot = h.f.slot ∧ f.mask = h.f.mask ∧
      f.chain = h.f.chain ∧ f.sig = h.f.sig ∧ f.done = h.f.done ∧ f.latches = [] ∧ f.replay = true) ∧
    RegFrame h s t noReg ∧
    (h.cx.ringFull = false → h.cx.held = [] →
      t.ctxs.get? h.t.ctx = some { h.cx with ftail := seq } ∧
      readLE t.mem (h.cx.fring + 64 * (h.cx.ftail.toNat % 2 ^ h.cx.frsz)) 64 = rec_.toNat + seq.toNat * 2 ^ 32) ∧
    (h.cx.ringFull = true ∨ h.cx.held ≠ [] → t.ctxs.get? h.t.ctx = some { h.cx with held := h.cx.held ++ [rec_] })

/-- Regions and signatures (spec/26 R420, R423): RGN opens or refreshes the region at its own code pointer, RGN.close closes it,
and SIGCHK sets a matching signature back to all ones and else takes the freeze path. -/
def Obligations.RegionsAndSignatures : Prop :=
  ∀ (s : State) (h : Here) (w : EngW),
    (RunsSole (.rgn w) h s → CompletesQuiet (.rgn w) h s
      (s.modGroup h.gid fun g => { g.heal .rgnpc with
        rgnpc := (codePtr h.f.line h.f.slot).truncate 56
        events := if g.rgnpc = 0 then 0 else g.events }) noReg) ∧
    (RunsSole (.rgnClose w) h s → CompletesQuiet (.rgnClose w) h s
      (s.modGroup h.gid fun g => { g.heal .rgnpc with rgnpc := 0, events := 0 }) noReg) ∧
    (Runs (.sigchk w) h s → h.f.sig = w.imm →
      CompletesQuiet (.sigchk w) h s (s.modFrag h.fid fun f => { f with sig := 0xFFFFFFFF }) noReg) ∧
    (Runs (.sigchk w) h s → h.f.sig ≠ w.imm → exec (.sigchk w) s = .next (s.freeze h .signat))

/-! ## Teams and clusters (spec/07) -/

/-- TBAR (R149): the arrival that completes a generation starts the next one, releases the team's fragments that wait in it and goes
on; an earlier one waits, or only arrives when IMM[4] is set. Cluster membership and barrier (R151 to R153): a CJOIN of a team of a
clustered launch whose slot is free makes it a member, counted from the next generation on; the flag says whether it is a
member. A CJOIN waits while a member of its cluster is being saved or saved (log 26: a deduction from R145, by which members stand on
cores at once). CLEAVE takes it out. A CBAR of a team that is no member traps as WINDOW; of a member it arrives, and waits unless the
generation completes or IMM[4] is set. TBAR and CBAR wait at issue while the group has side-logged stores (spec/08 R181). -/
def Obligations.TeamAndClusterBarriers : Prop :=
  (∀ (s : State) (h : Here) (w : EngW), RunsSole (.tbar w) h s → s.sideBusy h = false →
     let id := w.imm.toNat % 16
     let b := h.t.bars.getD {} id
     let count := bitsN w.imm.toNat 15 8
     let live := (s.liveGroups h.tid).length
     let need := if count = 0 then live else min count live
     let arrived := s.modTeam h.tid fun t => { t with bars := t.bars.setD {} id { b with arrived := b.arrived + 1, count := count } }
     (need ≤ b.arrived + 1 → ∃ u t, CompletesQuiet (.tbar w) h s u noReg ∧ u.teams.get? h.tid = some t ∧
       t.bars.getD {} id = { gen := b.gen + 1, arrived := 0, count := count } ∧
       ∀ k f, s.frags.get? k = some f → f.st = .parked (.bar id b.gen) → (s.groups.get? f.group).map Group.team = some h.tid →
         ∃ f', u.frags.get? k = some f' ∧ (f'.st = .ready ∨ f'.st = .parked .bound)) ∧
     (b.arrived + 1 < need → w.imm.getLsbD 4 = true → CompletesQuiet (.tbar w) h s arrived noReg) ∧
     (b.arrived + 1 < need → w.imm.getLsbD 4 = false → Parks (.tbar w) h s arrived (.bar id b.gen))) ∧
  (∀ (s : State) (h : Here) (w : EngW),
     let key := clusterKey h.t
     let c := s.clusters.getD {} key
     let late := decide (c.gen < h.t.joined)
     let c' : Cluster := if late then { c with late := (h.gid :: c.late).dedup } else { c with arrived := (h.gid :: c.arrived).dedup }
     let u := { s with clusters := s.clusters.setD {} key c' }.settleCluster key
     let g := if late then c.gen + 1 else c.gen
     (∀ i ∈ [Instr.tbar w, .cbar w], RunsSole i h s → h.t.member = true → s.sideBusy h = true → Stalls i h s) ∧
     let away := (s.members key).any fun t => (s.teams.get? t).any fun x => x.saved || x.saving
     (RunsSole (.cjoin w) h s → away = true → Stalls (.cjoin w) h s) ∧
     (∀ l, RunsSole (.cjoin w) h s → away = false → h.t.member = false → s.launches.get? h.t.launch = some l → l.clw * l.clh ≠ 1 →
       h.t.fragTeam = false → s.memberAt h.t.launch h.t.cluster h.t.coreslot = none →
       CompletesQuiet (.cjoin w) h s ((s.modTeam h.tid fun t =>
         { t with member := true, joined := c.gen + 1 }).setFlag h.gid w.dst true)
         (dstRegs w.dst false)) ∧
     (RunsSole (.cjoin w) h s → away = false → h.t.member = true →
       CompletesQuiet (.cjoin w) h s (s.setFlag h.gid w.dst true) (dstRegs w.dst false)) ∧
     (RunsSole (.cjoin w) h s → away = false → h.t.member = false →
       (∀ l, s.launches.get? h.t.launch = some l → l.clw * l.clh = 1 ∨ h.t.fragTeam = true ∨
         s.memberAt h.t.launch h.t.cluster h.t.coreslot ≠ none) →
       CompletesQuiet (.cjoin w) h s (s.setFlag h.gid w.dst false) (dstRegs w.dst false)) ∧
     (RunsSole (.cleave w) h s → CompletesQuiet (.cleave w) h s (s.leaveCluster h.tid) noReg ∧
       ((s.leaveCluster h.tid).teams.get? h.tid).map Team.member = some false) ∧
     (RunsSole (.cbar w) h s → h.t.member = false →
       Traps (.cbar w) h s { cause := .window, detail := 0, lanes := h.f.mask.toNat }) ∧
     (RunsSole (.cbar w) h s → h.t.member = true → s.sideBusy h = false →
       (w.imm.getLsbD 4 = true ∨ g < (u.clusters.getD {} key).gen → CompletesQuiet (.cbar w) h s u noReg) ∧
       (w.imm.getLsbD 4 = false → (u.clusters.getD {} key).gen ≤ g → Parks (.cbar w) h s u (.cbar g))))

/-- Register blocks (R146, R147, R162): RBSUR gives the group's highest blocks back to its partition's pool, where waiting
claims are served; RBCLM takes blocks that the pool holds when no earlier claim waits there, and else its claim waits, unless every
live group of the team now waits in one, when each traps as CLAIM. Giving up every block, or holding more than 16, traps as SPAD; a
claim that the partition can never meet traps as CLAIM. That the SPAD of an RBCLM carries the number of blocks as INFO is the model's
choice (log 26). -/
def Obligations.RegisterBlocks : Prop :=
  ∀ (s : State) (h : Here) (w : EngW),
    let n := w.imm.toNat % 16
    let p := h.g.idx % 4
    let pool := h.t.pool.getD 0 p
    let top := 16 * (h.g.blocks - n)
    let held := ((s.groupsOf h.tid).filterMap s.groups.get?).foldl (fun a g => if g.idx % 4 == p then a + g.blocks else a) 0
    (∀ i ∈ [Instr.rbsur w, .rbclm w], RunsSole i h s → n = 0 → Completes i h s s) ∧
    (RunsSole (.rbsur w) h s → n ≠ 0 → h.g.blocks < n + 1 →
      Traps (.rbsur w) h s { cause := .spad, lanes := h.f.mask.toNat, info := n }) ∧
    (RunsSole (.rbsur w) h s → n ≠ 0 → n + 1 ≤ h.g.blocks → (∃ q, top ≤ q ∧ h.g.outstanding (.v q) = true) →
      Stalls (.rbsur w) h s) ∧
    (RunsSole (.rbsur w) h s → n ≠ 0 → n + 1 ≤ h.g.blocks →
      (∀ q, top ≤ q → h.g.outstanding (.v q) = false) →
      ∃ u g, CompletesQuiet (.rbsur w) h s u (fun r => match r with | .v k => decide (top ≤ k) | _ => false) ∧
        u.groups.get? h.gid = some g ∧
        (h.t.claims = [] → g.blocks = h.g.blocks - n ∧ (u.teams.get? h.tid).map (fun t => t.pool.getD 0 p) = some (pool + n)) ∧
        (∀ k m gk, h.t.claims = [(k, m)] → k ≠ h.gid → k % 4 = p → m ≤ pool + n → s.groups.get? k = some gk →
          (u.groups.get? k).map Group.blocks = some (gk.blocks + m) ∧
          (u.teams.get? h.tid).map (fun t => (t.pool.getD 0 p, t.claims)) = some (pool + n - m, []))) ∧
    (RunsSole (.rbclm w) h s → n ≠ 0 → 16 < h.g.blocks + n →
      Traps (.rbclm w) h s { cause := .spad, lanes := h.f.mask.toNat, info := n }) ∧
    (RunsSole (.rbclm w) h s → n ≠ 0 → h.g.blocks + n ≤ 16 → pool + held < h.g.blocks + n →
      Traps (.rbclm w) h s { cause := .claim, lanes := h.f.mask.toNat }) ∧
    (RunsSole (.rbclm w) h s → n ≠ 0 → h.g.blocks + n ≤ 16 → n ≤ pool → h.g.blocks + n ≤ pool + held →
      h.t.claims.any (fun c => c.1 % 4 == p) = false →
      CompletesQuiet (.rbclm w) h s ((s.modTeam h.tid fun t => { t with pool := t.pool.setD 0 p (pool - n) }).modGroup h.gid
        fun g => { g with blocks := g.blocks + n }) noReg) ∧
    (RunsSole (.rbclm w) h s → n ≠ 0 → h.g.blocks + n ≤ 16 → h.g.blocks + n ≤ pool + held →
      pool < n ∨ h.t.claims.any (fun c => c.1 % 4 == p) = true →
      let u := s.modTeam h.tid fun t => { t with claims := t.claims ++ [(h.gid, n)] }
      exec (.rbclm w) s = .next ((u.park h.fid (.claim n)).checkClaims h.tid) ∧
      ((∃ k ∈ s.liveGroups h.tid, ∃ x ∈ s.fragsOf k, x ≠ h.fid ∧ ∀ m, (s.frags.get? x).map Frag.st ≠ some (.parked (.claim m))) →
        Parks (.rbclm w) h s u (.claim n)))

/-! ## Memory (spec/08, spec/09, spec/23) -/

/-- Translation (spec/23 R379 to R384, R386). An address that no TLB holds is walked through the four levels of tables: the walk stops at
the first entry that cannot be read, that is not valid, that is malformed, or that is a leaf, and all but a leaf give XLATE with that
DETAIL and level, whatever the access. What performs through a leaf sets ACC there, and DIRTY for a write, and changes no other byte of
memory. An access without permission at its leaf is refused: R for reads, W for writes, W and AT for atomics, X for fetches, and no fetch
from a page of memory type 2 or 3. That the leaf found then stands in the core's TLB, so that the address goes on translating as it did,
is the model's choice (log 6), and so is that a poisoned entry cannot be read (log 23). -/
def Obligations.Translation : Prop :=
  (∀ (s : State) (core va n : Nat) (cx : Ctx) (a : Nat → Nat), n < 4 →
    tlbFind (s.core core).tlb cx.asid va = none → tlbFind (s.tlb2.getD [] (dieOf core)) cx.asid va = none →
    let ix (k : Nat) : Nat := va / 2 ^ (45 - 9 * k) % (if k = 0 then 2048 else 512)
    let pte (k : Nat) : Nat := readLE s.mem (a k) 8
    let here (k : Nat) : Prop := a k + 8 ≤ s.hbmBytes ∧ s.poison.getD false (a k / 8) = false
    a 0 = cx.root + 8 * ix 0 →
    (∀ k, k < n → here k ∧ (pte k).testBit 0 = true ∧ pteBad s.hbmBytes (pte k) k = false ∧ (pte k).testBit 1 = false ∧
      a (k + 1) = bitsN (pte k) 51 12 * 4096 + 8 * ix (k + 1)) →
    (¬ here n → ∀ kind, s.xl core cx va kind = .fault 2 n) ∧
    (here n → (pte n).testBit 0 = false → ∀ kind, s.xl core cx va kind = .fault 0 n) ∧
    (here n → (pte n).testBit 0 = true → pteBad s.hbmBytes (pte n) n = true → ∀ kind, s.xl core cx va kind = .fault 1 n) ∧
    (here n → (pte n).testBit 0 = true → pteBad s.hbmBytes (pte n) n = false → (pte n).testBit 1 = true →
      let sz := 2 ^ (45 - 9 * n)
      s.leafFor core cx va =
        .ok { asid := cx.asid, va := va / sz * sz, size := sz, pte := BitVec.ofNat 64 (pte n), pteAddr := a n })) ∧
  (∀ hbm p n : Nat, n < 4 → (pteBad hbm p n = true ↔
    bitsN p 63 52 ≠ 0 ∨ bitsN p 11 10 ≠ 0 ∨
    (p.testBit 1 = true ∧ (n = 0 ∨ bitsN p 17 12 ≠ 0 ∨ (n = 1 ∧ bitsN p 35 18 ≠ 0) ∨ (n = 2 ∧ bitsN p 26 18 ≠ 0) ∨
      (bitsN p 7 6 < 2 ∧ hbm < bitsN p 51 18 * 2 ^ 18 + 2 ^ (45 - 9 * n)))) ∨
    (p.testBit 1 = false ∧ (n = 3 ∨ bitsN p 9 2 ≠ 0)))) ∧
  (∀ (s : State) (h : Here) (va n d l : Nat) (k : AccKind) (hostOk : Bool), va % n = 0 → va < 2 ^ 56 → inAperture va = false →
    s.xl h.core h.cx va k = .fault d l →
    s.checkGlobal h va n k hostOk = some { cause := .xlate, detail := d, info := l + (if k = .read then 0 else 4), addr := va }) ∧
  (∀ (s : State) (core va : Nat) (cx : Ctx) (e : TlbEntry), s.leafFor core cx va = .ok e →
    (∀ write, let t := s.touch core cx va write
      (∀ a, a ≠ e.pteAddr + 1 → memByte t.mem a = memByte s.mem a) ∧
      memByte t.mem (e.pteAddr + 1) = (memByte s.mem (e.pteAddr + 1) ||| if write then 3 else 1) ∧
      t.hostMem = s.hostMem ∧ t.domMem = s.domMem ∧ t.poison = s.poison) ∧
    (∀ k, leafPerm e.pte.toNat k = none → ∀ pa mt, s.xl core cx va k = .ok pa mt →
      mt = bitsN e.pte.toNat 7 6 ∧ pa = bitsN e.pte.toNat 51 18 * 2 ^ 18 + (va - e.va)) ∧
    (e.pte.getLsbD 2 = false → ∃ i, s.xl core cx va .read = .prot i) ∧
    (e.pte.getLsbD 3 = false → (∃ i, s.xl core cx va .write = .prot i) ∧ ∃ i, s.xl core cx va .atomic = .prot i) ∧
    (e.pte.getLsbD 5 = false → ∃ i, s.xl core cx va .atomic = .prot i) ∧
    (e.pte.getLsbD 4 = false ∨ 2 ≤ bitsN e.pte.toNat 7 6 → ∃ i, s.xl core cx va .fetch = .prot i) ∧
    (e.asid = cx.asid → e.va ≤ va → va < e.va + e.size → (s.touch core cx va false).leafFor core cx va = .ok e))

/-- Loads (spec/09 R188, R190, R191): where every active lane passes its checks, LD and LDSC read the memory at their addresses,
LDS the team's scratchpad and LDC that of the window's team; nothing is stored but ACC, and the values become an outstanding write
of the destination; an LDC of an absent line of a peer waits there, as an outstanding write. A lane that fails its checks traps,
an absent line of the own scratchpad parks the fragment, and a word with an uncorrectable error takes the freeze path. A load waits
at issue while its group has side-logged stores, or loads that wait at a peer. -/
def Obligations.Loads : Prop :=
  ∀ (s : State) (h : Here) (w : MemW),
    let n := w.width.bytes
    let act := h.active w.g w.gn
    let ls := lanesOf act
    let slot := (h.srcS w.a).toNat
    let ok (va : Nat) : Prop := s.laneGlobal h va n .read = none ∧ s.vPoison h.core h.cx va n .read = false
    let seen (vas : List Nat) : State := vas.foldl (fun s a => s.touch h.core h.cx a false w.sub.val) s
    let q := h.quiet ls (h.off w) n
    let qw := h.quiet ls (h.winOff w) n
    (∀ i ∈ [Instr.ld w, .ldsc w, .lds w, .ldc w], Runs i h s → s.sideBusy h = true → Stalls i h s) ∧
    (s.sideBusy h = false →
      (Runs (.ld w) h s → (∀ l ∈ ls, ok (h.ea w l)) →
        ∃ t, exec (.ld w) s = .next t ∧ WentOn (.ld w) h t ∧
          Loaded h s t w (ls.map fun l => (l, (seen (ls.map (h.ea w))).vload h.core h.cx (h.ea w l) n)) (ls.map (h.ea w))) ∧
      (∀ r, Runs (.ld w) h s → pickTrap (failing act fun l => s.laneGlobal h (h.ea w l) n .read) = some r → Traps (.ld w) h s r) ∧
      (Runs (.ld w) h s → (∀ l ∈ ls, s.laneGlobal h (h.ea w l) n .read = none) →
        (∃ l ∈ ls, s.vPoison h.core h.cx (h.ea w l) n .read = true) → exec (.ld w) s = .next
          (s.freeze h .uncorr none ((ls.findSome? fun l => s.poisonAt h.core h.cx (h.ea w l) n .read).getD 0))) ∧
      (Runs (.ldsc w) h s → ok (h.ea w 0) → w.dst.isS = true ∨ act ≠ 0 →
        ∃ t, exec (.ldsc w) s = .next t ∧ WentOn (.ldsc w) h t ∧
          Loaded h s t w ((if w.dst.isS then [0] else ls).map fun l => (l, (seen [h.ea w 0]).vload h.core h.cx (h.ea w 0) n))
            [h.ea w 0]) ∧
      (Runs (.ldsc w) h s → w.dst.isS = false → act = 0 → CompletesQuiet (.ldsc w) h s s noReg) ∧
      (Runs (.lds w) h s → (∀ l ∈ ls, s.laneScr h.tid (h.off w l) n false 0 q = none) →
        ((∃ l ∈ ls, h.t.present (h.off w l) n = false) → Parks (.lds w) h s s .absent) ∧
        ((∀ l ∈ ls, h.t.present (h.off w l) n = true ∧ h.t.scrBad (h.off w l) n = false) →
          CompletesQuiet (.lds w) h s (s.deliver h w.dst w.width (ls.map fun l => (l, readLE h.t.scr (h.off w l) n))) noReg)) ∧
      (∀ r, Runs (.lds w) h s → pickTrap (failing act fun l => s.laneScr h.tid (h.off w l) n false 0 q) = some r →
        Traps (.lds w) h s r) ∧
      (∀ r, Runs (.ldc w) h s → pickTrap (failing act fun l => s.laneWin h slot (h.winOff w l) n false qw) = some r →
        Traps (.ldc w) h s r) ∧
      (∀ k t, Runs (.ldc w) h s → s.windowTeam h slot = .ok k → s.teams.get? k = some t →
        (∀ l ∈ ls, s.laneWin h slot (h.winOff w l) n false qw = none) →
        ((∀ l ∈ ls, t.present (h.winOff w l) n = true ∧ t.scrBad (h.winOff w l) n = false) →
          CompletesQuiet (.ldc w) h s ((s.keepCopies h.core k (linesOf (ls.map (h.winOff w)))).deliver h w.dst w.width
            (ls.map fun l => (l, readLE t.scr (h.winOff w l) n))) noReg) ∧
        (∀ r, (∃ l ∈ ls, t.present (h.winOff w l) n = false) → k ≠ h.tid → w.dst = .v r →
          CompletesQuiet (.ldc w) h s (s.addPend h.gid
            { frag := h.fid, regs := dataRegs w.width w.dst, ready := false, load := true
              peer := some { team := k, width := n, lanes := ls.map fun l => (l, h.winOff w l), dst := r.val } }) noReg)))

/-- Stores (spec/09 R189 to R191): where every lane passes its checks, ST and STSC store their data at their addresses in lane
order, and no other byte of memory changes but the entries' ACC and DIRTY; STS and STC store into the scratchpad of the team or
of the window's team; a lane that fails a check other than translation traps, and stores nothing; lanes that only fail
translation enter the side log while the others perform, and behind the group's entries there all do. A store waits at issue
while a load of its group waits at a peer, and a release while the group has entries in the side log. -/
def Obligations.Stores : Prop :=
  ∀ (s : State) (h : Here) (w : MemW),
    let n := w.width.bytes
    let act := h.active w.g w.gn
    let ls := lanesOf act
    let slot := (h.srcS w.a).toNat
    let ok (va : Nat) : Prop := s.laneGlobal h va n .write = none ∧ s.vPartPoison h.core h.cx va n = false
    let put (off : Nat → Nat) (t : Team) : Team := ls.foldl (fun t l => t.scrPut (off l) n (h.data w.c n l)) t
    let bad := failing act fun l => s.laneGlobal h (h.ea w l) n .write
    let now := ls.filter fun l => !(bad.map (·.1)).contains l
    let logged (off : Nat → Nat) (k : Nat) : Option State := s.sideAdd h (ls.map fun l => (l, off l)) 0 fun ls =>
      .scr k (ls.flatMap fun l => (List.range n).map fun i => (off l + i, BitVec.ofNat 8 (h.data w.c n l / 256 ^ i)))
    (∀ i ∈ [Instr.st w, .stsc w, .sts w, .stc w], Runs i h s →
      h.peerBusy = true ∨ (w.order = .rel ∧ s.sideBusy h = true) → Stalls i h s) ∧
    (s.sideBusy h = false →
      (Runs (.st w) h s → (∀ l ∈ ls, ok (h.ea w l)) →
        ∃ t, exec (.st w) s = .next t ∧ WentOn (.st w) h t ∧ StoredAll h s t n (ls.map fun l => (h.ea w l, h.data w.c n l))) ∧
      (Runs (.stsc w) h s → ok (h.ea w 0) →
        ∃ t, exec (.stsc w) s = .next t ∧ WentOn (.stsc w) h t ∧ StoredAll h s t n [(h.ea w 0, h.data w.c n 0)]) ∧
      (∀ u, Runs (.st w) h s → bad ≠ [] → onlyXlate bad = true →
        (∀ l ∈ now, s.vPartPoison h.core h.cx (h.ea w l) n = false) →
        s.sideAdd h (bad.map fun e => (e.1, h.ea w e.1)) 0 (storeOp h w.c n (h.ea w)) = some u →
        Completes (.st w) h s ((now.foldl (fun s l => s.vstore h.core h.cx (h.ea w l) n (h.data w.c n l) w.sub.val) u).noteLostLanes h now
          (h.ea w)) ∧ u.mem = s.mem) ∧
      (Runs (.sts w) h s → (∀ l ∈ ls, s.laneScr h.tid (h.off w l) n true 0 = none) →
        (4 ≤ n ∨ ∀ l ∈ ls, h.t.scrBad (h.off w l) n = false) →
        CompletesQuiet (.sts w) h s ((s.dropCopies h.tid (linesOf (ls.map (h.off w)))).putTeam h.tid (put (h.off w) h.t)) noReg ∧
        ∀ o, (∀ l ∈ ls, o < h.off w l ∨ h.off w l + n ≤ o) → memByte (put (h.off w) h.t).scr o = memByte h.t.scr o) ∧
      (∀ k t, Runs (.stc w) h s → s.windowTeam h slot = .ok k → s.teams.get? k = some t →
        (∀ l ∈ ls, s.laneWin h slot (h.winOff w l) n true = none) → (4 ≤ n ∨ ∀ l ∈ ls, t.scrBad (h.winOff w l) n = false) →
        CompletesQuiet (.stc w) h s ((s.dropCopies k (linesOf (ls.map (h.winOff w)))).putTeam k (put (h.winOff w) t)) noReg)) ∧
    (h.peerBusy = false → w.order ≠ .rel → s.logBusy h = true →
      (∀ u, Runs (.st w) h s → onlyXlate bad = true →
        s.sideAdd h (ls.map fun l => (l, h.ea w l)) 0 (storeOp h w.c n (h.ea w)) = some u → CompletesQuiet (.st w) h s u noReg) ∧
      (Runs (.st w) h s → onlyXlate bad = true →
        s.sideAdd h (ls.map fun l => (l, h.ea w l)) 0 (storeOp h w.c n (h.ea w)) = none → Stalls (.st w) h s) ∧
      (∀ u, Runs (.sts w) h s → (∀ l ∈ ls, s.laneScr h.tid (h.off w l) n true 0 = none) → logged (h.off w) h.tid = some u →
        CompletesQuiet (.sts w) h s u noReg) ∧
      (∀ k t u, Runs (.stc w) h s → s.windowTeam h slot = .ok k → s.teams.get? k = some t →
        (∀ l ∈ ls, s.laneWin h slot (h.winOff w l) n true = none) → logged (h.winOff w) k = some u →
        CompletesQuiet (.stc w) h s u noReg)) ∧
    (h.peerBusy = false → (w.order = .rel → s.logBusy h = false) →
      (∀ r, Runs (.st w) h s → onlyXlate bad = false → pickTrap bad = some r →
        Traps (.st w) h s { r with lanes := r.lanes % 2 ^ 32 }) ∧
      (∀ r, Runs (.sts w) h s → pickTrap (failing act fun l => s.laneScr h.tid (h.off w l) n true 0) = some r →
        Traps (.sts w) h s r) ∧
      (∀ r, Runs (.stc w) h s → pickTrap (failing act fun l => s.laneWin h slot (h.winOff w l) n true) = some r →
        Traps (.stc w) h s r))

/-- Prefetch and cache control (spec/09 R192, R193) change no value that software sees, as caches are coherent, and set no accessed
bit: a PREF moves lines into the L1 of its core and the LLCs; CCTL.clean leaves no dirty line of its range in an LLC and CCTL.inval
none of it in the L1 of its core. Which lines a cache holds is the model's choice (log 51). A CCTL whose range meets the synchronisation aperture or goes beyond 56 bits traps as PROT, and it waits at issue while a load of its group
waits at a peer. A FENCE (R208) that releases waits until the group's side log is empty and no load waits at a peer, and has no
other effect, as accesses perform in program order here (log 4). MWAIT (R203): a word that satisfies the comparison ends it with
flag 0, any other parks it with its cycles; when the word is looked at again a satisfied wait ends with flag 0, an unsatisfied one
has used up some of its cycles, one without cycles left ends with flag 1, and one whose word can no longer be read issues again. -/
def Obligations.CachesFencesAndWaits : Prop :=
  (∀ (s : State) (h : Here) (w : EngW) (m : MemW),
     let a := (h.srcS w.a).toNat
     let n := (h.srcS w.b).toNat
     let cached (u : State) : Prop := u = { s with llc := u.llc, cores := u.cores } ∧
       ∀ k, u.core k = { s.core k with l1 := (u.core k).l1 } ∧ (k ≠ h.core → u.core k = s.core k)
     (Runs (.pref m) h s → ∃ u, CompletesQuiet (.pref m) h s u noReg ∧ cached u) ∧
     (∀ i ∈ [Instr.cctlClean w, .cctlInval w, .cctlCinv w], Runs i h s →
       (h.peerBusy = true → Stalls i h s) ∧
       (h.peerBusy = false → n = 0 → CompletesQuiet i h s s noReg) ∧
       (h.peerBusy = false → n ≠ 0 → a + n ≤ apertureBase → ∃ u, CompletesQuiet i h s u noReg ∧ cached u ∧
         (i ≠ .cctlInval w → ∀ d ln, (ln, true) ∈ u.llc.getD [] d → s.meetsLine h a n ln = false) ∧
         (i ≠ .cctlClean w → ∀ ln ∈ (u.core h.core).l1, s.meetsLine h a n ln = false)) ∧
       (h.peerBusy = false → n ≠ 0 → apertureBase < a + n →
         Traps i h s { cause := .prot, lanes := h.f.mask.toNat, addr := max a apertureBase % 2 ^ 56 })) ∧
     (Runs (.fenceAcq w) h s → CompletesQuiet (.fenceAcq w) h s s noReg) ∧
     (∀ i ∈ [Instr.fenceRel w, .fenceAr w], Runs i h s →
       (s.sideBusy h = false → CompletesQuiet i h s s noReg) ∧ (s.sideBusy h = true → Stalls i h s))) ∧
  ((∀ (s : State) (h : Here) (w : MemW),
     let va := h.atomEa w 0
     let u := if inAperture va then s else s.touch h.core h.cx va false
     let x := u.mwaitWord h va
     let met := match w.sub.val with
       | 0 => decide (x = h.srcS w.b) | 1 => decide ((h.srcS w.b).toNat ≤ x.toNat) | _ => decide (x ≠ h.srcS w.b)
     let left := match w.b with | .s r => (h.sreg (r.val + 1)).toNat | _ => 0
     Runs (.mwait w) h s →
       (s.sideBusy h = true → Stalls (.mwait w) h s) ∧
       (∀ r, s.sideBusy h = false → s.mwaitTrap h va = some r → Traps (.mwait w) h s
         { cause := r.cause, detail := r.detail, info := r.info, addr := r.addr, lanes := h.f.mask.toNat }) ∧
       (s.sideBusy h = false → s.mwaitTrap h va = none → s.mwaitPoison h va = false →
         (met = true → Completes (.mwait w) h s (u.setFlag h.gid w.dst false)) ∧
         (met = false → Parks (.mwait w) h s u (.mwait va w.sub.val (h.srcS w.b) left (w.dst.isC && left != 0))))) ∧
   (∀ (s : State) (fid left va cmp : Nat) (h : Here) (v : W64) (timed : Bool), s.hereOf fid = some h → h.t.saved = false →
     h.f.st = .parked (.mwait va cmp v left timed) →
     let u := if inAperture va then s else s.touch h.core h.cx va false
     (s.mwaitTrap h va = none →
       (u.mwaitSees fid = some (true, left, timed) → ∃ t, exec (.mwaitReevaluate fid) s = .next t ∧ Answered u t fid false) ∧
       (u.mwaitSees fid = some (false, left, true) → ∃ t dt f, exec (.mwaitReevaluate fid) s = .next t ∧ SameMem u t ∧
         t.groups = s.groups ∧ t.frags.get? fid = some f ∧ f = { h.f with st := .parked (.mwait va cmp v (left - dt) true) } ∧
         (t.core (fragCore fid)).clock = (s.core (fragCore fid)).clock + BitVec.ofNat 64 dt) ∧
       (u.mwaitSees fid = some (false, left, false) → exec (.mwaitReevaluate fid) s = .next u)) ∧
     (s.mwaitTrap h va ≠ none → exec (.mwaitReevaluate fid) s = .next (s.resume fid)) ∧
     (s.mwaitSees fid = some (true, left, timed) → ∃ t, exec (.mwaitTimeout fid) s = .next t ∧ Answered s t fid false) ∧
     (s.mwaitSees fid = some (false, 0, true) → ∃ t, exec (.mwaitTimeout fid) s = .next t ∧ Answered s t fid true)))

/-- Long-latency results and the side log (spec/03 R35; spec/08 R181, R182; spec/23 R386; spec/26 R417). An outstanding write that is
ready lands: the last value given for each register is written, nothing else of the registers, and nothing of memory changes; one that
carries a poisoned word takes its group to the freeze path. That a landing event of one that is not ready changes nothing (log 9), and
which ARRAY and PA the freeze names (log 34), are the model's choices. The oldest side-log entry of a group that can perform does and leaves the log; one
that would consume an uncorrectable error has no effect and freezes its group; one whose page cannot be mapped is discarded and
leaves the log under a record, and its group's fragments stop at the next line boundary. -/
def Obligations.LandingAndSideLog : Prop :=
  (∀ (s : State) (gid id : Nat) (g : Group) (p : Pend), s.groups.get? gid = some g → g.pend.get? id = some p → p.peer = none →
    (p.ready = true → p.parts = 0 → p.bad = false → p.report = none →
      ∃ t g', exec (.longLatencyWriteLand gid id) s = .next t ∧ SameMem s t ∧
        t.groups.get? gid = some g' ∧ g'.pend = g.pend.erase id ∧
        (∀ k, k ≠ gid → t.groups.get? k = s.groups.get? k) ∧
        (∀ k, g'.v.getD 0 k = ((p.vs.reverse.find? fun e => e.1 == k).map (·.2)).getD (g.v.getD 0 k)) ∧
        (∀ k, g'.s.getD 0 k = ((p.ss.reverse.find? fun e => e.1 == k).map (·.2)).getD (g.s.getD 0 k)) ∧
        (p.ks = [] → g'.k = g.k) ∧ (p.cs = [] → g'.c = g.c) ∧
        (∀ k f, s.frags.get? k = some f → ∃ f', t.frags.get? k = some f' ∧ f'.line = f.line ∧ f'.slot = f.slot ∧ f'.mask = f.mask ∧
          (f'.st = f.st ∨ (f.st = .blocked ∧ f'.st = .ready)))) ∧
    (p.ready = true → p.parts = 0 → p.bad = true → exec (.longLatencyWriteLand gid id) s = .next
      ((s.modGroup gid fun g => { g with pend := g.pend.erase id }).freezeGroup gid 3)) ∧
    (p.ready = false ∨ p.parts ≠ 0 → exec (.longLatencyWriteLand gid id) s = .next s)) ∧
  (∀ (s : State) (core i : Nat) (e : SideLog),
    let u := s.modCore core fun c => { c with side := c.side.eraseIdx i }
    ((sideHeads (s.core core).side).find? fun e => (s.sideFault e.2).isNone) = some (i, e) →
    (s.sideBad e = none → exec (.sideLogPerform core true) s = .next (u.sidePerform e) ∧
      ((u.sidePerform e).core core).side.length + 1 = (s.core core).side.length) ∧
    (∀ arr, s.sideBad e = some arr → exec (.sideLogPerform core true) s =
      .next ((u.sideVoid e).freezeGroup e.group (u.sidePa e arr).1 (u.sidePa e arr).2)) ∧
    (u.sideVoid e).mem = s.mem) ∧
  (∀ (s : State) (core i d l a : Nat) (e : SideLog),
    ((sideHeads (s.core core).side).findSome? fun e => (s.sideFault e.2).map fun f => (e, f)) = some ((i, e), (d, l, a)) →
    ∃ t, exec (.sideLogPerform core false) s = .next t ∧
      t = ((((s.modCore core fun c => { c with side := c.side.eraseIdx i }).sideDiscard e).postReport e.group e.frag
        { e.report with detail := d, addr := a, info := 2 ^ 63 + l + 4 }).stopGroup e.group) ∧
      ∀ k f, s.frags.get? k = some f → f.group = e.group → f.st ≠ .gone →
        ∃ f', t.frags.get? k = some f' ∧ (f'.stopAt = true ∨ f'.st = .parked .bound))

/-! ## Atomics and synchronisation (spec/09, spec/18) -/

/-- Atomics on memory and cell objects (R195 to R197): where every lane passes its checks, the lanes apply in ascending order,
each reading its location, writing what its operation gives and returning what it read (BFFCS the bit it set); RED returns
nothing. Nothing else of memory changes but the entries' ACC and DIRTY. A scalar destination executes once. A failing lane traps.
Behind the group's side-logged stores an atomic enters the log with its outstanding write (spec/08 R181). That it performs at issue
(log 4), and that BINS, BFFCS, BPLS and RED trap on a cell (log 11), are the model's choices. What an atomic computes
(R195): the table of operations on integers and, for floats, one exact sum rounded to nearest, FMIN and FMAX, with the canonical
NaN for any NaN; a cas that fails writes nothing. ATOMS applies it to the team's scratchpad, and parks on an absent line (R198).
-/
def Obligations.Atomics : Prop :=
  (∀ (s : State) (h : Here) (w : MemW),
     let n := w.width.bytes
     let ls := if w.dst.isS then [0] else lanesOf (h.active w.g w.gn)
     let acts := lanesOf (h.active w.g w.gn)
     let fails (cell hostOk : Bool) := failing (maskOf fun l => ls.contains l) fun l => s.laneAtomic h (h.atomEa w l) n cell hostOk
     let ok (cell hostOk : Bool) : Prop := (∀ l ∈ ls, s.laneAtomic h (h.atomEa w l) n cell hostOk = none) ∧
       ∀ l ∈ ls, s.atomPoison h.core h.cx (h.atomEa w l) n = false
     let runs (i : Instr) (m : Nat) (cell hostOk : Bool) : Prop := Runs i h s → h.peerBusy = false →
       (ok cell hostOk → s.logBusy h = false → ∃ t, exec i s = .next t ∧ WentOn i h t ∧
         Sys2Proof.Machine.Atomics h s t w m ls ∧ Returning h s t w (s.atomLanes h.core h.cx h.tid m w (h.atomOps w ls)).1) ∧
       (ok cell hostOk → s.logBusy h = true →
         let pend := if w.dst.isV || w.dst.isS then some h.g.nextPend else none
         match s.sideAdd h (ls.map fun l => (l, h.atomEa w l)) 0 fun ls => .atom m w pend (h.atomOps w ls) with
         | none => Stalls i h s
         | some u => CompletesQuiet i h s (if pend.isNone then u else u.addPend h.gid
             { frag := h.fid, regs := dataRegs w.width w.dst, parts := (linesOf (ls.map (h.atomEa w))).length }) noReg) ∧
       (∀ r, pickTrap (fails cell hostOk) = some r → Traps i h s (if w.dst.isS then { r with lanes := h.f.mask.toNat } else r))
     runs (.atom w) 0xA0 true (hostAtom w) ∧ runs (.bins w) 0xA2 false false ∧ runs (.bffcs w) 0xA3 false false ∧
     runs (.bpls w) 0xA4 false false ∧
     (Runs (.red w) h s → s.sideBusy h = false → (∀ l ∈ acts, s.laneRed h (h.atomEa w l) n (hostAtom w) = none ∧
         s.vPoison h.core h.cx (h.atomEa w l) n .atomic = false) →
       ∃ t, exec (.red w) s = .next t ∧ WentOn (.red w) h t ∧ Sys2Proof.Machine.Atomics h s t w 0xA5 acts) ∧
     (∀ i ∈ [Instr.atom w, .bins w, .bffcs w, .bpls w, .red w, .atoms w], Runs i h s → h.peerBusy = true → Stalls i h s)) ∧
  (∀ (h : Here) (w : MemW) (x : AtomArgs) (old : Nat),
     let n := w.width.bytes
     let int (x : Nat) : Int := if w.kind = .signed then sextI (8 * n) x else (x : Int)
     let canon (x : Nat) : Nat := if (Fmt.f32.dec false x).isNan = true then Fmt.f32.nan else x
     (∀ m ∈ [0xA0, 0xA1, 0xA5], w.kind ≠ .float →
       atomEval m w x old = (match w.opc with
         | .add => some ((old + x.v) % 2 ^ (8 * n))
         | .min => some (if int x.v < int old then x.v else old)
         | .max => some (if int old < int x.v then x.v else old)
         | .and => some (old &&& x.v) | .or => some (old ||| x.v) | .xor => some (old ^^^ x.v) | .exch => some x.v
         | .cas => if old = x.v then some x.v2 else none, old)) ∧
     (∀ m ∈ [0xA0, 0xA1, 0xA5], w.kind = .float →
       atomEval m w x old = (match w.opc with
         | .add => some (Fmt.f32.dot .rne false false [] [Fmt.f32.dec false old, Fmt.f32.dec false x.v]).1
         | .min => some (Fmt.f32.minmax false false old x.v)
         | .max => some (Fmt.f32.minmax false true old x.v)
         | .cas => if old = x.v then some (canon x.v2) else none
         | _ => some (canon x.v), canon old)) ∧
     atomEval 0xA2 w x old = (some ((old &&& (2 ^ (8 * n) - 1 - x.v2)) ||| (x.v &&& x.v2)), old) ∧
     (∀ i, i < 64 → old.testBit i = false → (∀ j, j < i → old.testBit j = true) →
       atomEval 0xA3 w x old = (some (old ||| 2 ^ i), i)) ∧
     ((∀ i, i < 64 → old.testBit i = true) → atomEval 0xA3 w x old = (none, 2 ^ 64 - 1)) ∧
     atomEval 0xA4 w x old =
       (if ((List.range 64).filter fun i => (old ||| x.v).testBit i).length ≤ x.v2 % 128 then some (old ||| x.v) else none, old) ∧
     (∀ l, (h.atomArgs w l).v = h.data w.c n l ∧
       (∀ r : Fin 256, w.c = .v r → (h.atomArgs w l).v2 = h.data (.v (Fin.ofNat 256 (r.val + (n + 3) / 4))) n l))) ∧
  (∀ (s : State) (h : Here) (w : MemW),
     let n := w.width.bytes
     let ls := if w.dst.isS then [0] else lanesOf (h.active w.g w.gn)
     let off := h.atomOff w
     let q := h.quiet ls off n
     let r := ls.foldl (fun (acc : List (Nat × Nat) × Team) l =>
       let x := atomEval 0xA1 w (h.atomArgs w l) (readLE acc.2.scr (off l) n)
       (acc.1 ++ [(l, x.2)], match x.1 with | some y => acc.2.scrPut (off l) n y | none => acc.2)) ([], h.t)
     Runs (.atoms w) h s → h.peerBusy = false →
     (∀ l ∈ ls, s.laneScr h.tid (off l) n true 0 q = none) →
     (s.logBusy h = false → (∀ l ∈ ls, h.t.present (off l) n = true ∧ h.t.scrBad (off l) n = false) →
       ∃ u : State, CompletesQuiet (.atoms w) h s (u.deliver h w.dst w.width r.1 false) noReg ∧ u.teams.get? h.tid = some r.2 ∧
         u.groups = s.groups) ∧
     ((∃ l ∈ ls, h.t.present (off l) n = false) → Parks (.atoms w) h s s .absent))

/-- Initialising and invalidating objects (R204, R205): a free object, a cell, and a barrier or semaphore without waiters,
become the kind asked for; a counter, a Fold object or one with waiters is busy; a barrier's EXPECT is from 1 to 2^32 − 1.
SOBJ.inv leaves the object free, its waiters lost and a counter's task dropped. Barriers (R205): an arrival counts; the one that
reaches EXPECT starts the next generation, and waiters whose token it passes go on. A wait goes on at once when the generation has
passed its token, and else parks at the object; on a free object it fails as lost, and on another kind it traps. Semaphores (R206)
serve their takers in arrival order: as many as the value meets, the first that it does not meet holding back the rest. A take that
can be met at once when none is queued succeeds; another parks at the end of the queue, and a try fails. A post adds, serves the
takers, and fails beyond 2^64 − 1. A refused request waits at issue and is presented again with a ticket (R201); how often an engine refuses is the model's choice
(log 24). -/
def Obligations.SyncObjects : Prop :=
  (∀ (s : State) (h : Here) (w : MemW),
     let va := h.atomEa w 0
     let key := objKey va
     let o := s.objs.get? key
     let n := (h.srcS w.b).toNat
     let idle := o = none ∨ ∃ x, o = some x ∧ x.waiters = [] ∧ x.kind ≠ .fold ∧ ∀ c a t g sc, x.kind ≠ .counter c a t g sc
     let bound := ∃ x, o = some x ∧ (x.kind = .fold ∨ ∃ c a t g sc, x.kind = .counter c a t g sc)
     let made (k : ObjKind) : State := { s with objs := s.objs.set key { kind := k } }
     let freed : State := { s with objs := s.objs.erase key }
     (∀ i ∈ [Instr.sobjBar w, .sobjSem w, .sobjCell w, .sobjInv w, .sarv w, .sarvPost w, .swait w, .swaitTake w, .swaitTry w],
       Runs i h s →
       (s.sideBusy h = true → Stalls i h s) ∧
       (∀ r, s.sideBusy h = false → s.syncTrap h va = some r → Traps i h s r) ∧
       (s.sideBusy h = false → s.syncTrap h va = none → 0 < s.syncBusy.getD 0 (bitsN va 39 38) → Stalls i h s)) ∧
     (SyncTaken (.sobjBar w) h s w →
       (idle → 0 < n → n < 2 ^ 32 → Succeeds (.sobjBar w) h s (made (.bar 0 (BitVec.ofNat 32 n) 0)) w.dst) ∧
       (¬ bound → n = 0 ∨ 2 ^ 32 ≤ n → Fails (.sobjBar w) h s w.dst va 3) ∧
       (¬ idle → bound ∨ (0 < n ∧ n < 2 ^ 32) → Fails (.sobjBar w) h s w.dst va 2)) ∧
     (SyncTaken (.sobjSem w) h s w →
       (idle → Succeeds (.sobjSem w) h s (made (.sem (h.srcS w.b))) w.dst) ∧ (¬ idle → Fails (.sobjSem w) h s w.dst va 2)) ∧
     (SyncTaken (.sobjCell w) h s w →
       (idle → Succeeds (.sobjCell w) h s (made (.cell [])) w.dst) ∧ (¬ idle → Fails (.sobjCell w) h s w.dst va 2)) ∧
     (SyncTaken (.sobjInv w) h s w →
       (o = none → Succeeds (.sobjInv w) h s s w.dst) ∧
       (o ≠ none → idle → Succeeds (.sobjInv w) h s freed w.dst) ∧
       (∀ x, o = some x → x.kind = .fold → Fails (.sobjInv w) h s w.dst va 2) ∧
       (∀ x c a t g sc, o = some x → x.kind = .counter c a t g sc → Completes (.sobjInv w) h s
         ((match t with | some l => freed.dropTask l | none => freed).setFlag h.gid w.dst false)) ∧
       (∀ x, o = some x → ¬ bound → Completes (.sobjInv w) h s ((x.waiters.foldl State.leaveLost freed).setFlag h.gid w.dst false) ∧
         (x.waiters.foldl State.leaveLost freed).objs = s.objs.erase key))) ∧
  (∀ (s : State) (h : Here) (w : MemW),
     let va := h.atomEa w 0
     let key := objKey va
     let kind : RecInfo := { cause := .syncobj, detail := 1, lanes := h.f.mask.toNat, addr := va % 2 ^ 56 }
     let tok : W32 := BitVec.ofNat 32 (h.srcS w.b).toNat
     (∀ o gen expect arrived, SyncRuns (.sarv w) h s w → s.objs.get? key = some o → o.kind = .bar gen expect arrived →
       (arrived.toNat + 1 < expect.toNat → CompletesQuiet (.sarv w) h s
         ({ s with objs := s.objs.set key { o with kind := .bar gen expect (arrived + 1) } }.writeS h w.dst false (gen.zeroExtend 64))
         (dstRegs w.dst false)) ∧
       (expect.toNat ≤ arrived.toNat + 1 → ∃ t o', exec (.sarv w) s = .next t ∧ SameMem s t ∧ WentOn (.sarv w) h t ∧
         t.objs.get? key = some o' ∧ o'.kind = .bar (gen + 1) expect 0 ∧
         o'.waiters = o.waiters.filter (fun k => !s.tokenPassed (gen + 1) k) ∧
         (o.waiters = [] → RegFrame h s t (dstRegs w.dst false)) ∧
         (∀ d, w.dst = .s d → ∃ g, t.groups.get? h.gid = some g ∧ g.s.getD 0 d.val = gen.zeroExtend 64) ∧
         ∀ k ∈ o.waiters, s.tokenPassed (gen + 1) k = true →
           ∃ f, t.frags.get? k = some f ∧ (f.st = .ready ∨ f.st = .parked .bound))) ∧
     (SyncRuns (.sarv w) h s w →
       (∀ o gen expect arrived, s.objs.get? key = some o → o.kind ≠ .bar gen expect arrived) →
       Traps (.sarv w) h s kind) ∧
     (SyncRuns (.swait w) h s w → s.objs.get? key = none → Fails (.swait w) h s w.dst va 0) ∧
     (∀ o gen expect arrived, SyncRuns (.swait w) h s w → s.objs.get? key = some o → o.kind = .bar gen expect arrived →
       let d := (gen - tok).toNat
       (1 ≤ d → d ≤ 2 ^ 31 - 1 → Succeeds (.swait w) h s s w.dst) ∧
       (d = 0 ∨ 2 ^ 31 ≤ d → Parks (.swait w) h s { s with objs := s.objs.set key { o with waiters := o.waiters ++ [h.fid] } }
         (.token key va tok))) ∧
     (∀ o, SyncRuns (.swait w) h s w → s.objs.get? key = some o → (∀ gen expect arrived, o.kind ≠ .bar gen expect arrived) →
       Traps (.swait w) h s kind) ∧
     (∀ i ∈ [Instr.sarvPost w, .swaitTake w, .swaitTry w], SyncRuns i h s w →
       (∀ o v, s.objs.get? key = some o → o.kind ≠ .sem v) → Traps i h s kind)) ∧
  ((∀ (s : State) (v : Nat) (l : List Nat), let r := serveTakes s v l
     l = r.2.1 ++ r.2.2 ∧ v = r.1 + (r.2.1.map s.takeOf).sum ∧ ∀ f rest, r.2.2 = f :: rest → r.1 < s.takeOf f) ∧
   (∀ (s : State) (h : Here) (w : MemW) (o : Obj) (v : W64),
     let va := h.atomEa w 0
     let key := objKey va
     let n := h.srcS w.b
     s.objs.get? key = some o → o.kind = .sem v →
     (SyncRuns (.sarvPost w) h s w →
       (2 ^ 64 ≤ v.toNat + n.toNat → Fails (.sarvPost w) h s w.dst va 3) ∧
       (v.toNat + n.toNat < 2 ^ 64 → let r := serveTakes s (v.toNat + n.toNat) o.waiters
         ∃ u, Completes (.sarvPost w) h s (u.setFlag h.gid w.dst false) ∧ SameMem s u ∧
         u.objs.get? key = some { o with kind := .sem (BitVec.ofNat 64 r.1), waiters := r.2.2 } ∧
         (o.waiters = [] → RegFrame h s u noReg) ∧
         ∀ k ∈ r.2.1, ∀ f, s.frags.get? k = some f →
           ∃ f', u.frags.get? k = some f' ∧ (f'.st = .ready ∨ f'.st = .parked .bound))) ∧
     (∀ i ∈ [Instr.swaitTake w, .swaitTry w], SyncRuns i h s w →
       (n = 0 → Succeeds i h s s w.dst) ∧
       (n ≠ 0 → o.waiters = [] → n.toNat ≤ v.toNat →
         Succeeds i h s { s with objs := s.objs.set key { o with kind := .sem (v - n) } } w.dst)) ∧
     (n ≠ 0 → o.waiters ≠ [] ∨ v.toNat < n.toNat →
       (SyncRuns (.swaitTake w) h s w → Parks (.swaitTake w) h s
         { s with objs := s.objs.set key { o with waiters := o.waiters ++ [h.fid] } } (.take key va n)) ∧
       (SyncRuns (.swaitTry w) h s w → Fails (.swaitTry w) h s w.dst va 0))) ∧
   (∀ (s : State) (fid die : Nat) (h : Here) (i : Instr),
     s.hereOf fid = some h → s.parkedAt fid = some i → s.requestDie h i = some die →
     h.f.stall = true → 0 < s.syncBusy.getD 0 die →
     ∃ t f, exec (.syncRequestRetry fid) s = .next t ∧ SameMem s t ∧ t.groups = s.groups ∧ t.objs = s.objs ∧
       t.syncBusy.getD 0 die + 1 = min 32 (s.syncBusy.getD 0 die) ∧
       t.frags.get? fid = some f ∧ f = { h.f with ticket := some (min 32 (s.syncBusy.getD 0 die)) } ∧
       (∀ k, k ≠ fid → t.frags.get? k = s.frags.get? k)))

/-- Dependence counters (spec/18 R323, R333): a signal takes n from COUNT and an arm adds n and arms it, a free object becoming
a counter; an armed counter whose COUNT is not above zero fires and is then free, its task's launch queued, and a COUNT below zero
posts a record. Arming an armed counter fails as busy, an n of 2^32 or more as an argument; another kind traps. -/
def Obligations.Counters : Prop :=
  ∀ (s : State) (h : Here) (w : MemW),
    let va := h.atomEa w 0
    let key := objKey va
    let n := (h.srcS w.b).toNat
    let sc := max 3 w.scope.code.toNat
    let made (c : Int) (a : Bool) (t : Option Nat) (g : W64) (x : Nat) : State :=
      { s with objs := s.objs.set key { kind := .counter c a t g x } }
    let freed (c : Int) : State :=
      let u : State := { s with objs := s.objs.erase key }
      if c < 0 then u.postAsync h.t.ctx .syncobj 6 (2 ^ 63) (objVa key) none else u
    (CounterRuns (.cntaSig w) h s w → s.objs.get? key = none → Succeeds (.cntaSig w) h s (made (-n) false none 1 sc) w.dst) ∧
    (CounterRuns (.cntaArm w) h s w → s.objs.get? key = none →
      (0 < n → Succeeds (.cntaArm w) h s (made n true none 0 0) w.dst) ∧ (n = 0 → Succeeds (.cntaArm w) h s (freed 0) w.dst)) ∧
    (∀ o c a t g x, s.objs.get? key = some o → o.kind = .counter c a t g x →
      (CounterRuns (.cntaSig w) h s w → a = false ∨ n < c →
        Succeeds (.cntaSig w) h s (made (c - n) a t (g + 1) (max x sc)) w.dst) ∧
      (CounterRuns (.cntaSig w) h s w → a = true → c ≤ n → ∃ u, Completes (.cntaSig w) h s (u.setFlag h.gid w.dst false) ∧
        u.objs.get? key = none ∧ RegFrame h s u noReg ∧ (t = none → u = freed (c - n)) ∧
        ∀ l y, t = some l → s.launches.get? l = some y → (u.launches.get? l).map Launch.st = some 1) ∧
      (CounterRuns (.cntaArm w) h s w → a = true → Fails (.cntaArm w) h s w.dst va 2) ∧
      (CounterRuns (.cntaArm w) h s w → a = false →
        (0 < c + n → Succeeds (.cntaArm w) h s (made (c + n) true none g x) w.dst) ∧
        (c + n ≤ 0 → Completes (.cntaArm w) h s ((freed (c + n)).setFlag h.gid w.dst false)))) ∧
    (∀ i ∈ [Instr.cntaSig w, .cntaArm w],
      (CounterRuns i h s w → (∃ o, s.objs.get? key = some o ∧ ∀ c a t g x, o.kind ≠ .counter c a t g x) →
        Traps i h s { cause := .syncobj, detail := 1, lanes := h.f.mask.toNat, addr := va % 2 ^ 56 }) ∧
      (Runs i h s → s.sideBusy h = false → va < 2 ^ 56 → inAperture va = true → s.objExists va = true → va % 64 = 0 → 2 ^ 32 ≤ n →
        Fails i h s w.dst va 3) ∧
      (Runs i h s → s.sideBusy h = true → Stalls i h s))

/-! ## Copies and streams (spec/10) -/

/-- Per-lane copies (R212, R213). A CPL whose lanes pass their checks and finds two Hasp entries free registers its ranges and
issues one transfer per scratchpad line; the lines of a CPL.in are absent until their transfers land. It does nothing without an
active lane, and waits at issue without the entries, at a line with 15 transfers in flight, or while its group has side-logged
stores. Landing writes the line's elements, and the last transfer of a command frees its entries. That a line is one transfer, whose physical
addresses are those of the issue, is the model's choice (log 25). -/
def Obligations.LaneCopies : Prop :=
  (∀ (s : State) (h : Here) (w : EngW),
    let n := 4 * 2 ^ (w.imm.toNat % 4)
    let act := h.active w.g w.gn
    let ls := lanesOf act
    let ga (l : Nat) := h.src64 w.a 0 l
    let so (l : Nat) := h.src32 w.b 0 l
    let lines := linesOf (ls.map so)
    let id := (s.core h.core).nextId
    let ok (isOut : Bool) : Prop := act ≠ 0 ∧ ∀ l ∈ ls, s.cplLane h isOut n (ga l) (so l) = none
    let issued (t : State) (isIn : Bool) : Prop :=
      (∃ c, (t.core h.core).cpls.get? id = some c ∧ c.entries.length = 2 ∧ ∀ k ∈ c.entries, (s.core h.core).hasp.has k = false ∧
        (t.core h.core).hasp.has k = true) ∧
      ∀ k ln, lines[k]? = some ln → ∃ x, (t.core h.core).xfers.get? (id + 1 + k) = some x ∧ x.cmd = id ∧ x.isIn = isIn ∧
        x.line = ln ∧ x.width = n ∧ x.team = h.tid
    (∀ e ∈ [(Instr.cplIn w, false), (.cplOut w, true)], Runs e.1 h s →
      (s.sideBusy h = true → Stalls e.1 h s) ∧
      (s.sideBusy h = false → act = 0 → CompletesQuiet e.1 h s s noReg) ∧
      (∀ r, s.sideBusy h = false → act ≠ 0 → pickTrap (failing act fun l => s.cplLane h e.2 n (ga l) (so l)) = some r →
        Traps e.1 h s r) ∧
      (s.sideBusy h = false → ok e.2 → (s.core h.core).haspFree.length < 2 → Stalls e.1 h s)) ∧
    (Runs (.cplIn w) h s → s.sideBusy h = false → ok false →
      ((∃ ln ∈ lines, 15 ≤ h.t.absent.getD 0 ln) → Stalls (.cplIn w) h s) ∧
      ((∀ ln ∈ lines, h.t.absent.getD 0 ln < 15) → 2 ≤ (s.core h.core).haspFree.length →
        ∃ t x, Marked (.cplIn w) h s t false (ls.map ga) ∧ issued t true ∧ t.teams.get? h.tid = some x ∧ x.scr = h.t.scr ∧
          ∀ ln, x.absent.getD 0 ln = h.t.absent.getD 0 ln + if ln ∈ lines then 1 else 0)) ∧
    (Runs (.cplOut w) h s → s.sideBusy h = false → ok true →
      2 ≤ (s.core h.core).haspFree.length → ∃ t, Marked (.cplOut w) h s t true (ls.map ga) ∧ issued t false ∧ t.teams = s.teams)) ∧
  (∀ (s : State) (core id : Nat) (x : Xfer) (t : Team), (s.core core).xfers.get? id = some x → s.teams.get? x.team = some t →
    x.isIn = true ∨ (t.absent.has x.line = false ∧ ∀ m ∈ x.moves, s.partPoisoned m.1 m.2.1 x.width = false) →
    ∃ u u', exec (.cplLineLand core id) s = .next u ∧
      (u.core core).xfers.get? id = none ∧ u.teams.get? x.team = some u' ∧
      (x.isIn = true → u.mem = s.mem ∧ u.hostMem = s.hostMem ∧ u'.absent.getD 0 x.line = t.absent.getD 0 x.line - 1 ∧
        ∀ m, x.moves = [m] → readLE u'.scr m.2.2 x.width = s.physRead m.1 m.2.1 x.width % 256 ^ x.width) ∧
      (x.isIn = false → u'.scr = t.scr ∧ ∀ m, x.moves = [m] → m.1 < 2 → readLE u.mem m.2.1 x.width =
        readLE t.scr m.2.2 x.width % 256 ^ x.width) ∧
      ∀ c, (s.core core).cpls.get? x.cmd = some c → (∀ k y, k ≠ id → (s.core core).xfers.get? k = some y → y.cmd ≠ x.cmd) →
        (s.core core).xfers.wf = true → (u.core core).cpls.get? x.cmd = none ∧ ∀ k ∈ c.entries, (u.core core).hasp.has k = false)

/-- Seals and bulk copies (R214, R223, R224). A CPSEAL takes the group's unsealed copies into a batch, whose stamp is written
when they have landed. A BCPY reads its descriptor, refuses a malformed one as RI, an overlap as HASP, a stamp address that fails its
checks as a store would, and a range in the synchronisation aperture as PROT, and else queues the copy under two Hasp entries, or
waits at issue for them; when the copy is whole its entries are freed. A Hinge drops its line copy when it expires (R227). -/
def Obligations.SealsAndBulkCopies : Prop :=
  (∀ (s : State) (h : Here) (w : EngW), Runs (.cpseal w) h s →
    (s.sideBusy h = true → Stalls (.cpseal w) h s) ∧
    (∀ r, s.sideBusy h = false → s.stampTrap h (h.srcS w.a).toNat = some r → Traps (.cpseal w) h s r) ∧
    (s.sideBusy h = false → s.stampTrap h (h.srcS w.a).toNat = none → ∃ u g, CompletesQuiet (.cpseal w) h s u noReg ∧
      u.groups.get? h.gid = some g ∧ g.openCpl = [] ∧
      ∃ b, (u.core h.core).seals.get? (s.core h.core).nextId = some b ∧ b.group = h.gid ∧ b.ctx = h.t.ctx ∧
        b.xfers = h.g.openCpl ∧ b.addr = (h.srcS w.a).toNat ∧ b.value = h.srcS w.b ∧ b.scope = w.imm.toNat % 8)) ∧
  (∀ (s : State) (core id : Nat) (b : SealBatch) (c : Ctx), (s.core core).seals.get? id = some b →
    (s.core core).sealReady id b = true → s.ctxs.get? b.ctx = some c → s.stampFault core c b.addr = none →
    ∃ t, exec (.cpsealStampWrite core id) s = .next t ∧ (t.core core).seals.get? id = none ∧ t.groups = s.groups ∧
      Stored s t (s.storeBytes core c 8 [(b.addr, b.value.toNat)]) ∧
      ∀ pa mt, s.xl core c b.addr .write = .ok pa mt → mt < 2 → readLE t.mem pa 8 = b.value.toNat) ∧
  (∀ (s : State) (h : Here) (w : EngW),
    let va := (h.srcS w.a).toNat
    let d := (s.touch h.core h.cx va false).vload h.core h.cx va 64
    let f (hi lo : Nat) : Nat := bitsN d hi lo
    let (src, dst, rowb, rows) := (f 55 0, f 119 64, f 159 128, f 191 160)
    let sn := (rows - 1) * f 223 192 + rowb
    let dn := (rows - 1) * f 255 224 + rowb
    let bad := f 63 56 ≠ 0 ∨ f 127 120 ≠ 0 ∨ f 319 312 ≠ 0 ∨ f 511 387 ≠ 0 ∨ 6 ≤ f 386 384 ∨ (1 < rows ∧ f 255 224 < rowb)
    let apart := rows = 0 ∨ rowb = 0 ∨ dst + dn ≤ src ∨ src + sn ≤ dst
    Runs (.bcpy w) h s → s.sideBusy h = false → s.laneGlobal h va 64 .read = none → s.vPoison h.core h.cx va 64 .read = false →
      (bad → Traps (.bcpy w) h s { cause := .ri, detail := 5, lanes := h.f.mask.toNat }) ∧
      (¬ bad → ¬ apart → Traps (.bcpy w) h s { cause := .hasp, detail := 3, lanes := h.f.mask.toNat, addr := src }) ∧
      (∀ r, ¬ bad → apart → s.stampTrap h (f 311 256) = some r → Traps (.bcpy w) h s r) ∧
      (¬ bad → apart → s.stampTrap h (f 311 256) = none → rows ≠ 0 → rowb ≠ 0 → meetsAperture src sn = true →
        Traps (.bcpy w) h s (h.aperTrap src)) ∧
      (¬ bad → apart → s.stampTrap h (f 311 256) = none → rows ≠ 0 → rowb ≠ 0 → meetsAperture src sn = false →
        meetsAperture dst dn = true → Traps (.bcpy w) h s (h.aperTrap dst)) ∧
      (¬ bad → apart → s.stampTrap h (f 311 256) = none →
        (rows ≠ 0 → rowb ≠ 0 → meetsAperture src sn = false ∧ meetsAperture dst dn = false) →
        (rows ≠ 0 → rowb ≠ 0 → (s.core h.core).haspFree.length < 2 → Stalls (.bcpy w) h s) ∧
        (2 ≤ (s.core h.core).haspFree.length → ∃ t b, Marked (.bcpy w) h s t false [va] ∧
          (t.core h.core).bulks.get? (s.core h.core).nextId = some b ∧ b.desc = BitVec.ofNat 512 d ∧ b.group = h.gid ∧
          b.ready = false ∧ b.copied = 0))) ∧
  (∀ (s u : State) (core id k : Nat) (b : Bulk) (cx : Ctx), (s.core core).bulks.get? id = some b → b.ready = false →
    b.parked = none → b.locked = true → s.ctxs.get? b.ctx = some cx → (∀ va, s.storeLost core cx va = false) →
    copyBulk core cx b.desc (bitsN b.desc.toNat 159 128 * bitsN b.desc.toNat 191 160) b.copied s = (u, k, none) →
    ∃ t, exec (.bcpyComplete core id) s = .next t ∧ (∀ e ∈ b.entries, (t.core core).hasp.has e = false) ∧
      ∀ b', (t.core core).bulks.get? id = some b' → b'.ready = true ∧ b'.entries = []) ∧
  (∀ (s : State) (hinge line : Nat), ∃ t, exec (.hingeCopyExpire hinge line) s = .next t ∧ SameMem s t ∧ t.groups = s.groups ∧
    ∀ e, e ∈ t.hinges ↔ e ∈ s.hinges ∧ ¬ (e.1 = hinge ∧ e.2.2 = line))

/-- Stream engines, by instruction (R215 to R222). SEPROG loads a record that passes R217's checks and gives flag 0, and refuses
any other with its REASON and flag 1; a tensor in the synchronisation aperture traps as PROT. SECTL starts, stops and reads the
engine. RSIG gives a slot back, RWAIT waits until a slot is the group's; a slot that is no slot of the team's ring, or not in the
state that RSIG needs, traps as HASP. Stream engines, by transfer (R218, R219, R223): a running engine takes the ready slot of its
next tile under two Hasp entries; the oldest tile's transfer completes and gives the slot over; a stopping engine without slots is
Stopped. A page that Shento maps lets a parked transfer go on, and one that it cannot map ends the command, the engine being Faulted
with REASON 9. -/
def Obligations.StreamEngines : Prop :=
  (∀ (s : State) (h : Here) (w : EngW),
     let e := w.imm.toNat % 2
     let x := s.stream h.core e
     let va := (h.srcS w.a).toNat
     let k := h.ringSlot w
     let t : Tlr := { bits := BitVec.ofNat 512 ((s.touch h.core h.cx va false).vload h.core h.cx va 64) }
     let ours := x.owner = some h.tid
     let taken := (x.owner ≠ none ∧ ¬ ours) ∨ x.st = 2 ∨ x.st = 3
     let begun : State := s.setStream h.core e { x with st := if x.done < x.layout.tiles then 2 else 5 }
     let idle : State := s.setStream h.core e { reason := x.reason, done := x.done }
     (Runs (.seprog w) h s → s.sideBusy h = false → s.laneGlobal h va 64 .read = none →
       s.vPoison h.core h.cx va 64 .read = false →
       (∀ r, (taken ∧ r = 1) ∨ (¬ taken ∧ t.refuse h.t.fixedLen = some r) → ∃ u, Marked (.seprog w) h s u false [va] ∧
         FlagComing h u w.dst true ∧ u.stream h.core e = { x with reason := r }) ∧
       (¬ taken → t.refuse h.t.fixedLen = none → t.wsrc = false → meetsAperture t.extent.1 t.extent.2 = true →
         Traps (.seprog w) h s (h.aperTrap t.extent.1)) ∧
       (¬ taken → t.refuse h.t.fixedLen = none → t.wsrc = true ∨ meetsAperture t.extent.1 t.extent.2 = false →
         ∃ u, exec (.seprog w) s = .next u ∧ WentOn (.seprog w) h u ∧ FlagComing h u w.dst false ∧ (u.stream h.core e).st = 1 ∧
           (u.stream h.core e).owner = some h.tid ∧ (u.stream h.core e).tlr = t.bits ∧ (u.stream h.core e).done = 0 ∧
           (u.stream h.core e).slots = [] ∧ (s.noRingWait h.core e → Marked (.seprog w) h s u false [va]))) ∧
     (∀ i ∈ [Instr.seprog w, .sectlStart w, .sectlStop w], Runs i h s → s.sideBusy h = true → Stalls i h s) ∧
     (Runs (.sectlStart w) h s → s.sideBusy h = false →
       (¬ (ours ∧ (x.st = 1 ∨ x.st = 4)) → CompletesQuiet (.sectlStart w) h s s noReg) ∧
       (ours → x.st = 1 ∨ x.st = 4 → Completes (.sectlStart w) h s (begun.wakeRing h.core e) ∧
         (s.noRingWait h.core e → CompletesQuiet (.sectlStart w) h s begun noReg))) ∧
     (Runs (.sectlStop w) h s → s.sideBusy h = false →
       (¬ ours ∨ x.st = 0 ∨ x.st = 3 → CompletesQuiet (.sectlStop w) h s s noReg) ∧
       (ours → x.st = 2 → CompletesQuiet (.sectlStop w) h s (s.setStream h.core e { x with st := 3 }) noReg) ∧
       (ours → x.st ≠ 0 → x.st ≠ 2 → x.st ≠ 3 → Completes (.sectlStop w) h s (idle.wakeRing h.core e) ∧
         (s.noRingWait h.core e → CompletesQuiet (.sectlStop w) h s idle noReg))) ∧
     (Runs (.sectlQuery w) h s → ∃ v, CompletesQuiet (.sectlQuery w) h s (s.writeS h w.dst false (BitVec.ofNat 64 v))
       (dstRegs w.dst false) ∧ (x.st < 8 → v % 8 = x.st ∧ v / 8 % 2 = (if ours then 1 else 0) ∧ v / 16 % 16 = x.reason % 16 ∧
         v / 2 ^ 32 = x.done % 2 ^ 32)) ∧
     (Runs (.rsig w) h s →
       (x.bars h.tid k = true → Traps (.rsig w) h s (h.ringTrap x k 4)) ∧
       (x.bars h.tid k = false → x.slot k = 1 → Traps (.rsig w) h s (h.ringTrap x k 1)) ∧
       (x.bars h.tid k = false → x.slot k ≠ 1 → x.mine k = false → Traps (.rsig w) h s (h.ringTrap x k 2)) ∧
       (x.bars h.tid k = false → x.slot k ≠ 1 → x.mine k = true → s.sideBusy h = true → Stalls (.rsig w) h s) ∧
       (x.bars h.tid k = false → x.slot k ≠ 1 → x.mine k = true → s.sideBusy h = false → CompletesQuiet (.rsig w) h s
         (s.setStream h.core e { x with slots := x.slots.setD 0 k (if x.layout.drain then 2 else 0) }) noReg)) ∧
     (Runs (.rwait w) h s →
       (x.bars h.tid k = true → Traps (.rwait w) h s (h.ringTrap x k 4)) ∧
       (x.bars h.tid k = false → x.mine k = true → Succeeds (.rwait w) h s s w.dst) ∧
       (x.bars h.tid k = false → x.mine k = false → 4 ≤ x.st →
         (w.dst.isC = true → CompletesQuiet (.rwait w) h s (s.setFlag h.gid w.dst true) (dstRegs w.dst false)) ∧
         (w.dst.isC = false → Traps (.rwait w) h s (h.ringTrap x k 5))) ∧
       (x.bars h.tid k = false → x.mine k = false → x.st < 4 → Parks (.rwait w) h s s (.ring e k)))) ∧
  (∀ (s : State) (core e : Nat),
     let x := s.stream core e
     let l := x.layout
     let k := x.cursor % l.nslot
     (∀ o t cx, x.owner = some o → s.teams.get? o = some t → s.ctxs.get? t.ctx = some cx → x.st = 2 → x.cursor < l.tiles →
       x.slotTile.length < 4 → x.slot k = (if l.drain then 2 else 0) → 2 ≤ (s.core core).haspFree.length →
       ∃ u ids, exec (.streamSlotTake core e) s = .next u ∧ SameMem s u ∧ u.groups = s.groups ∧ u.teams = s.teams ∧
         (u.stream core e).cursor = x.cursor + 1 ∧ (u.stream core e).slot k = 1 ∧
         (u.stream core e).slotTile.get? k = some x.cursor ∧ (u.stream core e).entries.get? k = some ids ∧ ids.length = 2 ∧
         ∀ i ∈ ids, (u.core core).hasp.has i = true) ∧
     (∀ o t cx j tile, x.owner = some o → x.oldest = some (j, tile) → x.parked = none → s.teams.get? o = some t →
       s.ctxs.get? t.ctx = some cx → l.wsrc = false → s.tileFault core cx l tile = none → s.poison = [] → t.scrPoison = [] →
       ∃ u, exec (.streamTileComplete core e) s = .next u ∧ (u.stream core e).done = x.done + 1 ∧
         (u.stream core e).slot j = (if l.drain then 0 else 2) ∧ (u.stream core e).slotTile = x.slotTile.erase j ∧
         (u.stream core e).st = (if l.tiles ≤ x.done + 1 ∧ (x.st = 2 ∨ x.st = 3) then 5 else x.st) ∧
         ∀ i ∈ x.entries.getD [] j, (u.core core).hasp.has i = false) ∧
     (x.st = 3 → x.slotTile = [] → ∃ u, exec (.streamStopComplete core e) s = .next u ∧
       u.stream core e = { x with st := 4 } ∧ (s.noRingWait core e → SameMem s u ∧ u.groups = s.groups ∧ u.frags = s.frags)) ∧
     (∀ a map, x.parked = some a →
       (map ≠ [] → ∃ u, exec (.transferXlateService core (.stream e) map) s = .next u ∧ u.mem = (s.applyMap map).mem ∧
         u.groups = s.groups ∧ u.stream core e = { x with parked := none }) ∧
       (map = [] → ∃ u, exec (.transferXlateService core (.stream e) map) s = .next u ∧ (u.stream core e).st = 6 ∧
         (u.stream core e).reason = 9 ∧ (u.stream core e).parked = none ∧ (u.stream core e).slotTile = [])))

/-! ## The matrix engine (spec/11) -/

/-- MMA, MLOOP and MLOOPM (R244 to R246). With a name below the team's count, a legal pair of types, aligned operands inside the
allocation (the whole bounding range: log 44), and room in the sequencer, the operation is accepted; with a B operand from the quad
(R235) it takes the four staged quarters when it is the fragment's turn and their type is its own, traps as COMBO when a type
differs, and parks when they are not all staged or it is another's turn. A name at or beyond the count traps as SPAD, and an
illegal pair of types as COMBO. -/
def Obligations.MatrixIssue : Prop :=
  ∀ (s : State) (h : Here) (w : EngW),
    let acc := immF w.imm 3 0
    let ta := immTy w.imm 7 4
    let tb := immTy w.imm 11 8
    let oa := matOpnd (h.srcS w.a)
    let ob := matOpnd (h.srcS w.b)
    let a := s.acc h.tid
    let inc (k : Nat) : Nat := (h.srcS w.c).toNat / 2 ^ (16 * k) % 65536
    let dd : Nat := match w.dst with | .s r => (h.sreg r.val).toNat | _ => 0
    let sa := dd % 2 ^ 32
    let sb := dd / 2 ^ 32
    let fits (r : MatRange) : Prop := r.firstBad h.t.fixedLen = none
    let mine := s.quadWaiters h.tid (h.g.idx / 4) = [] ∨ (s.quadWaiters h.tid (h.g.idx / 4)).head? = some h.fid
    let opA := oa.1 % 32 = 0 ∧ oa.2 % 32 = 0
    let opB := ob.1 % 32 = 0 ∧ ob.2 % 32 = 0
    let sacc : SMap W32 × SMap W32 := (h.lanesOf w.c 32, match w.c with | .v r => h.lanesOf (.v (r + 1)) 32 | _ => [])
    let waits (i : Instr) : Prop := a.quad h.g.idx = none ∨ ¬ mine → ∃ u, Parks i h s u .quad ∧ SameMem s u ∧
      u.groups = s.groups ∧ h.fid ∈ (u.acc h.tid).waiters
    let mixed (i : Instr) : Prop := ∀ l, a.quad h.g.idx = some l → mine → (∃ x ∈ l, x.ty ≠ tb) →
      exec i s = .next (((s.dropWaiter h.tid h.fid).wakeQuad h.tid (h.g.idx / 4)).takeTrap h
        { cause := .combo, detail := 1, lanes := h.f.mask.toNat })
    (∀ i ∈ [Instr.mma w, .mloop w], Runs i h s → h.t.acc ≤ acc →
      Traps i h s { cause := .spad, lanes := h.f.mask.toNat, info := acc }) ∧
    (∀ i ∈ [Instr.mma w, .mloop w], Runs i h s → acc < h.t.acc → matCombo ta tb = false →
      Traps i h s { cause := .combo, lanes := h.f.mask.toNat }) ∧
    (acc < h.t.acc → matCombo ta tb = true → opA → s.sideBusy h = false →
      (Runs (.mma w) h s → fits { off := oa.1, str := oa.2 } →
        (w.b.isZr = false → opB → fits { off := ob.1, str := ob.2 } → s.matRoom h 2 → ∃ t, t.accs = s.accs ∧
          Accepted (.mma w) h s t (.steps ta tb [a.tileOf acc] oa.1 oa.2 0 false ob.1 ob.2 0 [] (immF w.imm 13 12) false 0 0 0 0
            sacc.1 sacc.2)) ∧
        (∀ l, w.b.isZr = true → a.quad h.g.idx = some l → mine → (∀ x ∈ l, x.ty = tb) → s.matRoom h 1 → ∃ t,
          Accepted (.mma w) h s t (.steps ta tb [a.tileOf acc] oa.1 oa.2 0 true ob.1 ob.2 0 (quadWords l) (immF w.imm 13 12) false
            0 0 0 0 sacc.1 (quadScales l)) ∧ (t.acc h.tid).quad h.g.idx = none ∧ (t.acc h.tid).tiles = a.tiles) ∧
        (w.b.isZr = true → waits (.mma w) ∧ mixed (.mma w))) ∧
      (Runs (.mloop w) h s → opB → (∀ k, k < 4 → inc k % (if k < 2 then 32 else 4) = 0) →
        fits { off := oa.1, str := oa.2, inc := inc 0, n := immF w.imm 23 12 + 1 } →
        fits { off := ob.1, str := ob.2, inc := inc 1, n := immF w.imm 23 12 + 1 } →
        (w.dst.isS = true → sa % 4 = 0 ∧ sb % 4 = 0 ∧
          fits { off := sa, inc := inc 2, n := immF w.imm 23 12 + 1, rows := 1, width := 128 } ∧
          fits { off := sb, inc := inc 3, n := immF w.imm 23 12 + 1, rows := 1, width := 128 }) → s.matRoom h 4 →
        ∃ t, t.accs = s.accs ∧ Accepted (.mloop w) h s t
          (.steps ta tb ((List.range (immF w.imm 23 12 + 1)).map fun _ => a.tileOf acc) oa.1 oa.2 (inc 0) false ob.1 ob.2 (inc 1) []
            0 w.dst.isS sa (inc 2) sb (inc 3) [] [])) ∧
      (Runs (.mloopm w) h s → acc + immF w.imm 15 12 < h.t.acc → inc 0 % 32 = 0 →
        fits { off := oa.1, str := oa.2, inc := inc 0, n := immF w.imm 15 12 + 1 } →
        (w.dst.isS = true → sa % 4 = 0 ∧ inc 2 % 4 = 0 ∧
          fits { off := sa, inc := inc 2, n := immF w.imm 15 12 + 1, rows := 1, width := 128 }) →
        waits (.mloopm w) ∧ mixed (.mloopm w) ∧
        ∀ l, a.quad h.g.idx = some l → mine → (∀ x ∈ l, x.ty = tb) → s.matRoom h 2 → ∃ t, Accepted (.mloopm w) h s t
          (.steps ta tb ((List.range (immF w.imm 15 12 + 1)).map fun m => a.tileOf (acc + m)) oa.1 oa.2 (inc 0) true ob.1 ob.2
            (inc 1) (quadWords l) 0 w.dst.isS sa (inc 2) sb (inc 3) [] (quadScales l)) ∧ (t.acc h.tid).quad h.g.idx = none))

/-- Accumulators and quarters (R247, R250 to R253): MQB stages a group's quarter of B; ACCNEW gives a name a tile that reads as
zero; ACCLD, ACCST, ACCRD and ACCWR are accepted as operations on the tile of their name. A name at or beyond the team's count
traps as SPAD. Batches (R241, R248, R249): MFENCE closes the group's open operations under the next number, which is never 0,
and returns it; MBWAIT goes on when the batch has completed, waits for one that has not, and traps as SYNCOBJ for one not yet
closed. A group's closed batches complete from the oldest on once their operations have. -/
def Obligations.AccumulatorsAndBatches : Prop :=
  (∀ (s : State) (h : Here) (w : EngW),
     let n := immF w.imm 3 0
     let a := s.acc h.tid
     let o := matOpnd (h.srcS w.a)
     let e := storeBytes (immTy w.imm 7 4)
     let rm := immF w.imm 14 12
     let spad : RecInfo := { cause := .spad, lanes := h.f.mask.toNat, info := n }
     (∀ i ∈ [Instr.accnew w, .accld w, .accst w, .accrd w, .accwr w], Runs i h s → h.t.acc ≤ n → Traps i h s spad) ∧
     (Runs (.mqb w) h s → h.t.ngroups < 4 * (h.g.idx / 4) + 4 →
       Traps (.mqb w) h s { cause := .combo, detail := 2, lanes := h.f.mask.toNat }) ∧
     (∀ ra : Fin 256, Runs (.mqb w) h s → 4 * (h.g.idx / 4) + 4 ≤ h.t.ngroups → w.a = .v ra →
       ∃ t q, exec (.mqb w) s = .next t ∧ WentOn (.mqb w) h t ∧ SameMem s t ∧ RegFrame h s t noReg ∧
         (t.acc h.tid).stage.get? h.g.idx = some q ∧ q.ty = immTy w.imm 7 4 ∧ (t.acc h.tid).tiles = a.tiles ∧
         (∀ i, i < 64 → q.words.getD 0 i = h.vreg (ra.val + i / 32) (i % 32)) ∧
         (∀ l, l < 8 → q.scales.getD 0 l = BitVec.ofNat 32 (h.src32 w.b 0 l))) ∧
     (∀ t, Runs (.accnew w) h s → n < h.t.acc → s.freeTile h = some t → ∃ u, Completes (.accnew w) h s u ∧
       (∀ i j, ((u.acc h.tid).elem ((u.acc h.tid).tileOf n) i j) = 0) ∧ (∀ m, m ≠ n → (u.acc h.tid).tileOf m = a.tileOf m) ∧
       (∀ m i j, m ≠ t → (u.acc h.tid).elem m i j = a.elem m i j) ∧ u.groups = s.groups ∧ SameMem s u) ∧
     (Runs (.accnew w) h s → n < h.t.acc → s.freeTile h = none → Stalls (.accnew w) h s) ∧
     (n < h.t.acc → s.sideBusy h = false → o.1 % 4 = 0 → o.2 % 4 = 0 → s.matRoom h 1 →
       (Runs (.accld w) h s → ({ off := o.1, str := o.2, width := 128 } : MatRange).firstBad h.t.fixedLen = none →
         ∃ t, t.accs = s.accs ∧ Accepted (.accld w) h s t (.load (a.tileOf n) o.1 o.2)) ∧
       (Runs (.accst w) h s → ({ off := o.1, str := o.2, width := 32 * e } : MatRange).firstBad h.t.fixedLen = none →
         ∃ t, t.accs = s.accs ∧ Accepted (.accst w) h s t (.store (a.tileOf n) o.1 o.2 (immTy w.imm 7 4) (immTy w.imm 11 8)
           (if rm = 6 then fsrRm h.g.fsr else rm) (w.imm.getLsbD 15)
           (if w.imm.getLsbD 16 then some ((h.srcS w.b).truncate 32) else none)))) ∧
     (∀ r : Fin 256, n < h.t.acc → s.matRoom h 0 →
       (Runs (.accrd w) h s → w.dst = .v r → ∃ t g, t.accs = s.accs ∧ Accepted (.accrd w) h s t (.read (a.tileOf n) h.g.nextPend
         (immF w.imm 8 4) (immF w.imm 13 9 + 1) (w.imm.getLsbD 14) r.val (h.active w.g w.gn)) ∧ t.groups.get? h.gid = some g ∧
         ∀ i, i ≤ immF w.imm 13 9 → g.outstanding (.v (r.val + i)) = true) ∧
       (Runs (.accwr w) h s → ∃ t words, t.accs = s.accs ∧ Accepted (.accwr w) h s t (.write (a.tileOf n)
         (immF w.imm 8 4) (immF w.imm 13 9 + 1) (w.imm.getLsbD 14) (h.active w.g w.gn) words) ∧
         ∀ i, i < 32 * (immF w.imm 13 9 + 1) → words.getD 0 i = match w.a with
           | .v r => h.vreg (r.val + i / 32) (i % 32)
           | o => BitVec.ofNat 32 (h.src32 o 0 (i % 32))))) ∧
  ((∀ (s : State) (h : Here) (w : EngW),
     let n : W32 := if h.g.batch = 0xFFFFFFFF then 1 else h.g.batch + 1
     let b : W32 := if w.a.isZr then w.imm else (h.srcS w.a).truncate 32
     let ahead := (b - h.g.batch).toNat
     (Runs (.mfence w) h s → n ≠ 0 ∧ ∃ t g, exec (.mfence w) s = .next t ∧ WentOn (.mfence w) h t ∧ SameMem s t ∧ t.accs = s.accs ∧
       RegFrame h s t (dstRegs w.dst false) ∧ t.groups.get? h.gid = some g ∧ g.batch = n ∧ g.openOps = [] ∧
       (∀ d, w.dst = .s d → w.ws = false → g.s.getD 0 d.val = n.zeroExtend 64) ∧
       (h.g.openOps ≠ [] → (n, h.g.openOps) ∈ g.batches)) ∧
     (Runs (.mbwait w) h s →
       (b = 0 → CompletesQuiet (.mbwait w) h s s noReg) ∧
       (b ≠ 0 → 1 ≤ ahead → ahead < 2 ^ 31 →
         Traps (.mbwait w) h s { cause := .syncobj, detail := 5, lanes := h.f.mask.toNat, info := b.toNat }) ∧
       (b ≠ 0 → ahead = 0 ∨ 2 ^ 31 ≤ ahead → (∃ x ∈ h.g.batches, x.1 = b) → Parks (.mbwait w) h s s (.batch b)) ∧
       (b ≠ 0 → ahead = 0 ∨ 2 ^ 31 ≤ ahead → (∀ x ∈ h.g.batches, x.1 ≠ b) → CompletesQuiet (.mbwait w) h s s noReg))) ∧
   (∀ (s : State) (gid : Nat) (g : Group), s.groups.get? gid = some g →
     ∃ t g', exec (.batchComplete gid) s = .next t ∧ SameMem s t ∧ t.groups.get? gid = some g' ∧
       g'.batches = g.batches.dropWhile (fun b => b.2.isEmpty) ∧ g'.v = g.v ∧ g'.s = g.s ∧ g'.k = g.k ∧
       ∀ k f b, s.frags.get? k = some f → f.group = gid → f.st = .parked (.batch b) →
         (b, []) ∈ g.batches.takeWhile (fun b => b.2.isEmpty) → ∃ f', t.frags.get? k = some f' ∧
           (f'.st = .ready ∨ f'.st = .parked .bound)))

/-- The steps of the matrix engine (R228, R229, R237 to R239, R242, R251, R253; spec/13 R268). A step of an operation whose tile no
earlier operation still accesses and whose lines are present changes accumulators and scratchpad only; it reads the bytes that stood in the
scratchpad at its acceptance, but for lines absent then; after its last step the operation has left the sequencer and freed its Hasp
entries. A step that consumes an uncorrectable error takes its group to the freeze path (R242); that the operation then ends is the
model's choice (log 27). A multiply step adds to each element of C the products of its row of A and its column of B, integers modulo 2^32.
-/
def Obligations.MatrixSteps : Prop :=
  (∀ (s : State) (core id : Nat) (m : MOp) (t : Team), (s.core core).mops.get? id = some m → s.teams.get? m.team = some t →
    (s.core core).matReady t id m = true →
    let n := match m.kind with | .steps _ _ tiles .. => tiles.length | _ => 1
    let p := s.matPerform m t
    ((m.needs.any fun r => (m.view t).scrBad r.1 r.2) = true → exec (.matrixStep core id) s = .next (s.mopError core id m 3)) ∧
    ((m.needs.any fun r => (m.view t).scrBad r.1 r.2) = false → (s.acc m.team).consumes m = true →
      exec (.matrixStep core id) s = .next (s.mopError core id m 4)) ∧
    ((m.needs.any fun r => (m.view t).scrBad r.1 r.2) = false → (s.acc m.team).consumes m = false →
    ∃ u, exec (.matrixStep core id) s = .next u ∧ SameMem s u ∧ u.accs = (p.putAcc m.team ((p.acc m.team).cleared m)).accs ∧
      u.teams = (s.matPerform m t).teams ∧ u.frags = s.frags ∧
      (m.next + 1 < n → (u.core core).mops.get? id = some { m with next := m.next + 1 }) ∧
      (n ≤ m.next + 1 → (u.core core).mops.get? id = none ∧ (∀ k ∈ m.entries, (u.core core).hasp.has k = false) ∧
        ∀ g, u.groups.get? m.group = some g → id ∉ g.openOps) ∧
      (∀ tile off str, m.kind = .load tile off str → ∀ i j, i < 32 → j < 32 →
        (u.acc m.team).elem tile i j = BitVec.ofNat 32 (readLE (m.view t).scr (off + i * str + 4 * j) 4)) ∧
      (∀ tile pend first c col reg lanes, m.kind = .read tile pend first c col reg lanes → (∀ k, u.acc k = s.acc k) ∧
        ∀ g p, s.groups.get? m.group = some g → g.pend.get? pend = some p →
          ∃ g' p', u.groups.get? m.group = some g' ∧ g'.pend.get? pend = some p' ∧ p'.ready = true ∧ p'.regs = p.regs))) ∧
  (∀ (m : MOp) (t : Team) (i : ScrImage) (a : Nat), m.image = some i → Memory.wf i.bytes = true → Memory.wf t.scr = true →
    memByte (m.view t).scr a = if i.absent.has (a / 128) then memByte t.scr a else memByte i.bytes a) ∧
  (∀ (a : Acc) (tile : Nat) (flt : Bool) (rows cols : List (List MVal)), rows.length = 32 → cols.length = 32 →
    (∀ i j r c, rows[i]? = some r → cols[j]? = some c →
      (a.step tile flt rows cols).elem tile i j = matCell flt (a.elem tile i j) r c) ∧
    (∀ k i j, k ≠ tile → (a.step tile flt rows cols).elem k i j = a.elem k i j)) ∧
  (∀ (c : W32) (l : List (Int × Int)), matCell false c (l.map fun p => .int p.1) (l.map fun p => .int p.2) =
    c + BitVec.ofInt 32 ((l.map fun p => p.1 * p.2).sum))

/-! ## The Pen (spec/14) -/

/-- Pen instructions (R282 to R285). NEVAL waits for the side log, then records the evaluation and holds its destination registers;
where every lane's handle is invalid, each receives the canonical NaN and its fault bit at once. NHLD.pre never waits and changes
no register: a load stands in the table where the handle is valid, no slot holds it and one can be filled. NHLD.drop changes no
register, and frees the slot, or marks it while its load runs. NSTAT waits until the group's earlier evaluations are delivered,
then gives the fault bits of its lanes, which .clr clears. Pen events (R273 to R279). An open tile whose window ends runs from
the slot that holds its network, or waits for one, and with it every tile whose window has ended by then, but none whose window ends
later; that the event lets the core's CLOCK reach the window's end is the model's choice (log 21). A waiting tile begins the load of its network into a slot under two Hasp
entries, a malformed descriptor failing it with DETAIL 1; the load ends with the slot ready and the entries freed. A tile whose
weights are ready gives its one row its network's outputs and no other lane anything; where the network's widths are not the
NEVAL's, the lane gets the canonical NaN and its fault bit, with DETAIL 2 (R279); a row that holds an error freezes its group and its
evaluation goes. The Pen control register holds PRIO, 3 storing 0 (R277). -/
def Obligations.PenEvaluations : Prop :=
  (∀ (s : State) (h : Here) (w : EngW),
     let act := h.active w.g w.gn
     let id := (s.core h.core).nextId
     let handle (l : Nat) : Nat := h.src64 w.a 0 l
     let nout := immF w.imm 8 5 + 1
     let va := (h.srcS w.a).toNat
     (Runs (.neval w) h s → s.sideBusy h = true → Stalls (.neval w) h s) ∧
     (Runs (.neval w) h s → s.sideBusy h = false → act = 0 → CompletesQuiet (.neval w) h s s noReg) ∧
     (∀ rd ri : Fin 256, Runs (.neval w) h s → s.sideBusy h = false → act ≠ 0 → w.dst = .v rd → w.b = .v ri →
       (∀ l ∈ lanesOf act, penBad (handle l) = false) →
       ∃ t e g, exec (.neval w) s = .next t ∧ WentOn (.neval w) h t ∧ SameMem s t ∧ RegFrame h s t noReg ∧
         (t.core h.core).nevals.get? id = some e ∧ e.group = h.gid ∧ e.mask = h.f.mask ∧ e.left = act ∧ e.nin = immF w.imm 4 0 + 1 ∧
         e.nout = nout ∧ e.dst = rd.val ∧ e.trap = w.imm.getLsbD 9 ∧ e.faulted = 0 ∧ t.groups.get? h.gid = some g ∧
         ∀ i, i < nout → g.outstanding (.v (rd.val + i)) = true) ∧
     (∀ rd ri : Fin 256, Runs (.neval w) h s → s.sideBusy h = false → act ≠ 0 → w.dst = .v rd → w.b = .v ri →
       (∀ l ∈ lanesOf act, penBad (handle l) = true) → w.imm.getLsbD 9 = false →
       (∀ x ∈ s.frags, ∀ n, x.2.st ≠ .parked (.nstat n)) →
       ∃ t g, exec (.neval w) s = .next t ∧ SameMem s t ∧ (t.core h.core).nevals.get? id = none ∧ t.groups.get? h.gid = some g ∧
         g.penFault = h.g.penFault ||| act ∧
         ∀ i l, i < nout → l ∈ lanesOf act → g.v.getD 0 (32 * (rd.val + i) + l) = 0x7FC00000) ∧
     (Runs (.nhldPre w) h s → ∃ u, CompletesQuiet (.nhldPre w) h s u noReg ∧
       u.groups = s.groups ∧ (u.core h.core).penSlots = (s.core h.core).penSlots ∧ (penBad va = true → u = s) ∧
       (penBad va = false → (s.core h.core).penHolder va h.cx.asid = none → s.penVictim (s.core h.core) ≠ none →
         ∃ x, (u.core h.core).penTiles.get? id = some x ∧ x.handle = va ∧ x.ctx = h.t.ctx ∧ x.rows = [] ∧ x.st = 1)) ∧
     (Runs (.nhldDrop w) h s → ∃ u, CompletesQuiet (.nhldDrop w) h s u noReg ∧ ((s.core h.core).penTiles = [] → ∀ k p,
       (s.core h.core).penHolder va h.cx.asid = some k → (s.core h.core).penSlots.get? k = some p →
       (p.ready = true → (u.core h.core).penSlots.get? k = none) ∧
       (p.ready = false → (u.core h.core).penSlots.get? k = some { p with drop := true }))) ∧
     (Runs (.nstat w) h s →
       (s.penDone h.core h.gid id = false → Parks (.nstat w) h s s (.nstat id)) ∧
       (s.penDone h.core h.gid id = true → ∃ u g, CompletesQuiet (.nstat w) h s u (dstRegs w.dst false) ∧
         u.groups.get? h.gid = some g ∧
         g.penFault = (if w.imm.getLsbD 0 then h.g.penFault &&& ~~~h.f.mask else h.g.penFault) ∧
         ∀ r, w.dst = .k r → r.val ≠ 0 → g.k.getD 0 r.val = (h.kreg r.val &&& ~~~h.f.mask) ||| (h.g.penFault &&& h.f.mask)))) ∧
  (∀ (s : State) (core tile : Nat),
     (∀ x, (s.core core).penTiles.get? tile = some x → x.st = 0 →
       let holder := (s.core core).penHolder x.handle (((s.ctxs.get? x.ctx).map Ctx.asid).getD 0)
       let now := max x.ends (s.core core).clock.toNat
       ∃ t y, exec (.penWindowExpire core tile) s = .next t ∧ SameMem s t ∧ t.groups = s.groups ∧
         (t.core core).clock = BitVec.ofNat 64 now ∧
         (t.core core).penTiles.get? tile = some y ∧ y.rows = x.rows ∧ (holder = none → y.st = 1) ∧
         (∀ k, holder = some k → y.st = 2 ∧ y.slot = k) ∧
         ∀ n z, (s.core core).penTiles.get? n = some z → (∀ z', (n, z') ∈ (s.core core).penTiles → z' = z) → z.st = 0 →
           (now < z.ends → (t.core core).penTiles.get? n = some z) ∧
           (z.ends ≤ now → ∃ z', (t.core core).penTiles.get? n = some z' ∧ z'.st ≠ 0)) ∧
     (∀ x cx k d, (s.core core).penTiles.get? tile = some x → s.ctxs.get? x.ctx = some cx → x.st = 1 →
       x.rows ≠ [] ∨ s.groupBusy core x.opener = false →
       (s.core core).penHolder x.handle cx.asid = none → s.penVictim (s.core core) = some k →
       s.penRead core cx x.handle 64 = .ok d → (s.penTake core cx x.handle 64).1 = d → s.penPoison core cx x.handle 64 = none →
       (penNet (BitVec.ofNat 512 d) = none → ∃ t y, exec (.penSlotFill core tile) s = .next t ∧
         (t.core core).penTiles.get? tile = some y ∧ y.st = 2 ∧ y.fault = some 1) ∧
       (∀ net, penNet (BitVec.ofNat 512 d) = some net → 2 ≤ (s.core core).haspFree.length →
         ∃ t y p, exec (.penSlotFill core tile) s = .next t ∧ t.groups = s.groups ∧ (t.core core).penTiles.get? tile = some y ∧
           y.st = 2 ∧ y.slot = k ∧ (t.core core).penSlots.get? k = some p ∧ p.handle = x.handle ∧ p.asid = cx.asid ∧
           p.ready = false ∧ p.desc = BitVec.ofNat 512 d ∧ p.entries.length = 2)) ∧
     (∀ x cx p net img, (s.core core).penTiles.get? tile = some x → s.ctxs.get? x.ctx = some cx → x.st = 2 → x.fault = none →
       x.rows ≠ [] ∨ s.groupBusy core x.opener = false →
       (s.core core).penSlots.get? x.slot = some p → p.ready = false → penNet p.desc = some net →
       s.penRead core cx net.waddr net.wbytes = .ok img → s.penPoison core cx net.waddr net.wbytes = none →
       ((s.haspDrop core p.entries).penTake core cx net.waddr net.wbytes).1 = img →
       ∃ t p', exec (.penSlotFill core tile) s = .next t ∧ t.groups = s.groups ∧ (t.core core).penSlots.get? x.slot = some p' ∧
         p'.ready = true ∧ p'.entries = [] ∧ p'.image = (List.range net.wbytes).map (fun i => BitVec.ofNat 8 (img / 256 ^ i)) ∧
         ∀ i ∈ p.entries, (t.core core).hasp.has i = false) ∧
     (∀ x p net, (s.core core).penTiles.get? tile = some x → x.st = 2 → x.fault = none →
       (s.core core).penSlots.get? x.slot = some p → p.ready = true → penNet p.desc = some net →
       ∃ t, exec (.penTileScatter core tile) s = .next t ∧ (t.core core).penTiles.get? tile = none ∧
         (∀ r e, x.rows = [r] → r.bad = true → (s.core core).nevals.get? r.neval = some e → SameMem s t ∧
           (t.core core).nevals.get? r.neval = none ∧ ∀ h, s.hereOf e.frag = some h → h.gid = e.group →
             ∃ g, t.groups.get? e.group = some g ∧ g.frozen = true) ∧
         (∀ r e g, x.rows = [r] → r.bad = false → (s.core core).nevals.get? r.neval = some e →
           2 * e.nin ≠ net.inw ∨ (net.layers.getLast?.map PenLayer.outw).getD 0 ≠ e.nout → s.groups.get? e.group = some g → r.lane < 32 →
           (e.left &&& ~~~(BitVec.ofNat 32 (2 ^ r.lane)) ≠ 0 → SameMem s t ∧ ∃ g' e', t.groups.get? e.group = some g' ∧
             g'.penFault = g.penFault ||| BitVec.ofNat 32 (2 ^ r.lane) ∧ (t.core core).nevals.get? r.neval = some e' ∧
             e'.faulted = e.faulted ||| BitVec.ofNat 32 (2 ^ r.lane) ∧ e'.detail = (if e.faulted = 0 then 2 else min e.detail 2) ∧
             ∀ i, i < e.nout → g'.v.getD 0 (32 * (e.dst + i) + r.lane) = 0x7FC00000)) ∧
         ∀ r e g, x.rows = [r] → r.bad = false → (s.core core).nevals.get? r.neval = some e → 2 * e.nin = net.inw →
           (net.layers.getLast?.map PenLayer.outw).getD 0 = e.nout → s.groups.get? e.group = some g → r.lane < 32 →
           e.left &&& ~~~(BitVec.ofNat 32 (2 ^ r.lane)) ≠ 0 →
           SameMem s t ∧ ∃ g', t.groups.get? e.group = some g' ∧ g'.penFault = g.penFault ∧
             (∀ i y, (penEval net p.image.toArray r.inputs)[i]? = some y → g'.v.getD 0 (32 * (e.dst + i) + r.lane) = BitVec.ofNat 32 y) ∧
             ∀ k l, l < 32 → l ≠ r.lane → g'.v.getD 0 (32 * k + l) = g.v.getD 0 (32 * k + l)) ∧
     (∀ x d, (s.core core).penTiles.get? tile = some x → x.st = 2 → x.fault = some d →
       ∃ t, exec (.penTileScatter core tile) s = .next t ∧ (t.core core).penTiles.get? tile = none) ∧
     (∀ v : W32, ∃ t, exec (.registerWrite core v) s = .next t ∧ SameMem s t ∧ t.groups = s.groups ∧
       (t.core core).penPrio = BitVec.ofNat 2 (if v.toNat % 4 = 3 then 0 else v.toNat % 4)))

/-! ## Fold (spec/19) -/

/-- The Fold instructions over lanes (R345 to R359): with no active lane nothing happens; an address that names no object traps for
the active lanes; all but VPIN wait for the side log, and all for an earlier operation of the group on the Fold. The lanes run in
ascending order on a live Fold, with the operands that the instruction issued with, and their outputs are on their way to the
destination block; where no Fold lives every lane fails with DETAIL 1. Where a lane meets an unmapped page the
instruction waits with its operands kept, or that lane fails (log 20). VAPP on a closed Fold gives all ones, and of a root it writes the record at the next index and counts it; VCONN
gives weight, geometry factor and CSEQ, VRWGT weight and CSEQ, VLD .pos the position, and VPIN counts the generation's pins. An
index outside the Fold fails a weight with the lowest DETAIL. The generations of a Fold (R339, R340, R343, R357, R360). VGEN.open
opens the next generation at NEXT and publishes the census, and fails with DETAIL 6 on an open Fold or one with four; VGEN.close
closes the newest and retires what may be; .init makes a Fold of a free object, waiting with its operands kept while a core cannot
take its arena, and after the timeout fails; .free unmakes it. A retired generation has no pins. -/
def Obligations.Folds : Prop :=
  (∀ (s : State) (h₀ : Here) (w : EngW),
     let h := h₀.issued
     let va := (h.srcS w.a).toNat
     let key := objKey va
     let act := h.active w.g w.gn
     let dst : Nat := match w.dst with | .v r => r.val | _ => 0
     let f := s.foldAt key
     let rows : List (Instr × Nat × (Nat → State → FoldLane)) :=
       [(.vapp w, 1, vappLane w h key), (.vconn w, 3, weightLane w (immF w.imm 0 0) false h key), (.vmerge w, 3, weightLane w 2 true h key),
        (.vld w, vldCount (immF w.imm 3 0), vldLane w h key), (.vpinPin w, 0, vpinLane w false h key),
        (.vpinUnpin w, 0, vpinLane w true h key)]
     let forms : List Instr := rows.map (·.1) ++ [.vrwgt w]
     let clear (i : Instr) : Prop := i = .vpinPin w ∨ i = .vpinUnpin w ∨ s.sideBusy h = false
     (∀ i ∈ forms, Runs i h₀ s → (act = 0 → CompletesQuiet i h₀ s s noReg) ∧
       (∀ r, act ≠ 0 → s.foldTrap act va = some r → Traps i h₀ s r) ∧
       (act ≠ 0 → s.foldTrap act va = none → ¬ clear i ∨ s.foldQueued h key = true → Stalls i h₀ s)) ∧
     (∀ e ∈ rows, FoldRuns e.1 h₀ s w → clear e.1 → act ≠ 0 → s.folds.has key = true →
       (∀ (rs : List (Nat × List Nat)) (u : State),
         foldLanesGo e.2.2 true (lanesOf act) s = .ok (rs.map (fun x => (x.1, .ok x.2)), u) →
         ∃ t, exec e.1 s = .next t ∧ WentOn e.1 h₀ t ∧ t.mem = u.mem ∧ t.folds = u.folds ∧ RegFrame h₀ s t noReg ∧ t.ctxs = s.ctxs ∧
           (e.2.1 ≠ 0 → ∃ g id p, t.groups.get? h.gid = some g ∧ g.pend.get? id = some p ∧ p.ready = true ∧ p.report = none ∧
             p.vs = foldVals dst rs ∧ p.regs = (List.range e.2.1).map fun i => .v (dst + i))) ∧
       (∀ d, foldLanesGo e.2.2 true (lanesOf act) s = .error (.unmapped d) → ∃ t, exec e.1 s = .next t ∧
         (t = (s.takeFree.2.holdOps h key).modFrag h.fid (fun f => { f with stall := true }) ∨
          (∃ rs u, foldLanesGo e.2.2 false (lanesOf act) s.takeFree.2 = .ok (rs, u) ∧ WentOn e.1 h₀ t ∧ t.mem = u.mem ∧
            t.folds = u.folds ∧ RegFrame h₀ s t noReg) ∨ ∃ pa, t = s.freeze h₀ .uncorr none pa)) ∧
       (∀ pa, foldLanesGo e.2.2 true (lanesOf act) s = .error (.poison pa) → exec e.1 s = .next (s.freeze h₀ .uncorr none pa)))  ∧
     (FoldRuns (.vrwgt w) h₀ s w → clear (.vrwgt w) → act ≠ 0 → s.folds.has key = true → ∀ (rs : List (Nat × List Nat)) u,
       foldLanesGo (weightLane w (immF w.imm 1 0) false h key) true (lanesOf act) s = .ok (rs.map (fun x => (x.1, .ok x.2)), u) →
       ∃ t g id p, exec (.vrwgt w) s = .next t ∧ WentOn (.vrwgt w) h₀ t ∧ t.mem = u.mem ∧ t.folds = u.folds ∧
         RegFrame h₀ s t noReg ∧ t.ctxs = s.ctxs ∧ t.groups.get? h.gid = some g ∧ g.pend.get? id = some p ∧ p.report = none ∧
         p.vs = foldVals dst (rs.map fun x => (x.1, [x.2.getD 0 0, x.2.getD 2 0]))) ∧
     (∀ i ∈ forms, FoldRuns i h₀ s w → clear i → act ≠ 0 → s.folds.has key = false → ∃ t g id p r, exec i s = .next t ∧
       WentOn i h₀ t ∧ SameMem s t ∧ t.folds = s.folds ∧ t.groups.get? h.gid = some g ∧ g.pend.get? id = some p ∧
       p.report = some r ∧ r.cause = .fold ∧ r.detail = 1 ∧ r.lanes = act) ∧
     (∀ l, f.open_ = false → vappLane w h key l s = .ok ([0xFFFFFFFF], s)) ∧
     (∀ l u, f.open_ = true → f.next - f.base0 ≠ f.cap → f.next ≠ 0xFFFFFFFF → h.blk w.b 11 l = 0xFFFFFFFF →
       s.foldWrite h.core f f.next (foldRecord f (fun i => h.blk w.b i l) (w.imm.getLsbD 0) (w.imm.getLsbD 1) none none) = .ok u →
       vappLane w h key l s = .ok ([f.next], { u with folds := u.folds.set key { f with next := f.next + 1, hwm := f.next + 1 } })) ∧
     (∀ l z y zp yp u, s.foldOperands h.core f 0 (h.blk w.b 0 l) (h.blk w.b 1 l) = .ok (z, some y, zp, yp, u) →
       weightLane w 0 false h key l s = .ok ([f.connW y z yp zp ((List.range 4).map fun i => f32Rat (h.blk w.b (2 + i) l)),
         geomFactor y z, f.cseq.toNat], u)) ∧
     (∀ l mode within d, f.checks (if mode = 1 then [h.blk w.b 0 l] else [h.blk w.b 0 l, h.blk w.b 1 l]) = some d →
       weightLane w mode within h key l s = .error (.fail d, s)) ∧
     (∀ l v u, immF w.imm 3 0 = 0 → f.check (h.blk w.b 0 l) = none → s.foldRead h.core f (h.blk w.b 0 l) = .ok (v, u) →
       vldLane w h key l s = .ok ([v.w 0, v.w 1, v.w 2], u)) ∧
     (∀ l g, f.check (h.blk w.b 0 l) = none → f.gens[f.genAt (h.blk w.b 0 l)]? = some g →
       (g.pins = 65535 → vpinLane w false h key l s = .error (.fail 5, s)) ∧
       (g.pins = 0 → vpinLane w true h key l s = .error (.fail 5, s)) ∧
       (g.pins < 65535 → ∃ t f', vpinLane w false h key l s = .ok ([], t) ∧ t.folds.get? key = some f' ∧ f'.next = f.next ∧
         f'.gens[f.genAt (h.blk w.b 0 l)]? = some { g with pins := g.pins + 1 }))) ∧
  (∀ (s : State) (h : Here) (w : EngW),
     let va := (h.issued.srcS w.a).toNat
     let key := objKey va
     let sb := (h.issued.srcS w.b).toNat
     let sc := (h.issued.srcS w.c).toNat
     let cap := sc % 2 ^ 32
     let published (f f' : Fold) : Prop := f'.nl = BitVec.ofNat 32 sb ∧ f'.ne = BitVec.ofNat 32 (sb / 2 ^ 32) ∧
       f'.radius = BitVec.ofNat 32 sc ∧ f'.cseq = f.cseq + 1 ∧ f'.next = f.next ∧ f'.hwm = f.hwm
     (∀ i ∈ [Instr.vgenOpen w, .vgenClose w, .vgenOpenInit w, .vgenCloseFree w], Runs i h s →
       (∀ r, s.foldTrap h.f.mask va = some r → Traps i h s r) ∧
       (s.foldTrap h.f.mask va = none → s.foldQueued h.issued key = true → Stalls i h s)) ∧
     (∀ i ∈ [Instr.vgenOpen w, .vgenClose w, .vgenCloseFree w], FoldRuns i h s w → s.folds.get? key = none → GenFails i h s w 1) ∧
     (∀ f, s.folds.get? key = some f →
       (FoldRuns (.vgenOpen w) h s w →
         (f.open_ = true ∨ f.gens.length = 4 → GenFails (.vgenOpen w) h s w 6) ∧
         (f.open_ = false → f.gens.length ≠ 4 → badRadius cap = true → GenFails (.vgenOpen w) h s w 7) ∧
         (f.open_ = false → f.gens.length ≠ 4 → badRadius cap = false → ∃ u f', Succeeds (.vgenOpen w) h s u w.dst ∧
           u.folds.get? key = some f' ∧ published f f' ∧ f'.open_ = true ∧ f'.gen = (f.gen + 1) % 65536 ∧
           f'.gens = f.gens ++ [{ num := (f.gen + 1) % 65536, base := BitVec.ofNat 32 f.next }])) ∧
       (FoldRuns (.vgenClose w) h s w →
         (f.open_ = false → GenFails (.vgenClose w) h s w 6) ∧
         (f.open_ = true → badRadius cap = true → GenFails (.vgenClose w) h s w 7) ∧
         (f.open_ = true → badRadius cap = false → ∃ u f', Succeeds (.vgenClose w) h s u w.dst ∧ u.folds.get? key = some f' ∧
           published f f' ∧ f'.open_ = false ∧ f'.gen = f.gen ∧
           ∀ gs g, f.gens = gs ++ [g] → f'.gens = retireGens (gs ++ [{ g with closed := true }]))) ∧
       (FoldRuns (.vgenCloseFree w) h s w →
         (f.open_ = true ∨ (∃ g ∈ f.gens, g.pins ≠ 0) → GenFails (.vgenCloseFree w) h s w 6) ∧
         (f.open_ = false → (∀ g ∈ f.gens, g.pins = 0) → ∃ u, Succeeds (.vgenCloseFree w) h s u w.dst ∧
           u.folds.get? key = none ∧ u.objs.get? key = none))) ∧
     (FoldRuns (.vgenOpenInit w) h s w →
       (s.objs.has key = true ∨ 4 ≤ (s.foldsOf h.t.ctx).length → GenFails (.vgenOpenInit w) h s w 6) ∧
       (s.objs.has key = false → (s.foldsOf h.t.ctx).length < 4 →
         (cap < 32 ∨ 2 ^ 26 < cap ∨ sb % 128 ≠ 0 ∨ s.arenaOutside h.core h.cx sb (64 * cap) = true →
           GenFails (.vgenOpenInit w) h s w 7) ∧
         (32 ≤ cap → cap ≤ 2 ^ 26 → sb % 128 = 0 → s.arenaOutside h.core h.cx sb (64 * cap) = false →
           ((∃ c ∈ s.coresOf h.t.ctx, 32 ≤ s.arenasWith c h.t.ctx) →
             Parks (.vgenOpenInit w) h s (s.holdOps h.issued key) .foldInit) ∧
           ((∀ c ∈ s.coresOf h.t.ctx, s.arenasWith c h.t.ctx < 32) → ∃ u f, Succeeds (.vgenOpenInit w) h s u w.dst ∧
             (u.objs.get? key).map Obj.kind = some .fold ∧ u.folds.get? key = some f ∧ f.ctx = h.t.ctx ∧ f.arena = sb ∧ f.cap = cap ∧
             f.beta = sc.testBit 32 ∧ f.open_ = false ∧ f.gens = [] ∧ f.next = 0))))) ∧
  (∀ (s : State) (fid : Nat) (h : Here) (w : EngW), s.hereOf fid = some h → h.f.st = .parked .foldInit →
     s.parkedAt fid = some (.vgenOpenInit w) →
     (s.foldInitReady fid = true → exec (.foldInitTimeout fid) s = .next (s.resume fid)) ∧
     (s.foldInitReady fid = false → w.dst.isC = true → ∃ t, exec (.foldInitTimeout fid) s = .next t ∧ Answered s t fid true) ∧
     (s.foldInitReady fid = false → w.dst.isC = false → exec (.foldInitTimeout fid) s = .next (s.takeTrap h
       { cause := .fold, detail := 6, lanes := h.f.mask.toNat, addr := (h.issued.srcS w.a).toNat }))) ∧
  (∀ gens : List FoldGen, ∃ k, retireGens gens = gens.drop k ∧ ∀ g ∈ gens.take k, g.pins = 0)

/-! ## The traversal unit and texture (spec/16, spec/17, spec/21) -/

/-- TRACE and TQRY (R305, R308). Without a lane they do nothing; without the team's spill area they trap as TRAV with DETAIL 0 for
the active lanes; they wait for the side log and for slots. With a slot for every lane each lane has a new ray or query with its
registers' values, what it had before being abandoned, and a TRACE's destination block is on its way. TRRES, TQNEXT and TRSTAT
(R298, R307, R309, R310): TRRES and TQNEXT wait for the side log and for room for what they reload, and then go on, their
destination block on its way, with memory as it was when nothing is reloaded; of one lane, a waiting ray takes up the walk again,
its candidate committed, with the lane's t for a box, or dropped as the instruction says, and a query waits for the instruction's
results; a spill record that holds poison takes the group to the freeze path. TRSTAT reads the unit's counts. -/
def Obligations.Traversal : Prop :=
  (∀ (s : State) (h : Here) (w : EngW),
     let act := h.active w.g w.gn
     let u := s.abandon h.gid act
     let room := (u.core h.core).rays.length + (lanesOf act).length ≤ 256
     let started (i : Instr) (ra : Fin 256) (t : State) (query : Bool) : Prop :=
       WentOn i h t ∧ RegFrame h s t noReg ∧ t.mem = u.mem ∧ t.hostMem = u.hostMem ∧ t.accs = s.accs ∧
       ∀ l ∈ lanesOf act, ∃ k r, (t.core h.core).rays.get? k = some r ∧ k < 256 ∧ r.query = query ∧ r.group = h.gid ∧ r.lane = l ∧
         r.phase = 0 ∧ r.started = false ∧ r.root = (h.srcS w.b).toNat ∧ r.flags = w.imm.truncate 12 ∧
         r.frame.o = [h.vreg ra.val l, h.vreg (ra.val + 1) l, h.vreg (ra.val + 2) l] ∧
         (query = false → r.tmin = h.vreg (ra.val + 3) l ∧ r.tmax = h.vreg (ra.val + 7) l ∧
           r.frame.d = [h.vreg (ra.val + 4) l, h.vreg (ra.val + 5) l, h.vreg (ra.val + 6) l]) ∧
         (query = true → r.tmax = h.vreg (ra.val + 3) l ∧ r.lo = h.vreg (ra.val + 4) l ∧ r.hi = h.vreg (ra.val + 5) l)
     (∀ i ∈ [Instr.trace w, .tqry w], Runs i h s →
       (act = 0 → CompletesQuiet i h s s noReg) ∧
       (act ≠ 0 → h.t.tspl = false → Traps i h s { cause := .trav, lanes := act.toNat }) ∧
       (act ≠ 0 → h.t.tspl = true → s.sideBusy h = true → Stalls i h s)) ∧
     (∀ rd ra : Fin 256, act ≠ 0 → h.t.tspl = true → s.sideBusy h = false → w.a = .v ra →
       (Runs (.trace w) h s → w.dst = .v rd → room → ∃ t g, exec (.trace w) s = .next t ∧ started (.trace w) ra t false ∧
         t.groups.get? h.gid = some g ∧ ∀ i, i < 8 → g.outstanding (.v (rd.val + i)) = true) ∧
       (Runs (.trace w) h s → w.dst = .v rd → ¬ room → Stalls (.trace w) h s) ∧
       (Runs (.tqry w) h s → room → ∃ t, exec (.tqry w) s = .next t ∧ started (.tqry w) ra t true) ∧
       (Runs (.tqry w) h s → ¬ room → Stalls (.tqry w) h s))) ∧
  ((∀ (s : State) (h : Here) (w : EngW) (rd : Fin 256),
     let act := h.active w.g w.gn
     let n := immF w.imm 2 0 + 1
     let id := (s.core h.core).nextId
     let rows : List (Instr × Nat) := [(.trresAccept w, 0), (.trresReject w, 1), (.trresCommit w, 2)]
     let goes (i : Instr) (query : Bool) (regs : Nat) : Prop :=
       let room := (s.core h.core).rays.length + (s.reloads h query (lanesOf act)).length ≤ 256
       let recs := (s.reloads h query (lanesOf act)).map fun l => h.g.spillVA.toNat + 256 * l
       (s.sideBusy h = true ∨ ¬ room → Stalls i h s) ∧
       (s.sideBusy h = false → room → (∃ a ∈ recs, s.vPoison h.core h.cx a 256 .read = true) →
         exec i s = .next (s.freeze h .uncorr none ((recs.findSome? fun a => s.poisonAt h.core h.cx a 256 .read).getD 0))) ∧
       (s.sideBusy h = false → room → (∀ a ∈ recs, s.vPoison h.core h.cx a 256 .read = false) → ∃ t g, exec i s = .next t ∧ WentOn i h t ∧
         RegFrame h s t noReg ∧ (s.reloads h query (lanesOf act) = [] → SameMem s t) ∧
         t.groups.get? h.gid = some g ∧ ∀ i, i < regs → g.outstanding (.v (rd.val + i)) = true)
     w.dst = .v rd →
     (∀ e ∈ rows, Runs e.1 h s → (act = 0 → CompletesQuiet e.1 h s s noReg) ∧
       (act ≠ 0 → goes e.1 false 8) ∧
       (∀ l k r, l < 32 → act = BitVec.ofNat 32 (2 ^ l) → s.sideBusy h = false → s.spilled.get? (32 * h.gid + l) = none →
         (s.core h.core).rays.length ≤ 256 → (s.core h.core).rayOf h.gid l = some (k, r) → r.query = false → r.phase = 1 →
         ∃ t, exec e.1 s = .next t ∧ SameMem s t ∧ (t.core h.core).rays.get? k = some (r.resolve
           { cmd := id, fn := e.2, t := if w.a.isZr then none else some (BitVec.ofNat 32 (h.src32 w.a 0 l)) }))) ∧
     (Runs (.tqnext w) h s → (act = 0 → CompletesQuiet (.tqnext w) h s s noReg) ∧
       (act ≠ 0 → goes (.tqnext w) true (1 + 2 * n)) ∧
       (∀ l k r, l < 32 → act = BitVec.ofNat 32 (2 ^ l) → s.sideBusy h = false → s.spilled.get? (32 * h.gid + l) = none →
         (s.core h.core).rays.length ≤ 256 → (s.core h.core).rayOf h.gid l = some (k, r) → r.query = true →
         ∃ t, exec (.tqnext w) s = .next t ∧ SameMem s t ∧ (t.core h.core).rays.get? k =
           some { r with waiting := r.waiting ++ [{ cmd := id, n := n }], phase := 0 }))) ∧
   (∀ (s : State) (h : Here) (w : EngW), Runs (.trstat w) h s →
     let sel := immF w.imm 7 0
     let value : Nat := if sel = 0 then 256 - (s.core h.core).rays.length
       else if sel = 1 then ((List.range 32).filter fun l => s.rayState h l != 0).length
       else (h.g.travCtr.getD 0 sel).toNat
     (w.dst.isS = true → sel = 8 → Traps (.trstat w) h s { cause := .ri, detail := 4, lanes := h.f.mask.toNat }) ∧
     (w.dst.isS = true → sel ≠ 8 →
       CompletesQuiet (.trstat w) h s (s.writeS h w.dst w.ws (BitVec.ofNat 64 value)) (dstRegs w.dst false)) ∧
     (w.dst.isS = false → CompletesQuiet (.trstat w) h s (s.writeVec h w.dst w.ws false (h.active w.g w.gn) fun l =>
       if sel = 8 then s.rayState h l else value) (dstRegs w.dst false))) ∧
   (∀ (r : Ray) (c : RHit) (w : RWait), r.cand = some c → c.kind ≠ 2 →
     (w.fn = 1 → (r.resolve w).best = r.best ∧ (r.resolve w).out = r.out) ∧
     (w.fn = 0 → (r.resolve w).best = (if r.acceptable c.t then some c else r.best) ∧ (r.resolve w).out = r.out) ∧
     (w.fn = 2 → (r.resolve w).out = some (if r.acceptable c.t ∨ r.best.isSome then .hit else .miss)) ∧
     (r.resolve w).phase = 0 ∧ (r.resolve w).cand = none) ∧
   (∀ (r : Ray) (c : RHit) (w : RWait) (x : W32) (t : XR), r.cand = some c → c.kind = 2 → w.fn = 0 → w.t = some x →
     f32XR x.toNat = some t → (r.resolve w).best = if r.acceptable t then some { c with t := t } else r.best))

/-- The walk and its deliveries (R289, R294, R296, R297, R300, R301, R306, R309, R310). A walk starts at the root of valid inputs
and ends with an error otherwise; a node's boxes are tested together, 8 being counted; where nothing is left the ray hits or
misses, and where children have been dropped it re-descends, each box node on the path being fetched and checked again; that such a
fetch counts 8 again is the model's choice (log 29). A page
that is not mapped parks the fetch, and one without read permission ends the walk. A final record frees the slot, a candidate
waits for the lane. A ray that waits is spilled when its time is over; a fetch's page that Shento maps lets the walk go on, and
one that it cannot map ends it. A point that the triangle test gives lies on the ray and in the triangle's plane. -/
def Obligations.RayEvents : Prop :=
  (∀ (s : State) (core ray : Nat) (r : Ray) (g : Group) (tm : Team) (cx : Ctx), (s.core core).rays.get? ray = some r →
    s.groups.get? r.group = some g → s.teams.get? g.team = some tm → s.ctxs.get? tm.ctx = some cx → r.walks = true →
    let walked (r' : Ray) : Prop := ∃ t, exec (.rayWalk core ray) s = .next t ∧ SameMem s t ∧ (t.core core).rays.get? ray = some r'
    (∀ d a, r.started = false → r.inputs = some (d, a) → walked ({ r with started := true }.fail d a)) ∧
    (r.started = false → r.inputs = none → ∃ r', walked r' ∧ r'.started = true ∧ r'.best = r.best ∧ ∃ it, r'.cur = some it ∧
      it.kind = 1 ∧ it.addr = r.root ∧ it.level = 0) ∧
    (r.started = true → r.redo = [] → r.cur = none → r.stack = [] → r.query = false → walked r.finish) ∧
    (r.started = true → r.redo = [] → r.cur = none → r.stack = [] → r.query = true → walked { r with ended := true }) ∧
    (r.started = true → r.redo = [] → r.cur = none → r.stack ≠ [] → r.live = 0 → walked r.restart) ∧
    (∀ a rest x u, r.started = true → r.redo = a :: rest → s.rayFetch core cx a 128 = .ok x u →
      ∃ t g', exec (.rayWalk core ray) s = .next t ∧ t.mem = u.mem ∧
        (t.core core).rays.get? ray = some (r.redoNode (r.shallowest - rest.length) a x rest) ∧
        (nodeFields x = none → (t.core core).rays.get? ray = some (r.fail 2 a)) ∧ t.groups.get? r.group = some g' ∧ g'.travCtr.getD 0 2 = g.travCtr.getD 0 2 + 8) ∧
    (∀ it, r.started = true → r.redo = [] → r.cur = some it → it.kind = 1 →
      (20 < it.level → walked (r.fail 3 it.addr)) ∧
      (it.level ≤ 20 →
        (∀ x u, s.rayFetch core cx it.addr 128 = .ok x u → ∃ t g', exec (.rayWalk core ray) s = .next t ∧ t.mem = u.mem ∧
          (t.core core).rays.get? ray = some ({ r with nodes := r.nodes.set it.level it.addr }.node it x) ∧
          t.groups.get? r.group = some g' ∧ g'.travCtr.getD 0 2 = g.travCtr.getD 0 2 + 8) ∧
        (∀ a, s.rayFetch core cx it.addr 128 = .unmapped a → walked { r with parked := some a }) ∧
        (∀ a, s.rayFetch core cx it.addr 128 = .noread a → walked (r.fail 6 it.addr))))) ∧
  (∀ (s : State) (core ray : Nat) (r : Ray) (c : TravCmd) (g : Group) (p : Pend), (s.core core).rays.get? ray = some r →
    r.waiting = [] → (s.core core).travCmds.get? r.cmd = some c → s.groups.get? c.group = some g → g.pend.get? c.pend = some p →
    let delivered (t : State) (ws : List W32) : Prop := SameMem s t ∧ ∃ g' p', t.groups.get? c.group = some g' ∧
      g'.pend.get? c.pend = some p' ∧ p'.vs = p.vs ++ ws.zipIdx.map (fun x => (32 * (c.dst + x.2) + r.lane, x.1)) ∧ g'.v = g.v
    (∀ b, r.out = some .hit → r.best = some b → ∃ t, exec (.rayDeliver core ray) s = .next t ∧ delivered t (hitWords b true) ∧
      (t.core core).rays.get? ray = none) ∧
    (r.out = some .miss → ∃ t, exec (.rayDeliver core ray) s = .next t ∧ delivered t (endWords r.tmax 0 0) ∧
      (t.core core).rays.get? ray = none) ∧
    (∀ d a, r.out = some (.error d a) → ∃ t, exec (.rayDeliver core ray) s = .next t ∧ delivered t (endWords r.tmax 3 d) ∧
      (t.core core).rays.get? ray = none) ∧
    (∀ b, r.out = some (.shader b) → ∃ t, exec (.rayDeliver core ray) s = .next t ∧ delivered t (hitWords b false) ∧
      (t.core core).rays.get? ray = some { r with out := none, phase := 1 })) ∧
  (∀ (s : State) (core ray : Nat) (r : Ray), (s.core core).rays.get? ray = some r →
    (∀ w rest, r.query = true → r.waiting = w :: rest → r.canServe = true → r.ended = false ∨ w.n < r.results.length →
      ∃ t, exec (.queryResultsReady core ray) s = .next t ∧ (t.core core).rays.get? ray =
        some { r with results := r.results.drop w.n, waiting := rest, phase := 0 }) ∧
    (∀ w, r.query = true → r.waiting = [w] → r.ended = true → r.results.length ≤ w.n →
      ∃ t, exec (.queryResultsReady core ray) s = .next t ∧ (t.core core).rays.get? ray = none) ∧
    (r.phase ≠ 0 → ∃ t, exec (.raySpillTimeout core ray) s = .next t ∧ (t.core core).rays.get? ray = none ∧
      t.spilled.has (32 * r.group + r.lane) = true) ∧
    (∀ a map, r.parked = some a →
      (map = [] → ∃ t, exec (.rayFetchXlateService core ray map) s = .next t ∧ SameMem s t ∧
        (t.core core).rays.get? ray = some ({ r with parked := none }.fail 5 r.record)) ∧
      (map ≠ [] → ∃ t, exec (.rayFetchXlateService core ray map) s = .next t ∧ t.mem = (s.applyMap map).mem ∧
        (t.core core).rays.get? ray = some { r with parked := none }))) ∧
  (∀ (o d a b c : Nat → Rat) (t u v : Rat) (front : Bool), let l (f : Nat → Rat) : List Rat := [f 0, f 1, f 2]
    triHit (l o) (l d) (l a) (l b) (l c) = some (t, u, v, front) → 0 ≤ u ∧ 0 ≤ v ∧ u + v ≤ 1 ∧
      ∀ i, i < 3 → o i + t * d i = a i + u * (b i - a i) + v * (c i - a i))

/-- Texture loads (R372 to R377). TEXS, TEXL and TEXQ wait for the side log. TEXS and TEXL read their descriptors and each lane's
texels, all as loads of the group, and deliver four channels; a malformed descriptor gives the canonical NaN in all four and a
texel outside the level four zeros; TEXQ gives the level's size, and traps where its descriptor cannot be read. The weights of a
level's texels add up to 1, and every texel lies inside the level. -/
def Obligations.Texture : Prop :=
  (∀ (s : State) (h : Here) (w : EngW),
    let va := (h.srcS w.a).toNat
    let ls := lanesOf (h.active w.g w.gn)
    let ok (e : Nat × Nat) : Prop := s.laneGlobal h e.1 e.2 .read = none ∧ s.vPoison h.core h.cx e.1 e.2 .read = false
    let runs (i : Instr) (ds : List (Nat × Nat)) (plan : State → Nat → Option TexPlan) : Prop :=
      let all := if ls = [] then [] else ds ++ ls.flatMap fun l => ((plan s l).map TexPlan.loads).getD []
      let u := all.foldl (fun s e => s.touch h.core h.cx e.1 false) s
      (∀ e ∈ all, ok e) → ∃ t g g', Marked i h s t false (all.map (·.1)) ∧ t.groups.get? h.gid = some g ∧
        (s.deliver h w.dst .w16 (ls.map fun l => (l, match plan u l with
          | some p => pack128 (u.texValue h p (s.free + 4 * l))
          | none => 0))).groups.get? h.gid = some g' ∧ g.pend = g'.pend
    (∀ i ∈ [Instr.texs w, .texl w, .texq w], Runs i h s → s.sideBusy h = true → Stalls i h s) ∧
    (s.sideBusy h = false →
      (Runs (.texs w) h s → runs (.texs w) [(va, 32), ((h.srcS w.c).toNat, 16)] fun s l => some (s.texsPlan h w l)) ∧
      (Runs (.texl w) h s → runs (.texl w) [(va, 32)] fun s l => s.texlPlan h w l) ∧
      (Runs (.texq w) h s → ok (va, 32) → ∃ t, exec (.texq w) s = .next t ∧ WentOn (.texq w) h t ∧
        Stored s t (s.accMarks h false [va]) ∧ RegFrame h s t (dstRegs w.dst false) ∧ t.ctxs = s.ctxs ∧ t.accs = s.accs ∧
        (∀ d, w.dst = .s d → w.ws = false → ∃ g, t.groups.get? h.gid = some g ∧ g.s.getD 0 d.val = BitVec.ofNat 64
          (texqValue (texDesc ((s.touch h.core h.cx va false).vload h.core h.cx va 32)) (w.imm.toNat % 16)))) ∧
      (∀ r, Runs (.texq w) h s → pickTrap (((s.laneGlobal h va 32 .read).map fun t => (0, t)).toList) = some r →
        Traps (.texq w) h s { r with lanes := h.f.mask.toNat })) ∧
    (texDesc (s.vload h.core h.cx va 32) = none → ∀ l n, s.texValue h (s.texsPlan h w l) n = List.replicate 4 0x7FC00000) ∧
    (∀ l t r, texDesc (s.vload h.core h.cx va 32) = some t → w.b = .v r →
      let c (i : Nat) : Nat := (h.vreg (r.val + i) l).toNat
      (t.levels < c 2 ∨ levelDim t.w (c 2) ≤ c 0 ∨ levelDim t.h (c 2) ≤ c 1 → s.texlPlan h w l = none) ∧
      (c 2 ≤ t.levels → c 0 < levelDim t.w (c 2) → c 1 < levelDim t.h (c 2) →
        s.texlPlan h w l = some (.taps t [(1, c 2, c 0, c 1)])))) ∧
  (∀ (t : TexDesc) (sm : Sampler) (bil : Bool) (m : Nat) (u v : Rat), ((levelTaps t sm bil m u v).map (·.1)).sum = 1 ∧
    ∀ e ∈ levelTaps t sm bil m u v, 0 ≤ e.1 ∧ e.2.1 = m ∧ e.2.2.1 < levelDim t.w m ∧ e.2.2.2 < levelDim t.h m)

/-! ## The tile engine and the splat unit (spec/21) -/

/-- Submissions (R367, R368, R374, R376, R378). TLSUB, TLFLUSH and SPSUB wait for the side log, read their descriptor and render
target as loads, trap as LAUNCH with DETAIL 12 on a malformed one, wait while the queue is full, and with room in the queue and
the Hasp table join it, TLFLUSH with every tile. FOUT records the colours of a fragment group's lanes and traps as PROT in any other team. -/
def Obligations.TileSubmissions : Prop :=
  ∀ (s : State) (h : Here) (w : EngW),
    let act := h.active w.g w.gn
    let die := dieOf h.core
    let e := s.tileEng die
    let va := (h.srcS w.a).toNat
    let s1 := s.touch h.core h.cx va false
    let d := s1.vload h.core h.cx va 64 % 2 ^ 512
    let ok (u : State) (a : Nat) : Prop := u.laneGlobal h a 64 .read = none ∧ s.vPoison h.core h.cx a 64 .read = false
    let tx := h.src32 w.b 0 0 % 65536
    let ty := h.src32 w.b 0 0 / 65536
    let gw := bitsN d 135 128 + 1
    let gh := bitsN d 143 136 + 1
    let joins (i : Instr) (kind ra : Nat) (tiles : List Nat) : Prop :=
      let s2 := s1.touch h.core h.cx ra false
      let rtd := s2.vload h.core h.cx ra 64 % 2 ^ 512
      ok s1 ra → (rtdBad rtd = true →
        Traps i h s { cause := .launch, detail := 12, lanes := h.f.mask.toNat, addr := ra % 2 ^ 56 }) ∧
      (rtdBad rtd = false → s2.stampTrap h (h.stampPair w.c).1.toNat = none →
      (∀ b : Submission, b.kind = kind → b.bsd = BitVec.ofNat 512 d → b.rtd = BitVec.ofNat 512 rtd → b.tiles = tiles →
        ∀ r ∈ b.ranges, meetsAperture r.1 r.2.1 = false) →
      let queued := (e.subs.filter fun x => !e.stopped.contains x.2.ctx).length
      (64 ≤ queued → Stalls i h s) ∧ (queued < 64 → 6 ≤ (s.core h.core).haspFree.length →
      ∃ t b, Marked i h s t false [va, ra] ∧ (t.tileEng die).subs.get? e.nextSub = some b ∧ (t.tileEng die).nextSub = e.nextSub + 1 ∧
        b.kind = kind ∧ b.group = h.gid ∧ b.ctx = h.t.ctx ∧ b.bsd = BitVec.ofNat 512 d ∧ b.rtd = BitVec.ofNat 512 rtd ∧
        b.tiles = tiles ∧ b.done = false ∧ b.addr = (h.stampPair w.c).1 ∧ b.value = (h.stampPair w.c).2 ∧
        ∀ k ∈ b.entries, (t.core h.core).hasp.has k = true))
    let malformed : RecInfo := { cause := .launch, detail := 12, lanes := h.f.mask.toNat, addr := va % 2 ^ 56 }
    (∀ i ∈ [Instr.tlsub w, .tlflush w, .spsub w], Runs i h s → s.sideBusy h = true → Stalls i h s) ∧
    (s.sideBusy h = false → ok s va →
      (∀ i ∈ [Instr.tlsub w, .tlflush w], Runs i h s → bsdBad d = true → Traps i h s malformed) ∧
      (Runs (.tlsub w) h s → bsdBad d = false → gw ≤ tx ∨ gh ≤ ty → Traps (.tlsub w) h s malformed) ∧
      (Runs (.tlsub w) h s → bsdBad d = false → tx < gw → ty < gh → joins (.tlsub w) 0 (bitsN d 55 0) [ty * gw + tx]) ∧
      (Runs (.tlflush w) h s → bsdBad d = false → joins (.tlflush w) 1 (bitsN d 55 0) (List.range (gw * gh))) ∧
      (Runs (.spsub w) h s → splatBad d = true → Traps (.spsub w) h s malformed) ∧
      (Runs (.spsub w) h s → splatBad d = false → joins (.spsub w) 2 (bitsN d 151 96) [])) ∧
    (Runs (.fout w) h s → act = 0 → CompletesQuiet (.fout w) h s s noReg) ∧
    (Runs (.fout w) h s → act ≠ 0 → h.t.fragTeam = false →
      Traps (.fout w) h s { cause := .prot, lanes := act.toNat, info := 4 }) ∧
    (∀ r : Fin 256, Runs (.fout w) h s → act ≠ 0 → h.t.fragTeam = true → w.a = .v r → ∃ u g, CompletesQuiet (.fout w) h s u noReg ∧
      u.groups.get? h.gid = some g ∧ ∀ l, l < 32 → g.colour.get? l =
        if act.getLsbD l then some [h.vreg r.val l, h.vreg (r.val + 1) l, h.vreg (r.val + 2) l, h.vreg (r.val + 3) l]
        else h.g.colour.get? l)

/-- Rasterising (R362 to R365). The engine takes the next tile of its first unfinished submission whose ranges are registered, or
the submission waits for a page; a covered centre lies in the tile's columns and rows and inside the triangle. Of the fragment groups that wait for a core which can hold them the first that no launch comes before there
(spec/18 R327) starts as a team of one group, with its primitive and its fragments' values in registers. That a parked tile starts its
event again, with nothing written, is the model's choice (log 29). Blending, completion,
splats and draw pre-emption (R366, R368 to R371, R374, R375). A contribution that may be blended, and that no draw-level pre-emption holds, leaves the engine, a lane
without a colour changing no pixel; a page that Shento maps lets its submission go on, and one that it cannot map is skipped; a
submission whose pixels are written frees its Hasp entries and writes its stamp; the splat unit renders or waits for a page;
TMIN takes a number above 0 and at most 1; a draw-level pre-emption holds the current submission's context. -/
def Obligations.TileEngine : Prop :=
  ((∀ (s : State) (die k : Nat) (b : Submission), (s.tileEng die).current = some (k, b) → b.kind ≠ 2 → b.parked = none → b.locked = true →
     (b.tiles = [] → ∃ t, exec (.tileRasterise die) s = .next t ∧ SameMem s t ∧
       (t.tileEng die).subs.get? k = some { b with done := true }) ∧
     (∀ tile rest, b.tiles = tile :: rest → ∃ t b', exec (.tileRasterise die) s = .next t ∧
       (t.tileEng die).subs.get? k = some b' ∧ b'.bsd = b.bsd ∧
       ((b'.parked = none ∧ b'.tiles = rest ∧ b'.done = rest.isEmpty) ∨ (b'.parked.isSome = true ∧ b'.tiles = b.tiles ∧ SameMem s t)))) ∧
   (∀ (p : List Rat) (x0 nx y0 ny : Nat), ∀ c ∈ cover p x0 nx y0 ny, x0 ≤ c.x ∧ c.x < x0 + nx ∧ y0 ≤ c.y ∧ c.y < y0 + ny ∧
     0 ≤ c.b1 ∧ 0 ≤ c.b2 ∧ c.b1 + c.b2 ≤ 1) ∧
   (∀ (s : State) (core : Nat) (f : FragGroup) (b : Submission) (l : Launch), (f, b, l) ∈ s.fragWaits core →
     let e := s.tileEng (dieOf core)
     f ∈ e.groups ∧ e.subs.get? f.sub = some b ∧ e.heldSub f.sub = false ∧ s.launches.get? b.launch = some l ∧
     ((s.ctxs.get? b.ctx).map Ctx.st) = some 1 ∧ s.canHold core b.ctx 1 (bitsN f.draw.toNat 138 135 + 1) 0 0 0 true = true) ∧
   (∀ (s : State) (die core : Nat) (f : FragGroup) (b : Submission) (l : Launch),
     ((s.fragWaits core).find? fun x => !s.outranked x.2.2 core) = some (f, b, l) → dieOf core = die → core < 12 * s.rows →
     f.px.length ≤ 32 →
     ∃ t g, exec (.fragmentGroupDispatch die core) s = .next t ∧ SameMem s t ∧
       (t.tileEng die).groups = (s.tileEng die).groups.erase f ∧ t.groups.get? (32 * s.nextTeam) = some g ∧
       (t.teams.get? s.nextTeam).map Team.fragTeam = some true ∧ g.laneSet = BitVec.ofNat 32 (2 ^ f.px.length - 1) ∧
       g.s.getD 0 0 = BitVec.ofNat 64 f.prim ∧ g.s.getD 0 1 = f.user ∧
       (∀ i p, f.px[i]? = some p → g.v.getD 0 i = BitVec.ofNat 32 p.x ∧ g.v.getD 0 (32 + i) = BitVec.ofNat 32 p.y ∧
         g.v.getD 0 (64 + i) = p.b1 ∧ g.v.getD 0 (96 + i) = p.b2 ∧ g.v.getD 0 (128 + i) = p.z) ∧
       (t.launches.get? b.launch).map Launch.nextTeam = some (l.nextTeam + 1))) ∧
  (∀ (s : State) (die : Nat),
     let e := s.tileEng die
     (∀ k c, (e.contribs.find? fun x => !e.heldSub x.2.sub && s.blendable e x.1 x.2 && (((e.subs.get? x.2.sub).map fun b => b.parked.isNone && b.locked).getD true)) =
         some (k, c) →
       (c.colour = none → ∃ t, exec (.pixelBlend die) s = .next t ∧ SameMem s t ∧ (t.tileEng die).contribs.get? k = none) ∧
       (∀ b col old r, e.subs.get? c.sub = some b → c.colour = some col →
         Ras.read { s := s, b := b } (b.colourAt c.x c.y) (pixelBytes b.fmt) = (some old, r) →
         let r' := r.write (b.colourAt c.x c.y) (pixelBytes b.fmt)
           (pixelOut b.fmt old (blendChan c.blend (col.map fun (w : W32) => Fmt.f32.dec false w.toNat)))
         ∃ t, exec (.pixelBlend die) s = .next t ∧
           (r'.park = none → t.mem = r'.s.mem ∧ t.hostMem = r'.s.hostMem ∧ (t.tileEng die).contribs.get? k = none))) ∧
     (∀ k b a map, (e.subs.findSome? fun x => x.2.parked.map fun a => (x.1, x.2, a)) = some (k, b, a) →
       ∃ t b', exec (.tileEngineXlateService die map) s = .next t ∧ t.mem = (s.applyMap map).mem ∧
         (t.tileEng die).subs.get? k = some b' ∧ b'.parked = none ∧ b'.tiles = b.tiles ∧
         b'.skips = if map = [] then b.skips ++ [a / 2 ^ 18] else b.skips) ∧
     (∀ k b cx, e.completing = some (k, b) → b.kind ≠ 1 ∨ b.zeroed = true → b.bad = none → s.ctxs.get? b.ctx = some cx →
       s.stampFault b.core cx b.addr.toNat = none →
       ∃ t, exec (.submissionComplete die) s = .next t ∧ (t.tileEng die).subs.get? k = none ∧
         Stored s t (s.storeBytes b.core cx 8 [(b.addr.toNat, b.value.toNat)]) ∧
         ∀ i ∈ b.entries, (t.core b.core).hasp.has i = false) ∧
     (∀ k b cx, e.current = some (k, b) → b.kind = 2 → b.parked = none → b.locked = true → e.groups = [] → e.contribs = [] →
       s.ctxs.get? b.ctx = some cx → ∃ t b', exec (.splatRender die) s = .next t ∧ (t.tileEng die).subs.get? k = some b' ∧
         b'.bsd = b.bsd ∧ ((b'.done = true ∧ b'.parked = none) ∨ (b' = { b with parked := b'.parked } ∧ b'.parked.isSome = true ∧
           SameMem s t))) ∧
     (∀ ctx c v, s.ctxs.get? ctx = some c → ∃ t, exec (.splatTminWrite ctx v) s = .next t ∧ SameMem s t ∧
       t.ctxs.get? ctx = some { c with tmin := if (match f32Rat v.toNat with | some x => decide (0 < x ∧ x ≤ 1) | none => false)
         then v else 0x3B800000 }) ∧
     (∀ k b, e.current = some (k, b) → ∃ t, exec (.drawPreempt die) s = .next t ∧ SameMem s t ∧ t.groups = s.groups ∧
       b.ctx ∈ (t.tileEng die).stopped ∧ (t.tileEng die).subs = e.subs))

/-! ## Launches, tasks and work graphs (spec/18) -/

/-- LAUNCH and TASKPUB (R148, R320, R323, R329, R331, R334). A group that is not alone in its team's instruction traps as SPLIT.
The command is read as a load; one with another TYPE or a malformed field fails with DETAIL 3; the side log, a full queue or a
full store holds the instruction. A LAUNCH joins its context's queue under the name of its slot, and reads its range record as it
issues (log 45). A TASKPUB stores a task and arms its gate, which keeps the task while its count is above 0 and else launches it at
once; a gate that is armed fails with DETAIL 2, an object of another kind traps with DETAIL 1, and an address that names no object
traps as PROT. -/
def Obligations.LaunchCommands : Prop :=
  ∀ (s : State) (h : Here) (w : EngW),
    let va := (h.srcS w.a).toNat
    let c : BitVec 512 := BitVec.ofNat 512 ((s.touch h.core h.cx va false).vload h.core h.cx va 64)
    let gate := Cmd.gate c
    let key := objKey gate
    let both := [(Instr.launch w, 1), (.taskpub w, 2)]
    let good (n : Nat) : Prop := Cmd.ty c = n ∧ s.cmdBad c (n == 2) = false
    let ready : Prop := s.sideBusy h = false ∧ s.readable64 h va
    let room := s.queueRoom h.t.ctx ≠ 0
    let arms := ready ∧ good 2 ∧ room ∧ s.storeFull h.t.ctx = false ∧ s.objExists gate = true ∧
      s.syncBusy.getD 0 (bitsN gate 39 38) = 0 ∧ ((s.objs.get? key).map Obj.poisoned).getD false = false
    let made (t : State) (st : Nat) (l : Launch) : Prop := t.nextLaunch = s.nextLaunch + 1 ∧ t.launches.get? s.nextLaunch = some l ∧
      l.ctx = h.t.ctx ∧ l.cmd = c ∧ l.recVa = Cmd.rrec c ∧ l.st = st ∧ l.namePc = codePtr h.f.line h.f.slot ∧
      ∀ own, s.launches.get? h.t.launch = some own → l.nameSeq = (bumpName own.pcCount l.namePc).1
    let counts (n : Int) (sigs : W64) (sc : Nat) : Prop := (s.objs.get? key = none ∧ n = 0 ∧ sigs = 0 ∧ sc = 0) ∨
      ∃ x tk, s.objs.get? key = some x ∧ x.kind = .counter n false tk sigs sc
    (∀ e ∈ both, Runs e.1 h s → s.sole h = false → Traps e.1 h s h.splitTrap) ∧
    (∀ e ∈ both, RunsSole e.1 h s → s.sideBusy h = true → Stalls e.1 h s) ∧
    (∀ e ∈ both, RunsSole e.1 h s → ready → ¬ good e.2 →
      (w.dst.isC = true → ∃ t, Flagged e.1 h s t [va] w.dst true ∧ t.launches = s.launches) ∧
      (w.dst.isC = false → Traps e.1 h s
        { cause := .syncobj, detail := 3, lanes := h.f.mask.toNat, addr := va % 2 ^ 56 })) ∧
    (∀ e ∈ both, RunsSole e.1 h s → ready → good e.2 → ¬ room → Stalls e.1 h s) ∧
    (RunsSole (.launch w) h s → ready → good 1 → room → ∃ t l x, Gave (.launch w) h s t w.dst false ∧ made t 1 l ∧
      ReadRecord h s t [va] h.core (Cmd.rrec c) l ∧ t.ctxs.get? h.t.ctx = some x ∧ x.lq = h.cx.lq ++ [s.nextLaunch]) ∧
    (RunsSole (.taskpub w) h s → ready → good 2 → room → s.storeFull h.t.ctx = true → Stalls (.taskpub w) h s) ∧
    (RunsSole (.taskpub w) h s → ready → good 2 → room → s.storeFull h.t.ctx = false → s.objExists gate = false →
      Traps (.taskpub w) h s { cause := .prot, lanes := h.f.mask.toNat, addr := gate }) ∧
    (RunsSole (.taskpub w) h s → arms →
      (∀ n sigs sc, counts n sigs sc → 0 < n + Cmd.arm c → ∃ t l x o k, Flagged (.taskpub w) h s t [va] w.dst false ∧ made t 0 l ∧
        t.ctxs.get? h.t.ctx = some x ∧ x.tasks.get? k = some s.nextLaunch ∧ x.lq = h.cx.lq ∧ t.objs.get? key = some o ∧
        o.kind = .counter (n + Cmd.arm c) true (some s.nextLaunch) sigs sc) ∧
      (∀ n sigs sc, counts n sigs sc → n + Cmd.arm c = 0 → ∃ t l, Gave (.taskpub w) h s t w.dst false ∧ made t 1 l ∧
        ReadRecord h s t [va] devAgent (Cmd.rrec c) l ∧ t.objs.get? key = none) ∧
      (∀ o n tk sigs sc, s.objs.get? key = some o → o.kind = .counter n true tk sigs sc →
        (w.dst.isC = true → ∃ t, Flagged (.taskpub w) h s t [va] w.dst true ∧ t.launches = s.launches ∧ t.objs = s.objs) ∧
        (w.dst.isC = false → Traps (.taskpub w) h s
          { cause := .syncobj, detail := 2, lanes := h.f.mask.toNat, addr := gate % 2 ^ 56 })) ∧
      (∀ o, s.objs.get? key = some o → (∀ n a tk sigs sc, o.kind ≠ .counter n a tk sigs sc) → Traps (.taskpub w) h s
        { cause := .syncobj, detail := 1, lanes := h.f.mask.toNat, addr := gate % 2 ^ 56 }))

/-- Work graphs (R330, R335). RECALLOC allocates the node's lowest free records to the active lanes in ascending order, or, with
too few, none, and sets its flag; that one of an unknown node traps whatever its guard is the model's choice (log 30). RECEMIT waits for the side log and for room in the launch queue, and adds its lanes' records to
the open batch, a full batch joining the launch queue, which reads the range record of its launch (log 45); a record that is not allocated, or is emitted already, traps with DETAIL 7. A node's time-out launches its open batch. -/
def Obligations.WorkGraphs : Prop :=
  (∀ (s : State) (h : Here) (w : EngW),
    let node := (h.srcS w.a).toNat
    let ls := lanesOf (h.active w.g w.gn)
    let cn := w.imm.toNat % 8
    (Runs (.recalloc w) h s →
      (h.cx.nodes.get? node = none → Traps (.recalloc w) h s { cause := .syncobj, detail := 7, lanes := h.f.mask.toNat }) ∧
      (∀ d, h.cx.nodes.get? node = some d →
        let free := (List.range d.nrec).filter fun i => !d.alloc.contains i
        let got := if free.length < ls.length then [] else free.take ls.length
        ∃ t g x p, exec (.recalloc w) s = .next t ∧ WentOn (.recalloc w) h t ∧ SameMem s t ∧ t.accs = s.accs ∧
          RegFrame h s t noReg ∧ t.groups.get? h.gid = some g ∧ g.pend.get? h.g.nextPend = some p ∧ p.ready = true ∧
          p.cs = [(cn, decide (free.length < ls.length))] ∧ t.ctxs.get? h.t.ctx = some x ∧
          x.nodes.get? node = some { d with alloc := d.alloc ++ got } ∧
          ∀ (r : Fin 256) (k l i : Nat), w.dst = .v r → ls[k]? = some l → got[k]? = some i →
            (32 * r.val + l, BitVec.ofNat 32 (d.addr i)) ∈ p.vs ∧
            (32 * (r.val + 1) + l, BitVec.ofNat 32 (d.addr i / 2 ^ 32)) ∈ p.vs)) ∧
    (Runs (.recemit w) h s →
      (s.sideBusy h = true → Stalls (.recemit w) h s) ∧
      (∀ l, s.sideBusy h = false → ls = [l] →
        (h.cx.nodes.get? node = none ∨ ∃ d, h.cx.nodes.get? node = some d ∧
          ∀ i, d.index (h.src64 w.b 0 l) = some i → i ∉ d.alloc ∨ i ∈ d.emitted) →
        Traps (.recemit w) h s
          { cause := .syncobj, detail := 7, lanes := 2 ^ l, addr := h.src64 w.b 0 l % 2 ^ 56 }) ∧
      (∀ d ixs, s.sideBusy h = false → h.cx.nodes.get? node = some d →
        ls.map (fun l => d.index (h.src64 w.b 0 l)) = ixs.map some → ixs.Nodup → (∀ i ∈ ixs, i ∈ d.alloc ∧ i ∉ d.emitted) →
        d.batch.length < d.size →
        (s.queueRoom h.t.ctx < (d.batch.length + ixs.length) / d.size → Stalls (.recemit w) h s) ∧
        ((d.batch.length + ixs.length) / d.size ≤ s.queueRoom h.t.ctx → ∃ t x y, exec (.recemit w) s = .next t ∧
          WentOn (.recemit w) h t ∧ (d.batch.length + ixs.length < d.size → SameMem s t) ∧ t.groups.get? h.gid = (s.finish h (.recemit w)).groups.get? h.gid ∧
          t.ctxs.get? h.t.ctx = some x ∧ x.nodes.get? node = some y ∧ y.desc = d.desc ∧ y.alloc = d.alloc ∧
          y.emitted = d.emitted ++ ixs ∧ y.batch.length = (d.batch.length + ixs.length) % d.size ∧
          x.lq.length = h.cx.lq.length + (d.batch.length + ixs.length) / d.size ∧
          (d.batch.length + ixs.length < d.size → y.batch = d.batch ++ ixs) ∧
          (d.batch.length + ixs.length = d.size → ∃ l, t.launches.get? s.nextLaunch = some l ∧ l.st = 1 ∧
            l.ctx = h.t.ctx ∧ l.node = some node ∧ l.batch = d.batch ++ ixs ∧ l.nameSeq = d.seq + 1 ∧ y.seq = d.seq + 1))))) ∧
  (∀ (s : State) (ctx node : Nat) (c : Ctx) (d : GNode), s.ctxs.get? ctx = some c → c.nodes.get? node = some d →
    bitsN d.desc.toNat 127 96 ≠ 0 → s.queueRoom ctx ≠ 0 → d.batch ≠ [] →
    ∃ t l x, exec (.workgraphBatchTimeout ctx node) s = .next t ∧ t.groups = s.groups ∧
      (s.noRecord devAgent c (bitsN d.desc.toNat 55 0) → SameMem s t) ∧
      t.launches.get? s.nextLaunch = some l ∧ l.st = 1 ∧ l.ctx = ctx ∧ l.node = some node ∧ l.batch = d.batch ∧
      l.namePc = d.batchPc ∧ l.nameSeq = d.seq + 1 ∧ t.ctxs.get? ctx = some x ∧ x.lq = c.lq ++ [s.nextLaunch] ∧
      x.nodes.get? node = some { d with batch := [], seq := d.seq + 1 })

/-- SYSCALL (R337). Every service waits for the side log and parks its fragment until Shento answers, the service that creates a
node reading its descriptor as a load. That Shento reads it again and takes a service's effect when it answers (log 30), and that an
unreadable or poisoned descriptor fails with all ones (logs 30 and 19), are the model's choices. The answer is written to the destination, and the fragment goes on: a new node's number; 0 from a flush,
whose open batch launches, from the deletion of a node without records, and from a wake, which the conductor takes or the queue
of wakes keeps; all ones from a service that fails or is unassigned. -/
def Obligations.SystemCalls : Prop :=
  (∀ (s : State) (h : Here) (w : EngW),
    let plain := [Instr.syscallNodeFlush w, .syscallNodeDelete w, .syscallWake w, .syscallUnassigned w]
    (∀ i ∈ .syscallNodeCreate w :: plain, Runs i h s → s.sole h = false → Traps i h s h.splitTrap) ∧
    (∀ i ∈ .syscallNodeCreate w :: plain, RunsSole i h s → s.sideBusy h = true → Stalls i h s) ∧
    (∀ i ∈ plain, RunsSole i h s → s.sideBusy h = false → Parks i h s s (.syscall (h.srcS w.a))) ∧
    (RunsSole (.syscallNodeCreate w) h s → s.sideBusy h = false → s.readable64 h (h.srcS w.a).toNat → ∃ u,
      Parks (.syscallNodeCreate w) h s u (.syscall (h.srcS w.a)) ∧ u.groups = s.groups ∧ u.ctxs = s.ctxs ∧
      Stored s u (s.accMarks h false [(h.srcS w.a).toNat]))) ∧
  (∀ (s : State) (fid : Nat) (h : Here) (w : EngW) (op : EngSig) (a : W64), s.hereOf fid = some h → h.f.st = .parked (.syscall a) →
    (s.parkedAt fid).bind Instr.engRow = some (op, w) → h.t.saved = false → h.cx.st = 1 →
    let svc := w.imm.toNat % 65536
    let gave (x : W64) (t : State) : Prop := exec (.syscallAnswer fid) s = .next t ∧ WentOnWith h t fid w.dst x
    let answered (x : W64) (t : State) : Prop := gave x t ∧ SameMem s t
    let refused := ∃ t, answered 0xFFFFFFFFFFFFFFFF t ∧ t.ctxs = s.ctxs
    (svc = 0 → s.loadRange h.core h.cx a.toNat 64 = none → refused) ∧
    (∀ d u, svc = 0 → s.loadRange h.core h.cx a.toNat 64 = some (d, u) →
      (nodeBad d = true ∨ h.cx.nodes.freeKey 0 4096 = none → ∃ t, gave 0xFFFFFFFFFFFFFFFF t ∧ t.mem = u.mem ∧ t.ctxs = s.ctxs) ∧
      (∀ n, nodeBad d = false → h.cx.nodes.freeKey 0 4096 = some n → ∃ t x, gave (BitVec.ofNat 64 n) t ∧ t.mem = u.mem ∧
        t.ctxs.get? h.t.ctx = some x ∧ x.nodes = h.cx.nodes.set n { desc := BitVec.ofNat 512 d })) ∧
    (svc = 1 → h.cx.nodes.get? a.toNat = none → refused) ∧
    (∀ n, svc = 1 → h.cx.nodes.get? a.toNat = some n → s.queueRoom h.t.ctx ≠ 0 → ∃ t x, gave 0 t ∧ (n.batch = [] → SameMem s t) ∧
      t.ctxs.get? h.t.ctx = some x ∧ (x.nodes.get? a.toNat).map GNode.batch = some [] ∧
      x.lq = h.cx.lq ++ if n.batch = [] then [] else [s.nextLaunch]) ∧
    (svc = 2 → h.cx.nodes.get? a.toNat = none → ∃ t x, answered x t ∧ t.ctxs = s.ctxs) ∧
    (∀ n, svc = 2 → h.cx.nodes.get? a.toNat = some n → (n.alloc ≠ [] → refused) ∧
      (n.alloc = [] → ∃ t x, answered 0 t ∧ t.ctxs.get? h.t.ctx = some x ∧ x.nodes = h.cx.nodes.erase a.toNat)) ∧
    (svc = 3 → 64 ≤ h.cx.wakes.length → refused) ∧
    (svc = 3 → h.cx.wakes.length < 64 → ∃ t x, answered 0 t ∧ t.ctxs.get? h.t.ctx = some x ∧
      (h.cx.cond ≠ 2 → x = { h.cx with wakes := h.cx.wakes ++ [a] }) ∧
      (h.cx.cond = 2 → x.cond = 1 ∧ x.condA0 = (h.cx.wakes ++ [a]).headD 0 ∧ x.wakes = (h.cx.wakes ++ [a]).tail)) ∧
    (4 ≤ svc → refused))

/-! ## The launch path, Drovers and teams (spec/12) -/

/-- The launch path (R254, R258, R260, R321, R328, R331). A launch that is not at the head of its context's queue waits; the one
at the head, or a fired task, leaves the queue and is accepted with its record, which it read at its issue or, where its page was
not mapped then, reads now; one whose record cannot be read, or that fails a check, completes without a team, and so does one
without tiles; any other takes a Drover for all of its tiles on the die of its origin, and dispatches, or waits for its operating
point first. A stable point is granted up to the one asked for, and each core of the rectangle goes to the highest point granted
there, less what the planner holds back. When the record is read, and its place in the queue (log 45), that an unreadable or poisoned
record fails the launch (log 30), and when a point is granted and lowered (log 13), are the model's choices. A launch that is done has its stamp written, its DONE counter signalled, and is removed.
Of batches the record is another, and of a launch with an energy hint the budget is asked first: neither is stated here. -/
def Obligations.LaunchPath : Prop :=
  ∀ (s : State) (ln ox oy : Nat) (l : Launch) (cx : Ctx), s.launches.get? ln = some l → s.ctxs.get? l.ctx = some cx →
    (cx.st = 1 → l.st = 1 → ln ∈ cx.lq → cx.lq.head? ≠ some ln → exec (.launchBegin ln ox oy) s = .next s) ∧
    (cx.st = 1 → l.st = 1 → (ln ∈ cx.lq → cx.lq.head? = some ln) → l.node = none → l.held = none →
      let begun (st : Nat) (t : State) : Prop := exec (.launchBegin ln ox oy) s = .next t ∧ t.groups = s.groups ∧
        t.accepted = s.accepted + 1 ∧ (∃ x, t.ctxs.get? l.ctx = some x ∧ ln ∉ x.lq) ∧
        ∃ l', t.launches.get? ln = some l' ∧ l'.st = st ∧ l'.accepted = s.accepted ∧ l'.cmd = l.cmd
      let failed := ∃ t, begun 5 t ∧ t.drovers = s.drovers
      let with_ (raw : Nat) : Prop :=
        let l1 := { l with record := nameRecord raw l }
        (∀ d, l1.badRecord = some d → failed) ∧
        (∀ d, l1.badRecord = none → s.originOf ln l1 ox oy = .error d → failed) ∧
        (∀ o, l1.badRecord = none → s.originOf ln l1 ox oy = .ok o → l1.tiles = 0 → failed) ∧
        (∀ o d, l1.badRecord = none → s.originOf ln l1 ox oy = .ok o → l1.tiles ≠ 0 → l1.fld 479 448 = 0 →
          s.drovers.freeKey (32 * dieOf (12 * o.2 + o.1)) 32 = some d →
          ∃ t v l', begun (if l1.record.getLsbD 420 then 3 else 4) t ∧ t.drovers.get? d = some v ∧ v.launch = ln ∧
            v.home = 12 * o.2 + o.1 ∧ v.next = 0 ∧ v.saved = false ∧ v.last ≤ l1.tiles ∧
            (l1.record.getLsbD 420 = true → v.last = l1.tiles) ∧
            t.launches.get? ln = some l' ∧ l'.record = l1.record ∧ (l'.ox, l'.oy) = o)
      (l.image = some none → failed) ∧
      (∀ raw, l.image = some (some raw) → with_ raw) ∧
      (l.image = none → l.recVa % 128 ≠ 0 ∨ 2 ^ 56 ≤ l.recVa ∨ inAperture l.recVa = true ∨
        (∃ w, s.xl devAgent cx l.recVa .read = .prot w) → failed) ∧
      (∀ pa mt, l.image = none → s.xl devAgent cx l.recVa .read = .ok pa mt →
        (s.touch devAgent cx l.recVa false).poisoned mt pa 128 = true → failed) ∧
      (∀ raw, l.image = none → s.hasRecord devAgent cx l.recVa raw → with_ raw)) ∧
    (∀ p : Fin 16, l.st = 3 → ∃ t l', exec (.oppStable ln p) s = .next t ∧ SameMem s t ∧ t.launches.get? ln = some l' ∧ l'.st = 4 ∧
      let asked := min p.val (l.fld 419 416)
      let u := s.modLaunch ln fun l => { l with st := 4, opp := some asked }
      l'.opp = some asked ∧ (∀ c, t.opps.getD 0 c = if c ∈ l.cores then u.grantOn c - s.lowered.getD 0 c else s.opps.getD 0 c) ∧
      (l.nextTeam = 0 → l.drained = false → ∀ c ∈ l.cores, asked ≤ t.grants.getD 0 c)) ∧
    (l.drained = false → s.launchDone ln l = true → l.reuse = [] →
      Cmd.stampA l.cmd = 0 ∨ s.stampFault devAgent cx (Cmd.stampA l.cmd) = none →
      ∃ t, exec (.launchComplete ln) s = .next t ∧ t.groups = s.groups ∧ t.teams = s.teams ∧
        ((∀ e ∈ s.teams, e.2.launch ≠ ln) → t.launches.get? ln = none) ∧
        (Cmd.doneAt l.cmd = 0 → t.objs = s.objs ∧ Stored s t (if Cmd.stampA l.cmd = 0 then [] else
          s.storeBytes devAgent cx 8 [(Cmd.stampA l.cmd, (Cmd.stampV l.cmd).toNat)])) ∧
        (Cmd.doneAt l.cmd ≠ 0 → s.objExists (Cmd.doneAt l.cmd) = true → s.objs.get? (objKey (Cmd.doneAt l.cmd)) = none →
          (t.objs.get? (objKey (Cmd.doneAt l.cmd))).map Obj.kind = some (.counter (-1) false none 1 (max (Cmd.scope l.cmd) 3))))

/-- Dispatch and splits (R255, R260 to R262). A Drover whose next tile a core can take, with no preferred launch after that
core, gives it the tile as a new team of the launch's shape: its groups have clear registers and stand at slot 0 of the entry
line with every lane; memory is as it was, but where Shento maps the groups' trace spill areas. A split request, made while the context of its launch runs, is refused for good while no Drover of the launch has twice the grain left, waits while
its die has no free Drover, and else takes the upper part, from a multiple of the grain, of the largest remaining range. -/
def Obligations.TileDispatch : Prop :=
  (∀ (s : State) (d core : Nat) (x : Drover) (l : Launch), s.drovers.get? d = some x → s.launches.get? x.launch = some l →
    s.dispatching x = true → s.offer d x l = some core → s.outranked l core = false →
    ∃ t tm l', exec (.droverDispatch d) s = .next t ∧ (l.tspl = false → SameMem s t) ∧ t.nextTeam = s.nextTeam + 1 ∧
      t.drovers.get? d = some { x with next := x.next + 1, tiles := x.tiles ++ [(x.next, s.nextTeam)] } ∧
      t.launches.get? x.launch = some l' ∧ l'.nextTeam = l.nextTeam + 1 ∧
      t.teams.get? s.nextTeam = some tm ∧ tm.core = core ∧ tm.launch = x.launch ∧ tm.num = BitVec.ofNat 32 l.nextTeam ∧
      tm.tile = some x.next ∧ (tm.tx, tm.ty, tm.tz) = (BitVec.ofNat 32 (l.coords x.next).1, BitVec.ofNat 32 (l.coords x.next).2.1,
        BitVec.ofNat 32 (l.coords x.next).2.2) ∧ tm.param = BitVec.ofNat 56 l.param ∧ tm.acc = l.accs ∧ tm.scr = [] ∧
      ∀ n, n < l.ngroups → ∃ g fid f, t.groups.get? (32 * s.nextTeam + n) = some g ∧ g.team = s.nextTeam ∧ g.idx = n ∧
        g.blocks = l.blk ∧ g.v = [] ∧ g.s = [] ∧ g.k = [] ∧ g.c = 0 ∧ g.fsr = 0 ∧ t.frags.get? fid = some f ∧
        f.group = 32 * s.nextTeam + n ∧ f.line = BitVec.ofNat 56 l.entry ∧ f.slot = 0 ∧ f.mask = 0xFFFFFFFF) ∧
  (∀ (s : State) (ln core : Nat) (l : Launch), s.launches.get? ln = some l → l.st = 4 → core ∉ l.refused →
    s.runs l = true → s.idleFor ln core l = true → s.drovers.wf = true →
    let can (x : Drover) : Prop := x.launch = ln ∧ x.saved = false ∧ 2 * l.gran ≤ x.last - x.next ∧ x.next < x.last
    ∃ t l', exec (.splitRequest ln core) s = .next t ∧ SameMem s t ∧ t.groups = s.groups ∧ t.teams = s.teams ∧
      t.launches.get? ln = some l' ∧
      ((∀ e ∈ s.drovers, ¬ can e.2) → t.drovers = s.drovers ∧ core ∈ l'.refused) ∧
      ((∃ e ∈ s.drovers, can e.2) → s.drovers.freeKey (32 * dieOf core) 32 = none → t.drovers = s.drovers ∧ core ∈ l'.waiting) ∧
      (∀ d, 0 < l.gran → (∃ e ∈ s.drovers, can e.2) → s.drovers.freeKey (32 * dieOf core) 32 = some d → ∃ v x mid, s.drovers.get? v = some x ∧
        can x ∧ (∀ e ∈ s.drovers, can e.2 → e.2.last - e.2.next ≤ x.last - x.next) ∧ x.next < mid ∧ mid < x.last ∧
        mid % l.gran = 0 ∧ x.last - x.next ≤ 2 * (mid - x.next) ∧ 2 * (mid - x.next) < x.last - x.next + 2 * l.gran ∧
        t.drovers.get? v = some { x with last := mid, gen := x.gen + 1 } ∧
        t.drovers.get? d = some { launch := ln, home := core, next := mid, last := x.last, gen := x.gen + 1 }))

/-- Tiles done and retirement (R154, R263, R266). A given-up tile whose work has drained leaves its Drover, unless that is Saved;
the Drover is free again with neither a tile left nor one to give out. TILENX waits
until every live group of its team has arrived; it then gives the tile up and takes the Drover's next one with flag 0, or has none
with flag 1; with EXIT its groups end. While the context of its launch does not run, it waits on. A team with no live group and no
work left retires with all it holds, once a running stream engine of it has stopped. Memory stays as it was, but for the spill
records of rays that end, which are marked free. That a Saved Drover keeps a drained tile until its context has resumed (log 30) is
the model's choice. -/
def Obligations.TilesGivenUp : Prop :=
  (∀ (s : State) (d tile tid : Nat) (x : Drover), s.drovers.get? d = some x →
    (x.tiles.find? fun e => e.1 == tile && s.tileDrained e.2 tile) = some (tile, tid) →
    let rest := x.tiles.filter fun e => e != (tile, tid)
    (x.saved = true → exec (.tileDone d tile) s = .next s) ∧
    (x.saved = false → ∃ t, exec (.tileDone d tile) s = .next t ∧ SameMem s t ∧ t.groups = s.groups ∧
      t.drovers.get? d = if rest = [] ∧ x.last ≤ x.next then none else some { x with tiles := rest })) ∧
  (∀ (s : State) (h : Here) (w : EngW),
    let rows := [(Instr.tilenx w, false), (.tilenxExit w, true)]
    (∀ e ∈ rows, Runs e.1 h s → s.sole h = false → Traps e.1 h s h.splitTrap) ∧
    (∀ e ∈ rows, RunsSole e.1 h s → s.sideBusy h = true → Stalls e.1 h s) ∧
    (∀ e ∈ rows, RunsSole e.1 h s → s.sideBusy h = false →
      (∃ g ∈ s.liveGroups h.tid, g ≠ h.gid ∧ s.atTilenx g = false) → exec e.1 s = .next (s.park h.fid (.tilenx e.2))) ∧
    (RunsSole (.tilenxExit w) h s → s.sideBusy h = false → s.liveGroups h.tid = [h.gid] →
      ∃ t g x, exec (.tilenxExit w) s = .next t ∧ ((∀ e ∈ s.spilled, e.1 / 32 ≠ h.gid) → SameMem s t) ∧ t.frags.get? h.fid = none ∧ t.groups.get? h.gid = some g ∧
        g.exited = h.g.exited ||| h.f.mask ∧ t.teams.get? h.tid = some x ∧ x.tile = none ∧
        ∀ tile, h.t.tile = some tile → ∃ e ∈ x.tilesDone, e.tile = tile) ∧
    (∀ d x l, RunsSole (.tilenx w) h s → s.sideBusy h = false → s.liveGroups h.tid = [h.gid] →
      s.parkedAt h.fid = some (.tilenx w) →
      let went (t : State) (flag : Bool) : Prop := exec (.tilenx w) s = .next t ∧ SameMem s t ∧
        (∃ f, t.frags.get? h.fid = some f ∧ f.mask = h.f.mask ∧
          f.line = (if h.f.slot.val < 4 then h.f.line else h.f.line + 64) ∧
          f.slot.val = (if h.f.slot.val < 4 then h.f.slot.val + 1 else 0)) ∧
        ∃ g, t.groups.get? h.gid = some g ∧ g.v = h.g.v ∧ g.s = h.g.s ∧ g.k = h.g.k ∧
          ∀ n, n < 8 → g.c.getLsbD n = match w.dst with
            | .c r => if n = r.val then flag else h.g.c.getLsbD n
            | _ => h.g.c.getLsbD n
      (h.t.drover = none → ∃ t y, went t true ∧ t.teams.get? h.tid = some y ∧ y.tile = none) ∧
      (h.t.drover = some d → s.drovers.get? d = some x → x.launch = h.t.launch → x.saved = false → x.next < x.last →
        s.launches.get? h.t.launch = some l → s.runs l = true → ∃ t y, went t false ∧
          t.drovers.get? d = some { x with next := x.next + 1, tiles := x.tiles ++ [(x.next, h.tid)] } ∧
          t.teams.get? h.tid = some y ∧ y.tile = some x.next ∧ y.ti = BitVec.ofNat 32 x.next ∧
          y.tx = BitVec.ofNat 32 (l.coords x.next).1 ∧ y.ty = BitVec.ofNat 32 (l.coords x.next).2.1 ∧
          y.tz = BitVec.ofNat 32 (l.coords x.next).2.2) ∧
      (h.t.drover = some d → s.launches.get? h.t.launch = some l → s.runs l = false →
        exec (.tilenx w) s = .next (s.park h.fid (.tilenx false))))) ∧
  (∀ (s : State) (tid : Nat) (tm : Team), s.teams.get? tid = some tm → s.mayRetire tid = true →
    ((∀ e ∈ (s.core tm.core).streams, e.2.owner = some tid → e.2.st ≠ 2 ∧ e.2.st ≠ 3) → ∃ t, exec (.teamRetire tid) s = .next t ∧
      ((∀ e ∈ s.spilled, e.1 / 1024 ≠ tid) → SameMem s t) ∧ t.teams.get? tid = none ∧ t.accs.get? tid = none ∧ (∀ e ∈ t.groups, e.1 / 32 ≠ tid) ∧
      (∀ k, k ≠ tid → t.teams.get? k = s.teams.get? k) ∧
      ∀ e ∈ (t.core tm.core).streams, e.2.owner ≠ some tid) ∧
    (∀ e x, (s.core tm.core).streams.get? e = some x → x.owner = some tid → x.st = 2 → ∃ t, exec (.teamRetire tid) s = .next t ∧
      t.teams = s.teams ∧ t.groups = s.groups ∧ ∃ y, (t.core tm.core).streams.get? e = some y ∧ y.st = 3))

/-! ## Fault records and the handler (spec/03, spec/23) -/

/-- Fault records and what becomes of a trapped group (R57, R58, R386). A record that waits for space enters its ring at the
tail, under the next SEQ, once the ring is not full. A translation fault that Shento can serve is mapped and its fragment
resumed; one that it cannot becomes a PROT record for the handler. Resume lets the fragment execute its slot again, with the
state the handler has edited; Skip goes on at the next slot, the skipped slot's word counting for the signature where its line can
be read; Kill ends the whole team. A fragment that an imprecise record has stopped meanwhile stays parked instead of going on. -/
def Obligations.TrapHandling : Prop :=
  (∀ (s : State) (ctx : Nat) (c : Ctx) (r : BitVec 512) (rest : List (BitVec 512)), s.ctxs.get? ctx = some c →
    c.held = r :: rest → c.ringFull = false → ∃ t, exec (.faultRecordPost ctx) s = .next t ∧ t.groups = s.groups ∧ t.frags = s.frags ∧
      t.ctxs.get? ctx = some { c with held := rest, ftail := c.ftail + 1 } ∧
      readLE t.mem (c.fring + 64 * (c.ftail.toNat % 2 ^ c.frsz)) 64 = (r.toNat + (c.ftail + 1).toNat * 2 ^ 32) % 256 ^ 64 ∧
      Stored s t (s.physBytes 0 (c.fring + 64 * (c.ftail.toNat % 2 ^ c.frsz)) 64)) ∧
  (∀ (s : State) (fid : Nat) (h : Here) (r : BitVec 512) (inLine : Bool) (map : List (Nat × BitVec 64)), s.hereOf fid = some h →
    h.f.st = .parked (.trap r inLine) → r ∉ h.cx.held → bitsN r.toNat 5 0 = Cause.xlate.code →
    let kept (t : State) (st : FragSt) : Prop := exec (.xlateService fid map) s = .next t ∧ t.groups = s.groups ∧
      ∃ f, t.frags.get? fid = some f ∧ f.st = st ∧ f.line = h.f.line ∧ f.slot = h.f.slot ∧ f.mask = h.f.mask
    (bitsN r.toNat 23 16 = 0 → map ≠ [] → ∃ t, kept t (if h.f.hold then .parked .bound else .ready) ∧ (h.cx.held = [] → t.mem = (s.applyMap map).mem)) ∧
    (bitsN r.toNat 23 16 ≠ 0 ∨ map = [] → ∃ t, ∃ r' : BitVec 512, kept t (.parked (.trap r' inLine)) ∧ bitsN r'.toNat 5 0 = Cause.prot.code ∧
      bitsN r'.toNat 23 16 = 0 ∧ bitsN r'.toNat 247 192 = bitsN r.toNat 247 192)) ∧
  (∀ (s : State) (fid : Nat) (h : Here) (edits : List RegEdit), s.hereOf fid = some h → h.withHandler = true →
    (∃ t g, exec (.trapResume fid edits) s = .next t ∧ t.groups.get? h.gid = some g ∧ g = edits.foldl (Group.edit h.f.uid) h.g ∧
      (h.f.st ≠ .parked .halt → ∃ f, t.frags.get? fid = some f ∧ f.st = (if h.f.hold then .parked .bound else .ready) ∧
        f.replay = true ∧ f.line = h.f.line ∧ f.slot = h.f.slot ∧ f.mask = h.f.mask ∧ f.sig = (edits.foldl Frag.edit h.f).sig) ∧
      (h.f.st = .parked .halt → ∃ x, t.teams.get? h.tid = some x ∧ x.haltedBy = none)) ∧
    (∀ r inLine, h.f.st = .parked (.trap r inLine) → ∃ t f, exec (.trapSkip fid) s = .next t ∧ t.groups = s.groups ∧
      t.frags.get? fid = some f ∧ f.mask = h.f.mask ∧
      f.st = (if h.f.slot.val < 4 ∨ (h.f.stopAt = false ∧ h.f.hold = false) then .ready else .parked .bound) ∧
      f.line = (if h.f.slot.val < 4 then h.f.line else h.f.line + 64) ∧
      f.slot.val = (if h.f.slot.val < 4 then h.f.slot.val + 1 else 0) ∧
      f.sig = match (s.consumeRecord h.t.ctx).slotWord h inLine with
        | some w => if noSig w.op.toNat then h.f.sig else sigUpdate h.f.sig w
        | none => h.f.sig) ∧
    (∃ t, exec (.trapKill fid) s = .next t ∧ (∀ e ∈ t.frags, (s.groups.get? e.2.group).map Group.team ≠ some h.tid) ∧
      t.liveGroups h.tid = []))

/-! ## Host queues, conductors and the command port (spec/18) -/

/-- Host queues (R314 to R317). A queue is created empty. A kick moves the tail, or halts the queue when it is more than the
ring beyond the head; a halted queue ignores it until it is reset. A whole and valid packet at the head takes effect and is
consumed: a NOP does nothing, START starts a stopped conductor, WAKE adds a wake, STOP stops the conductor, WAIT passes when its
word compares and holds the queue until then, its read marking the page as accessed, STAMP writes its word. A packet whose SEQ
does not match is fetched again, 64 times at most. That START is consumed without effect unless the conductor is Stopped, and that a
reset discards the packets exposed before the halt (log 30), are the model's choices. -/
def Obligations.HostQueues : Prop :=
  ∀ (s : State) (fn : Fin 64) (q : Fin 16),
    let k := queueKey fn.val q.val
    (∀ m base host ctx c, s.up = true → s.queues.get? k = none → 4 ≤ m → m ≤ 16 → s.ctxs.get? ctx = some c →
      c.fn = fn.val → ∃ t x, exec (.queueCreate fn q m base host ctx) s = .next t ∧ SameMem s t ∧ t.queues.get? k = some x ∧
        x.m = m ∧ x.base = base.toNat ∧ x.host = host ∧ x.ctx = ctx ∧ x.head = 0 ∧ x.tail = 0 ∧ x.seq = 1 ∧ x.halted = false) ∧
    (∀ x, s.queues.get? k = some x →
      let p := s.packet x
      let only (i : Instr) (y : Queue) : Prop := ∃ t, exec i s = .next t ∧ SameMem s t ∧ t.groups = s.groups ∧ t.ctxs = s.ctxs ∧
        t.queues.get? k = some y
      let eaten : Queue := { x with head := x.head + 1, seq := x.seq + 1, tries := 0, held := false }
      let whole (n : Nat) : Prop := s.fetching x = true ∧ bitsN p.toNat 511 448 = x.seq.toNat ∧ Packet.bad p = false ∧ Packet.ty p = n
      let changes (i : Instr) (c' : Ctx) : Prop := ∃ t, exec i s = .next t ∧ SameMem s t ∧ t.groups = s.groups ∧
        t.queues.get? k = some eaten ∧ t.ctxs.get? x.ctx = some c'
      (∀ tail, x.halted = false → (tail - x.head).toNat ≤ 2 ^ x.m → only (.kickWrite fn q tail) { x with tail := tail }) ∧
      (∀ tail, x.halted = false → 2 ^ x.m < (tail - x.head).toNat →
        only (.kickWrite fn q tail) { x with halted := true, held := false }) ∧
      (∀ tail, x.halted = true → exec (.kickWrite fn q tail) s = .next s) ∧
      (x.halted = true → only (.queueReset fn q) { x with halted := false, tail := x.head, tries := 0 }) ∧
      (s.fetching x = true → bitsN p.toNat 511 448 ≠ x.seq.toNat →
        (x.tries < 64 → only (.packetRefetch fn q) { x with tries := x.tries + 1 }) ∧
        (64 ≤ x.tries → only (.packetRefetch fn q) { x with halted := true, held := false })) ∧
      (s.fetching x = true → bitsN p.toNat 511 448 = x.seq.toNat → Packet.bad p = true →
        only (.packetRefetch fn q) { x with halted := true, held := false }) ∧
      (whole 0 → only (.hostPacketNop fn q) eaten) ∧
      (∀ c, s.ctxs.get? x.ctx = some c →
        let waited (i : Instr) (y : Queue) : Prop := ∃ t, exec i s = .next t ∧ t.groups = s.groups ∧ t.ctxs = s.ctxs ∧
          t.queues.get? k = some y ∧ Stored s t (if inAperture (Packet.addr p) then [] else
            (s.accBytes devAgent c false [Packet.addr p]).map fun a => (0, a))
        (whole 4 → (s.waitRead x p).waitMet x p = true → waited (.hostPacketWait fn q) eaten) ∧
        (whole 4 → (s.waitRead x p).waitMet x p = false → waited (.hostPacketWait fn q) { x with held := true }) ∧
        (whole 4 → x.held = true → (s.waitRead x p).waitMet x p = true → waited (.queueWaitSatisfied fn q) eaten) ∧
        (whole 1 → changes (.hostPacketStart fn q) (if c.cond = 0 then { c with
          cond := 1, condPc := BitVec.ofNat 64 (Packet.addr p), condA0 := Packet.arg p, condSp := Packet.value p } else c)) ∧
        (whole 2 → c.wakes.length < 64 → c.cond ≠ 2 → changes (.hostPacketWake fn q) { c with wakes := c.wakes ++ [Packet.arg p] }) ∧
        (whole 2 → c.wakes = [] → c.cond = 2 → changes (.hostPacketWake fn q) { c with cond := 1, condA0 := Packet.arg p }) ∧
        (whole 2 → 64 ≤ c.wakes.length → exec (.hostPacketWake fn q) s = .next s) ∧
        (whole 3 → c.ticket = c.consumed → changes (.hostPacketStop fn q) { c with cond := 0 }) ∧
        (whole 5 → s.stampFault devAgent c (Packet.addr p) = none → ∃ t, exec (.hostPacketStamp fn q) s = .next t ∧
          t.groups = s.groups ∧ t.queues.get? k = some eaten ∧
          Stored s t (s.storeBytes devAgent c 8 [(Packet.addr p, (Packet.value p).toNat)]))))

/-- The conductor and its command port (R317 to R320, R324, R329). A running conductor that waits takes the oldest wake, or is
Waiting. Its AMOADD.D of 1 reserves the next of 256 slots and returns the ticket, and it writes a command there, then or later,
under the slot's SEQ; one too many reserves nothing and returns all ones, as another AMO does; a load returns the free slots. Of
−n to byte 8 of a counter, it signals n and returns the COUNT; any other access to the aperture is an access fault. A command at
the head of the port is consumed: a NOP with its signal, a malformed one under a record, a LAUNCH by reading its record, a TASK by
entering the store with its gate armed; a STAMP by joining the port's stamps, the oldest of which is written, and its signal
given, once every earlier command has completed. That an event of the conductor writes the command and puts its SEQ (log 30), that the
conductor's accesses are events (log 36), and what holds a returned value or counts an access fault (log 49), are the model's
choices. -/
def Obligations.CommandPort : Prop :=
  ∀ (s : State) (ctx : Nat) (c : Ctx), s.ctxs.get? ctx = some c →
    let only (i : Instr) (c' : Ctx) : Prop := ∃ t, exec i s = .next t ∧ SameMem s t ∧ t.groups = s.groups ∧ t.ctxs.get? ctx = some c'
    let x := c.slots.getD 0 (c.consumed % 256)
    let pc := c.slotPc.getD 0 (c.consumed % 256)
    let left : Ctx := { c with consumed := c.consumed + 1, slots := c.slots.erase (c.consumed % 256),
                               slotPc := c.slotPc.erase (c.consumed % 256), pcCount := (bumpName c.pcCount pc).2 }
    let head (n : Nat) : Prop := c.st = 1 ∧ c.slots.get? (c.consumed % 256) = some x ∧ Cmd.seq x = c.consumed + 1 ∧
      s.portBad x = false ∧ Cmd.ty x = n
    let key := objKey (Cmd.gate x)
    (c.cond = 1 → c.st = 1 → c.wakes = [] → only (.conductorWait ctx) { c with cond := 2 }) ∧
    (∀ a rest, c.cond = 1 → c.st = 1 → c.wakes = a :: rest →
      only (.conductorWait ctx) { c with cond := 1, condA0 := a, wakes := rest }) ∧
    (c.cond = 1 → c.st = 1 →
      let wrote (y : Ctx) (t : Nat) (cmd : BitVec 512) : Prop := ∃ z, y.slots.get? (t % 256) = some z ∧
        bitsN z.toNat 447 0 = bitsN cmd.toNat 447 0 ∧ Cmd.seq z = (t + 1) % 2 ^ 64
      let ones : Ctx := { c with condRet := 0xFFFFFFFFFFFFFFFF }
      (∀ pc, c.ticket - c.consumed < 256 →
        (∀ cmd, ∃ y, only (.portReserve ctx pc ⟨some cmd, none⟩) y ∧ y.ticket = c.ticket + 1 ∧
          y.slotPc = c.slotPc.set (c.ticket % 256) pc ∧ y.condRet = BitVec.ofNat 64 c.ticket ∧ wrote y c.ticket cmd) ∧
        (∃ y, only (.portReserve ctx pc ⟨none, none⟩) y ∧ y.ticket = c.ticket + 1 ∧ y.slots = c.slots)) ∧
      (∀ pc cmd t, c.consumed ≤ t → t < c.ticket → ∃ y, only (.portReserve ctx pc ⟨some cmd, some t⟩) y ∧ y.ticket = c.ticket ∧
        wrote y t cmd) ∧
      (∀ pc cmd, 256 ≤ c.ticket - c.consumed → only (.portReserve ctx pc ⟨cmd, none⟩) ones) ∧
      only (.portReserveRefused ⟨ctx, .amo⟩) ones ∧ only (.portReserveRefused ⟨ctx, .store⟩) c ∧
      only (.portReserveRefused ⟨ctx, .load⟩) { c with condRet := BitVec.ofNat 64 (256 - (c.ticket - c.consumed)) } ∧
      (∀ (addr : BitVec 64) n, 2 ^ 56 ≤ addr.toNat ∨ inAperture addr.toNat = false ∨ addr.toNat % 64 ≠ 8 ∨
        s.objExists addr.toNat = false ∨ n = 0 ∨ 2 ^ 32 ≤ n →
        only (.conductorCounterSignal ctx addr n) { c with condFaults := c.condFaults + 1 })) ∧
    (∀ (addr : BitVec 64) n, c.cond = 1 → c.st = 1 → addr.toNat < 2 ^ 56 → inAperture addr.toNat = true → addr.toNat % 64 = 8 →
      s.objExists addr.toNat = true → 0 < n → n < 2 ^ 32 → s.objs.get? (objKey (addr.toNat - 8)) = none →
      ∃ t, exec (.conductorCounterSignal ctx addr n) s = .next t ∧ SameMem s t ∧ t.ctxs.get? ctx = some { c with condRet := 0 } ∧
        (t.objs.get? (objKey (addr.toNat - 8))).map Obj.kind = some (.counter (-(n : Int)) false none 1 5)) ∧
    let free (v : BitVec 512) : Prop := Cmd.doneAt v ≠ 0 ∧ s.objExists (Cmd.doneAt v) = true ∧ s.objs.get? (objKey (Cmd.doneAt v)) = none
    let signalled (t : State) (v : BitVec 512) : Prop := (Cmd.doneAt v = 0 → t.objs = s.objs) ∧
      (free v → (t.objs.get? (objKey (Cmd.doneAt v))).map Obj.kind = some (.counter (-1) false none 1 (max (Cmd.scope v) 3)))
    (head 0 → Cmd.doneAt x = 0 ∨ free x → ∃ t, exec (.portNop ctx) s = .next t ∧ SameMem s t ∧ t.groups = s.groups ∧
      t.ctxs.get? ctx = some left ∧ signalled t x) ∧
    (c.st = 1 → c.slots.get? (c.consumed % 256) = some x → Cmd.seq x = c.consumed + 1 → s.portBad x = true →
      ∃ t y, exec (.portNop ctx) s = .next t ∧ t.ctxs.get? ctx = some y ∧ y.consumed = c.consumed + 1 ∧ y.portOpen = c.portOpen ∧
        t.launches = s.launches) ∧
    (∀ raw, head 1 → s.hasRecord devAgent c (Cmd.rrec x) raw →
      ∃ t y l, exec (.portLaunch ctx) s = .next t ∧ t.groups = s.groups ∧ t.accepted = s.accepted + 1 ∧
        t.ctxs.get? ctx = some y ∧ y.consumed = c.consumed + 1 ∧ y.portOpen = c.portOpen ++ [c.consumed] ∧
        t.launches.get? s.nextLaunch = some l ∧ l.st = 2 ∧ l.ctx = ctx ∧ l.cmd = x ∧ l.port = some c.consumed ∧ l.namePc = pc ∧
        l.nameSeq = (bumpName c.pcCount pc).1 ∧ l.record = nameRecord raw l) ∧
    (head 2 → s.storeFull ctx = false → s.objExists (Cmd.gate x) = true → s.objs.get? key = none → 0 < Cmd.arm x →
      ∃ t y l, exec (.portTask ctx) s = .next t ∧ SameMem s t ∧ t.groups = s.groups ∧
        t.ctxs.get? ctx = some y ∧ y.consumed = c.consumed + 1 ∧ y.portOpen = c.portOpen ++ [c.consumed] ∧
        (∃ i, y.tasks.get? i = some s.nextLaunch) ∧ t.launches.get? s.nextLaunch = some l ∧ l.st = 0 ∧ l.cmd = x ∧
        l.port = some c.consumed ∧ l.namePc = pc ∧
        (t.objs.get? key).map Obj.kind = some (.counter (Cmd.arm x) true (some s.nextLaunch) 0 0)) ∧
    (head 3 → only (.portStamp ctx) { left with stamps := c.stamps ++ [(c.consumed, x)] }) ∧
    (∀ k v rest, c.stamps = (k, v) :: rest → c.st = 1 → (∀ n ∈ c.portOpen, k ≤ n) →
      Cmd.stampA v = 0 ∨ s.stampFault devAgent c (Cmd.stampA v) = none →
      Cmd.doneAt v = 0 ∨ free v →
      ∃ t, exec (.portStampWrite ctx) s = .next t ∧ t.ctxs.get? ctx = some { c with stamps := rest } ∧ signalled t v ∧
        Stored s t (if Cmd.stampA v = 0 then [] else s.storeBytes devAgent c 8 [(Cmd.stampA v, (Cmd.stampV v).toNat)]))

/-! ## Collectives and the domain (spec/24) -/

/-- Collectives (R397 to R401). A COLL waits for the side log, reads its descriptor as a load, traps as RI with DETAIL 5 on a malformed one and as PROT
with INFO 32 when it names a module outside the domain, and with two free Hasp entries is issued. With its ranges registered it starts when every member
has issued: each reads its source and computes its result; members that disagree make a mismatch. A result is written to DST and the
stamp follows, or, where a word of DST keeps part of an uncorrectable error, the group freezes; after a mismatch the stamp receives
the complement and a record with CAUSE LAUNCH, DETAIL 13 is posted, with no group parked. The COLL's Hasp entries are free then. The
domain is configured with this module in it while the module is awake, and ends when a member leaves, whose collectives begin again
(log 31, the model's choice); a lost store's group is told by its record and parks at its next line boundary. -/
def Obligations.Collectives : Prop :=
  (∀ (s : State) (h : Here) (w : EngW),
    let va := (h.srcS w.a).toNat
    let d : BitVec 512 := BitVec.ofNat 512 ((s.touch h.core h.cx va false).vload h.core h.cx va 64)
    let rows := [(Instr.collAllReduce w, 0), (.collReduceScatter w, 1), (.collAllGather w, 2), (.collBroadcast w, 3)]
    ∀ e ∈ rows, Runs e.1 h s →
      (s.sideBusy h = true → Stalls e.1 h s) ∧
      (s.sideBusy h = false → s.readable64 h va →
        (CollD.bad e.2 s.domId.val d = true → Traps e.1 h s { cause := .ri, detail := 5, lanes := h.f.mask.toNat }) ∧
        (CollD.bad e.2 s.domId.val d = false → s.stampTrap h (CollD.stampA d) = none →
          ((∃ m ∈ CollD.members d, s.domMember m = false) →
            Traps e.1 h s { cause := .prot, lanes := h.f.mask.toNat, info := 32, addr := va % 2 ^ 56 }) ∧
          ((∀ m ∈ CollD.members d, s.domMember m = true) → 2 ≤ (s.core h.core).haspFree.length →
            ∃ t b, Marked e.1 h s t false [va] ∧ (t.core h.core).colls.get? (s.core h.core).nextId = some b ∧ b.fn = e.2 ∧
              b.desc = d ∧ b.group = h.gid ∧ b.ctx = h.t.ctx ∧ b.started = false ∧
              ∀ i ∈ b.entries, (t.core h.core).hasp.has i = true)))) ∧
  (∀ (s : State) (core id : Nat) (b : Coll) (cx : Ctx) (peers : List PeerIssue) (ps : List (Option PeerIssue)),
    (s.core core).colls.get? id = some b → s.ctxs.get? b.ctx = some cx → b.parked = none → b.locked = true →
    (b.started = false → s.domOn = true → collPeers b.desc s.domId.val peers = some ps →
      let agree := ∀ p ∈ ps, ∀ x, p = some x → x.fn.val = b.fn ∧ CollD.same x.desc b.desc = true
      let n := if b.fn ≠ 3 ∨ CollD.root b.desc = s.domId.val then CollD.width b.desc * CollD.srcN b.fn b.desc else 0
      let u := (List.range n).foldl (fun s i => s.touch core cx (CollD.src b.desc + i) false) s
      let own : List Byte := (List.range n).map fun i => BitVec.ofNat 8 (u.vload core cx (CollD.src b.desc + i) 1)
      let res := collResult b.fn s.domId.val b.desc (ps.map fun p => match p with | some p => p.src | none => own)
      (¬ agree → ∃ t, exec (.collStart core id peers) s = .next t ∧ SameMem s t ∧
        (t.core core).colls.get? id = some { b with started := true, mismatch := true }) ∧
      (agree → s.rangeFault core cx (CollD.src b.desc) n false = none →
        (∀ i, i < n → u.vPoison core cx (CollD.src b.desc + i) 1 .read = false) →
        ∃ t, exec (.collStart core id peers) s = .next t ∧ t.groups = s.groups ∧
          (t.core core).colls.get? id = some { b with started := true, bad := [], result := res })) ∧
    (b.started = true → (∀ e ∈ (s.core core).colls, e.1 < id → e.2.group ≠ b.group) →
      s.stampFault core cx (CollD.stampA b.desc) = none →
      (b.mismatch = true → ∃ t w, exec (.collComplete core id) s = .next t ∧ (t.core core).colls.get? id = none ∧
        (∀ i ∈ b.entries, (t.core core).hasp.has i = false) ∧ t.frags = s.frags ∧ t.groups = s.groups ∧
        Stored s w (s.storeBytes core cx 8 [(CollD.stampA b.desc, (~~~(CollD.stampV b.desc)).toNat)]) ∧
        t = w.postReport b.group b.frag { b.report with cause := .launch, detail := 13, info := 2 ^ 63 }) ∧
      (b.mismatch = false → b.result = [] → b.bad = [] → ∃ t, exec (.collComplete core id) s = .next t ∧
        (t.core core).colls.get? id = none ∧ (∀ i ∈ b.entries, (t.core core).hasp.has i = false) ∧
        Stored s t (s.storeBytes core cx 8 [(CollD.stampA b.desc, (CollD.stampV b.desc).toNat)])) ∧
      (∀ a, b.mismatch = false → s.rangeFault core cx (CollD.dst b.desc) b.result.length true = none → s.collBad core cx b = some a →
        exec (.collComplete core id) s = .next ((s.dropColl core id b).freezeGroup b.group 8 ((s.poisonAt core cx a 8 .write).getD 0))) ∧
      (b.mismatch = false → s.rangeFault core cx (CollD.dst b.desc) b.result.length true = none → s.collBad core cx b = none →
        (s.collWrite core cx b).stampFault core cx (CollD.stampA b.desc) = none →
        ∃ t, exec (.collComplete core id) s = .next t ∧ (t.core core).colls.get? id = none ∧ t.groups = s.groups ∧
          (∀ i ∈ b.entries, (t.core core).hasp.has i = false) ∧ t.mem = ((s.collWrite core cx b).vstore core cx (CollD.stampA b.desc) 8 (CollD.stampV b.desc).toNat).mem))) ∧
  (∀ (s : State) (gid fid : Nat) (g : Group) (r : Report), s.groups.get? gid = some g → g.lost = some (fid, r) →
    s.frags.wf = true →
    ∃ t, exec (.remoteStoreFail gid) s = .next t ∧ t.groups.get? gid = some { g with lost := none } ∧
      t = ((s.modGroup gid fun g => { g with lost := none }).postReport gid fid r).stopGroup gid ∧
      ∀ k ∈ s.fragsOf gid, ∃ f, t.frags.get? k = some f ∧ (f.stopAt = true ∨ f.st = .parked .bound)) ∧
  (∀ (s : State) (n : Fin 64) (ms : BitVec 64), s.up = true → ∃ t, exec (.domainConfigure n ms) s = .next t ∧ SameMem s t ∧
    t.groups = s.groups ∧ ∀ m, m < 64 → t.domMember m = (ms.getLsbD m || m == n.val)) ∧
  (∀ (s : State) (m : Fin 64), s.domMember m.val = true → ∃ t, exec (.domainMemberLeave m) s = .next t ∧ SameMem s t ∧
    t.groups = s.groups ∧ (∀ k, t.domMember k = false) ∧
    ∀ core id b, (s.core core).colls.get? id = some b → b.entries ≠ [] →
      ((t.core core).colls.get? id).map Coll.started = some false)

/-! ## Contexts (spec/23) -/

/-- Contexts (R385, R390 to R395). After an invalidation no agent holds a translation of the ASID in the range. A pre-empted
team that is alone stops issuing where it stands; its work drained, it is saved with its registers; and it is placed again on a
core that can take it, in its launch's rectangle, which moves with it when all of the launch is saved (log 33); where the
route tables cannot serve the rectangle, or that of another launch of the context that goes on with it, a record is posted and the
team stays saved. A context is pre-empted with all its teams, is
Saved with its Drovers once these are, and runs again when it has no launch to place. An abort kills the context's teams, stops its conductor, halts its queues and drops its translations; a
function-level reset aborts every context of its function, and clears its MSI-X table (log 48, the model's choice). A context is
created from a valid descriptor while the module is up. -/
def Obligations.Contexts : Prop :=
  (∀ (s : State) (asid : Nat) (lo hi : BitVec 56), ∃ t, exec (.tlbInvalidate asid lo hi) s = .next t ∧
    (∀ c ∈ t.cores, ∀ e ∈ c.2.tlb, e.asid = asid → hi.toNat < e.va ∨ e.va + e.size ≤ lo.toNat) ∧
    (∀ d ∈ t.tlb2, ∀ e ∈ d.2, e.asid = asid → hi.toNat < e.va ∨ e.va + e.size ≤ lo.toNat) ∧
    (s.xfersOf asid = [] → SameMem s t ∧ t.groups = s.groups ∧ t.teams = s.teams)) ∧
  (∀ (s : State) (tid : Nat) (tm : Team), s.teams.get? tid = some tm → tm.member = false →
    (tm.saved = false → tm.saving = false → ∃ t x, exec (.computePreempt (.team tid)) s = .next t ∧ SameMem s t ∧
      t.teams.get? tid = some x ∧ x.saving = true ∧ x.tile = tm.tile ∧
      ∀ k f g, s.frags.get? k = some f → s.groups.get? f.group = some g → g.team = tid → f.st ≠ .gone → ∃ f' g', t.frags.get? k = some f' ∧
        f'.st ≠ .issuing ∧ f'.line = f.line ∧ f'.slot = f.slot ∧ t.groups.get? f.group = some g' ∧ g'.v = g.v ∧ g'.s = g.s ∧
        g'.stopCause = .preempt) ∧
    (s.saveReady tid tm = true → ∃ t x, exec (.contextSave (.team tid)) s = .next t ∧ t.teams.get? tid = some x ∧ x.saved = true ∧
      x.saving = false ∧ x.scr = tm.scr ∧
      ∀ n g, s.groups.get? n = some g → g.team = tid → ∃ g', t.groups.get? n = some g' ∧ g'.v = g.v ∧ g'.s = g.s ∧ g'.k = g.k ∧
        g'.c = g.c ∧ g'.fsr = g.fsr ∧ g'.openCpl = []) ∧
    (∀ core cx l, tm.saved = true → s.canRestore core tid tm = true → s.ctxs.get? tm.ctx = some cx → cx.st ≠ 5 →
      s.launches.get? tm.launch = some l →
      let resumed (t : State) : Prop := exec (.contextResume (.team tid) core) s = .next t ∧ ∃ x, t.teams.get? tid = some x ∧
        x.core = core ∧ x.saved = false ∧ x.scr = tm.scr ∧ (cx.st ≠ 3 → cx.st ≠ 4 → x.tile = tm.tile) ∧
        ∀ n g, s.groups.get? n = some g → g.team = tid → ∃ g', t.groups.get? n = some g' ∧ g'.v = g.v ∧ g'.s = g.s ∧ g'.k = g.k ∧
          g'.fsr = g.fsr
      let serves (ox oy : Nat) : Prop := s.onMesh l ox oy = true ∧ s.routable tm.launch l ox oy = true
      (tm.fragTeam = true ∨ core ∈ l.cores ∧ (s.movable tm.launch = false ∨ serves l.ox l.oy) →
        (s.badTable tm.ctx = none → ∃ t, resumed t) ∧
        (∀ n, s.badTable tm.ctx = some n → exec (.contextResume (.team tid) core) s = .next (s.keepSaved tm.ctx n))) ∧
      (tm.fragTeam = false → core ∈ l.cores → s.movable tm.launch = true → ¬ serves l.ox l.oy → cx.st ≠ 4 →
        exec (.contextResume (.team tid) core) s = .next (s.postAsync tm.ctx .launch 8 0 l.recVa (some tm.launch))) ∧
      (∀ ox oy u, tm.fragTeam = false → core ∉ l.cores → s.movable tm.launch = true → ox + coreX tm.core = coreX core + l.ox →
        oy + coreY tm.core = coreY core + l.oy → core ∈ ({ l with ox := ox, oy := oy } : Launch).cores → serves ox oy →
        s.moveLaunch tm.launch l ox oy = some u → u.badTable tm.ctx = none →
        ∃ t l', resumed t ∧ t.launches.get? tm.launch = some l' ∧ (l'.ox, l'.oy) = (ox, oy)))) ∧
  (∀ (s : State) (ctx : Nat) (c : Ctx), s.ctxs.get? ctx = some c →
    (c.st = 1 → ∃ t, exec (.computePreempt (.ctx ctx)) s = .next t ∧ SameMem s t ∧ t.ctxs.get? ctx = some { c with st := 2 } ∧
      ∀ k tm, s.teams.get? k = some tm → tm.ctx = ctx → tm.saved = false → ∃ y, t.teams.get? k = some y ∧ y.saving = true) ∧
    (c.st = 2 → (∀ e ∈ s.teams, e.2.ctx = ctx → e.2.saved = true) → ∃ t, exec (.contextSave (.ctx ctx)) s = .next t ∧ SameMem s t ∧
      t.ctxs.get? ctx = some { c with st := 3 } ∧ ∀ d x l, s.drovers.get? d = some x → s.launches.get? x.launch = some l → l.ctx = ctx →
        t.drovers.get? d = some { x with saved := true }) ∧
    (∀ core, c.st = 3 → (∀ e ∈ s.teams, e.2.ctx ≠ ctx) → (∀ e ∈ s.launches, e.2.ctx = ctx → e.2.st ≠ 3 ∧ e.2.st ≠ 4) →
      ∃ t, exec (.contextResume (.ctx ctx) core) s = .next t ∧ SameMem s t ∧ t.ctxs.get? ctx = some { c with st := 1 })) ∧
  (∀ (s : State) (ctx : Nat) (c : Ctx), s.ctxs.get? ctx = some c → c.st ≠ 5 →
    let gone (t : State) (ctx asid : Nat) : Prop := (∃ x, t.ctxs.get? ctx = some x ∧ x.st = 5 ∧ x.cond = 0 ∧ x.lq = [] ∧ x.tasks = [] ∧
        x.nodes = [] ∧ x.trial = none) ∧
      (∀ k tm, t.teams.get? k = some tm → tm.ctx = ctx → t.liveGroups k = []) ∧
      (∀ q ∈ t.queues, q.2.ctx = ctx → q.2.halted = true) ∧ (∀ core ∈ t.cores, ∀ e ∈ core.2.tlb,
        e.asid = asid → 2 ^ 56 < e.va ∨ e.va + e.size = 0)
    (s.queues.wf = true → ∃ t, exec (.contextAbort ctx) s = .next t ∧ gone t ctx c.asid) ∧
    (∀ fn : Fin 64, c.fn = fn.val → ∃ t x, exec (.functionLevelReset fn) s = .next t ∧ t.halts.getD 0 fn.val = 0 ∧
      t.ctxs.get? ctx = some x ∧ x.st = 5 ∧ ∀ f, t.funs.get? fn.val = some f → f.table = [] ∧ f.pending = [])) ∧
  (∀ (s : State) (ctx : Nat) (d : BitVec 512) (c : Ctx), ctxOfDesc d = some c → s.up = true → ctx < 512 →
    s.ctxs.get? ctx = none → (∀ e ∈ s.ctxs, e.2.asid ≠ c.asid) → ∃ t, exec (.contextCreate ctx d) s = .next t ∧ SameMem s t ∧
      t.ctxs.get? ctx = some c ∧ ∀ k, k ≠ ctx → t.ctxs.get? k = s.ctxs.get? k)

/-! ## Counters, trials and the debug core (spec/25) -/

/-- PROG, HALT and PMCAP (R404 to R407, R414). PROG counts one on a progress counter. HALT completes and halts its team: with a
debugger its groups are halted, else its fragment waits on the handler. A PMCAP start opens a window that keeps where it was
opened, and with one open, or a malformed selection, sets its flag; a stop writes the record of what was counted and closes the
window, and without one sets its flag. Counters and causal trials (R403, R408 to R410). A counter takes an event code. A trial
starts from a valid descriptor in a context without one, its groups without debt; else it is refused, and the conductor is
answered with all ones (log 49). An epoch does not end before its time; when it ends, EPOCH microseconds and its progress are added to
those of on or off epochs and every group owes what the trial has accrued; after the last epoch the report is written, its
DONE word last, and the trial is over. That an epoch counts as EPOCH microseconds however late its end is noticed (log 32) is the
model's choice. -/
def Obligations.CountersAndTrials : Prop :=
  (∀ (s : State) (h : Here) (w : EngW),
     let n := w.imm.toNat % 16
     let va := (h.srcS w.a).toNat
     let sel := h.srcS w.b
     let ready := ∀ t, s.checkGlobal h va 128 .write true = some t → t.cause = .xlate
     let badSel := (∃ n ∈ selCtrs sel, 47 < n) ∨ bitsN sel.toNat 63 48 ≠ 0
     (Runs (.prog w) h s → ∃ t x, exec (.prog w) s = .next t ∧ WentOn (.prog w) h t ∧ SameMem s t ∧ RegFrame h s t noReg ∧
       t.accs = s.accs ∧ t.ctxs.get? h.t.ctx = some x ∧ x.ftail = h.cx.ftail ∧
       ∀ m, x.progress.getD 0 m = h.cx.progress.getD 0 m + if m = n then 1 else 0) ∧
     (Runs (.halt w) h s → ∃ t f, exec (.halt w) s = .next t ∧ RegFrame h s t noReg ∧ t.accs = s.accs ∧
       t.frags.get? h.fid = some f ∧ f.mask = h.f.mask ∧ f.line = (if h.f.slot.val < 4 then h.f.line else h.f.line + 64) ∧
       f.slot.val = (if h.f.slot.val < 4 then h.f.slot.val + 1 else 0) ∧
       (h.cx.debugger = true → SameMem s t ∧ t.ctxs = s.ctxs ∧
         f.st = (if h.f.slot.val < 4 ∨ (h.f.stopAt = false ∧ h.f.hold = false) then .ready else .parked .bound) ∧ ∀ k g, s.groups.get? k = some g → g.team = h.tid →
         ∃ g', t.groups.get? k = some g' ∧ g'.halted = true ∧ g'.stopCause = .debug) ∧
       (h.cx.debugger = false → f.st = .parked .halt ∧ ∃ x, t.teams.get? h.tid = some x ∧ x.haltedBy = some h.fid)) ∧
     (Runs (.pmcapStart w) h s → ready →
       (h.g.capture.isSome = true ∨ badSel → ∃ t, Flagged (.pmcapStart w) h s t [] w.dst true) ∧
       (h.g.capture = none → ¬ badSel → ∃ t g c, Flagged (.pmcapStart w) h s t [] w.dst false ∧ t.groups.get? h.gid = some g ∧
         g.capture = some c ∧ c.addr = h.srcS w.a ∧ c.sel = sel ∧ c.start = codePtr h.f.line h.f.slot ∧ c.intr = 0 ∧
         c.base.length = 9 ∧ c.sum = List.replicate 9 0)) ∧
     (Runs (.pmcapStop w) h s →
       (h.g.capture = none → ∃ t, Flagged (.pmcapStop w) h s t [] w.dst true) ∧
       (∀ c, h.g.capture = some c → s.logBusy h = false →
         (∀ i, i < 16 → s.laneGlobal h (c.addr.toNat + 8 * i) 8 .write = none) →
         let s1 := s.tick h.core
         let x := c.record (s.launchName h.t.launch) (c.close (s1.readWindow h.core c.sel))
         ∃ t g, exec (.pmcapStop w) s = .next t ∧ WentOn (.pmcapStop w) h t ∧ RegFrame h s t (dstRegs w.dst false) ∧
           t.ctxs = s.ctxs ∧ t.accs = s.accs ∧ t.mem = (s1.vwrite h.core h.cx c.addr.toNat 128 x).mem ∧
           t.hostMem = (s1.vwrite h.core h.cx c.addr.toNat 128 x).hostMem ∧ t.groups.get? h.gid = some g ∧ g.capture = none ∧
           ∀ r, w.dst = .c r → g.c.getLsbD r.val = false))) ∧
  ((∀ (s : State) (n : Fin 48) (code : Fin 12), s.up = true → ∃ t, exec (.counterEventConfig n code) s = .next t ∧ SameMem s t ∧ t.groups = s.groups ∧
     t.evCode n.val = code.val ∧ ∀ m, m ≠ n.val → t.evCode m = s.evCode m) ∧
   (∀ (s : State) (ctx : Nat) (c : Ctx), s.ctxs.get? ctx = some c →
     let owes (t : State) (x : Nat) : Prop := ∀ k g tm, s.groups.get? k = some g → s.teams.get? g.team = some tm → tm.ctx = ctx →
       t.groups.get? k = some { g with debt := x }
     (∀ d, trialBad d = true ∨ c.trial.isSome = true → ∃ t, exec (.trialStart ctx d) s = .next t ∧ SameMem s t ∧ t.groups = s.groups ∧
       t.ctxs.get? ctx = some { c with condRet := 0xFFFFFFFFFFFFFFFF }) ∧
     (∀ d, trialBad d = false → c.trial = none → ∃ t x y, exec (.trialStart ctx d) s = .next t ∧ SameMem s t ∧ owes t 0 ∧
       t.ctxs.get? ctx = some x ∧ x.condRet = 0 ∧ x.trial = some y ∧ y.desc = d ∧ y.epoch = 0 ∧ y.gd = 0 ∧ y.base = c.progressNow ∧
       y.noff = List.replicate 16 0 ∧ y.non = List.replicate 16 0) ∧
     (∀ ns y, c.trial = some y → let len := 1000 * bitsN y.desc.toNat 191 160
       let last := bitsN y.desc.toNat 207 192 ≤ y.epoch + 1
       let told := y.tally len c.progressNow
       let a := bitsN y.desc.toNat 311 256
       let tallied (z : Trial) : Prop :=
         (y.epoch % 2 = 0 → z.toff = y.toff + len ∧ z.ton = y.ton ∧ z.non = y.non ∧
           ∀ n a b, n < 16 → y.noff[n]? = some a → y.base[n]? = some b → z.noff[n]? = some (a + (c.progress.getD 0 n - b))) ∧
         (y.epoch % 2 = 1 → z.ton = y.ton + len ∧ z.toff = y.toff ∧ z.noff = y.noff ∧
           ∀ n a b, n < 16 → y.non[n]? = some a → y.base[n]? = some b → z.non[n]? = some (a + (c.progress.getD 0 n - b)))
       (c.st ≠ 1 ∨ ns < len → exec (.trialEpochEnd ctx ns) s = .next s) ∧
       (c.st = 1 → len ≤ ns → ∃ t, exec (.trialEpochEnd ctx ns) s = .next t ∧ owes t y.gd ∧
         (¬ last → SameMem s t ∧ ∃ x z, t.ctxs.get? ctx = some x ∧ x.trial = some z ∧ z.epoch = y.epoch + 1 ∧ z.base = c.progressNow ∧ tallied z) ∧
         (last → tallied told ∧ (∃ x, t.ctxs.get? ctx = some x ∧ x.trial = none) ∧
           t.mem = ((s.vwrite devAgent c a 280 told.report).vwrite devAgent c (a + 280) 8 1).mem ∧
           t.hostMem = ((s.vwrite devAgent c a 280 told.report).vwrite devAgent c (a + 280) 8 1).hostMem)))))

/-- The debug core (R412, R413, R415). A hart is one group slot: hartsel holds the slot in bits 3 to 0 and the partition in bits
5 to 4, no bit above 13 is set, and a slot that holds no group is no hart. HALTREQ halts a group and attaches the debugger,
RESUMEREQ lets it go on. Each
die's debug core keeps the cmderr and the data of its last command (log 32, the model's choice). Of a halted group Access Register
reads or writes a register of R413's table that the group has; of one that is not halted it ends with cmderr 4. Access Memory reads or writes aligned bytes as the group would, and reads an object of the aperture; an address that
is misaligned or out of the address space, a write to an object, and a poisoned object end with cmderr 3 (log 32). A code breakpoint of a context is set or
cleared. -/
def Obligations.DebugCore : Prop :=
  (∀ (s : State) (hart : Nat),
    (2 ^ 14 ≤ hart ∨ 48 ≤ bitsN hart 11 6 → s.hartGroup hart = none) ∧
    (∀ gid, s.hartGroup hart = some gid → ∃ g, s.groups.get? gid = some g ∧ g.slot = bitsN hart 3 0 ∧ g.idx % 4 = bitsN hart 5 4) ∧
    (s.hartGroup hart = none → exec (.haltreq hart) s = .next s ∧ exec (.resumereq hart) s = .next s ∧
      (∀ c, exec (.accessRegister hart c) s = .next s) ∧ ∀ c, exec (.accessMemory hart c) s = .next s)) ∧
  (∀ (s : State) (hart gid : Nat) (g : Group) (tm : Team) (cx : Ctx), s.hartGroup hart = some gid → s.groups.get? gid = some g →
    s.teams.get? g.team = some tm → s.ctxs.get? tm.ctx = some cx →
    (∃ t, exec (.haltreq hart) s = .next t ∧ SameMem s t ∧ t.frags = s.frags ∧
      t.groups.get? gid = some { g with halted := true, stopCause := .debug } ∧ t.ctxs.get? tm.ctx = some { cx with debugger := true }) ∧
    (∃ t, exec (.resumereq hart) s = .next t ∧ SameMem s t ∧ t.frags = s.frags ∧ t.groups.get? gid = some { g with halted := false }) ∧
    (s.asleep = false →
    let die := bitsN hart 13 12
    let said (t : State) (e : Nat) (x : Option Nat) : Prop := (t.debugs.getD {} die).cmderr = e ∧
      (t.debugs.getD {} die).data = (x.map (BitVec.ofNat 128)).getD (s.debugs.getD {} die).data ∧
      ∀ d, d ≠ die → t.debugs.getD {} d = s.debugs.getD {} d
    let tells (i : Instr) (e : Nat) (x : Option Nat) : Prop := ∃ t, exec i s = .next t ∧ said t e x ∧ SameMem s t ∧
      t.groups = s.groups ∧ t.frags = s.frags ∧ t.ctxs = s.ctxs
    (∀ c : AccReg, s.isHalted gid = false → tells (.accessRegister hart c) 4 none) ∧
    (∀ (c : AccReg) (fid : Nat) (f : Frag) (r : DbgReg), s.isHalted gid = true → c.postexec = false → c.transfer = true →
      dbgReg c.regno.toNat = some (r, c.aarsize.val) → (s.fragsOf gid).head? = some fid → s.frags.get? fid = some f →
      (∀ n l, r = .v n l → n < 16 * g.blocks) → (c.write = true → r ≠ .k 0 ∧ (r = .pc → badPtr c.value.toNat = false)) →
      let f0 : Frag := { f with lost := [] }
      (c.write = false → tells (.accessRegister hart c) 0 (some (r.read f g))) ∧
      (c.write = true → ∃ t g' f', exec (.accessRegister hart c) s = .next t ∧ said t 0 none ∧ SameMem s t ∧
        t.groups.get? gid = some g' ∧ t.frags.get? fid = some f' ∧
        (∀ n, r = .s n → g' = g.setS n c.value ∧ f' = f0) ∧ (∀ n, r = .k n → g' = g.setK n (c.value.truncate 32) ∧ f' = f0) ∧
        (∀ n l, r = .v n l → g' = g.setV n l (c.value.truncate 32) ∧ f' = f0) ∧
        (r = .c → g'.c = c.value.truncate 8 ∧ g'.v = g.v ∧ g'.s = g.s ∧ g'.k = g.k ∧ g'.fsr = g.fsr ∧ f' = f0) ∧
        (r = .rgnpc → g' = { g.heal .rgnpc with rgnpc := c.value.truncate 56 } ∧ f' = f0) ∧
        (r = .fsr → g' = g.setFsr c.value.toNat ∧ f' = f0) ∧
        (r = .sig → g' = g.heal (.sig f.uid) ∧ f' = { f0 with sig := c.value.truncate 32 }) ∧
        (r = .pc → f'.line = BitVec.ofNat 56 (c.value.toNat / 64 * 64) ∧ f'.slot.val = c.value.toNat % 8 ∧
          (f.hold = false → f'.st = .ready)))) ∧
    (∀ (c : AccMem), let n := 2 ^ c.size.val
      let va := c.addr.toNat
      let key := objKey (va - va % 64)
      (c.virt = false → tells (.accessMemory hart c) 2 none) ∧
      (c.virt = true → va % n ≠ 0 ∨ 2 ^ 56 ≤ va ∨ (inAperture va = true ∧ (c.write = true ∨ s.objExists va = false)) →
        tells (.accessMemory hart c) 3 none) ∧
      (c.virt = true → va % n = 0 → va < 2 ^ 56 → inAperture va = true → c.write = false → s.objExists va = true →
        ((s.objs.get? key).map Obj.poisoned = some true → tells (.accessMemory hart c) 3 none) ∧
        ((s.objs.get? key).map Obj.poisoned ≠ some true →
          (n ≤ 8 → tells (.accessMemory hart c) 0 (some (s.objWord key (va % 64 / 8) / 2 ^ (8 * (va % 8)) % 2 ^ (8 * n)))) ∧
          (n = 16 → tells (.accessMemory hart c) 0
            (some ((s.objWord key (va % 64 / 8) + 2 ^ 64 * s.objWord key (va % 64 / 8 + 1)) % 2 ^ 128))))) ∧
      (∀ pa mt, c.virt = true → va % n = 0 → va < 2 ^ 56 → inAperture va = false →
        (c.write = false → s.xl tm.core cx va .read = .ok pa mt → s.poisoned mt pa n = false →
          let u := s.touch tm.core cx va false
          ∃ t, exec (.accessMemory hart c) s = .next t ∧ said t 0 (some (u.physRead mt pa n)) ∧ SameMem u t ∧ t.groups = s.groups ∧
            t.frags = s.frags) ∧
        (c.write = true → s.xl tm.core cx va .write = .ok pa mt → s.storeLost tm.core cx va = false →
          s.vPartPoison tm.core cx va n = false → ∃ t, exec (.accessMemory hart c) s = .next t ∧ said t 0 none ∧ t.groups = s.groups ∧
            Stored s t (s.storeBytes tm.core cx n [(va, c.value.toNat % 2 ^ (8 * n))]) ∧
            (mt < 2 → readLE t.mem pa n = c.value.toNat % 2 ^ (8 * n))))))) ∧
  (∀ (s : State) (ctx : Nat) (c : Ctx) (n : Fin 8) (a : Option (BitVec 64)), s.ctxs.get? ctx = some c →
    ∃ t x, exec (.debugBreakpointSet ctx n a) s = .next t ∧ SameMem s t ∧ t.groups = s.groups ∧ t.ctxs.get? ctx = some x ∧
      x.brks.get? n.val = a ∧ ∀ m, m ≠ n.val → x.brks.get? m = c.brks.get? m)

/-! ## Reliability, energy and boot (spec/26) -/

/-- Errors, the Shepherd, scrubs and page retirement (R416, R417, R419, R425 to R428, R430). An error that strikes a register
or a block of HBM comes before the step's own work; an instruction that reads such a register has no effect: its group stops at
its slot, its cores freeze, and the event is logged. An error of the control complex that
stops Shento resets the module, whose energy counters and attestation registers stand. A stopped group whose region is open and whose
first event this is goes back to its region's start with a fresh signature and without its outstanding loads, wherever its fragment
stopped; with no region, after a second event, or with no fragment left, its team is killed; at a poisoned Fold object its context is
aborted. The decision is logged with the kind, the array and the address of the error, and with no other group stopped the cores thaw.
That a restart withdraws what the group's fragments wait for (log 34), and that a row is told by its page (log 35), are the model's
choices. A scrub that corrects a block changes no byte and counts the error, and one that cannot poisons its words and lists its row
for repair. A retired page's bytes move to the target, which the event names (log 35), and no agent keeps a translation to it. -/
def Obligations.Recovery : Prop :=
  (∀ (s : State) (gid : Nat) (g : Group) (rest : List Upset), s.groups.get? gid = some g → s.asleep = false →
    let struck (u : Upset) (t : State) : Prop := s.upsets = u :: rest → step s = .next t.unstall
    (∀ w, ∃ t g', struck (.vreg gid w) t ∧ SameMem s t ∧ t.groups.get? gid = some g' ∧ g'.badV.has w = true ∧ g'.v = g.v) ∧
    (∀ r, ∃ t g', struck (.reg gid r) t ∧ SameMem s t ∧ t.groups.get? gid = some g' ∧ g'.badR.contains r = true ∧ SameRegs g g' noReg) ∧
    (∀ b, 32 * b < s.hbmBytes → ∃ t, struck (.hbm b) t ∧ t.mem = s.mem ∧ t.groups = s.groups ∧
      t.errLog.length = s.errLog.length + 1 ∧ 32 * b / 2 ^ 18 ∈ t.boot.rows ∧ ∀ i, i < 4 → t.poison.getD false (4 * b + i) = true) ∧
    (∃ t, struck .shento t ∧ t.mem = [] ∧ t.groups = [] ∧ t.ctxs = [] ∧ t.energy = s.energy ∧ t.asleep = false ∧
      t.boot.aregs = s.boot.aregs ∧ t.boot.leaf = s.boot.leaf)) ∧
  (∀ (s : State) (h : Here) (i : Instr) (arr : Nat),
    (i.aluMajor.isSome || i.memRow.isSome || i.engRow.isSome || i.brRow.isSome) = true → s.here = some h → preCheck i h s = none →
    h.mustWait i = false → badRead i h = some arr →
    ∃ t f, exec i s = .next t ∧ SameMem s t ∧ t.errLog.length = s.errLog.length + 1 ∧ t.frags.get? h.fid = some f ∧
      f.st = .parked .frozen ∧ f.line = h.f.line ∧ f.slot = h.f.slot ∧
      t.groups.get? h.gid = some { h.g with events := h.g.events + 1, frozen := true, error := { kind := 1, array := arr, pa := 0 } } ∧
      ∀ k ∈ s.freezeCores h.t, (t.core k).frozen = true) ∧
  (∀ (s : State) (gid : Nat) (g : Group) (tm : Team) (cx : Ctx), s.groups.get? gid = some g → g.frozen = true →
    s.teams.get? g.team = some tm → s.ctxs.get? tm.ctx = some cx → g.error.kind < 16 → g.error.array < 256 →
    let frs := s.fragsOf gid
    let src := (frs.find? fun k => (s.frags.get? k).map Frag.st == some (.parked .frozen)).orElse fun _ => frs.head?
    let quiet := ∀ k ∈ frs, ∀ f, s.frags.get? k = some f → ∀ key a b x, f.st ≠ .parked (.token key a b) ∧ f.st ≠ .parked (.take key a x)
    let logs (t : State) (d : Nat) : Prop := ∃ newer e, t.errLog = newer ++ e :: s.errLog ∧ bitsN e.toNat 3 0 = g.error.kind ∧
      bitsN e.toNat 11 4 = g.error.array ∧ bitsN e.toNat 15 12 = d ∧ (tm.core < 192 → bitsN e.toNat 307 256 = g.error.pa % 2 ^ 52)
    let killed := ∃ t, exec (.shepherdDecision gid) s = .next t ∧ logs t 3 ∧ t.liveGroups g.team = []
    (frs = [] → s.frags.get? (2 ^ 21) = none → killed) ∧
    (∀ k h, src = some k → s.hereOf k = some h →
      let restarts := g.rgnpc ≠ 0 ∧ g.events ≤ 1
      (s.foldPoisoned h = false → restarts → ∃ t g', exec (.shepherdDecision gid) s = .next t ∧ SameMem s t ∧ logs t 2 ∧
        t.groups.get? gid = some g' ∧ g'.frozen = false ∧ g'.rgnpc = g.rgnpc ∧
        (quiet → SameRegs g g' noReg ∧ ∀ e ∈ g'.pend, e ∈ g.pend ∧ e.2.load = false) ∧
        (s.groups.wf = true → (∀ e ∈ s.groups, e.2.frozen = true → e.1 = gid) → ∀ c ∈ t.cores, c.2.frozen = false) ∧
        ∃ f, t.frags.get? k = some f ∧ f.line = BitVec.ofNat 56 (g.rgnpc.toNat / 64 * 64) ∧
          f.slot = Fin.ofNat 5 (g.rgnpc.toNat % 8) ∧ f.sig = 0xFFFFFFFF ∧ f.latches = [] ∧ (h.f.hold = false → f.st = .ready)) ∧
      (s.foldPoisoned h = false → ¬ restarts → killed) ∧
      (s.foldPoisoned h = true → cx.st ≠ 5 → ∃ t x, exec (.shepherdDecision gid) s = .next t ∧ logs t 4 ∧
        t.ctxs.get? tm.ctx = some x ∧ x.st = 5))) ∧
  (∀ (s : State) (block : Nat), s.up = true → 32 * block < s.hbmBytes →
    (∃ t, exec (.hbmScrub block true) s = .next t ∧ SameMem s t ∧ t.groups = s.groups ∧
      t.errCounts.getD 0 (errKey 0 8 (32 * block)) = s.errCounts.getD 0 (errKey 0 8 (32 * block)) + 1) ∧
    (∃ t, exec (.hbmScrub block false) s = .next t ∧ t.mem = s.mem ∧ t.groups = s.groups ∧ t.errLog.length = s.errLog.length + 1 ∧
      32 * block / 2 ^ 18 ∈ t.boot.rows ∧ ∀ a, t.poison.getD false a = (decide (4 * block ≤ a ∧ a < 4 * block + 4) || s.poison.getD false a))) ∧
  (∀ (s : State) (page target : Nat), s.up = true → page ≠ target → (page + 1) * 2 ^ 18 ≤ s.hbmBytes → (target + 1) * 2 ^ 18 ≤ s.hbmBytes →
    page ∉ s.boot.retiredPages → s.pageRetired target = false → (∀ c ∈ s.cores, c.2.xfers = []) → Memory.wf s.mem = true →
    let away (l : List TlbEntry) : Prop := ∀ e ∈ l, bitsN e.pte.toNat 7 6 < 2 →
      (page + 1) * 2 ^ 18 ≤ bitsN e.pte.toNat 51 18 * 2 ^ 18 ∨ bitsN e.pte.toNat 51 18 * 2 ^ 18 + e.size ≤ page * 2 ^ 18
    ∃ t, exec (.pageRetire page target []) s = .next t ∧ t.groups = s.groups ∧ t.boot.retiredPages = s.boot.retiredPages ++ [page] ∧
      t.errLog.length = s.errLog.length + 1 ∧
      (∀ a, memByte t.mem a = if target * 2 ^ 18 ≤ a ∧ a < (target + 1) * 2 ^ 18 then
        memByte s.mem (page * 2 ^ 18 + (a - target * 2 ^ 18)) else memByte s.mem a) ∧
      (∀ c ∈ t.cores, away c.2.tlb) ∧ ∀ d ∈ t.tlb2, away d.2)

/-- Energy, sleep, boot and attestation (R431 to R436). A window charges each island's energy to the functions in proportion to
their cycles, and a function over its budget is counted so. Sleep and a power loss
keep no volatile state; the leaf counter survives. A module that sleeps, or that recovery holds, creates no context or queue, joins
no domain, sets no budget, register or counter, scrubs and retires nothing, and one that sleeps counts no energy: only a cold boot
wakes it. A cold boot fences the retired positions that no spare covers and repairs the rows listed as failing; one whose first stage
does not verify against the fused key hash, or is too old, stays in recovery; one that verifies measures what it loads. An attestation
register from 3 on is extended at the driver's request, never in recovery; a report takes the next leaf and is refused when none is
left. That host memory, the memory of other modules and the fuses stand over sleep and power loss, that recovery refuses attestation
and the events above, and that failing rows become repairs at a boot (log 35), what energy a window has used (log 13), and the
signature's form, RFC 8554's (log 15), are the model's. -/
def Obligations.PowerAndBoot : Prop :=
  (∀ (s : State) (core n : Nat) (fn : Fin 64), s.asleep = false → core < 192 → 0 < n →
    ∃ t, exec (.energyWindow [(core, fn.val, n)]) s = .next t ∧ SameMem s t ∧ t.groups = s.groups ∧ t.window = s.window + 1 ∧
      t.time = s.time + 1000000 ∧
      (∀ i, i < 256 → t.energy.getD 0 i = s.energy.getD 0 i + BitVec.ofNat 64 (Config.energy s.window i)) ∧
      (t.fun_ fn.val).charged = (s.fun_ fn.val).charged + BitVec.ofNat 64 (Config.energy s.window core) ∧
      (s.funs.wf = true → (t.fun_ fn.val).overs = if (s.fun_ fn.val).budget ≠ 0 ∧
        1000 * (s.fun_ fn.val).budget < Config.energy s.window core then (s.fun_ fn.val).overs + 1 else 0)) ∧
  (∀ (s : State) (fn : Fin 64) (x : Nat), s.up = true → ∃ t, exec (.energyBudgetSet fn x) s = .next t ∧ SameMem s t ∧ t.groups = s.groups ∧
    t.fun_ fn.val = { s.fun_ fn.val with budget := x } ∧ ∀ m, m ≠ fn.val → t.fun_ m = s.fun_ m) ∧
  (∀ (s : State), ∀ i ∈ [Instr.moduleSleep, .powerLoss], ∃ t, exec i s = .next t ∧ t.asleep = true ∧ t.energy = [] ∧ t.mem = [] ∧ t.hostMem = s.hostMem ∧
    t.domMem = s.domMem ∧ t.groups = [] ∧ t.ctxs = [] ∧ t.queues = [] ∧ t.objs = [] ∧ t.boot.leaf = s.boot.leaf ∧
    t.boot.keyHash = s.boot.keyHash ∧ t.boot.minVer = s.boot.minVer ∧ t.boot.aregs = []) ∧
  (∀ (s : State), s.up = false → (∀ fn q m base host ctx, exec (.queueCreate fn q m base host ctx) s = .next s) ∧
    (∀ ctx d, exec (.contextCreate ctx d) s = .next s) ∧ (∀ n ms, exec (.domainConfigure n ms) s = .next s) ∧
    (∀ fn x, exec (.energyBudgetSet fn x) s = .next s) ∧ (∀ n code, exec (.counterEventConfig n code) s = .next s) ∧
    (∀ block ok, exec (.hbmScrub block ok) s = .next s) ∧ (∀ page target ptes, exec (.pageRetire page target ptes) s = .next s) ∧
    (∀ core v, exec (.registerWrite core v) s = .next s) ∧
    (s.asleep = true → ∀ cs, exec (.energyWindow cs) s = .next s)) ∧
  (∀ (s : State) (img : BootImage),
    let good (x sig : List Byte) (v : W32) : Prop := sha256 img.key = s.boot.keyHash ∧
      lmsVerify img.key x sig = true ∧ s.boot.minVer.toNat ≤ v.toNat
    ∃ t, exec (.coldBoot img) s = .next t ∧ t.asleep = false ∧ t.mem = [] ∧ t.groups = [] ∧ t.boot.leaf = s.boot.leaf ∧
      t.boot.fenced = fencedCores s.boot.retiredCores ∧ t.boot.retiredPages = s.boot.retiredPages ∧ t.boot.rows = [] ∧
      (∀ p, p ∈ t.boot.repairs ↔ p ∈ s.boot.repairs ∨ p ∈ s.boot.rows) ∧
      (¬ good img.stage1 img.sig1 img.version → t.boot.recovery = true ∧ t.boot.aregs = []) ∧
      (good img.stage1 img.sig1 img.version → ¬ good img.shento img.sigS img.shver → t.boot.recovery = true ∧
        t.boot.fwVer = img.version ∧ t.boot.aregs.getD 0 1 = 0) ∧
      (good img.stage1 img.sig1 img.version → good img.shento img.sigS img.shver → t.boot.recovery = false ∧
        t.boot.fwVer = img.version ∧ t.boot.shVer = img.shver ∧
        t.boot.aregs.getD 0 0 = sha256 (bytes32 0 ++ bytes32 (sha256 img.stage1)) ∧
        t.boot.aregs.getD 0 1 = sha256 (bytes32 0 ++ bytes32 (sha256 img.shento)))) ∧
  (∀ (s : State) (n : Fin 8) (m nonce : BitVec 256),
    (n.val < 3 ∨ s.up = false → exec (.attestationExtend n m) s = .next s) ∧
    (3 ≤ n.val → s.up = true → ∃ t, exec (.attestationExtend n m) s = .next t ∧ SameMem s t ∧ t.groups = s.groups ∧
      ∀ k, t.boot.aregs.getD 0 k = if k = n.val then sha256 (bytes32 (s.boot.aregs.getD 0 k) ++ bytes32 m)
        else s.boot.aregs.getD 0 k) ∧
    (2 ^ 20 ≤ s.boot.leaf ∨ s.up = false → exec (.attestationReport nonce) s = .next s) ∧
    (s.boot.leaf < 2 ^ 20 → s.up = true → ∃ t, exec (.attestationReport nonce) s = .next t ∧ SameMem s t ∧
      t.groups = s.groups ∧ t.boot.leaf = s.boot.leaf + 1 ∧ t.boot.aregs = s.boot.aregs ∧ t.boot.report.length = 3140 ∧
      (t.boot.report.drop 8).take 32 = bytes32 nonce))
end

