-- ==== Sys2Proof/Laws/Map.lean ====
section
/-! SUPPORT. Laws of the finite maps: reading after a write, and that every operation keeps the canonical form. -/

namespace Sys2Proof.SMap

variable {α : Type}

@[simp] theorem get?_nil (k : Nat) : get? ([] : SMap α) k = none := rfl

theorem get?_cons (k k' : Nat) (v : α) (t : SMap α) : get? ((k', v) :: t) k = if k = k' then some v else get? t k := rfl

@[simp] theorem get?_set_self (m : SMap α) (k : Nat) (v : α) : (m.set k v).get? k = some v := by
  induction m with
  | nil => simp [set, get?]
  | cons e t ih =>
    obtain ⟨k', v'⟩ := e
    simp only [set]
    split
    · simp [get?]
    · split
      · simp [get?]
      · rename_i h1 h2
        simp [get?, h2, ih]

theorem get?_set_ne (m : SMap α) {k j : Nat} (v : α) (h : j ≠ k) : (m.set k v).get? j = m.get? j := by
  induction m with
  | nil => simp [set, get?, h]
  | cons e t ih =>
    obtain ⟨k', v'⟩ := e
    simp only [set]
    split
    · simp [get?, h]
    · split
      · rename_i h1 h2
        subst h2
        simp [get?, h]
      · simp [get?, ih]

/-- A read after a write. -/
theorem get?_set (m : SMap α) (k j : Nat) (v : α) : (m.set k v).get? j = if j = k then some v else m.get? j := by
  by_cases h : j = k
  · subst h; simp
  · simp [h, get?_set_ne]

theorem get?_erase (m : SMap α) (k j : Nat) : (m.erase k).get? j = if j = k then none else m.get? j := by
  induction m with
  | nil => simp [erase]
  | cons e t ih =>
    obtain ⟨k', v'⟩ := e
    simp only [erase]
    by_cases hk : k = k'
    · subst hk
      rw [if_pos rfl, ih, get?_cons]
      by_cases hj : j = k <;> simp [hj]
    · by_cases hj : j = k'
      · subst hj
        have : ¬ j = k := fun h => hk h.symm
        simp [hk, get?, this]
      · simp [hk, get?, ih, hj]

theorem get?_modify (m : SMap α) (k j : Nat) (f : α → α) :
    (m.modify k f).get? j = if j = k then (m.get? k).map f else m.get? j := by
  unfold modify
  cases h : m.get? k with
  | none => by_cases hj : j = k <;> simp [hj, h]
  | some v => by_cases hj : j = k <;> simp [hj, get?_set]

theorem get?_mapV (m : SMap α) (k : Nat) (f : Nat → α → α) : (m.mapV f).get? k = (m.get? k).map (f k) := by
  induction m with
  | nil => rfl
  | cons e t ih =>
    obtain ⟨k', v'⟩ := e
    simp only [mapV, List.map_cons, get?] at ih ⊢
    by_cases h : k = k'
    · subst h; simp
    · simpa [h] using ih

/-- A read after a write of a default-valued map. -/
theorem getD_setD [DecidableEq α] (m : SMap α) (d : α) (k j : Nat) (v : α) :
    (m.setD d k v).getD d j = if j = k then v else m.getD d j := by
  unfold setD getD
  split
  · rename_i h
    subst h
    rw [get?_erase]
    by_cases hj : j = k <;> simp [hj]
  · rw [get?_set]
    by_cases hj : j = k <;> simp [hj]

@[simp] theorem getD_setD_self [DecidableEq α] (m : SMap α) (d : α) (k : Nat) (v : α) : (m.setD d k v).getD d k = v := by
  simp [getD_setD]

theorem getD_setD_ne [DecidableEq α] (m : SMap α) (d : α) {k j : Nat} (v : α) (h : j ≠ k) :
    (m.setD d k v).getD d j = m.getD d j := by
  simp [getD_setD, h]

/-! ## Canonical form -/

theorem mem_set {m : SMap α} {k : Nat} {v : α} {e : Nat × α} (h : e ∈ m.set k v) : e = (k, v) ∨ e ∈ m := by
  induction m with
  | nil => simpa [set] using h
  | cons x t ih =>
    obtain ⟨k', v'⟩ := x
    simp only [set] at h
    split at h
    · simpa using h
    · split at h
      · rcases List.mem_cons.mp h with h | h
        · exact .inl h
        · exact .inr (List.mem_cons_of_mem _ h)
      · rcases List.mem_cons.mp h with h | h
        · exact .inr (by simp [h])
        · rcases ih h with h | h
          · exact .inl h
          · exact .inr (List.mem_cons_of_mem _ h)

theorem mem_erase {m : SMap α} {k : Nat} {e : Nat × α} (h : e ∈ m.erase k) : e ∈ m := by
  induction m with
  | nil => simp [erase] at h
  | cons x t ih =>
    obtain ⟨k', v'⟩ := x
    simp only [erase] at h
    split at h
    · exact List.mem_cons_of_mem _ (ih h)
    · rcases List.mem_cons.mp h with h | h
      · simp [h]
      · exact List.mem_cons_of_mem _ (ih h)

theorem wf_cons {k : Nat} {v : α} {t : SMap α} : wf ((k, v) :: t) = true ↔ (∀ e ∈ t, k < e.1) ∧ wf t = true := by
  simp [wf]

theorem wf_set {m : SMap α} (k : Nat) (v : α) (h : m.wf = true) : (m.set k v).wf = true := by
  induction m with
  | nil => simp [set, wf]
  | cons x t ih =>
    obtain ⟨k', v'⟩ := x
    obtain ⟨hlt, ht⟩ := wf_cons.mp h
    simp only [set]
    split
    · rename_i hk
      refine wf_cons.mpr ⟨?_, h⟩
      intro e he
      rcases List.mem_cons.mp he with he | he
      · simpa [he] using hk
      · exact Nat.lt_trans hk (hlt e he)
    · split
      · rename_i hk
        subst hk
        exact wf_cons.mpr ⟨hlt, ht⟩
      · refine wf_cons.mpr ⟨?_, ih ht⟩
        intro e he
        rcases mem_set he with he | he
        · subst he
          change k' < k
          omega
        · exact hlt e he

theorem wf_erase {m : SMap α} (k : Nat) (h : m.wf = true) : (m.erase k).wf = true := by
  induction m with
  | nil => rfl
  | cons x t ih =>
    obtain ⟨k', v'⟩ := x
    obtain ⟨hlt, ht⟩ := wf_cons.mp h
    simp only [erase]
    split
    · exact ih ht
    · exact wf_cons.mpr ⟨fun e he => hlt e (mem_erase he), ih ht⟩

theorem wfD_iff [DecidableEq α] {m : SMap α} {d : α} : m.wfD d = true ↔ m.wf = true ∧ ∀ e ∈ m, e.2 ≠ d := by
  simp [wfD]

/-- A write keeps the canonical form of a default-valued map. -/
theorem wfD_setD [DecidableEq α] {m : SMap α} {d : α} (k : Nat) (v : α) (h : m.wfD d = true) : (m.setD d k v).wfD d = true := by
  obtain ⟨hw, hd⟩ := wfD_iff.mp h
  unfold setD
  split
  · exact wfD_iff.mpr ⟨wf_erase k hw, fun e he => hd e (mem_erase he)⟩
  · rename_i hv
    refine wfD_iff.mpr ⟨wf_set k v hw, fun e he => ?_⟩
    rcases mem_set he with he | he
    · subst he; exact hv
    · exact hd e he

/-- Two canonical maps that read alike are the same list. -/
theorem ext_getD [DecidableEq α] {d : α} {m n : SMap α} (hm : m.wfD d = true) (hn : n.wfD d = true)
    (h : ∀ k, m.getD d k = n.getD d k) : m = n := by
  have none_below : ∀ {t : SMap α} {k : Nat}, (∀ e ∈ t, k < e.1) → t.getD d k = d := by
    intro t k ht
    induction t with
    | nil => rfl
    | cons x u ih =>
      obtain ⟨k', v'⟩ := x
      have hk : k < k' := ht (k', v') (by simp)
      have : ¬ k = k' := by omega
      simpa [getD, get?, this] using ih fun e he => ht e (List.mem_cons_of_mem _ he)
  induction m generalizing n with
  | nil =>
    cases n with
    | nil => rfl
    | cons y u =>
      obtain ⟨k, v⟩ := y
      have := h k
      simp only [getD, get?] at this
      exact absurd this.symm (by simpa using (wfD_iff.mp hn).2 (k, v) (by simp))
  | cons x t ih =>
    obtain ⟨k, v⟩ := x
    have hv : v ≠ d := (wfD_iff.mp hm).2 (k, v) (by simp)
    obtain ⟨hkt, hwt⟩ := wf_cons.mp (wfD_iff.mp hm).1
    have htd : wfD t d = true := wfD_iff.mpr ⟨hwt, fun e he => (wfD_iff.mp hm).2 e (List.mem_cons_of_mem _ he)⟩
    cases n with
    | nil =>
      have := h k
      simp only [getD, get?] at this
      exact absurd (by simpa using this) hv
    | cons y u =>
      obtain ⟨k', v'⟩ := y
      have hv' : v' ≠ d := (wfD_iff.mp hn).2 (k', v') (by simp)
      obtain ⟨hku, hwu⟩ := wf_cons.mp (wfD_iff.mp hn).1
      have hud : wfD u d = true := wfD_iff.mpr ⟨hwu, fun e he => (wfD_iff.mp hn).2 e (List.mem_cons_of_mem _ he)⟩
      have hkk : k = k' := by
        rcases Nat.lt_trichotomy k k' with hlt | heq | hgt
        · have h1 := h k
          have hn' : getD ((k', v') :: u) d k = d := none_below fun e he => by
            rcases List.mem_cons.mp he with he | he
            · simpa [he] using hlt
            · exact Nat.lt_trans hlt (hku e he)
          rw [hn'] at h1
          simp [getD, get?] at h1
          exact absurd h1 hv
        · exact heq
        · have h1 := h k'
          have hm' : getD ((k, v) :: t) d k' = d := none_below fun e he => by
            rcases List.mem_cons.mp he with he | he
            · simpa [he] using hgt
            · exact Nat.lt_trans hgt (hkt e he)
          rw [hm'] at h1
          simp [getD, get?] at h1
          exact absurd h1.symm hv'
      subst hkk
      have hvv : v = v' := by simpa [getD, get?] using h k
      subst hvv
      have : t = u := ih htd hud fun j => by
        by_cases hj : j = k
        · subst hj; rw [none_below hkt, none_below hku]
        · simpa [getD, get?, hj] using h j
      rw [this]

end Sys2Proof.SMap

namespace Sys2Proof

/-! ## Folds over lanes -/

theorem foldLanes_eq {β : Type} (mask : BitVec 32) (b : β) (f : β → Nat → β) :
    foldLanes mask b f = (lanesOf mask).foldl f b := by
  unfold foldLanes lanesOf
  generalize List.range 32 = l
  induction l generalizing b with
  | nil => rfl
  | cons x t ih =>
    by_cases h : mask.getLsbD x = true <;> simp [h, ih]

theorem mem_lanesOf {mask : BitVec 32} {l : Nat} : l ∈ lanesOf mask ↔ l < 32 ∧ mask.getLsbD l = true := by
  simp [lanesOf]

end Sys2Proof
end

