-- ==== Sys2Proof/Laws/State.lean ====
section
/-! SUPPORT. Laws of State's updates: what each named update leaves every field of State as, true by definition. -/

namespace Sys2Proof.Machine.State

section modCore
variable (s : State) (k : Nat) (f : Core → Core)
@[simp] theorem modCore_g9 : (s.modCore k f).g9 = s.g9 := rfl
@[simp] theorem modCore_mem : (s.modCore k f).mem = s.mem := rfl
@[simp] theorem modCore_hostMem : (s.modCore k f).hostMem = s.hostMem := rfl
@[simp] theorem modCore_domMem : (s.modCore k f).domMem = s.domMem := rfl
@[simp] theorem modCore_poison : (s.modCore k f).poison = s.poison := rfl
@[simp] theorem modCore_upsets : (s.modCore k f).upsets = s.upsets := rfl
@[simp] theorem modCore_agenda : (s.modCore k f).agenda = s.agenda := rfl
@[simp] theorem modCore_turns : (s.modCore k f).turns = s.turns := rfl
@[simp] theorem modCore_units : (s.modCore k f).units = s.units := rfl
@[simp] theorem modCore_cur : (s.modCore k f).cur = s.cur := rfl
@[simp] theorem modCore_free : (s.modCore k f).free = s.free := rfl
@[simp] theorem modCore_stamp : (s.modCore k f).stamp = s.stamp := rfl
@[simp] theorem modCore_time : (s.modCore k f).time = s.time := rfl
@[simp] theorem modCore_cores : (s.modCore k f).cores = s.cores.setD {} k (f (s.core k)) := rfl
@[simp] theorem modCore_frags : (s.modCore k f).frags = s.frags := rfl
@[simp] theorem modCore_groups : (s.modCore k f).groups = s.groups := rfl
@[simp] theorem modCore_teams : (s.modCore k f).teams = s.teams := rfl
@[simp] theorem modCore_accs : (s.modCore k f).accs = s.accs := rfl
@[simp] theorem modCore_spilled : (s.modCore k f).spilled = s.spilled := rfl
@[simp] theorem modCore_clusters : (s.modCore k f).clusters = s.clusters := rfl
@[simp] theorem modCore_savedRays : (s.modCore k f).savedRays = s.savedRays := rfl
@[simp] theorem modCore_saves : (s.modCore k f).saves = s.saves := rfl
@[simp] theorem modCore_launches : (s.modCore k f).launches = s.launches := rfl
@[simp] theorem modCore_nextLaunch : (s.modCore k f).nextLaunch = s.nextLaunch := rfl
@[simp] theorem modCore_nextTeam : (s.modCore k f).nextTeam = s.nextTeam := rfl
@[simp] theorem modCore_nextFrag : (s.modCore k f).nextFrag = s.nextFrag := rfl
@[simp] theorem modCore_accepted : (s.modCore k f).accepted = s.accepted := rfl
@[simp] theorem modCore_drovers : (s.modCore k f).drovers = s.drovers := rfl
@[simp] theorem modCore_ctxs : (s.modCore k f).ctxs = s.ctxs := rfl
@[simp] theorem modCore_objs : (s.modCore k f).objs = s.objs := rfl
@[simp] theorem modCore_folds : (s.modCore k f).folds = s.folds := rfl
@[simp] theorem modCore_objCount : (s.modCore k f).objCount = s.objCount := rfl
@[simp] theorem modCore_syncBusy : (s.modCore k f).syncBusy = s.syncBusy := rfl
@[simp] theorem modCore_tileEngs : (s.modCore k f).tileEngs = s.tileEngs := rfl
@[simp] theorem modCore_subCount : (s.modCore k f).subCount = s.subCount := rfl
@[simp] theorem modCore_tlb2 : (s.modCore k f).tlb2 = s.tlb2 := rfl
@[simp] theorem modCore_llc : (s.modCore k f).llc = s.llc := rfl
@[simp] theorem modCore_hinges : (s.modCore k f).hinges = s.hinges := rfl
@[simp] theorem modCore_deadHinges : (s.modCore k f).deadHinges = s.deadHinges := rfl
@[simp] theorem modCore_uncore : (s.modCore k f).uncore = s.uncore := rfl
@[simp] theorem modCore_evCodes : (s.modCore k f).evCodes = s.evCodes := rfl
@[simp] theorem modCore_funs : (s.modCore k f).funs = s.funs := rfl
@[simp] theorem modCore_queues : (s.modCore k f).queues = s.queues := rfl
@[simp] theorem modCore_halts : (s.modCore k f).halts = s.halts := rfl
@[simp] theorem modCore_domOn : (s.modCore k f).domOn = s.domOn := rfl
@[simp] theorem modCore_domId : (s.modCore k f).domId = s.domId := rfl
@[simp] theorem modCore_domMembers : (s.modCore k f).domMembers = s.domMembers := rfl
@[simp] theorem modCore_domDown : (s.modCore k f).domDown = s.domDown := rfl
@[simp] theorem modCore_energy : (s.modCore k f).energy = s.energy := rfl
@[simp] theorem modCore_opps : (s.modCore k f).opps = s.opps := rfl
@[simp] theorem modCore_grants : (s.modCore k f).grants = s.grants := rfl
@[simp] theorem modCore_lowered : (s.modCore k f).lowered = s.lowered := rfl
@[simp] theorem modCore_window : (s.modCore k f).window = s.window := rfl
@[simp] theorem modCore_errLog : (s.modCore k f).errLog = s.errLog := rfl
@[simp] theorem modCore_debugs : (s.modCore k f).debugs = s.debugs := rfl
@[simp] theorem modCore_errCounts : (s.modCore k f).errCounts = s.errCounts := rfl
@[simp] theorem modCore_softRows : (s.modCore k f).softRows = s.softRows := rfl
@[simp] theorem modCore_boot : (s.modCore k f).boot = s.boot := rfl
@[simp] theorem modCore_asleep : (s.modCore k f).asleep = s.asleep := rfl
end modCore

section putCore
variable (s : State) (k : Nat) (c : Core)
@[simp] theorem putCore_g9 : (s.putCore k c).g9 = s.g9 := rfl
@[simp] theorem putCore_mem : (s.putCore k c).mem = s.mem := rfl
@[simp] theorem putCore_hostMem : (s.putCore k c).hostMem = s.hostMem := rfl
@[simp] theorem putCore_domMem : (s.putCore k c).domMem = s.domMem := rfl
@[simp] theorem putCore_poison : (s.putCore k c).poison = s.poison := rfl
@[simp] theorem putCore_upsets : (s.putCore k c).upsets = s.upsets := rfl
@[simp] theorem putCore_agenda : (s.putCore k c).agenda = s.agenda := rfl
@[simp] theorem putCore_turns : (s.putCore k c).turns = s.turns := rfl
@[simp] theorem putCore_units : (s.putCore k c).units = s.units := rfl
@[simp] theorem putCore_cur : (s.putCore k c).cur = s.cur := rfl
@[simp] theorem putCore_free : (s.putCore k c).free = s.free := rfl
@[simp] theorem putCore_stamp : (s.putCore k c).stamp = s.stamp := rfl
@[simp] theorem putCore_time : (s.putCore k c).time = s.time := rfl
@[simp] theorem putCore_cores : (s.putCore k c).cores = s.cores.setD {} k c := rfl
@[simp] theorem putCore_frags : (s.putCore k c).frags = s.frags := rfl
@[simp] theorem putCore_groups : (s.putCore k c).groups = s.groups := rfl
@[simp] theorem putCore_teams : (s.putCore k c).teams = s.teams := rfl
@[simp] theorem putCore_accs : (s.putCore k c).accs = s.accs := rfl
@[simp] theorem putCore_spilled : (s.putCore k c).spilled = s.spilled := rfl
@[simp] theorem putCore_clusters : (s.putCore k c).clusters = s.clusters := rfl
@[simp] theorem putCore_savedRays : (s.putCore k c).savedRays = s.savedRays := rfl
@[simp] theorem putCore_saves : (s.putCore k c).saves = s.saves := rfl
@[simp] theorem putCore_launches : (s.putCore k c).launches = s.launches := rfl
@[simp] theorem putCore_nextLaunch : (s.putCore k c).nextLaunch = s.nextLaunch := rfl
@[simp] theorem putCore_nextTeam : (s.putCore k c).nextTeam = s.nextTeam := rfl
@[simp] theorem putCore_nextFrag : (s.putCore k c).nextFrag = s.nextFrag := rfl
@[simp] theorem putCore_accepted : (s.putCore k c).accepted = s.accepted := rfl
@[simp] theorem putCore_drovers : (s.putCore k c).drovers = s.drovers := rfl
@[simp] theorem putCore_ctxs : (s.putCore k c).ctxs = s.ctxs := rfl
@[simp] theorem putCore_objs : (s.putCore k c).objs = s.objs := rfl
@[simp] theorem putCore_folds : (s.putCore k c).folds = s.folds := rfl
@[simp] theorem putCore_objCount : (s.putCore k c).objCount = s.objCount := rfl
@[simp] theorem putCore_syncBusy : (s.putCore k c).syncBusy = s.syncBusy := rfl
@[simp] theorem putCore_tileEngs : (s.putCore k c).tileEngs = s.tileEngs := rfl
@[simp] theorem putCore_subCount : (s.putCore k c).subCount = s.subCount := rfl
@[simp] theorem putCore_tlb2 : (s.putCore k c).tlb2 = s.tlb2 := rfl
@[simp] theorem putCore_llc : (s.putCore k c).llc = s.llc := rfl
@[simp] theorem putCore_hinges : (s.putCore k c).hinges = s.hinges := rfl
@[simp] theorem putCore_deadHinges : (s.putCore k c).deadHinges = s.deadHinges := rfl
@[simp] theorem putCore_uncore : (s.putCore k c).uncore = s.uncore := rfl
@[simp] theorem putCore_evCodes : (s.putCore k c).evCodes = s.evCodes := rfl
@[simp] theorem putCore_funs : (s.putCore k c).funs = s.funs := rfl
@[simp] theorem putCore_queues : (s.putCore k c).queues = s.queues := rfl
@[simp] theorem putCore_halts : (s.putCore k c).halts = s.halts := rfl
@[simp] theorem putCore_domOn : (s.putCore k c).domOn = s.domOn := rfl
@[simp] theorem putCore_domId : (s.putCore k c).domId = s.domId := rfl
@[simp] theorem putCore_domMembers : (s.putCore k c).domMembers = s.domMembers := rfl
@[simp] theorem putCore_domDown : (s.putCore k c).domDown = s.domDown := rfl
@[simp] theorem putCore_energy : (s.putCore k c).energy = s.energy := rfl
@[simp] theorem putCore_opps : (s.putCore k c).opps = s.opps := rfl
@[simp] theorem putCore_grants : (s.putCore k c).grants = s.grants := rfl
@[simp] theorem putCore_lowered : (s.putCore k c).lowered = s.lowered := rfl
@[simp] theorem putCore_window : (s.putCore k c).window = s.window := rfl
@[simp] theorem putCore_errLog : (s.putCore k c).errLog = s.errLog := rfl
@[simp] theorem putCore_debugs : (s.putCore k c).debugs = s.debugs := rfl
@[simp] theorem putCore_errCounts : (s.putCore k c).errCounts = s.errCounts := rfl
@[simp] theorem putCore_softRows : (s.putCore k c).softRows = s.softRows := rfl
@[simp] theorem putCore_boot : (s.putCore k c).boot = s.boot := rfl
@[simp] theorem putCore_asleep : (s.putCore k c).asleep = s.asleep := rfl
end putCore

section modFrag
variable (s : State) (k : Nat) (f : Frag → Frag)
@[simp] theorem modFrag_g9 : (s.modFrag k f).g9 = s.g9 := rfl
@[simp] theorem modFrag_mem : (s.modFrag k f).mem = s.mem := rfl
@[simp] theorem modFrag_hostMem : (s.modFrag k f).hostMem = s.hostMem := rfl
@[simp] theorem modFrag_domMem : (s.modFrag k f).domMem = s.domMem := rfl
@[simp] theorem modFrag_poison : (s.modFrag k f).poison = s.poison := rfl
@[simp] theorem modFrag_upsets : (s.modFrag k f).upsets = s.upsets := rfl
@[simp] theorem modFrag_agenda : (s.modFrag k f).agenda = s.agenda := rfl
@[simp] theorem modFrag_turns : (s.modFrag k f).turns = s.turns := rfl
@[simp] theorem modFrag_units : (s.modFrag k f).units = s.units := rfl
@[simp] theorem modFrag_cur : (s.modFrag k f).cur = s.cur := rfl
@[simp] theorem modFrag_free : (s.modFrag k f).free = s.free := rfl
@[simp] theorem modFrag_stamp : (s.modFrag k f).stamp = s.stamp := rfl
@[simp] theorem modFrag_time : (s.modFrag k f).time = s.time := rfl
@[simp] theorem modFrag_cores : (s.modFrag k f).cores = s.cores := rfl
@[simp] theorem modFrag_frags : (s.modFrag k f).frags = s.frags.modify k f := rfl
@[simp] theorem modFrag_groups : (s.modFrag k f).groups = s.groups := rfl
@[simp] theorem modFrag_teams : (s.modFrag k f).teams = s.teams := rfl
@[simp] theorem modFrag_accs : (s.modFrag k f).accs = s.accs := rfl
@[simp] theorem modFrag_spilled : (s.modFrag k f).spilled = s.spilled := rfl
@[simp] theorem modFrag_clusters : (s.modFrag k f).clusters = s.clusters := rfl
@[simp] theorem modFrag_savedRays : (s.modFrag k f).savedRays = s.savedRays := rfl
@[simp] theorem modFrag_saves : (s.modFrag k f).saves = s.saves := rfl
@[simp] theorem modFrag_launches : (s.modFrag k f).launches = s.launches := rfl
@[simp] theorem modFrag_nextLaunch : (s.modFrag k f).nextLaunch = s.nextLaunch := rfl
@[simp] theorem modFrag_nextTeam : (s.modFrag k f).nextTeam = s.nextTeam := rfl
@[simp] theorem modFrag_nextFrag : (s.modFrag k f).nextFrag = s.nextFrag := rfl
@[simp] theorem modFrag_accepted : (s.modFrag k f).accepted = s.accepted := rfl
@[simp] theorem modFrag_drovers : (s.modFrag k f).drovers = s.drovers := rfl
@[simp] theorem modFrag_ctxs : (s.modFrag k f).ctxs = s.ctxs := rfl
@[simp] theorem modFrag_objs : (s.modFrag k f).objs = s.objs := rfl
@[simp] theorem modFrag_folds : (s.modFrag k f).folds = s.folds := rfl
@[simp] theorem modFrag_objCount : (s.modFrag k f).objCount = s.objCount := rfl
@[simp] theorem modFrag_syncBusy : (s.modFrag k f).syncBusy = s.syncBusy := rfl
@[simp] theorem modFrag_tileEngs : (s.modFrag k f).tileEngs = s.tileEngs := rfl
@[simp] theorem modFrag_subCount : (s.modFrag k f).subCount = s.subCount := rfl
@[simp] theorem modFrag_tlb2 : (s.modFrag k f).tlb2 = s.tlb2 := rfl
@[simp] theorem modFrag_llc : (s.modFrag k f).llc = s.llc := rfl
@[simp] theorem modFrag_hinges : (s.modFrag k f).hinges = s.hinges := rfl
@[simp] theorem modFrag_deadHinges : (s.modFrag k f).deadHinges = s.deadHinges := rfl
@[simp] theorem modFrag_uncore : (s.modFrag k f).uncore = s.uncore := rfl
@[simp] theorem modFrag_evCodes : (s.modFrag k f).evCodes = s.evCodes := rfl
@[simp] theorem modFrag_funs : (s.modFrag k f).funs = s.funs := rfl
@[simp] theorem modFrag_queues : (s.modFrag k f).queues = s.queues := rfl
@[simp] theorem modFrag_halts : (s.modFrag k f).halts = s.halts := rfl
@[simp] theorem modFrag_domOn : (s.modFrag k f).domOn = s.domOn := rfl
@[simp] theorem modFrag_domId : (s.modFrag k f).domId = s.domId := rfl
@[simp] theorem modFrag_domMembers : (s.modFrag k f).domMembers = s.domMembers := rfl
@[simp] theorem modFrag_domDown : (s.modFrag k f).domDown = s.domDown := rfl
@[simp] theorem modFrag_energy : (s.modFrag k f).energy = s.energy := rfl
@[simp] theorem modFrag_opps : (s.modFrag k f).opps = s.opps := rfl
@[simp] theorem modFrag_grants : (s.modFrag k f).grants = s.grants := rfl
@[simp] theorem modFrag_lowered : (s.modFrag k f).lowered = s.lowered := rfl
@[simp] theorem modFrag_window : (s.modFrag k f).window = s.window := rfl
@[simp] theorem modFrag_errLog : (s.modFrag k f).errLog = s.errLog := rfl
@[simp] theorem modFrag_debugs : (s.modFrag k f).debugs = s.debugs := rfl
@[simp] theorem modFrag_errCounts : (s.modFrag k f).errCounts = s.errCounts := rfl
@[simp] theorem modFrag_softRows : (s.modFrag k f).softRows = s.softRows := rfl
@[simp] theorem modFrag_boot : (s.modFrag k f).boot = s.boot := rfl
@[simp] theorem modFrag_asleep : (s.modFrag k f).asleep = s.asleep := rfl
end modFrag

section putFrag
variable (s : State) (k : Nat) (f : Frag)
@[simp] theorem putFrag_g9 : (s.putFrag k f).g9 = s.g9 := rfl
@[simp] theorem putFrag_mem : (s.putFrag k f).mem = s.mem := rfl
@[simp] theorem putFrag_hostMem : (s.putFrag k f).hostMem = s.hostMem := rfl
@[simp] theorem putFrag_domMem : (s.putFrag k f).domMem = s.domMem := rfl
@[simp] theorem putFrag_poison : (s.putFrag k f).poison = s.poison := rfl
@[simp] theorem putFrag_upsets : (s.putFrag k f).upsets = s.upsets := rfl
@[simp] theorem putFrag_agenda : (s.putFrag k f).agenda = s.agenda := rfl
@[simp] theorem putFrag_turns : (s.putFrag k f).turns = s.turns := rfl
@[simp] theorem putFrag_units : (s.putFrag k f).units = s.units := rfl
@[simp] theorem putFrag_cur : (s.putFrag k f).cur = s.cur := rfl
@[simp] theorem putFrag_free : (s.putFrag k f).free = s.free := rfl
@[simp] theorem putFrag_stamp : (s.putFrag k f).stamp = s.stamp := rfl
@[simp] theorem putFrag_time : (s.putFrag k f).time = s.time := rfl
@[simp] theorem putFrag_cores : (s.putFrag k f).cores = s.cores := rfl
@[simp] theorem putFrag_frags : (s.putFrag k f).frags = s.frags.set k f := rfl
@[simp] theorem putFrag_groups : (s.putFrag k f).groups = s.groups := rfl
@[simp] theorem putFrag_teams : (s.putFrag k f).teams = s.teams := rfl
@[simp] theorem putFrag_accs : (s.putFrag k f).accs = s.accs := rfl
@[simp] theorem putFrag_spilled : (s.putFrag k f).spilled = s.spilled := rfl
@[simp] theorem putFrag_clusters : (s.putFrag k f).clusters = s.clusters := rfl
@[simp] theorem putFrag_savedRays : (s.putFrag k f).savedRays = s.savedRays := rfl
@[simp] theorem putFrag_saves : (s.putFrag k f).saves = s.saves := rfl
@[simp] theorem putFrag_launches : (s.putFrag k f).launches = s.launches := rfl
@[simp] theorem putFrag_nextLaunch : (s.putFrag k f).nextLaunch = s.nextLaunch := rfl
@[simp] theorem putFrag_nextTeam : (s.putFrag k f).nextTeam = s.nextTeam := rfl
@[simp] theorem putFrag_nextFrag : (s.putFrag k f).nextFrag = s.nextFrag := rfl
@[simp] theorem putFrag_accepted : (s.putFrag k f).accepted = s.accepted := rfl
@[simp] theorem putFrag_drovers : (s.putFrag k f).drovers = s.drovers := rfl
@[simp] theorem putFrag_ctxs : (s.putFrag k f).ctxs = s.ctxs := rfl
@[simp] theorem putFrag_objs : (s.putFrag k f).objs = s.objs := rfl
@[simp] theorem putFrag_folds : (s.putFrag k f).folds = s.folds := rfl
@[simp] theorem putFrag_objCount : (s.putFrag k f).objCount = s.objCount := rfl
@[simp] theorem putFrag_syncBusy : (s.putFrag k f).syncBusy = s.syncBusy := rfl
@[simp] theorem putFrag_tileEngs : (s.putFrag k f).tileEngs = s.tileEngs := rfl
@[simp] theorem putFrag_subCount : (s.putFrag k f).subCount = s.subCount := rfl
@[simp] theorem putFrag_tlb2 : (s.putFrag k f).tlb2 = s.tlb2 := rfl
@[simp] theorem putFrag_llc : (s.putFrag k f).llc = s.llc := rfl
@[simp] theorem putFrag_hinges : (s.putFrag k f).hinges = s.hinges := rfl
@[simp] theorem putFrag_deadHinges : (s.putFrag k f).deadHinges = s.deadHinges := rfl
@[simp] theorem putFrag_uncore : (s.putFrag k f).uncore = s.uncore := rfl
@[simp] theorem putFrag_evCodes : (s.putFrag k f).evCodes = s.evCodes := rfl
@[simp] theorem putFrag_funs : (s.putFrag k f).funs = s.funs := rfl
@[simp] theorem putFrag_queues : (s.putFrag k f).queues = s.queues := rfl
@[simp] theorem putFrag_halts : (s.putFrag k f).halts = s.halts := rfl
@[simp] theorem putFrag_domOn : (s.putFrag k f).domOn = s.domOn := rfl
@[simp] theorem putFrag_domId : (s.putFrag k f).domId = s.domId := rfl
@[simp] theorem putFrag_domMembers : (s.putFrag k f).domMembers = s.domMembers := rfl
@[simp] theorem putFrag_domDown : (s.putFrag k f).domDown = s.domDown := rfl
@[simp] theorem putFrag_energy : (s.putFrag k f).energy = s.energy := rfl
@[simp] theorem putFrag_opps : (s.putFrag k f).opps = s.opps := rfl
@[simp] theorem putFrag_grants : (s.putFrag k f).grants = s.grants := rfl
@[simp] theorem putFrag_lowered : (s.putFrag k f).lowered = s.lowered := rfl
@[simp] theorem putFrag_window : (s.putFrag k f).window = s.window := rfl
@[simp] theorem putFrag_errLog : (s.putFrag k f).errLog = s.errLog := rfl
@[simp] theorem putFrag_debugs : (s.putFrag k f).debugs = s.debugs := rfl
@[simp] theorem putFrag_errCounts : (s.putFrag k f).errCounts = s.errCounts := rfl
@[simp] theorem putFrag_softRows : (s.putFrag k f).softRows = s.softRows := rfl
@[simp] theorem putFrag_boot : (s.putFrag k f).boot = s.boot := rfl
@[simp] theorem putFrag_asleep : (s.putFrag k f).asleep = s.asleep := rfl
end putFrag

section modGroup
variable (s : State) (k : Nat) (f : Group → Group)
@[simp] theorem modGroup_g9 : (s.modGroup k f).g9 = s.g9 := rfl
@[simp] theorem modGroup_mem : (s.modGroup k f).mem = s.mem := rfl
@[simp] theorem modGroup_hostMem : (s.modGroup k f).hostMem = s.hostMem := rfl
@[simp] theorem modGroup_domMem : (s.modGroup k f).domMem = s.domMem := rfl
@[simp] theorem modGroup_poison : (s.modGroup k f).poison = s.poison := rfl
@[simp] theorem modGroup_upsets : (s.modGroup k f).upsets = s.upsets := rfl
@[simp] theorem modGroup_agenda : (s.modGroup k f).agenda = s.agenda := rfl
@[simp] theorem modGroup_turns : (s.modGroup k f).turns = s.turns := rfl
@[simp] theorem modGroup_units : (s.modGroup k f).units = s.units := rfl
@[simp] theorem modGroup_cur : (s.modGroup k f).cur = s.cur := rfl
@[simp] theorem modGroup_free : (s.modGroup k f).free = s.free := rfl
@[simp] theorem modGroup_stamp : (s.modGroup k f).stamp = s.stamp := rfl
@[simp] theorem modGroup_time : (s.modGroup k f).time = s.time := rfl
@[simp] theorem modGroup_cores : (s.modGroup k f).cores = s.cores := rfl
@[simp] theorem modGroup_frags : (s.modGroup k f).frags = s.frags := rfl
@[simp] theorem modGroup_groups : (s.modGroup k f).groups = s.groups.modify k f := rfl
@[simp] theorem modGroup_teams : (s.modGroup k f).teams = s.teams := rfl
@[simp] theorem modGroup_accs : (s.modGroup k f).accs = s.accs := rfl
@[simp] theorem modGroup_spilled : (s.modGroup k f).spilled = s.spilled := rfl
@[simp] theorem modGroup_clusters : (s.modGroup k f).clusters = s.clusters := rfl
@[simp] theorem modGroup_savedRays : (s.modGroup k f).savedRays = s.savedRays := rfl
@[simp] theorem modGroup_saves : (s.modGroup k f).saves = s.saves := rfl
@[simp] theorem modGroup_launches : (s.modGroup k f).launches = s.launches := rfl
@[simp] theorem modGroup_nextLaunch : (s.modGroup k f).nextLaunch = s.nextLaunch := rfl
@[simp] theorem modGroup_nextTeam : (s.modGroup k f).nextTeam = s.nextTeam := rfl
@[simp] theorem modGroup_nextFrag : (s.modGroup k f).nextFrag = s.nextFrag := rfl
@[simp] theorem modGroup_accepted : (s.modGroup k f).accepted = s.accepted := rfl
@[simp] theorem modGroup_drovers : (s.modGroup k f).drovers = s.drovers := rfl
@[simp] theorem modGroup_ctxs : (s.modGroup k f).ctxs = s.ctxs := rfl
@[simp] theorem modGroup_objs : (s.modGroup k f).objs = s.objs := rfl
@[simp] theorem modGroup_folds : (s.modGroup k f).folds = s.folds := rfl
@[simp] theorem modGroup_objCount : (s.modGroup k f).objCount = s.objCount := rfl
@[simp] theorem modGroup_syncBusy : (s.modGroup k f).syncBusy = s.syncBusy := rfl
@[simp] theorem modGroup_tileEngs : (s.modGroup k f).tileEngs = s.tileEngs := rfl
@[simp] theorem modGroup_subCount : (s.modGroup k f).subCount = s.subCount := rfl
@[simp] theorem modGroup_tlb2 : (s.modGroup k f).tlb2 = s.tlb2 := rfl
@[simp] theorem modGroup_llc : (s.modGroup k f).llc = s.llc := rfl
@[simp] theorem modGroup_hinges : (s.modGroup k f).hinges = s.hinges := rfl
@[simp] theorem modGroup_deadHinges : (s.modGroup k f).deadHinges = s.deadHinges := rfl
@[simp] theorem modGroup_uncore : (s.modGroup k f).uncore = s.uncore := rfl
@[simp] theorem modGroup_evCodes : (s.modGroup k f).evCodes = s.evCodes := rfl
@[simp] theorem modGroup_funs : (s.modGroup k f).funs = s.funs := rfl
@[simp] theorem modGroup_queues : (s.modGroup k f).queues = s.queues := rfl
@[simp] theorem modGroup_halts : (s.modGroup k f).halts = s.halts := rfl
@[simp] theorem modGroup_domOn : (s.modGroup k f).domOn = s.domOn := rfl
@[simp] theorem modGroup_domId : (s.modGroup k f).domId = s.domId := rfl
@[simp] theorem modGroup_domMembers : (s.modGroup k f).domMembers = s.domMembers := rfl
@[simp] theorem modGroup_domDown : (s.modGroup k f).domDown = s.domDown := rfl
@[simp] theorem modGroup_energy : (s.modGroup k f).energy = s.energy := rfl
@[simp] theorem modGroup_opps : (s.modGroup k f).opps = s.opps := rfl
@[simp] theorem modGroup_grants : (s.modGroup k f).grants = s.grants := rfl
@[simp] theorem modGroup_lowered : (s.modGroup k f).lowered = s.lowered := rfl
@[simp] theorem modGroup_window : (s.modGroup k f).window = s.window := rfl
@[simp] theorem modGroup_errLog : (s.modGroup k f).errLog = s.errLog := rfl
@[simp] theorem modGroup_debugs : (s.modGroup k f).debugs = s.debugs := rfl
@[simp] theorem modGroup_errCounts : (s.modGroup k f).errCounts = s.errCounts := rfl
@[simp] theorem modGroup_softRows : (s.modGroup k f).softRows = s.softRows := rfl
@[simp] theorem modGroup_boot : (s.modGroup k f).boot = s.boot := rfl
@[simp] theorem modGroup_asleep : (s.modGroup k f).asleep = s.asleep := rfl
end modGroup

section putGroup
variable (s : State) (k : Nat) (g : Group)
@[simp] theorem putGroup_g9 : (s.putGroup k g).g9 = s.g9 := rfl
@[simp] theorem putGroup_mem : (s.putGroup k g).mem = s.mem := rfl
@[simp] theorem putGroup_hostMem : (s.putGroup k g).hostMem = s.hostMem := rfl
@[simp] theorem putGroup_domMem : (s.putGroup k g).domMem = s.domMem := rfl
@[simp] theorem putGroup_poison : (s.putGroup k g).poison = s.poison := rfl
@[simp] theorem putGroup_upsets : (s.putGroup k g).upsets = s.upsets := rfl
@[simp] theorem putGroup_agenda : (s.putGroup k g).agenda = s.agenda := rfl
@[simp] theorem putGroup_turns : (s.putGroup k g).turns = s.turns := rfl
@[simp] theorem putGroup_units : (s.putGroup k g).units = s.units := rfl
@[simp] theorem putGroup_cur : (s.putGroup k g).cur = s.cur := rfl
@[simp] theorem putGroup_free : (s.putGroup k g).free = s.free := rfl
@[simp] theorem putGroup_stamp : (s.putGroup k g).stamp = s.stamp := rfl
@[simp] theorem putGroup_time : (s.putGroup k g).time = s.time := rfl
@[simp] theorem putGroup_cores : (s.putGroup k g).cores = s.cores := rfl
@[simp] theorem putGroup_frags : (s.putGroup k g).frags = s.frags := rfl
@[simp] theorem putGroup_groups : (s.putGroup k g).groups = s.groups.set k g := rfl
@[simp] theorem putGroup_teams : (s.putGroup k g).teams = s.teams := rfl
@[simp] theorem putGroup_accs : (s.putGroup k g).accs = s.accs := rfl
@[simp] theorem putGroup_spilled : (s.putGroup k g).spilled = s.spilled := rfl
@[simp] theorem putGroup_clusters : (s.putGroup k g).clusters = s.clusters := rfl
@[simp] theorem putGroup_savedRays : (s.putGroup k g).savedRays = s.savedRays := rfl
@[simp] theorem putGroup_saves : (s.putGroup k g).saves = s.saves := rfl
@[simp] theorem putGroup_launches : (s.putGroup k g).launches = s.launches := rfl
@[simp] theorem putGroup_nextLaunch : (s.putGroup k g).nextLaunch = s.nextLaunch := rfl
@[simp] theorem putGroup_nextTeam : (s.putGroup k g).nextTeam = s.nextTeam := rfl
@[simp] theorem putGroup_nextFrag : (s.putGroup k g).nextFrag = s.nextFrag := rfl
@[simp] theorem putGroup_accepted : (s.putGroup k g).accepted = s.accepted := rfl
@[simp] theorem putGroup_drovers : (s.putGroup k g).drovers = s.drovers := rfl
@[simp] theorem putGroup_ctxs : (s.putGroup k g).ctxs = s.ctxs := rfl
@[simp] theorem putGroup_objs : (s.putGroup k g).objs = s.objs := rfl
@[simp] theorem putGroup_folds : (s.putGroup k g).folds = s.folds := rfl
@[simp] theorem putGroup_objCount : (s.putGroup k g).objCount = s.objCount := rfl
@[simp] theorem putGroup_syncBusy : (s.putGroup k g).syncBusy = s.syncBusy := rfl
@[simp] theorem putGroup_tileEngs : (s.putGroup k g).tileEngs = s.tileEngs := rfl
@[simp] theorem putGroup_subCount : (s.putGroup k g).subCount = s.subCount := rfl
@[simp] theorem putGroup_tlb2 : (s.putGroup k g).tlb2 = s.tlb2 := rfl
@[simp] theorem putGroup_llc : (s.putGroup k g).llc = s.llc := rfl
@[simp] theorem putGroup_hinges : (s.putGroup k g).hinges = s.hinges := rfl
@[simp] theorem putGroup_deadHinges : (s.putGroup k g).deadHinges = s.deadHinges := rfl
@[simp] theorem putGroup_uncore : (s.putGroup k g).uncore = s.uncore := rfl
@[simp] theorem putGroup_evCodes : (s.putGroup k g).evCodes = s.evCodes := rfl
@[simp] theorem putGroup_funs : (s.putGroup k g).funs = s.funs := rfl
@[simp] theorem putGroup_queues : (s.putGroup k g).queues = s.queues := rfl
@[simp] theorem putGroup_halts : (s.putGroup k g).halts = s.halts := rfl
@[simp] theorem putGroup_domOn : (s.putGroup k g).domOn = s.domOn := rfl
@[simp] theorem putGroup_domId : (s.putGroup k g).domId = s.domId := rfl
@[simp] theorem putGroup_domMembers : (s.putGroup k g).domMembers = s.domMembers := rfl
@[simp] theorem putGroup_domDown : (s.putGroup k g).domDown = s.domDown := rfl
@[simp] theorem putGroup_energy : (s.putGroup k g).energy = s.energy := rfl
@[simp] theorem putGroup_opps : (s.putGroup k g).opps = s.opps := rfl
@[simp] theorem putGroup_grants : (s.putGroup k g).grants = s.grants := rfl
@[simp] theorem putGroup_lowered : (s.putGroup k g).lowered = s.lowered := rfl
@[simp] theorem putGroup_window : (s.putGroup k g).window = s.window := rfl
@[simp] theorem putGroup_errLog : (s.putGroup k g).errLog = s.errLog := rfl
@[simp] theorem putGroup_debugs : (s.putGroup k g).debugs = s.debugs := rfl
@[simp] theorem putGroup_errCounts : (s.putGroup k g).errCounts = s.errCounts := rfl
@[simp] theorem putGroup_softRows : (s.putGroup k g).softRows = s.softRows := rfl
@[simp] theorem putGroup_boot : (s.putGroup k g).boot = s.boot := rfl
@[simp] theorem putGroup_asleep : (s.putGroup k g).asleep = s.asleep := rfl
end putGroup

section modTeam
variable (s : State) (k : Nat) (f : Team → Team)
@[simp] theorem modTeam_g9 : (s.modTeam k f).g9 = s.g9 := rfl
@[simp] theorem modTeam_mem : (s.modTeam k f).mem = s.mem := rfl
@[simp] theorem modTeam_hostMem : (s.modTeam k f).hostMem = s.hostMem := rfl
@[simp] theorem modTeam_domMem : (s.modTeam k f).domMem = s.domMem := rfl
@[simp] theorem modTeam_poison : (s.modTeam k f).poison = s.poison := rfl
@[simp] theorem modTeam_upsets : (s.modTeam k f).upsets = s.upsets := rfl
@[simp] theorem modTeam_agenda : (s.modTeam k f).agenda = s.agenda := rfl
@[simp] theorem modTeam_turns : (s.modTeam k f).turns = s.turns := rfl
@[simp] theorem modTeam_units : (s.modTeam k f).units = s.units := rfl
@[simp] theorem modTeam_cur : (s.modTeam k f).cur = s.cur := rfl
@[simp] theorem modTeam_free : (s.modTeam k f).free = s.free := rfl
@[simp] theorem modTeam_stamp : (s.modTeam k f).stamp = s.stamp := rfl
@[simp] theorem modTeam_time : (s.modTeam k f).time = s.time := rfl
@[simp] theorem modTeam_cores : (s.modTeam k f).cores = s.cores := rfl
@[simp] theorem modTeam_frags : (s.modTeam k f).frags = s.frags := rfl
@[simp] theorem modTeam_groups : (s.modTeam k f).groups = s.groups := rfl
@[simp] theorem modTeam_teams : (s.modTeam k f).teams = s.teams.modify k f := rfl
@[simp] theorem modTeam_accs : (s.modTeam k f).accs = s.accs := rfl
@[simp] theorem modTeam_spilled : (s.modTeam k f).spilled = s.spilled := rfl
@[simp] theorem modTeam_clusters : (s.modTeam k f).clusters = s.clusters := rfl
@[simp] theorem modTeam_savedRays : (s.modTeam k f).savedRays = s.savedRays := rfl
@[simp] theorem modTeam_saves : (s.modTeam k f).saves = s.saves := rfl
@[simp] theorem modTeam_launches : (s.modTeam k f).launches = s.launches := rfl
@[simp] theorem modTeam_nextLaunch : (s.modTeam k f).nextLaunch = s.nextLaunch := rfl
@[simp] theorem modTeam_nextTeam : (s.modTeam k f).nextTeam = s.nextTeam := rfl
@[simp] theorem modTeam_nextFrag : (s.modTeam k f).nextFrag = s.nextFrag := rfl
@[simp] theorem modTeam_accepted : (s.modTeam k f).accepted = s.accepted := rfl
@[simp] theorem modTeam_drovers : (s.modTeam k f).drovers = s.drovers := rfl
@[simp] theorem modTeam_ctxs : (s.modTeam k f).ctxs = s.ctxs := rfl
@[simp] theorem modTeam_objs : (s.modTeam k f).objs = s.objs := rfl
@[simp] theorem modTeam_folds : (s.modTeam k f).folds = s.folds := rfl
@[simp] theorem modTeam_objCount : (s.modTeam k f).objCount = s.objCount := rfl
@[simp] theorem modTeam_syncBusy : (s.modTeam k f).syncBusy = s.syncBusy := rfl
@[simp] theorem modTeam_tileEngs : (s.modTeam k f).tileEngs = s.tileEngs := rfl
@[simp] theorem modTeam_subCount : (s.modTeam k f).subCount = s.subCount := rfl
@[simp] theorem modTeam_tlb2 : (s.modTeam k f).tlb2 = s.tlb2 := rfl
@[simp] theorem modTeam_llc : (s.modTeam k f).llc = s.llc := rfl
@[simp] theorem modTeam_hinges : (s.modTeam k f).hinges = s.hinges := rfl
@[simp] theorem modTeam_deadHinges : (s.modTeam k f).deadHinges = s.deadHinges := rfl
@[simp] theorem modTeam_uncore : (s.modTeam k f).uncore = s.uncore := rfl
@[simp] theorem modTeam_evCodes : (s.modTeam k f).evCodes = s.evCodes := rfl
@[simp] theorem modTeam_funs : (s.modTeam k f).funs = s.funs := rfl
@[simp] theorem modTeam_queues : (s.modTeam k f).queues = s.queues := rfl
@[simp] theorem modTeam_halts : (s.modTeam k f).halts = s.halts := rfl
@[simp] theorem modTeam_domOn : (s.modTeam k f).domOn = s.domOn := rfl
@[simp] theorem modTeam_domId : (s.modTeam k f).domId = s.domId := rfl
@[simp] theorem modTeam_domMembers : (s.modTeam k f).domMembers = s.domMembers := rfl
@[simp] theorem modTeam_domDown : (s.modTeam k f).domDown = s.domDown := rfl
@[simp] theorem modTeam_energy : (s.modTeam k f).energy = s.energy := rfl
@[simp] theorem modTeam_opps : (s.modTeam k f).opps = s.opps := rfl
@[simp] theorem modTeam_grants : (s.modTeam k f).grants = s.grants := rfl
@[simp] theorem modTeam_lowered : (s.modTeam k f).lowered = s.lowered := rfl
@[simp] theorem modTeam_window : (s.modTeam k f).window = s.window := rfl
@[simp] theorem modTeam_errLog : (s.modTeam k f).errLog = s.errLog := rfl
@[simp] theorem modTeam_debugs : (s.modTeam k f).debugs = s.debugs := rfl
@[simp] theorem modTeam_errCounts : (s.modTeam k f).errCounts = s.errCounts := rfl
@[simp] theorem modTeam_softRows : (s.modTeam k f).softRows = s.softRows := rfl
@[simp] theorem modTeam_boot : (s.modTeam k f).boot = s.boot := rfl
@[simp] theorem modTeam_asleep : (s.modTeam k f).asleep = s.asleep := rfl
end modTeam

section modCtx
variable (s : State) (k : Nat) (f : Ctx → Ctx)
@[simp] theorem modCtx_g9 : (s.modCtx k f).g9 = s.g9 := rfl
@[simp] theorem modCtx_mem : (s.modCtx k f).mem = s.mem := rfl
@[simp] theorem modCtx_hostMem : (s.modCtx k f).hostMem = s.hostMem := rfl
@[simp] theorem modCtx_domMem : (s.modCtx k f).domMem = s.domMem := rfl
@[simp] theorem modCtx_poison : (s.modCtx k f).poison = s.poison := rfl
@[simp] theorem modCtx_upsets : (s.modCtx k f).upsets = s.upsets := rfl
@[simp] theorem modCtx_agenda : (s.modCtx k f).agenda = s.agenda := rfl
@[simp] theorem modCtx_turns : (s.modCtx k f).turns = s.turns := rfl
@[simp] theorem modCtx_units : (s.modCtx k f).units = s.units := rfl
@[simp] theorem modCtx_cur : (s.modCtx k f).cur = s.cur := rfl
@[simp] theorem modCtx_free : (s.modCtx k f).free = s.free := rfl
@[simp] theorem modCtx_stamp : (s.modCtx k f).stamp = s.stamp := rfl
@[simp] theorem modCtx_time : (s.modCtx k f).time = s.time := rfl
@[simp] theorem modCtx_cores : (s.modCtx k f).cores = s.cores := rfl
@[simp] theorem modCtx_frags : (s.modCtx k f).frags = s.frags := rfl
@[simp] theorem modCtx_groups : (s.modCtx k f).groups = s.groups := rfl
@[simp] theorem modCtx_teams : (s.modCtx k f).teams = s.teams := rfl
@[simp] theorem modCtx_accs : (s.modCtx k f).accs = s.accs := rfl
@[simp] theorem modCtx_spilled : (s.modCtx k f).spilled = s.spilled := rfl
@[simp] theorem modCtx_clusters : (s.modCtx k f).clusters = s.clusters := rfl
@[simp] theorem modCtx_savedRays : (s.modCtx k f).savedRays = s.savedRays := rfl
@[simp] theorem modCtx_saves : (s.modCtx k f).saves = s.saves := rfl
@[simp] theorem modCtx_launches : (s.modCtx k f).launches = s.launches := rfl
@[simp] theorem modCtx_nextLaunch : (s.modCtx k f).nextLaunch = s.nextLaunch := rfl
@[simp] theorem modCtx_nextTeam : (s.modCtx k f).nextTeam = s.nextTeam := rfl
@[simp] theorem modCtx_nextFrag : (s.modCtx k f).nextFrag = s.nextFrag := rfl
@[simp] theorem modCtx_accepted : (s.modCtx k f).accepted = s.accepted := rfl
@[simp] theorem modCtx_drovers : (s.modCtx k f).drovers = s.drovers := rfl
@[simp] theorem modCtx_ctxs : (s.modCtx k f).ctxs = s.ctxs.modify k f := rfl
@[simp] theorem modCtx_objs : (s.modCtx k f).objs = s.objs := rfl
@[simp] theorem modCtx_folds : (s.modCtx k f).folds = s.folds := rfl
@[simp] theorem modCtx_objCount : (s.modCtx k f).objCount = s.objCount := rfl
@[simp] theorem modCtx_syncBusy : (s.modCtx k f).syncBusy = s.syncBusy := rfl
@[simp] theorem modCtx_tileEngs : (s.modCtx k f).tileEngs = s.tileEngs := rfl
@[simp] theorem modCtx_subCount : (s.modCtx k f).subCount = s.subCount := rfl
@[simp] theorem modCtx_tlb2 : (s.modCtx k f).tlb2 = s.tlb2 := rfl
@[simp] theorem modCtx_llc : (s.modCtx k f).llc = s.llc := rfl
@[simp] theorem modCtx_hinges : (s.modCtx k f).hinges = s.hinges := rfl
@[simp] theorem modCtx_deadHinges : (s.modCtx k f).deadHinges = s.deadHinges := rfl
@[simp] theorem modCtx_uncore : (s.modCtx k f).uncore = s.uncore := rfl
@[simp] theorem modCtx_evCodes : (s.modCtx k f).evCodes = s.evCodes := rfl
@[simp] theorem modCtx_funs : (s.modCtx k f).funs = s.funs := rfl
@[simp] theorem modCtx_queues : (s.modCtx k f).queues = s.queues := rfl
@[simp] theorem modCtx_halts : (s.modCtx k f).halts = s.halts := rfl
@[simp] theorem modCtx_domOn : (s.modCtx k f).domOn = s.domOn := rfl
@[simp] theorem modCtx_domId : (s.modCtx k f).domId = s.domId := rfl
@[simp] theorem modCtx_domMembers : (s.modCtx k f).domMembers = s.domMembers := rfl
@[simp] theorem modCtx_domDown : (s.modCtx k f).domDown = s.domDown := rfl
@[simp] theorem modCtx_energy : (s.modCtx k f).energy = s.energy := rfl
@[simp] theorem modCtx_opps : (s.modCtx k f).opps = s.opps := rfl
@[simp] theorem modCtx_grants : (s.modCtx k f).grants = s.grants := rfl
@[simp] theorem modCtx_lowered : (s.modCtx k f).lowered = s.lowered := rfl
@[simp] theorem modCtx_window : (s.modCtx k f).window = s.window := rfl
@[simp] theorem modCtx_errLog : (s.modCtx k f).errLog = s.errLog := rfl
@[simp] theorem modCtx_debugs : (s.modCtx k f).debugs = s.debugs := rfl
@[simp] theorem modCtx_errCounts : (s.modCtx k f).errCounts = s.errCounts := rfl
@[simp] theorem modCtx_softRows : (s.modCtx k f).softRows = s.softRows := rfl
@[simp] theorem modCtx_boot : (s.modCtx k f).boot = s.boot := rfl
@[simp] theorem modCtx_asleep : (s.modCtx k f).asleep = s.asleep := rfl
end modCtx

section putAcc
variable (s : State) (k : Nat) (a : Acc)
@[simp] theorem putAcc_g9 : (s.putAcc k a).g9 = s.g9 := rfl
@[simp] theorem putAcc_mem : (s.putAcc k a).mem = s.mem := rfl
@[simp] theorem putAcc_hostMem : (s.putAcc k a).hostMem = s.hostMem := rfl
@[simp] theorem putAcc_domMem : (s.putAcc k a).domMem = s.domMem := rfl
@[simp] theorem putAcc_poison : (s.putAcc k a).poison = s.poison := rfl
@[simp] theorem putAcc_upsets : (s.putAcc k a).upsets = s.upsets := rfl
@[simp] theorem putAcc_agenda : (s.putAcc k a).agenda = s.agenda := rfl
@[simp] theorem putAcc_turns : (s.putAcc k a).turns = s.turns := rfl
@[simp] theorem putAcc_units : (s.putAcc k a).units = s.units := rfl
@[simp] theorem putAcc_cur : (s.putAcc k a).cur = s.cur := rfl
@[simp] theorem putAcc_free : (s.putAcc k a).free = s.free := rfl
@[simp] theorem putAcc_stamp : (s.putAcc k a).stamp = s.stamp := rfl
@[simp] theorem putAcc_time : (s.putAcc k a).time = s.time := rfl
@[simp] theorem putAcc_cores : (s.putAcc k a).cores = s.cores := rfl
@[simp] theorem putAcc_frags : (s.putAcc k a).frags = s.frags := rfl
@[simp] theorem putAcc_groups : (s.putAcc k a).groups = s.groups := rfl
@[simp] theorem putAcc_teams : (s.putAcc k a).teams = s.teams := rfl
@[simp] theorem putAcc_accs : (s.putAcc k a).accs = s.accs.setD {} k a := rfl
@[simp] theorem putAcc_spilled : (s.putAcc k a).spilled = s.spilled := rfl
@[simp] theorem putAcc_clusters : (s.putAcc k a).clusters = s.clusters := rfl
@[simp] theorem putAcc_savedRays : (s.putAcc k a).savedRays = s.savedRays := rfl
@[simp] theorem putAcc_saves : (s.putAcc k a).saves = s.saves := rfl
@[simp] theorem putAcc_launches : (s.putAcc k a).launches = s.launches := rfl
@[simp] theorem putAcc_nextLaunch : (s.putAcc k a).nextLaunch = s.nextLaunch := rfl
@[simp] theorem putAcc_nextTeam : (s.putAcc k a).nextTeam = s.nextTeam := rfl
@[simp] theorem putAcc_nextFrag : (s.putAcc k a).nextFrag = s.nextFrag := rfl
@[simp] theorem putAcc_accepted : (s.putAcc k a).accepted = s.accepted := rfl
@[simp] theorem putAcc_drovers : (s.putAcc k a).drovers = s.drovers := rfl
@[simp] theorem putAcc_ctxs : (s.putAcc k a).ctxs = s.ctxs := rfl
@[simp] theorem putAcc_objs : (s.putAcc k a).objs = s.objs := rfl
@[simp] theorem putAcc_folds : (s.putAcc k a).folds = s.folds := rfl
@[simp] theorem putAcc_objCount : (s.putAcc k a).objCount = s.objCount := rfl
@[simp] theorem putAcc_syncBusy : (s.putAcc k a).syncBusy = s.syncBusy := rfl
@[simp] theorem putAcc_tileEngs : (s.putAcc k a).tileEngs = s.tileEngs := rfl
@[simp] theorem putAcc_subCount : (s.putAcc k a).subCount = s.subCount := rfl
@[simp] theorem putAcc_tlb2 : (s.putAcc k a).tlb2 = s.tlb2 := rfl
@[simp] theorem putAcc_llc : (s.putAcc k a).llc = s.llc := rfl
@[simp] theorem putAcc_hinges : (s.putAcc k a).hinges = s.hinges := rfl
@[simp] theorem putAcc_deadHinges : (s.putAcc k a).deadHinges = s.deadHinges := rfl
@[simp] theorem putAcc_uncore : (s.putAcc k a).uncore = s.uncore := rfl
@[simp] theorem putAcc_evCodes : (s.putAcc k a).evCodes = s.evCodes := rfl
@[simp] theorem putAcc_funs : (s.putAcc k a).funs = s.funs := rfl
@[simp] theorem putAcc_queues : (s.putAcc k a).queues = s.queues := rfl
@[simp] theorem putAcc_halts : (s.putAcc k a).halts = s.halts := rfl
@[simp] theorem putAcc_domOn : (s.putAcc k a).domOn = s.domOn := rfl
@[simp] theorem putAcc_domId : (s.putAcc k a).domId = s.domId := rfl
@[simp] theorem putAcc_domMembers : (s.putAcc k a).domMembers = s.domMembers := rfl
@[simp] theorem putAcc_domDown : (s.putAcc k a).domDown = s.domDown := rfl
@[simp] theorem putAcc_energy : (s.putAcc k a).energy = s.energy := rfl
@[simp] theorem putAcc_opps : (s.putAcc k a).opps = s.opps := rfl
@[simp] theorem putAcc_grants : (s.putAcc k a).grants = s.grants := rfl
@[simp] theorem putAcc_lowered : (s.putAcc k a).lowered = s.lowered := rfl
@[simp] theorem putAcc_window : (s.putAcc k a).window = s.window := rfl
@[simp] theorem putAcc_errLog : (s.putAcc k a).errLog = s.errLog := rfl
@[simp] theorem putAcc_debugs : (s.putAcc k a).debugs = s.debugs := rfl
@[simp] theorem putAcc_errCounts : (s.putAcc k a).errCounts = s.errCounts := rfl
@[simp] theorem putAcc_softRows : (s.putAcc k a).softRows = s.softRows := rfl
@[simp] theorem putAcc_boot : (s.putAcc k a).boot = s.boot := rfl
@[simp] theorem putAcc_asleep : (s.putAcc k a).asleep = s.asleep := rfl
end putAcc

section modFun
variable (s : State) (k : Nat) (f : Fun → Fun)
@[simp] theorem modFun_g9 : (s.modFun k f).g9 = s.g9 := rfl
@[simp] theorem modFun_mem : (s.modFun k f).mem = s.mem := rfl
@[simp] theorem modFun_hostMem : (s.modFun k f).hostMem = s.hostMem := rfl
@[simp] theorem modFun_domMem : (s.modFun k f).domMem = s.domMem := rfl
@[simp] theorem modFun_poison : (s.modFun k f).poison = s.poison := rfl
@[simp] theorem modFun_upsets : (s.modFun k f).upsets = s.upsets := rfl
@[simp] theorem modFun_agenda : (s.modFun k f).agenda = s.agenda := rfl
@[simp] theorem modFun_turns : (s.modFun k f).turns = s.turns := rfl
@[simp] theorem modFun_units : (s.modFun k f).units = s.units := rfl
@[simp] theorem modFun_cur : (s.modFun k f).cur = s.cur := rfl
@[simp] theorem modFun_free : (s.modFun k f).free = s.free := rfl
@[simp] theorem modFun_stamp : (s.modFun k f).stamp = s.stamp := rfl
@[simp] theorem modFun_time : (s.modFun k f).time = s.time := rfl
@[simp] theorem modFun_cores : (s.modFun k f).cores = s.cores := rfl
@[simp] theorem modFun_frags : (s.modFun k f).frags = s.frags := rfl
@[simp] theorem modFun_groups : (s.modFun k f).groups = s.groups := rfl
@[simp] theorem modFun_teams : (s.modFun k f).teams = s.teams := rfl
@[simp] theorem modFun_accs : (s.modFun k f).accs = s.accs := rfl
@[simp] theorem modFun_spilled : (s.modFun k f).spilled = s.spilled := rfl
@[simp] theorem modFun_clusters : (s.modFun k f).clusters = s.clusters := rfl
@[simp] theorem modFun_savedRays : (s.modFun k f).savedRays = s.savedRays := rfl
@[simp] theorem modFun_saves : (s.modFun k f).saves = s.saves := rfl
@[simp] theorem modFun_launches : (s.modFun k f).launches = s.launches := rfl
@[simp] theorem modFun_nextLaunch : (s.modFun k f).nextLaunch = s.nextLaunch := rfl
@[simp] theorem modFun_nextTeam : (s.modFun k f).nextTeam = s.nextTeam := rfl
@[simp] theorem modFun_nextFrag : (s.modFun k f).nextFrag = s.nextFrag := rfl
@[simp] theorem modFun_accepted : (s.modFun k f).accepted = s.accepted := rfl
@[simp] theorem modFun_drovers : (s.modFun k f).drovers = s.drovers := rfl
@[simp] theorem modFun_ctxs : (s.modFun k f).ctxs = s.ctxs := rfl
@[simp] theorem modFun_objs : (s.modFun k f).objs = s.objs := rfl
@[simp] theorem modFun_folds : (s.modFun k f).folds = s.folds := rfl
@[simp] theorem modFun_objCount : (s.modFun k f).objCount = s.objCount := rfl
@[simp] theorem modFun_syncBusy : (s.modFun k f).syncBusy = s.syncBusy := rfl
@[simp] theorem modFun_tileEngs : (s.modFun k f).tileEngs = s.tileEngs := rfl
@[simp] theorem modFun_subCount : (s.modFun k f).subCount = s.subCount := rfl
@[simp] theorem modFun_tlb2 : (s.modFun k f).tlb2 = s.tlb2 := rfl
@[simp] theorem modFun_llc : (s.modFun k f).llc = s.llc := rfl
@[simp] theorem modFun_hinges : (s.modFun k f).hinges = s.hinges := rfl
@[simp] theorem modFun_deadHinges : (s.modFun k f).deadHinges = s.deadHinges := rfl
@[simp] theorem modFun_uncore : (s.modFun k f).uncore = s.uncore := rfl
@[simp] theorem modFun_evCodes : (s.modFun k f).evCodes = s.evCodes := rfl
@[simp] theorem modFun_funs : (s.modFun k f).funs = s.funs.setD {} k (f (s.fun_ k)) := rfl
@[simp] theorem modFun_queues : (s.modFun k f).queues = s.queues := rfl
@[simp] theorem modFun_halts : (s.modFun k f).halts = s.halts := rfl
@[simp] theorem modFun_domOn : (s.modFun k f).domOn = s.domOn := rfl
@[simp] theorem modFun_domId : (s.modFun k f).domId = s.domId := rfl
@[simp] theorem modFun_domMembers : (s.modFun k f).domMembers = s.domMembers := rfl
@[simp] theorem modFun_domDown : (s.modFun k f).domDown = s.domDown := rfl
@[simp] theorem modFun_energy : (s.modFun k f).energy = s.energy := rfl
@[simp] theorem modFun_opps : (s.modFun k f).opps = s.opps := rfl
@[simp] theorem modFun_grants : (s.modFun k f).grants = s.grants := rfl
@[simp] theorem modFun_lowered : (s.modFun k f).lowered = s.lowered := rfl
@[simp] theorem modFun_window : (s.modFun k f).window = s.window := rfl
@[simp] theorem modFun_errLog : (s.modFun k f).errLog = s.errLog := rfl
@[simp] theorem modFun_debugs : (s.modFun k f).debugs = s.debugs := rfl
@[simp] theorem modFun_errCounts : (s.modFun k f).errCounts = s.errCounts := rfl
@[simp] theorem modFun_softRows : (s.modFun k f).softRows = s.softRows := rfl
@[simp] theorem modFun_boot : (s.modFun k f).boot = s.boot := rfl
@[simp] theorem modFun_asleep : (s.modFun k f).asleep = s.asleep := rfl
end modFun

section modTileEng
variable (s : State) (k : Nat) (f : TileEng → TileEng)
@[simp] theorem modTileEng_g9 : (s.modTileEng k f).g9 = s.g9 := rfl
@[simp] theorem modTileEng_mem : (s.modTileEng k f).mem = s.mem := rfl
@[simp] theorem modTileEng_hostMem : (s.modTileEng k f).hostMem = s.hostMem := rfl
@[simp] theorem modTileEng_domMem : (s.modTileEng k f).domMem = s.domMem := rfl
@[simp] theorem modTileEng_poison : (s.modTileEng k f).poison = s.poison := rfl
@[simp] theorem modTileEng_upsets : (s.modTileEng k f).upsets = s.upsets := rfl
@[simp] theorem modTileEng_agenda : (s.modTileEng k f).agenda = s.agenda := rfl
@[simp] theorem modTileEng_turns : (s.modTileEng k f).turns = s.turns := rfl
@[simp] theorem modTileEng_units : (s.modTileEng k f).units = s.units := rfl
@[simp] theorem modTileEng_cur : (s.modTileEng k f).cur = s.cur := rfl
@[simp] theorem modTileEng_free : (s.modTileEng k f).free = s.free := rfl
@[simp] theorem modTileEng_stamp : (s.modTileEng k f).stamp = s.stamp := rfl
@[simp] theorem modTileEng_time : (s.modTileEng k f).time = s.time := rfl
@[simp] theorem modTileEng_cores : (s.modTileEng k f).cores = s.cores := rfl
@[simp] theorem modTileEng_frags : (s.modTileEng k f).frags = s.frags := rfl
@[simp] theorem modTileEng_groups : (s.modTileEng k f).groups = s.groups := rfl
@[simp] theorem modTileEng_teams : (s.modTileEng k f).teams = s.teams := rfl
@[simp] theorem modTileEng_accs : (s.modTileEng k f).accs = s.accs := rfl
@[simp] theorem modTileEng_spilled : (s.modTileEng k f).spilled = s.spilled := rfl
@[simp] theorem modTileEng_clusters : (s.modTileEng k f).clusters = s.clusters := rfl
@[simp] theorem modTileEng_savedRays : (s.modTileEng k f).savedRays = s.savedRays := rfl
@[simp] theorem modTileEng_saves : (s.modTileEng k f).saves = s.saves := rfl
@[simp] theorem modTileEng_launches : (s.modTileEng k f).launches = s.launches := rfl
@[simp] theorem modTileEng_nextLaunch : (s.modTileEng k f).nextLaunch = s.nextLaunch := rfl
@[simp] theorem modTileEng_nextTeam : (s.modTileEng k f).nextTeam = s.nextTeam := rfl
@[simp] theorem modTileEng_nextFrag : (s.modTileEng k f).nextFrag = s.nextFrag := rfl
@[simp] theorem modTileEng_accepted : (s.modTileEng k f).accepted = s.accepted := rfl
@[simp] theorem modTileEng_drovers : (s.modTileEng k f).drovers = s.drovers := rfl
@[simp] theorem modTileEng_ctxs : (s.modTileEng k f).ctxs = s.ctxs := rfl
@[simp] theorem modTileEng_objs : (s.modTileEng k f).objs = s.objs := rfl
@[simp] theorem modTileEng_folds : (s.modTileEng k f).folds = s.folds := rfl
@[simp] theorem modTileEng_objCount : (s.modTileEng k f).objCount = s.objCount := rfl
@[simp] theorem modTileEng_syncBusy : (s.modTileEng k f).syncBusy = s.syncBusy := rfl
@[simp] theorem modTileEng_tileEngs : (s.modTileEng k f).tileEngs = s.tileEngs.setD {} k (f (s.tileEng k)) := rfl
@[simp] theorem modTileEng_subCount : (s.modTileEng k f).subCount = s.subCount := rfl
@[simp] theorem modTileEng_tlb2 : (s.modTileEng k f).tlb2 = s.tlb2 := rfl
@[simp] theorem modTileEng_llc : (s.modTileEng k f).llc = s.llc := rfl
@[simp] theorem modTileEng_hinges : (s.modTileEng k f).hinges = s.hinges := rfl
@[simp] theorem modTileEng_deadHinges : (s.modTileEng k f).deadHinges = s.deadHinges := rfl
@[simp] theorem modTileEng_uncore : (s.modTileEng k f).uncore = s.uncore := rfl
@[simp] theorem modTileEng_evCodes : (s.modTileEng k f).evCodes = s.evCodes := rfl
@[simp] theorem modTileEng_funs : (s.modTileEng k f).funs = s.funs := rfl
@[simp] theorem modTileEng_queues : (s.modTileEng k f).queues = s.queues := rfl
@[simp] theorem modTileEng_halts : (s.modTileEng k f).halts = s.halts := rfl
@[simp] theorem modTileEng_domOn : (s.modTileEng k f).domOn = s.domOn := rfl
@[simp] theorem modTileEng_domId : (s.modTileEng k f).domId = s.domId := rfl
@[simp] theorem modTileEng_domMembers : (s.modTileEng k f).domMembers = s.domMembers := rfl
@[simp] theorem modTileEng_domDown : (s.modTileEng k f).domDown = s.domDown := rfl
@[simp] theorem modTileEng_energy : (s.modTileEng k f).energy = s.energy := rfl
@[simp] theorem modTileEng_opps : (s.modTileEng k f).opps = s.opps := rfl
@[simp] theorem modTileEng_grants : (s.modTileEng k f).grants = s.grants := rfl
@[simp] theorem modTileEng_lowered : (s.modTileEng k f).lowered = s.lowered := rfl
@[simp] theorem modTileEng_window : (s.modTileEng k f).window = s.window := rfl
@[simp] theorem modTileEng_errLog : (s.modTileEng k f).errLog = s.errLog := rfl
@[simp] theorem modTileEng_debugs : (s.modTileEng k f).debugs = s.debugs := rfl
@[simp] theorem modTileEng_errCounts : (s.modTileEng k f).errCounts = s.errCounts := rfl
@[simp] theorem modTileEng_softRows : (s.modTileEng k f).softRows = s.softRows := rfl
@[simp] theorem modTileEng_boot : (s.modTileEng k f).boot = s.boot := rfl
@[simp] theorem modTileEng_asleep : (s.modTileEng k f).asleep = s.asleep := rfl
end modTileEng

end Sys2Proof.Machine.State
end

