-- ==== Sys2Proof/Laws/Ops.lean ====
section
/-! SUPPORT. Laws of the shared operations: raw memory, the frame of an instruction row, and the writing of results. -/

namespace Sys2Proof.Machine

/-! ## Raw memory -/

@[simp] theorem memByte_setByte (m : SMap Byte) (a j : Nat) (b : Byte) :
    memByte (setByte m a b) j = if j = a then b else memByte m j := SMap.getD_setD m memDefault a j b

theorem setByte_wf {m : SMap Byte} (a : Nat) (b : Byte) (h : Memory.wf m = true) : Memory.wf (setByte m a b) = true :=
  SMap.wfD_setD a b h

/-- A write of `n` bytes leaves every other byte, and puts byte `j − a` of the value at `j`. -/
theorem memByte_writeLE (m : SMap Byte) (a n x j : Nat) :
    memByte (writeLE m a n x) j = if a ≤ j ∧ j < a + n then BitVec.ofNat 8 (x / 256 ^ (j - a)) else memByte m j := by
  induction n generalizing m a x with
  | zero =>
    simp [writeLE]
  | succ n ih =>
    rw [writeLE, ih, memByte_setByte]
    by_cases h1 : j = a
    · subst h1
      simp
    · by_cases h2 : a ≤ j ∧ j < a + (n + 1)
      · have h3 : a + 1 ≤ j ∧ j < a + 1 + n := by omega
        have h4 : j - a = (j - (a + 1)) + 1 := by omega
        rw [if_pos h3, if_pos h2, h4, Nat.pow_succ', Nat.div_div_eq_div_mul]
      · have h3 : ¬ (a + 1 ≤ j ∧ j < a + 1 + n) := by omega
        rw [if_neg h3, if_neg h2, if_neg h1]

theorem writeLE_wf {m : SMap Byte} (a n x : Nat) (h : Memory.wf m = true) : Memory.wf (writeLE m a n x) = true := by
  induction n generalizing m a x with
  | zero => exact h
  | succ n ih => exact ih _ _ (setByte_wf _ _ h)

/-- A read of what was written gives the value, modulo its width. -/
theorem readLE_writeLE (m : SMap Byte) (a n x : Nat) : readLE (writeLE m a n x) a n = x % 256 ^ n := by
  have gen : ∀ k b, a ≤ b → b + k ≤ a + n → readLE (writeLE m a n x) b k = x / 256 ^ (b - a) % 256 ^ k := by
    intro k
    induction k with
    | zero => intro b _ _; simp [readLE, Nat.mod_one]
    | succ k ih =>
      intro b h1 h2
      have hb : a ≤ b ∧ b < a + n := by omega
      have h4 : b + 1 - a = (b - a) + 1 := by omega
      rw [readLE, ih (b + 1) (by omega) (by omega), memByte_writeLE, if_pos hb, h4, Nat.pow_succ 256 (b - a),
        ← Nat.div_div_eq_div_mul, BitVec.toNat_ofNat, Nat.pow_succ' (m := 256) (n := k), Nat.mod_mul]
  simpa using gen n a (Nat.le_refl a) (Nat.le_refl _)

/-- The caches hold no memory. -/
theorem State.llcWrite_memOk {s : State} (pa n : Nat) (h : s.MemOk) : (s.llcWrite pa n).MemOk := by
  unfold State.llcWrite
  split <;> exact h

theorem State.place_memOk {s : State} (core hint mt pa : Nat) (h : s.MemOk) : (s.place core hint mt pa).MemOk := by
  unfold State.place
  split
  · exact h
  · simp only []
    split <;> exact h

/-- A physical write keeps every memory in canonical form. -/
theorem State.physWrite_memOk {s : State} (mt pa n x : Nat) (h : s.MemOk) : (s.physWrite mt pa n x).MemOk := by
  have hl := State.llcWrite_memOk (s := s) (pa % 2 ^ 46) n h
  have h0 : (if mt == 0 then s.llcWrite pa n else s).MemOk := by
    split
    · exact State.llcWrite_memOk pa n h
    · exact h
  unfold State.physWrite
  obtain ⟨h1, h2, h3⟩ := h
  split
  · exact ⟨writeLE_wf _ _ _ h0.1, h0.2.1, h0.2.2⟩
  · split
    · exact ⟨h1, writeLE_wf _ _ _ h2, h3⟩
    · split
      · exact ⟨h1, h2, h3⟩
      · split
        · exact ⟨writeLE_wf _ _ _ h1, hl.2.1, hl.2.2⟩
        · exact ⟨h1, h2, writeLE_wf _ _ _ h3⟩

theorem State.touch_memOk {s : State} (core : Nat) (cx : Ctx) (va : Nat) (w : Bool) (hint : Nat) (h : s.MemOk) :
    (s.touch core cx va w hint).MemOk := by
  unfold State.touch
  split
  · exact h
  · rename_i e _
    obtain ⟨h1, h2, h3⟩ :=
      State.place_memOk core hint (bitsN e.pte.toNat 7 6) (bitsN e.pte.toNat 51 18 * 2 ^ 18 + (va - e.va)) h
    simp only []
    split
    · exact ⟨setByte_wf _ _ h1, h2, h3⟩
    · exact ⟨setByte_wf _ _ h1, h2, h3⟩

theorem State.vwriteGo_memOk (core : Nat) (cx : Ctx) (fuel : Nat) :
    ∀ (va n x : Nat) (s : State), s.MemOk → (State.vwriteGo core cx fuel va n x s).MemOk := by
  induction fuel with
  | zero => intro _ _ _ s h; exact h
  | succ fuel ih =>
    intro va n x s h
    unfold State.vwriteGo
    split
    · exact h
    · refine ih _ _ _ _ ?_
      split
      · exact State.physWrite_memOk _ _ _ _ (State.touch_memOk _ _ _ _ _ h)
      · exact h

theorem State.vwrite_memOk {s : State} (core : Nat) (cx : Ctx) (va n x : Nat) (h : s.MemOk) : (s.vwrite core cx va n x).MemOk :=
  State.vwriteGo_memOk core cx n va n x s h

theorem State.vstore_memOk {s : State} (core : Nat) (cx : Ctx) (va n x : Nat) (h : s.MemOk) : (s.vstore core cx va n x).MemOk := by
  unfold State.vstore
  split
  · exact State.physWrite_memOk _ _ _ _ (State.touch_memOk _ _ _ _ _ h)
  · exact h

/-! ## The current fragment -/

/-- What the view of the current fragment is made of. -/
theorem here_spec {s : State} {h : Here} (hh : s.here = some h) :
    s.frags.get? h.fid = some h.f ∧ h.f.group = h.gid ∧ s.groups.get? h.gid = some h.g ∧ h.g.team = h.tid ∧
      s.teams.get? h.tid = some h.t ∧ s.ctxs.get? h.t.ctx = some h.cx ∧ s.cur = some h.fid := by
  unfold State.here at hh
  cases hc : s.cur with
  | none => rw [hc] at hh; cases hh
  | some fid =>
    rw [hc] at hh
    simp only [Option.bind_some, State.hereOf] at hh
    split at hh
    · cases hh
    split at hh
    · cases hh
    split at hh
    · cases hh
    split at hh
    · cases hh
    cases hh
    simp_all

/-- An instruction row that runs puts its end into effect. -/
theorem runSlot_next {i : Instr} {h : Here} {s : State} (hr : Runs i h s) (act : Here → State → SlotResult) :
    runSlot i act s = .next (s.conclude h i (act h s)) := by
  have hg : badRead i h = none := by simpa [readsBad] using hr.good
  simp [runSlot, hr.here, hr.checks, hr.free, hg]

/-- A row whose checks 5 to 7 fail takes the trap they name. -/
theorem runSlot_trap {i : Instr} {h : Here} {s : State} {r : RecInfo} (hh : s.here = some h) (hc : preCheck i h s = some r)
    (act : Here → State → SlotResult) : runSlot i act s = .next (s.takeTrap h r) := by
  simp [runSlot, hh, hc]

/-! ## Going on to the next slot -/

theorem Frag.leave_spec (f : Frag) (line : VA) (slot : Fin 5) :
    (f.leave line slot).group = f.group ∧ (f.leave line slot).mask = f.mask ∧ (f.leave line slot).chain = f.chain ∧
      (f.leave line slot).sig = f.sig ∧ (f.leave line slot).line = line ∧ (f.leave line slot).slot = slot := by
  simp [Frag.leave]

theorem Frag.advance_spec (f : Frag) :
    f.advance.group = f.group ∧ f.advance.mask = f.mask ∧ f.advance.chain = f.chain ∧ f.advance.sig = f.sig ∧
      f.advance.line = (if f.slot.val < 4 then f.line else f.line + 64) ∧
      f.advance.slot.val = (if f.slot.val < 4 then f.slot.val + 1 else 0) := by
  unfold Frag.advance
  split
  · rename_i hlt
    refine ⟨rfl, rfl, rfl, rfl, rfl, ?_⟩
    change (f.slot + 1).val = _
    rw [Fin.val_add]
    change (f.slot.val + 1) % 5 = _
    omega
  · obtain ⟨h1, h2, h3, h4, h5, h6⟩ := Frag.leave_spec f (f.line + 64) 0
    exact ⟨h1, h2, h3, h4, h5, by rw [h6]; rfl⟩

/-- What `account` changes of a state whose instruction closes no region. -/
theorem State.account_groups {s : State} {fid gid : Nat} {f : Fields} (hc : closesRegion f.op.toNat = false) :
    (s.account fid gid f).groups = s.groups := by
  unfold State.account
  simp only [hc, Bool.false_eq_true, if_false]
  split <;> rfl

theorem State.account_frags (s : State) (fid gid : Nat) (f : Fields) (k : Nat) :
    (s.account fid gid f).frags.get? k =
      if k = fid then (s.frags.get? fid).map fun x => { x with sig := if noSig f.op.toNat then x.sig else sigUpdate x.sig f }
      else s.frags.get? k := by
  unfold State.account
  by_cases hn : noSig f.op.toNat = true <;> by_cases hc : closesRegion f.op.toNat = true <;>
    by_cases hk : k = fid <;> simp [hn, hc, hk, SMap.get?_modify]

@[simp] theorem State.withHere_withHere (s : State) (a c : SMap Group) (b d : SMap Frag) :
    (s.withHere a b).withHere c d = s.withHere c d := rfl
@[simp] theorem State.withHere_groups (s : State) (a : SMap Group) (b : SMap Frag) : (s.withHere a b).groups = a := rfl
@[simp] theorem State.withHere_frags (s : State) (a : SMap Group) (b : SMap Frag) : (s.withHere a b).frags = b := rfl
theorem State.withHere_self (s : State) : s.withHere s.groups s.frags = s := rfl
theorem State.modFrag_withHere (s : State) (k : Nat) (f : Frag → Frag) :
    s.modFrag k f = s.withHere s.groups (s.frags.modify k f) := rfl
theorem State.modGroup_withHere (s : State) (k : Nat) (f : Group → Group) :
    s.modGroup k f = s.withHere (s.groups.modify k f) s.frags := rfl

theorem State.account_rest (s : State) (fid gid : Nat) (f : Fields) :
    s.account fid gid f = s.withHere (s.account fid gid f).groups (s.account fid gid f).frags := by
  unfold State.account
  by_cases hn : noSig f.op.toNat = true <;> by_cases hc : closesRegion f.op.toNat = true <;>
    simp only [hn, hc, if_true, Bool.false_eq_true, if_false] <;> rfl

/-- `finish` changes only the executing fragment, and the group where the instruction closes its region. -/
theorem State.finish_rest (s : State) (h : Here) (i : Instr) :
    s.finish h i = s.withHere (s.finish h i).groups (s.finish h i).frags := by
  unfold State.finish
  rw [State.modFrag_withHere, State.withHere_groups, State.withHere_frags]
  conv_lhs => rw [State.account_rest]
  rfl

theorem State.finish_groups {s : State} {h : Here} {i : Instr} (hc : closesRegion (fieldsOf i).op.toNat = false) :
    (s.finish h i).groups = s.groups := by
  simp [State.finish, State.account_groups hc]

theorem State.finish_groups_ne {s : State} {h : Here} {i : Instr} {k : Nat} (hk : k ≠ h.gid) :
    (s.finish h i).groups.get? k = s.groups.get? k := by
  unfold State.finish State.account
  by_cases hn : noSig (fieldsOf i).op.toNat = true <;> by_cases hc : closesRegion (fieldsOf i).op.toNat = true <;>
    simp [hn, hc, SMap.get?_modify, hk]

theorem State.finish_frags_ne {s : State} {h : Here} {i : Instr} {k : Nat} (hk : k ≠ h.fid) :
    (s.finish h i).frags.get? k = s.frags.get? k := by
  simp [State.finish, SMap.get?_modify, hk, State.account_frags]

/-- After `finish` the fragment stands at the next slot, its signature moved. -/
theorem State.finish_wentOn {s : State} {h : Here} {i : Instr} {f : Frag} (hf : s.frags.get? h.fid = some f)
    (hg : f.group = h.gid) (hm : f.mask = h.f.mask) (hch : f.chain = h.f.chain) (hs : f.sig = h.f.sig) (hl : f.line = h.f.line)
    (hsl : f.slot = h.f.slot) : WentOn i h (s.finish h i) := by
  refine ⟨_, by simp [State.finish, SMap.get?_modify, State.account_frags, hf]; rfl, ?_⟩
  obtain ⟨h1, h2, h3, h4, h5, h6⟩ := Frag.advance_spec
    (Frag.mark { f with sig := if noSig (fieldsOf i).op.toNat then f.sig else sigUpdate f.sig (fieldsOf i) })
  refine ⟨h1.trans hg, h2.trans hm, h3.trans hch, h4.trans (by simp [Frag.mark, hs]), ?_, ?_⟩
  · rw [h5]; simp [Frag.mark, hl, hsl]
  · rw [h6]; simp [Frag.mark, hsl]

/-! ## Writing results -/

/-- The latch write touches only the executing fragment's latches. -/
theorem State.latch_frags (s : State) (h : Here) (x : Latch) (k : Nat) :
    ∃ l : Frag → SMap Latch, (s.latch h x).frags.get? k =
      if k = h.fid then (s.frags.get? h.fid).map fun f => { f with latches := l f } else s.frags.get? k := by
  unfold State.latch
  split
  · exact ⟨fun f => f.latches.set h.f.slot.val x, by by_cases hk : k = h.fid <;> simp [hk, SMap.get?_modify]⟩
  · refine ⟨fun f => f.latches, ?_⟩
    by_cases hk : k = h.fid
    · subst hk; cases s.frags.get? h.fid <;> simp
    · simp [hk]

theorem State.latch_rest (s : State) (h : Here) (x : Latch) :
    s.latch h x = s.withHere (s.latch h x).groups (s.latch h x).frags := by
  unfold State.latch
  split <;> rfl

theorem State.latch_groups (s : State) (h : Here) (x : Latch) : (s.latch h x).groups = s.groups := by
  unfold State.latch
  split <;> rfl

/-- A state that differs from `s` in the executing fragment's latches and in the executing group, which is now `g`. -/
structure Landed (h : Here) (s t : State) (g : Group) : Prop where
  rest : t = s.withHere t.groups t.frags
  groups : ∀ k, t.groups.get? k = if k = h.gid then some g else s.groups.get? k
  frags : ∃ l : Nat → Frag → SMap Latch, ∀ k, t.frags.get? k =
    if k = h.fid then (s.frags.get? h.fid).map fun f => { f with latches := l k f } else s.frags.get? k

theorem Landed.latch {h : Here} {s : State} (hh : s.here = some h) (x : Latch) : Landed h s (s.latch h x) h.g where
  rest := State.latch_rest s h x
  groups k := by
    rw [State.latch_groups]
    by_cases hk : k = h.gid
    · simp [hk, (here_spec hh).2.2.1]
    · simp [hk]
  frags := ⟨fun k => (State.latch_frags s h x k).choose, fun k => (State.latch_frags s h x k).choose_spec⟩

theorem Landed.modGroup {h : Here} {s t : State} {g : Group} (hl : Landed h s t g) (f : Group → Group) :
    Landed h s (t.modGroup h.gid f) (f g) where
  rest := by
    rw [State.modGroup_withHere, State.withHere_groups, State.withHere_frags]
    conv_lhs => rw [hl.rest]
    rfl
  groups k := by
    simp only [State.modGroup_groups, SMap.get?_modify]
    by_cases hk : k = h.gid
    · simp [hk, hl.groups]
    · simp [hk, hl.groups]
  frags := hl.frags

/-- Completing the instruction on such a state writes what the group holds. -/
theorem Landed.wrote {h : Here} {s t : State} {g : Group} {i : Instr} {r : Result} {fl : Nat} (hh : s.here = some h)
    (hl : Landed h s t g) (hc : closesRegion (fieldsOf i).op.toNat = false)
    (hv : ∀ n l, l < 32 → g.v.getD 0 (32 * n + l) = r.vAt h n l) (hs : ∀ n, g.s.getD 0 n = r.sAt h n)
    (hk : ∀ n, g.k.getD 0 n = r.kAt h n) (hcf : ∀ n, n < 8 → g.c.getLsbD n = r.cAt h n)
    (hf : g.fsr = h.g.fsr ||| BitVec.ofNat 32 fl)
    (hr : g = { h.g with v := g.v, s := g.s, k := g.k, c := g.c, fsr := g.fsr, badV := g.badV, badR := g.badR }) : Wrote i h s (t.finish h i) r fl := by
  obtain ⟨h1, h2, _⟩ := here_spec hh
  obtain ⟨l, hlf⟩ := hl.frags
  have hfid : t.frags.get? h.fid = some { h.f with latches := l h.fid h.f } := by simp [hlf, h1]
  refine ⟨⟨?_, ?_, ?_⟩, State.finish_wentOn hfid h2 rfl rfl rfl rfl rfl, g, ?_, hv, hs, hk, hcf, hf, hr⟩
  · conv_lhs => rw [State.finish_rest, hl.rest]
    simp only [State.withHere_withHere]
    rw [← hl.rest]
  · intro k hk
    rw [State.finish_groups hc, hl.groups, if_neg hk]
  · intro k hk
    rw [State.finish_frags_ne hk, hlf, if_neg hk]
  · rw [State.finish_groups hc, hl.groups, if_pos rfl]

/-! ### Registers of a group -/

theorem Group.setV_get (g : Group) (r l n m : Nat) (x : W32) (hl : l < 32) (hm : m < 32) :
    (g.setV r l x).v.getD 0 (32 * n + m) = if n = r ∧ m = l then x else g.v.getD 0 (32 * n + m) := by
  simp only [Group.setV, SMap.getD_setD]
  have : (32 * n + m = 32 * r + l) ↔ (n = r ∧ m = l) := by omega
  simp only [this]

theorem Group.setC_get (g : Group) (r n : Nat) (x : Bool) (hn : n < 8) :
    (g.setC r x).c.getLsbD n = if n = r then x else g.c.getLsbD n := by
  have key : (BitVec.ofNat 8 (2 ^ r)).getLsbD n = decide (n = r) := by
    simp only [BitVec.getLsbD_ofNat, hn, Nat.testBit_two_pow, decide_true, Bool.true_and]
    by_cases h : r = n
    · simp [h]
    · have : ¬ n = r := fun h' => h h'.symm
      simp [h, this]
  unfold Group.setC
  cases x
  · simp only [Bool.false_eq_true, if_false, BitVec.getLsbD_and, BitVec.getLsbD_not, key, hn]
    by_cases h : n = r <;> simp [h]
  · simp only [if_true, BitVec.getLsbD_or, key]
    by_cases h : n = r <;> simp [h]

/-- The lanes a vector write stores, one after another. -/
theorem foldl_setV (ls : List Nat) (wide : Bool) (d : Nat) (f : Nat → Nat) (hls : ∀ l ∈ ls, l < 32) :
    ∀ (g : Group) (n m : Nat), m < 32 →
      ((ls.foldl (fun g l =>
          let g := g.setV d l (BitVec.ofNat 32 (f l))
          if wide then g.setV (d + 1) l (BitVec.ofNat 32 (f l / 2 ^ 32)) else g) g).v.getD 0 (32 * n + m)) =
        if m ∈ ls then
          if n = d then BitVec.ofNat 32 (f m)
          else if wide = true ∧ n = d + 1 then BitVec.ofNat 32 (f m / 2 ^ 32) else g.v.getD 0 (32 * n + m)
        else g.v.getD 0 (32 * n + m) := by
  induction ls with
  | nil => intro g n m _; simp
  | cons l t ih =>
    intro g n m hm
    have hl : l < 32 := hls l (by simp)
    rw [List.foldl_cons, ih (fun x hx => hls x (List.mem_cons_of_mem _ hx)) _ n m hm]
    have one : ∀ k x, (g.setV k l x).v.getD 0 (32 * n + m) = if n = k ∧ m = l then x else g.v.getD 0 (32 * n + m) :=
      fun k x => Group.setV_get g k l n m x hl hm
    have two : ∀ k x y, ((g.setV d l y).setV k l x).v.getD 0 (32 * n + m) =
        if n = k ∧ m = l then x else if n = d ∧ m = l then y else g.v.getD 0 (32 * n + m) := by
      intro k x y
      rw [Group.setV_get _ k l n m x hl hm, one]
    by_cases hmt : m ∈ t
    · have hml : m ∈ l :: t := List.mem_cons_of_mem _ hmt
      rw [if_pos hmt, if_pos hml]
      by_cases hn : n = d
      · rw [if_pos hn, if_pos hn]
      · rw [if_neg hn, if_neg hn]
        by_cases hw : wide = true ∧ n = d + 1
        · rw [if_pos hw, if_pos hw]
        · rw [if_neg hw, if_neg hw]
          cases wide with
          | false => simp only [Bool.false_eq_true, if_false, one, hn, false_and]
          | true =>
            have hn1 : ¬ n = d + 1 := fun h => hw ⟨rfl, h⟩
            simp only [if_true, two, hn, hn1, false_and, if_false]
    · rw [if_neg hmt]
      by_cases hl' : m = l
      · subst hl'
        rw [if_pos (List.mem_cons_self ..)]
        cases wide with
        | false => simp only [Bool.false_eq_true, if_false, one, and_true, false_and]
        | true =>
          simp only [if_true, two, and_true, true_and]
          by_cases hn : n = d
          · have : ¬ n = d + 1 := by omega
            rw [if_neg this, if_pos hn, if_pos hn]
          · rw [if_neg hn, if_neg hn]
      · have : m ∉ l :: t := by simp [hl', hmt]
        rw [if_neg this]
        cases wide with
        | false => simp only [Bool.false_eq_true, if_false, one, hl', and_false]
        | true => simp only [if_true, two, hl', and_false, if_false]

theorem foldl_setV_rest (ls : List Nat) (wide : Bool) (d : Nat) (f : Nat → Nat) :
    ∀ g : Group, ∃ v b, (ls.foldl (fun g l =>
        let g := g.setV d l (BitVec.ofNat 32 (f l))
        if wide then g.setV (d + 1) l (BitVec.ofNat 32 (f l / 2 ^ 32)) else g) g) = { g with v := v, badV := b } := by
  induction ls with
  | nil => intro g; exact ⟨g.v, g.badV, rfl⟩
  | cons l t ih =>
    intro g
    rw [List.foldl_cons]
    obtain ⟨v, b, hv⟩ := ih (if wide then (g.setV d l (BitVec.ofNat 32 (f l))).setV (d + 1) l (BitVec.ofNat 32 (f l / 2 ^ 32))
      else g.setV d l (BitVec.ofNat 32 (f l)))
    exact ⟨v, b, by rw [hv]; cases wide <;> rfl⟩

/-! ### The four kinds of write -/

/-- What a write of `r` and a raise of flags leave in the group. -/
structure Holds (h : Here) (r : Result) (fl : Nat) (g : Group) : Prop where
  v : ∀ n l, l < 32 → g.v.getD 0 (32 * n + l) = r.vAt h n l
  s : ∀ n, g.s.getD 0 n = r.sAt h n
  k : ∀ n, g.k.getD 0 n = r.kAt h n
  c : ∀ n, n < 8 → g.c.getLsbD n = r.cAt h n
  fsr : g.fsr = h.g.fsr ||| BitVec.ofNat 32 fl
  rest : g = { h.g with v := g.v, s := g.s, k := g.k, c := g.c, fsr := g.fsr, badV := g.badV, badR := g.badR }

theorem State.writeVec_landed {h : Here} {s : State} (hh : s.here = some h) (dst : Opnd) (ws wide : Bool) (act : W32)
    (f : Nat → Nat) : ∃ g, Landed h s (s.writeVec h dst ws wide act f) g ∧ Holds h (.vec dst ws wide act f) 0 g := by
  have triv : ∀ r : Result, (∀ n l, r.vAt h n l = h.vreg n l) → (∀ n, r.sAt h n = h.sreg n) →
      (∀ n, r.kAt h n = h.g.k.getD 0 n) → (∀ n, r.cAt h n = h.g.c.getLsbD n) → Holds h r 0 h.g := by
    intro r h1 h2 h3 h4
    exact ⟨fun n l _ => (h1 n l).symm, fun n => (h2 n).symm, fun n => (h3 n).symm, fun n _ => (h4 n).symm, by simp, rfl⟩
  unfold State.writeVec
  cases dst with
  | v d =>
    cases ws with
    | true => exact ⟨h.g, Landed.latch hh _, triv _ (fun _ _ => rfl) (fun _ => rfl) (fun _ => rfl) (fun _ => rfl)⟩
    | false =>
      refine ⟨_, (Landed.latch hh _).modGroup _, ?_⟩
      simp only [foldLanes_eq]
      obtain ⟨v, b, hv⟩ := foldl_setV_rest (lanesOf act) wide d.val f h.g
      refine ⟨?_, ?_, ?_, ?_, ?_, ?_⟩
      · intro n l hl
        rw [foldl_setV _ wide d.val f (fun l hl => (mem_lanesOf.mp hl).1) h.g n l hl]
        by_cases hb : act.getLsbD l = true
        · simp [Result.vAt, hb, mem_lanesOf, hl, Here.vreg]
        · simp [Result.vAt, hb, mem_lanesOf, Here.vreg]
      · intro n; rw [hv]; rfl
      · intro n; rw [hv]; rfl
      · intro n _; rw [hv]; rfl
      · rw [hv]; simp
      · rw [hv]
  | s d => exact ⟨h.g, Landed.latch hh _, triv _ (fun _ _ => rfl) (fun _ => rfl) (fun _ => rfl) (fun _ => rfl)⟩
  | k d => exact ⟨h.g, Landed.latch hh _, triv _ (fun _ _ => rfl) (fun _ => rfl) (fun _ => rfl) (fun _ => rfl)⟩
  | c d => exact ⟨h.g, Landed.latch hh _, triv _ (fun _ _ => rfl) (fun _ => rfl) (fun _ => rfl) (fun _ => rfl)⟩
  | b d => exact ⟨h.g, Landed.latch hh _, triv _ (fun _ _ => rfl) (fun _ => rfl) (fun _ => rfl) (fun _ => rfl)⟩
  | zr => exact ⟨h.g, Landed.latch hh _, triv _ (fun _ _ => rfl) (fun _ => rfl) (fun _ => rfl) (fun _ => rfl)⟩
  | imm => exact ⟨h.g, Landed.latch hh _, triv _ (fun _ _ => rfl) (fun _ => rfl) (fun _ => rfl) (fun _ => rfl)⟩

theorem Landed.same {h : Here} {s : State} (hh : s.here = some h) : Landed h s s h.g where
  rest := rfl
  groups k := by
    by_cases hk : k = h.gid
    · simp [hk, (here_spec hh).2.2.1]
    · simp [hk]
  frags := ⟨fun _ f => f.latches, fun k => by
    by_cases hk : k = h.fid
    · subst hk; cases s.frags.get? h.fid <;> simp
    · simp [hk]⟩

theorem Holds.same (h : Here) (r : Result) (h1 : ∀ n l, r.vAt h n l = h.vreg n l) (h2 : ∀ n, r.sAt h n = h.sreg n)
    (h3 : ∀ n, r.kAt h n = h.g.k.getD 0 n) (h4 : ∀ n, r.cAt h n = h.g.c.getLsbD n) : Holds h r 0 h.g :=
  ⟨fun n l _ => (h1 n l).symm, fun n => (h2 n).symm, fun n => (h3 n).symm, fun n _ => (h4 n).symm, by simp, rfl⟩

theorem State.writeS_landed {h : Here} {s : State} (hh : s.here = some h) (dst : Opnd) (ws : Bool) (x : W64) :
    ∃ g, Landed h s (s.writeS h dst ws x) g ∧ Holds h (.scal dst ws x) 0 g := by
  unfold State.writeS
  cases dst with
  | s d =>
    cases ws with
    | true => exact ⟨h.g, Landed.latch hh _, Holds.same h _ (fun _ _ => rfl) (fun _ => rfl) (fun _ => rfl) (fun _ => rfl)⟩
    | false =>
      refine ⟨_, (Landed.latch hh _).modGroup _, ⟨fun _ _ _ => rfl, ?_, fun _ => rfl, fun _ _ => rfl, by simp [Group.setS], rfl⟩⟩
      intro n
      simp only [Group.setS, SMap.getD_setD, Result.sAt, Here.sreg]
  | v d => exact ⟨h.g, Landed.latch hh _, Holds.same h _ (fun _ _ => rfl) (fun _ => rfl) (fun _ => rfl) (fun _ => rfl)⟩
  | k d => exact ⟨h.g, Landed.latch hh _, Holds.same h _ (fun _ _ => rfl) (fun _ => rfl) (fun _ => rfl) (fun _ => rfl)⟩
  | c d => exact ⟨h.g, Landed.latch hh _, Holds.same h _ (fun _ _ => rfl) (fun _ => rfl) (fun _ => rfl) (fun _ => rfl)⟩
  | b d => exact ⟨h.g, Landed.latch hh _, Holds.same h _ (fun _ _ => rfl) (fun _ => rfl) (fun _ => rfl) (fun _ => rfl)⟩
  | zr => exact ⟨h.g, Landed.latch hh _, Holds.same h _ (fun _ _ => rfl) (fun _ => rfl) (fun _ => rfl) (fun _ => rfl)⟩
  | imm => exact ⟨h.g, Landed.latch hh _, Holds.same h _ (fun _ _ => rfl) (fun _ => rfl) (fun _ => rfl) (fun _ => rfl)⟩

theorem State.writeK_landed {h : Here} {s : State} (hh : s.here = some h) (dst : Opnd) (ws : Bool) (act x : W32) :
    ∃ g, Landed h s (s.writeK h dst ws act x) g ∧ Holds h (.mask dst ws act x) 0 g := by
  unfold State.writeK
  cases dst with
  | k d =>
    cases ws with
    | true => exact ⟨h.g, Landed.latch hh _, Holds.same h _ (fun _ _ => rfl) (fun _ => rfl) (fun _ => rfl) (fun _ => rfl)⟩
    | false =>
      refine ⟨_, (Landed.latch hh _).modGroup _, ?_⟩
      by_cases hd : d.val = 0
      · have hg : h.g.setK d.val ((h.kreg d.val &&& ~~~act) ||| (x &&& act)) = h.g := by simp [Group.setK, hd]
        rw [hg]
        refine Holds.same h _ (fun _ _ => rfl) (fun _ => rfl) (fun n => ?_) (fun _ => rfl)
        have : ¬ (n = d.val ∧ n ≠ 0) := by omega
        simp only [Result.kAt, if_neg this]
      · have hg : h.g.setK d.val ((h.kreg d.val &&& ~~~act) ||| (x &&& act)) =
            { h.g with
              k := h.g.k.setD 0 d.val ((h.kreg d.val &&& ~~~act) ||| (x &&& act)), badR := h.g.badR.filter (· != .k d.val) } := by simp [Group.setK, hd]
        rw [hg]
        refine ⟨fun _ _ _ => rfl, fun _ => rfl, fun n => ?_, fun _ _ => rfl, by simp, rfl⟩
        simp only [SMap.getD_setD, Result.kAt]
        by_cases hn : n = d.val
        · subst hn; simp [hd]
        · simp [hn]
  | v d => exact ⟨h.g, Landed.same hh, Holds.same h _ (fun _ _ => rfl) (fun _ => rfl) (fun _ => rfl) (fun _ => rfl)⟩
  | s d => exact ⟨h.g, Landed.same hh, Holds.same h _ (fun _ _ => rfl) (fun _ => rfl) (fun _ => rfl) (fun _ => rfl)⟩
  | c d => exact ⟨h.g, Landed.same hh, Holds.same h _ (fun _ _ => rfl) (fun _ => rfl) (fun _ => rfl) (fun _ => rfl)⟩
  | b d => exact ⟨h.g, Landed.same hh, Holds.same h _ (fun _ _ => rfl) (fun _ => rfl) (fun _ => rfl) (fun _ => rfl)⟩
  | zr => exact ⟨h.g, Landed.same hh, Holds.same h _ (fun _ _ => rfl) (fun _ => rfl) (fun _ => rfl) (fun _ => rfl)⟩
  | imm => exact ⟨h.g, Landed.same hh, Holds.same h _ (fun _ _ => rfl) (fun _ => rfl) (fun _ => rfl) (fun _ => rfl)⟩

theorem State.writeC_landed {h : Here} {s : State} (hh : s.here = some h) (dst : Opnd) (ws x : Bool) :
    ∃ g, Landed h s (s.writeC h dst ws x) g ∧ Holds h (.flag dst ws x) 0 g := by
  unfold State.writeC
  cases dst with
  | c d =>
    cases ws with
    | true => exact ⟨h.g, Landed.latch hh _, Holds.same h _ (fun _ _ => rfl) (fun _ => rfl) (fun _ => rfl) (fun _ => rfl)⟩
    | false =>
      refine ⟨_, (Landed.latch hh _).modGroup _, ⟨fun _ _ _ => rfl, fun _ => rfl, fun _ => rfl, ?_, by simp [Group.setC], rfl⟩⟩
      intro n hn
      simp only [Result.cAt]
      exact Group.setC_get h.g d.val n x hn
  | v d => exact ⟨h.g, Landed.same hh, Holds.same h _ (fun _ _ => rfl) (fun _ => rfl) (fun _ => rfl) (fun _ => rfl)⟩
  | s d => exact ⟨h.g, Landed.same hh, Holds.same h _ (fun _ _ => rfl) (fun _ => rfl) (fun _ => rfl) (fun _ => rfl)⟩
  | k d => exact ⟨h.g, Landed.same hh, Holds.same h _ (fun _ _ => rfl) (fun _ => rfl) (fun _ => rfl) (fun _ => rfl)⟩
  | b d => exact ⟨h.g, Landed.same hh, Holds.same h _ (fun _ _ => rfl) (fun _ => rfl) (fun _ => rfl) (fun _ => rfl)⟩
  | zr => exact ⟨h.g, Landed.same hh, Holds.same h _ (fun _ _ => rfl) (fun _ => rfl) (fun _ => rfl) (fun _ => rfl)⟩
  | imm => exact ⟨h.g, Landed.same hh, Holds.same h _ (fun _ _ => rfl) (fun _ => rfl) (fun _ => rfl) (fun _ => rfl)⟩

/-- Raising flags on top of a write. -/
theorem State.raise_landed {h : Here} {s t : State} {g : Group} {r : Result} (hl : Landed h s t g) (hg : Holds h r 0 g) (fl : Nat) :
    ∃ g', Landed h s (t.raise h.gid fl) g' ∧ Holds h r fl g' := by
  unfold State.raise
  by_cases hz : (fl == 0) = true
  · have : fl = 0 := by simpa using hz
    subst this
    exact ⟨g, by simpa using hl, hg⟩
  · rw [if_neg hz]
    refine ⟨_, hl.modGroup _, ⟨hg.v, hg.s, hg.k, hg.c, ?_, ?_⟩⟩
    · simp [hg.fsr]
    · have := hg.rest
      rw [this]

/-- An instruction row that runs and whose effect is such a write, writes. -/
theorem writes_of {i : Instr} {h : Here} {s t : State} {g : Group} {r : Result} {fl : Nat} {act : Here → State → SlotResult}
    (hr : Runs i h s) (he : exec i s = runSlot i act s) (ha : act h s = .done t) (hl : Landed h s t g) (hg : Holds h r fl g)
    (hc : closesRegion (fieldsOf i).op.toNat = false) : Writes i h s r fl := by
  refine ⟨t.finish h i, ?_, hl.wrote hr.here hc hg.v hg.s hg.k hg.c hg.fsr hg.rest⟩
  rw [he, runSlot_next hr, ha]
  rfl

/-- An integer result. -/
theorem writes_putI {i : Instr} {h : Here} {s : State} {w : AluW} {f : Nat → Int} {act : Here → State → SlotResult}
    (hr : Runs i h s) (he : exec i s = runSlot i act s) (ha : act h s = .done (s.putI h w f))
    (hc : closesRegion (fieldsOf i).op.toNat = false) : Writes i h s (intResult h w f) := by
  unfold State.putI at ha
  unfold intResult
  split at ha
  · rename_i hd
    obtain ⟨g, hl, hg⟩ := State.writeS_landed hr.here w.dst w.ws (BitVec.ofNat 64 (wrapN 64 (f 0)))
    rw [if_pos hd]
    exact writes_of hr he ha hl hg hc
  · rename_i hd
    obtain ⟨g, hl, hg⟩ := State.writeVec_landed hr.here w.dst w.ws w.ty.is64 (h.active w.g w.gn) fun l => wrapN 64 (f l)
    rw [if_neg hd]
    exact writes_of hr he ha hl hg hc

/-- A float result and its flags. -/
theorem writes_putF {i : Instr} {h : Here} {s : State} {w : AluW} {f : Nat → Nat × Nat} {act : Here → State → SlotResult}
    (hr : Runs i h s) (he : exec i s = runSlot i act s) (ha : act h s = .done (s.putF h w f))
    (hc : closesRegion (fieldsOf i).op.toNat = false) : Writes i h s (floatResult h w f) (floatFlags h w f) := by
  unfold State.putF at ha
  unfold floatResult floatFlags
  split at ha
  · rename_i hd
    obtain ⟨g, hl, hg⟩ := State.writeS_landed hr.here w.dst w.ws (BitVec.ofNat 64 (f 0).1)
    obtain ⟨g', hl', hg'⟩ := State.raise_landed hl hg (f 0).2
    rw [if_pos hd, if_pos hd]
    exact writes_of hr he ha hl' hg' hc
  · rename_i hd
    obtain ⟨g, hl, hg⟩ := State.writeVec_landed hr.here w.dst w.ws w.ty.is64 (h.active w.g w.gn) fun l => (f l).1
    obtain ⟨g', hl', hg'⟩ := State.raise_landed hl hg (foldLanes (h.active w.g w.gn) 0 fun a l => a ||| (f l).2)
    rw [if_neg hd, if_neg hd]
    exact writes_of hr he ha hl' hg' hc

end Sys2Proof.Machine
end

