-- ==== Sys2Proof/Tests/Slice0.lean ====
section
/-! SUPPORT. Tests: words written out from the manual's encodings, an ill-formed term for each check, single steps on small states,
and for each obligation states and operands that meet its hypotheses. Expected values are the manual's, or are worked out by hand
from its rules; no value here is taken from a run of the model. -/

namespace Sys2Proof.Tests

open Sys2Proof.Machine

-- The theorems are checked one after another: each is a long kernel evaluation, and the check gives every thread a large stack.
set_option Elab.async false

/-! ## Small states -/

/-- A memory holding little-endian values: address, bytes, value. -/
def bytesAt (l : List (Nat × Nat × Nat)) : SMap Byte := l.foldl (fun m e => writeLE m e.1 e.2.1 e.2.2) []

/-- A page table at 0x10000 (spec/23 R379): the 256 KiB pages from 0x40000 on. Page 1 has every permission; pages 2 to 6 have R, W and
AT; read only; nothing but X; the host's with R, W and AT; and page 7 another module's. -/
def pages : List (Nat × Nat × Nat) :=
  [(0x10000, 8, 0x14001), (0x14000, 8, 0x15001), (0x15000, 8, 0x16001), (0x16008, 8, 0x4003F), (0x16010, 8, 0x8002F),
   (0x16018, 8, 0xC0007), (0x16020, 8, 0x100013), (0x16028, 8, 0x1400AF), (0x16038, 8, 0x40000001C00EF)]

def cx0 : Ctx := { root := 0x10000, asid := 0, fn := 0, frsz := 6, rrsz := 6, fring := 0x20000, rring := 0x30000 }
def team0 : Team := { core := 0, ctx := 0, launch := 0, fixedLen := 4096, acc := 2 }
def group0 : Group := { team := 0, idx := 0, blocks := 2, laneSet := 3 }
def frag0 : Frag := { group := 0, line := 0x40000, mask := 3, st := .issuing }
def launch0 : Launch := { ctx := 0, cmd := 0, st := 4 }

/-- A machine with one context, launch, team, group and fragment, which issues at slot 0 of a line of page 1 with two lanes. -/
def base : State :=
  { State.reset with
    mem := bytesAt pages, ctxs := [(0, cx0)], launches := [(0, launch0)], nextLaunch := 1, teams := [(0, team0)], nextTeam := 1
    groups := [(0, group0)], frags := [(0, frag0)], cur := some 0 }

def here0 : Here := { fid := 0, gid := 0, tid := 0, f := frag0, g := group0, t := team0, cx := cx0 }

/-- The executing fragment of a state. -/
def hereD (s : State) : Here := s.here.getD here0

/-- The state with registers of its group set: vector registers as (32 × register + lane, value). -/
def withRegs (v : List (Nat × Nat)) (s : List (Nat × Nat)) (x : State) : State :=
  x.modGroup 0 fun g => { g with
    v := v.foldl (fun m e => m.set e.1 (BitVec.ofNat 32 e.2)) g.v
    s := s.foldl (fun m e => m.set e.1 (BitVec.ofNat 64 e.2)) g.s }

/-- Lanes 0 and on of vector register `n`. -/
def lanes (n : Nat) (l : List Nat) : List (Nat × Nat) := l.zipIdx.map fun e => (32 * n + e.2, e.1)

/-- The state with another execution mask, mask registers and flags. -/
def withMask (m : W32) (x : State) : State := x.modFrag 0 fun f => { f with mask := m }
def withK (l : List (Nat × Nat)) (x : State) : State := x.modGroup 0 fun g => { g with k := l.foldl (fun m e => m.set e.1 (BitVec.ofNat 32 e.2)) g.k }

def withMem (l : List (Nat × Nat × Nat)) (x : State) : State := { x with mem := l.foldl (fun m e => writeLE m e.1 e.2.1 e.2.2) x.mem }

/-- Row `i` runs in `s`, as a Bool. -/
def runsB (i : Instr) (s : State) : Bool :=
  match s.here with
  | some h => h.f.st == .issuing && (preCheck i h s).isNone && !h.mustWait i && !readsBad i h
  | none => false

/-- Row `i` runs in `s`, the executing fragment meeting `p`. -/
def Wit (i : Instr) (s : State) (p : Here → Prop) : Prop := ∃ h, Runs i h s ∧ p h

theorem runs_of_runsB {i : Instr} {s : State} (hr : runsB i s = true) : Runs i (hereD s) s := by
  unfold runsB at hr
  cases hh : s.here with
  | none => simp [hh] at hr
  | some h =>
    simp only [hh, Bool.and_eq_true, beq_iff_eq, Option.isNone_iff_eq_none, Bool.not_eq_true'] at hr
    have hd : hereD s = h := by simp [hereD, hh]
    rw [hd]
    exact ⟨hh, hr.1.1.1, hr.1.1.2, hr.1.2, hr.2⟩

theorem wit {i : Instr} {s : State} {p : Here → Prop} (hr : runsB i s = true) (hp : p (hereD s)) : Wit i s p :=
  ⟨hereD s, runs_of_runsB hr, hp⟩

/-- Every row of a list runs in `s`, the executing fragment meeting `p`. -/
theorem witAll {l : List Instr} {s : State} {p : Here → Prop} (hr : l.all (fun i => runsB i s) = true) (hp : p (hereD s)) :
    ∀ i ∈ l, Wit i s p := fun i hi => wit (List.all_eq_true.1 hr i hi) hp

/-- The state with every TM bit of the line at 0x40080 set (spec/03 R30, R33). -/
def withTm (x : State) : State := withMem [(0x400BC, 4, 0xF8000000)] x

/-- A second fragment of the group, Ready with the given mask and fusion points; the executing one has the same points. -/
def withSib (m : W32) (ch : List Nat) (x : State) : State :=
  { x with frags := (x.frags.modify 0 fun f => { f with chain := ch }).set 1 { frag0 with mask := m, st := .ready, chain := ch } }

/-- The group has one live fragment, and row `i` runs. -/
def WitSole (i : Instr) (s : State) (p : Here → Prop) : Prop := ∃ h, RunsSole i h s ∧ p h
theorem witSole {i : Instr} {s : State} {p : Here → Prop} (hr : runsB i s = true) (h1 : s.sole (hereD s) = true) (hp : p (hereD s)) : WitSole i s p :=
  ⟨hereD s, ⟨runs_of_runsB hr, h1⟩, hp⟩

/-- A second group of the team, with a Ready fragment in partition 1. -/
def withGroup1 (x : State) : State :=
  { x with groups := x.groups.set 1 { group0 with idx := 1 }, frags := x.frags.set 64 { frag0 with group := 1, st := .ready } }

/-- A value in a descriptor's field that begins at bit `lo`. -/
def at_bit (x lo : Nat) : Nat := x * 2 ^ lo
/-- The state with a 64-byte descriptor at 0x50000, which s0 names. -/
def withDesc (d : Nat) (x : State) : State := withRegs [] [(0, 0x50000)] (withMem [(0x50000, 64, d)] x)
/-- The descriptor at 0x50000 can be read. -/
def descOk (s : State) (h : Here) (n : Nat) : Prop := s.laneGlobal h 0x50000 n .read = none ∧ s.vPoison h.core h.cx 0x50000 n .read = false

/-- What the step of `i` leaves, if it answers a next state. -/
def after (i : Instr) (s : State) : Option State :=
  match exec i s with
  | .next t => some t
  | _ => none

def vAfter (i : Instr) (s : State) (n l : Nat) : Option Nat :=
  (after i s).bind fun t => (t.groups.get? 0).map fun g => (g.v.getD 0 (32 * n + l)).toNat
def sAfter (i : Instr) (s : State) (n : Nat) : Option Nat :=
  (after i s).bind fun t => (t.groups.get? 0).map fun g => (g.s.getD 0 n).toNat
def kAfter (i : Instr) (s : State) (n : Nat) : Option Nat :=
  (after i s).bind fun t => (t.groups.get? 0).map fun g => (g.k.getD 0 n).toNat
/-- Memory after the step: `n` bytes at physical address `a`. -/
def memAfter (i : Instr) (s : State) (a n : Nat) : Option Nat := (after i s).map fun t => readLE t.mem a n
/-- The outstanding write that the step adds: the values for vector registers. -/
def pendAfter (i : Instr) (s : State) : Option (List (Nat × Nat)) :=
  (after i s).bind fun t => (t.groups.get? 0).bind fun g => (g.pend.get? 0).map fun p => p.vs.map fun e => (e.1, e.2.toNat)
/-- The fragment's line and slot after the step. -/
def atAfter (i : Instr) (s : State) : Option (Nat × Nat) :=
  (after i s).bind fun t => (t.frags.get? 0).map fun f => (f.line.toNat, f.slot.val)
/-- The cause and DETAIL of the trap that the step takes (spec/03 R56). -/
def trapAfter (i : Instr) (s : State) : Option (Nat × Nat) :=
  (after i s).bind fun t => (t.frags.get? 0).bind fun f => match f.st with
    | .parked (.trap r _) => some (bitsN r.toNat 5 0, bitsN r.toNat 23 16)
    | _ => none

/-! ## Well-formedness: each check of spec/03 R51 steps 3 and 4 refuses an ill-formed term -/

/-- Terms that a check refuses, each with the check's DETAIL. -/
def refuses (l : List (Instr × RiDetail)) : Bool := l.all fun e => e.1.check == some e.2

/-- Operand kinds of formats R and I. -/
theorem test_wf_alu_operands : refuses
    [(.iadd { dst := .v 1, a := .k 1, b := .v 2, ty := .i32 }, .operand), (.iadd { dst := .v 1, a := .v 2, b := .v 4, ty := .i64 }, .operand),
     (.iadd { dst := .v 1, a := .v 1, b := .v 2, c := .v 3, ty := .i32 }, .operand),
     (.imad { dst := .v 1, a := .v 1, b := .v 2, c := .k 1, ty := .i32 }, .operand),
     (.iadd { fmtI := true, dst := .v 1, a := .v 1, b := .v 2, ty := .i32 }, .operand),
     (.iabs { dst := .v 1, a := .v 1, b := .v 2, ty := .i32 }, .operand),
     (.icmp { dst := .v 1, a := .v 1, b := .v 2, ty := .i32 }, .operand), (.icmp { dst := .k 0, a := .v 1, b := .v 2, ty := .i32 }, .operand),
     (.sel { dst := .v 1, a := .v 1, b := .v 2, c := .v 3, ty := .i32 }, .operand),
     (.sel { dst := .s 1, a := .s 1, b := .s 2, c := .k 1, ty := .i32 }, .operand),
     (.lea { dst := .v 2, a := .v 1, b := .v 4, ty := .n64 }, .operand), (.mov { dst := .v 1, a := .v 1, b := .v 2, ty := .i32 }, .operand),
     (.mov { dst := .k 0, b := .k 1, ty := .i32 }, .operand), (.mov { dst := .c 0, b := .k 1, ty := .i32 }, .operand),
     (.shl { dst := .v 1, a := .v 1, b := .v 2, c := .v 3, ty := .i32 }, .operand), (.bfi { dst := .v 1, a := .v 1, b := .v 2, c := .k 1, ty := .i32 }, .operand),
     (.popc { dst := .v 1, a := .v 1, b := .v 2, ty := .i32 }, .operand), (.cvt { dst := .v 1, a := .v 1, b := .v 2, ty := .f32, t2 := .f16 }, .operand),
     (.cvti { dst := .v 1, a := .v 1, b := .v 2, ty := .i32, t2 := .f32 }, .operand),
     (.cvtf { dst := .v 1, b := .v 3, ty := .f32, t2 := .i64 }, .operand), (.qpack { dst := .v 1, a := .v 2, b := .s 1, ty := .e2m1b, t2 := .f32 }, .operand),
     (.qunpk { dst := .v 1, a := .v 1, b := .v 2, ty := .f32, t2 := .e2m1b }, .operand), (.rng { dst := .v 2, a := .v 4, b := .v 5, ty := .n32 }, .operand),
     (.fadd { dst := .v 1, a := .v 1, b := .v 2, ty := .f32, rm := .sr, xm := 3 }, .operand)] = true := by decide +kernel

/-- Operand kinds of the mask and lane entries. -/
theorem test_wf_mask_operands : refuses
    [(.kop { dst := .v 1, a := .k 1, b := .k 2 }, .operand), (.kop { dst := .k 1, a := .k 1, b := .k 2, fn := 4 }, .operand),
     (.kpop { dst := .v 1, b := .k 2 }, .operand), (.kffs { dst := .s 1, a := .k 1, b := .k 2 }, .operand), (.vote { dst := .s 1, b := .k 2 }, .operand),
     (.shfl { dst := .v 1, a := .v 1, b := .v 2, fn := 1, ty := .i32 }, .operand), (.rdlane { dst := .v 1, b := .s 1, ty := .i32 }, .operand),
     (.rdlane { dst := .s 1, b := .s 1, ty := .i64, xm := 3 }, .operand), (.wrlane { dst := .v 1, a := .v 1, b := .s 1, ty := .i32 }, .operand),
     (.gred { dst := .v 1, a := .v 1, b := .v 2, ty := .i32 }, .operand), (.matchI { dst := .s 1, a := .v 1, ty := .i32 }, .operand)] = true := by decide +kernel

/-- Scalar execution, modifiers and result suppression of formats R and I. -/
theorem test_wf_alu_rules : refuses
    [(.iadd { dst := .s 1, a := .v 1, b := .s 2, ty := .i32 }, .scalar), (.iadd { g := 1, dst := .s 1, a := .s 1, b := .s 2, ty := .i32 }, .scalar),
     (.icmp { gn := true, dst := .c 1, a := .s 1, b := .s 2, ty := .i32 }, .scalar),
     (.iadd { dst := .v 1, a := .v 1, b := .v 2, ty := .f32 }, .modifier), (.iadd { dst := .v 1, a := .v 1, b := .v 2, ty := .i32, rm := .rtz }, .modifier),
     (.imin { dst := .v 1, a := .v 1, b := .v 2, ty := .i32, sat := true }, .modifier),
     (.imul { dst := .v 1, a := .v 1, b := .v 2, ty := .i32, sat := true, xm := 1 }, .modifier),
     (.iadd { dst := .v 1, a := .v 1, b := .v 2, ty := .i32, t2 := .i8 }, .modifier), (.iadd { dst := .v 1, a := .v 1, b := .v 2, ty := .i32, na := true }, .modifier),
     (.fsqrt { dst := .v 1, b := .v 2, ty := .f32, aa := true }, .modifier), (.fdp2 { dst := .v 1, a := .v 1, b := .v 2, c := .v 3, ty := .f16, ab := true }, .modifier),
     (.fadd { dst := .v 1, a := .v 1, b := .v 2, ty := .f32, nc := true }, .modifier), (.iadd { dst := .v 1, a := .v 1, b := .v 2, ty := .i32, xm := 1 }, .modifier),
     (.lea { dst := .v 2, a := .v 2, b := .v 4, ty := .n64, xm := 5 }, .modifier), (.dp4i { dst := .v 1, a := .v 1, b := .v 2, c := .v 3, ty := .i32, xm := 4 }, .modifier),
     (.ffrexp { dst := .v 1, b := .v 2, ty := .f32, xm := 2 }, .modifier), (.rdlane { dst := .s 1, b := .s 1, ty := .i32, xm := 256 }, .modifier),
     (.gscan { dst := .v 1, a := .v 1, ty := .i32, xm := 2 }, .modifier), (.cvt { dst := .v 1, b := .v 2, ty := .f32, t2 := .f16, xm := 0x800 }, .modifier),
     (.qpack { dst := .v 1, a := .v 2, ty := .e2m1b, t2 := .f32, xm := 0x300 }, .modifier), (.fadd { dst := .v 1, a := .v 1, b := .v 2, ty := .f32, xm := 0x100 }, .modifier),
     (.fadd { fmtI := true, dst := .v 1, a := .v 1, b := .imm, ty := .f16, imm := 0x10000 }, .modifier),
     (.fdp4 { dst := .v 1, a := .v 1, b := .v 2, c := .v 3, ty := .e4m3, t2 := .f16 }, .modifier),
     (.iadd { ws := true, dst := .v 2, a := .v 2, b := .v 4, ty := .i64 }, .suppress)] = true := by decide +kernel

/-- Format M: operand kinds and alignment. -/
theorem test_wf_mem_operands : refuses
    [(.ld { dst := .k 1, a := .s 0 }, .operand), (.ld { dst := .v 1, a := .v 1 }, .operand), (.ld { dst := .v 1, a := .s 0, width := .w8 }, .operand),
     (.ld { dst := .v 2, a := .s 0, width := .w16 }, .operand), (.ld { dst := .b 0, a := .s 0 }, .operand), (.ld { dst := .v 1, a := .s 0, b := .k 1 }, .operand),
     (.st { a := .k 0, c := .v 1 }, .operand), (.st { a := .s 0, c := .k 1 }, .operand), (.lds { dst := .v 1, a := .k 0 }, .operand), (.sts { a := .zr, c := .v 1 }, .operand),
     (.ldc { dst := .v 1, a := .v 0, b := .v 1 }, .operand), (.stc { a := .s 0, b := .zr, c := .v 1 }, .operand), (.pref { a := .s 0, dst := .v 1 }, .operand),
     (.ldsc { dst := .s 1, a := .k 0 }, .operand), (.stsc { a := .s 0, c := .k 1 }, .operand), (.stsc { a := .s 0, c := .v 1 }, .operand), (.ld { dst := .zr, a := .s 0 }, .operand), (.atom { dst := .v 1, a := .v 1, c := .v 2 }, .operand),
     (.atom { dst := .v 1, a := .s 0, c := .v 3, opc := .cas }, .operand), (.atoms { dst := .v 1, a := .k 0, c := .v 2 }, .operand), (.bins { dst := .v 1, a := .s 0, c := .v 3 }, .operand),
     (.bffcs { dst := .v 2, a := .s 0, c := .v 2, width := .w8 }, .operand), (.bpls { dst := .v 1, a := .s 0, c := .zr }, .operand), (.red { a := .s 0, c := .k 1 }, .operand),
     (.mwait { a := .s 0, b := .s 63, width := .w8 }, .operand), (.sobjBar { a := .s 0, b := .zr, width := .w8 }, .operand), (.sobjCell { a := .s 0, b := .s 1, width := .w8 }, .operand),
     (.sarv { dst := .c 1, a := .s 0, width := .w8 }, .operand), (.sarvPost { dst := .s 1, a := .s 0, b := .s 1, width := .w8 }, .operand),
     (.swait { a := .s 0, b := .zr, width := .w8 }, .operand), (.cntaSig { a := .v 0, b := .s 1, width := .w8 }, .operand)] = true := by decide +kernel

/-- Format M: scalar execution and modifiers. -/
theorem test_wf_mem_rules : refuses
    [(.ld { dst := .s 1, a := .s 0 }, .scalar), (.lds { dst := .s 1, a := .s 0 }, .scalar), (.ldc { dst := .s 1, a := .s 0, b := .s 1 }, .scalar),
     (.ldsc { dst := .s 1, a := .v 0 }, .scalar), (.ldsc { g := 1, dst := .s 1, a := .s 0 }, .scalar),
     (.atom { dst := .s 1, a := .v 2, c := .s 2 }, .scalar), (.mwait { g := 1, a := .s 0, b := .s 1, width := .w8 }, .scalar), (.sobjInv { a := .v 0, width := .w8 }, .scalar),
     (.cntaArm { g := 1, a := .s 0, b := .s 1, width := .w8 }, .scalar), (.ld { dst := .v 1, a := .s 0, order := .rel }, .modifier), (.st { a := .s 0, c := .v 1, order := .acq }, .modifier),
     (.pref { a := .s 0, order := .acq }, .modifier), (.mwait { a := .s 0, b := .s 1, width := .w8, order := .rel }, .modifier), (.sarv { a := .s 0, width := .w8, order := .acq }, .modifier),
     (.lds { dst := .v 1, a := .s 0, scope := .dev }, .modifier), (.ldc { dst := .v 1, a := .s 0, b := .s 1, scale := 1 }, .modifier), (.atoms { dst := .v 4, a := .s 0, c := .v 2, width := .w16 }, .modifier),
     (.atom { dst := .v 1, a := .s 0, c := .v 2, width := .w2 }, .modifier), (.bffcs { dst := .v 1, a := .s 0 }, .modifier), (.swait { a := .s 0, b := .s 1, width := .w4 }, .modifier),
     (.atom { dst := .v 1, a := .s 0, c := .v 2, sub := 1 }, .modifier), (.mwait { a := .s 0, b := .s 1, width := .w8, sub := 3 }, .modifier),
     (.atom { dst := .v 2, a := .s 0, c := .v 2, width := .w8, kind := .float }, .modifier), (.atom { dst := .v 1, a := .s 0, c := .v 2, kind := .float, opc := .xor }, .modifier),
     (.red { a := .s 0, c := .v 2, opc := .cas }, .modifier), (.ld { dst := .v 1, a := .s 0, opc := .min }, .modifier), (.ld { ws := true, dst := .v 1, a := .s 0 }, .suppress)] = true := by decide +kernel

/-- Formats E and S: operand kinds of rows with a check of their own, and of one row of each shape. -/
theorem test_wf_eng_operands : refuses
    [(.srd { dst := .k 1 }, .operand), (.srd { dst := .v 1, imm := 0x100 }, .operand), (.swr { a := .k 1, imm := 0x11 }, .operand), (.ret { a := .v 0 }, .operand), (.jmpi { a := .zr }, .operand),
     (.fuse { a := .s 0 }, .operand), (.cjoin { dst := .k 1 }, .operand), (.cctlClean { a := .s 0, b := .zr }, .operand), (.launch { dst := .c 0, a := .zr }, .operand),
     (.recalloc { dst := .v 1, a := .s 0 }, .operand), (.recemit { a := .s 0, b := .v 1 }, .operand), (.tilenx { dst := .zr }, .operand), (.prog { a := .s 0 }, .operand),
     (.pmcapStart { a := .s 0, b := .zr }, .operand), (.rsig { b := .c 0 }, .operand), (.cplIn { a := .v 1, b := .v 2 }, .operand), (.cpseal { a := .s 0, b := .zr }, .operand),
     (.seprog { dst := .zr, a := .s 0 }, .operand), (.sectlQuery { dst := .zr }, .operand), (.bcpy { a := .v 0 }, .operand), (.collBroadcast { a := .zr }, .operand),
     (.mma { a := .s 0, b := .s 1, c := .v 1, imm := 0 }, .operand), (.mma { a := .s 0, b := .s 1, imm := 0xD0 }, .operand), (.mloop { a := .s 0, b := .s 1, c := .s 2, dst := .s 3 }, .operand),
     (.mloopm { a := .s 0, c := .s 2, imm := 0xD0 }, .operand), (.mqb { a := .v 1 }, .operand), (.mqb { a := .v 2, b := .v 1 }, .operand), (.mfence {}, .operand), (.mbwait { a := .v 0 }, .operand),
     (.accst { a := .s 0, b := .s 1, imm := 0xAA0 }, .operand), (.accrd { dst := .s 0 }, .operand), (.accwr { a := .s 0 }, .operand), (.neval { dst := .v 1, a := .v 1, b := .v 2 }, .operand),
     (.nhldPre { a := .zr }, .operand), (.nstat { dst := .k 0 }, .operand), (.vapp { dst := .v 1, a := .s 0 }, .operand), (.vld { dst := .v 1, a := .s 0, b := .v 1, imm := 13 }, .operand),
     (.vld { dst := .v 1, a := .s 0 }, .operand), (.vgenCloseFree { a := .s 0, b := .s 1, imm := 1 }, .operand), (.vpinPin { a := .s 0, b := .zr }, .operand), (.trace { dst := .v 1, a := .s 0, b := .s 1 }, .operand),
     (.trresAccept { dst := .v 1, a := .s 0 }, .operand), (.tqry { a := .v 0, b := .zr }, .operand), (.tqnext { dst := .s 0 }, .operand), (.trstat {}, .operand), (.texs { dst := .v 0, a := .s 0, b := .v 4 }, .operand),
     (.texq { dst := .v 0, a := .s 0 }, .operand), (.tlsub { a := .s 0, b := .s 1, c := .s 3 }, .operand), (.tlflush { a := .s 0 }, .operand), (.fout { a := .s 0 }, .operand), (.spsub { a := .s 0, b := .s 2, c := .s 4 }, .operand)] = true := by
  decide +kernel

/-- Formats E and S: the guard, and each further check of IMM; format B. -/
theorem test_wf_eng_rules : refuses
    [(.srd { g := 1, dst := .s 1 }, .scalar), (.swr { a := .v 1, imm := 0x11 }, .scalar), (.tbar { g := 1 }, .scalar), (.trstat { g := 1, dst := .s 1 }, .scalar), (.trstat { dst := .s 1, imm := 8 }, .scalar),
     (.srd { dst := .s 1, imm := 0x15 }, .modifier), (.srd { dst := .s 1, imm := 0x100 }, .modifier), (.swr { a := .s 1, imm := 0x12 }, .modifier), (.rgn { imm := 1 }, .modifier), (.rgnClose {}, .modifier),
     (.tbar { imm := 0x2100 }, .modifier), (.tbar { imm := 0x20 }, .modifier), (.cbar { imm := 1 }, .modifier), (.rbsur { imm := 16 }, .modifier), (.fenceAcq { imm := 6 }, .modifier), (.recalloc { dst := .v 2, a := .s 0, imm := 8 }, .modifier),
     (.syscallUnassigned { imm := 3 }, .modifier), (.syscallWake { imm := 0x10003 }, .modifier), (.prog { imm := 16 }, .modifier), (.rsig { b := .s 1, imm := 0x100 }, .modifier), (.cplIn { a := .v 2, b := .v 1, imm := 3 }, .modifier),
     (.cplOut { a := .v 2, b := .v 1, imm := 0 }, .modifier), (.cpseal { a := .s 0, b := .s 1, imm := 7 }, .modifier), (.mma { a := .s 0, b := .s 1, imm := 0x220 }, .modifier), (.mma { a := .s 0, b := .s 1, imm := 0x1000 }, .modifier),
     (.mloopm { a := .s 0, c := .s 1, imm := 0x100F }, .modifier), (.mqb { a := .v 2, imm := 0x20 }, .modifier), (.mbwait { a := .s 0, imm := 1 }, .modifier), (.accnew { imm := 16 }, .modifier), (.accld { a := .s 0, imm := 0x30 }, .modifier),
     (.accst { a := .s 0, imm := 0x5AA0 }, .modifier), (.accrd { dst := .v 0, imm := 0x3E10 }, .modifier), (.accwr { a := .v 0, imm := 0x3E10 }, .modifier), (.neval { dst := .v 1, a := .v 2, b := .v 2, imm := 0x400 }, .modifier),
     (.nstat { dst := .k 1, imm := 2 }, .modifier), (.vapp { dst := .v 1, a := .s 0, b := .v 2, imm := 4 }, .modifier), (.vrwgt { dst := .v 1, a := .s 0, b := .v 2, imm := 3 }, .modifier), (.vld { dst := .v 1, a := .s 0, b := .v 2, imm := 15 }, .modifier),
     (.vgenOpen { a := .s 0, b := .s 1, c := .s 2, imm := 1 }, .modifier), (.vgenOpenInit { a := .s 0, b := .s 1, c := .s 2 }, .modifier), (.vgenClose { a := .s 0, b := .s 1, c := .s 2, imm := 1 }, .modifier),
     (.trace { dst := .v 8, a := .v 0, b := .s 0, imm := 0x300 }, .modifier), (.tqry { a := .v 0, b := .s 0, imm := 3 }, .modifier), (.tqnext { dst := .v 0, imm := 8 }, .modifier), (.trstat { dst := .v 0, imm := 9 }, .modifier),
     (.tlsub { a := .s 0, b := .s 1, c := .s 2, imm := 6 }, .modifier), (.rgn { ws := true }, .suppress),
     (.br { a := .c 0 }, .operand), (.br { a := .k 0, cond := .cset }, .operand), (.call { dst := .v 0 }, .operand), (.split { b := .c 0 }, .operand), (.br { g := 1 }, .scalar), (.split { b := .k 1, cond := .kz }, .modifier),
     (.br { ws := true }, .suppress)] = true := by decide +kernel

/-- What is no instruction word is not well-formed, nor a term that holds what its word does not carry. -/
theorem test_wf_event_row : ¬ WellFormed .moduleSleep := by unfold WellFormed; decide +kernel
theorem test_wf_not_canonical : ¬ WellFormed (.iadd { dst := .v 1, a := .v 1, b := .v 2, ty := .i32, imm := 1 }) := by unfold WellFormed; decide +kernel
theorem test_wf_plain : WellFormed (.iadd { dst := .v 1, a := .v 1, b := .v 2, ty := .i32 }) := by unfold WellFormed; decide +kernel

/-! ## Words written out from the manual's encodings -/

/-- A word decodes to an instruction, and that instruction encodes to the word. -/
def means (w : Nat) (i : Instr) : Bool :=
  (match decode (BitVec.ofNat 96 w) with | .ok j => j == i | .error _ => false) && encode i == BitVec.ofNat 96 w

/-- A word is refused with a reason. -/
def refused (w : Nat) (r : RiDetail) : Bool :=
  match decode (BitVec.ofNat 96 w) with | .ok _ => false | .error x => x == r

/-- Formats R and I: the worked encodings of spec/03 (`ffma.f32 v5, v4, v6, v5`), spec/05 (`iadd.i32 v1, v1, #4`) and spec/06
(`cvt.e4m3.f32.sat.o3 v9, v7, b2`), and words put together from R41 and R49: `kpop s6, k1` and `mov.n32 v2, s3`. -/
theorem test_words_alu :
    means 0x23000140_200C0280_A0000000 (.ffma { dst := .v 5, a := .v 4, b := .v 6, c := .v 5, ty := .f32 }) = true ∧
    means 0x01200040_0ABAA000_00000004 (.iadd { fmtI := true, dst := .v 1, a := .v 1, b := .imm, ty := .i32, imm := 4 }) = true ∧
    means 0x4000024A_D00EAE00_B1A00300
      (.cvt { dst := .v 9, a := .b 2, b := .v 7, ty := .e4m3, sat := true, t2 := .f32, xm := 0x300 }) = true ∧
    means 0x5100418A_E282AE00_00000000 (.kpop { dst := .s 6, b := .k 1 }) = true ∧
    means 0x1B00008A_E206AE00_40000000 (.mov { dst := .v 2, b := .s 3, ty := .n32 }) = true := by decide +kernel

/-- Format M: the worked encodings of spec/09 and spec/18 (`cnta.sig.dev c2, [s4],
s5`), and `atom.add.n32.dev v4, [v2], v6` put together from R194. -/
theorem test_words_mem :
    means 0x81406808_200403A8_00000008
      (.st { a := .s 4, b := .v 2, c := .v 7, width := .w4, order := .rel, scope := .dev, scale := 2, off := 8 }) = true ∧
    means 0x7B405488_220AC030_00000000 (.cntaSig { dst := .c 2, a := .s 4, b := .s 5, width := .w8, scope := .dev }) = true ∧
    means 0xA0400100_13000320_00000000 (.atom { dst := .v 4, a := .v 2, c := .v 6, width := .w4, scope := .dev }) = true := by decide +kernel

/-- Format B: the worked encoding of spec/07 (`split k2, other, join`), and `br #-1` line, slot 4, put together from R44. -/
theorem test_words_branch :
    means 0x6480570A_E2840180_00000010 (.split { b := .k 2, foff := 3, lineOff := 2 }) = true ∧
    means 0x6080570A_E2B8AE00_FFFFFFFC (.br { lineOff := 0x1FFFFFFF, slot := 4 }) = true := by decide +kernel

/-- Format E: copies, the matrix engine, the Pen, Fold, traversal and the tile engine (spec/10, 11, 13, 14, 16, 17, 19, 20, 21, 22,
24). -/
theorem test_words_engines :
    means 0xB0605700_A018AE00_00000002 (.cplIn { a := .v 20, b := .v 12, imm := 2 }) = true ∧
    means 0xC1605708_52168600_00001882 (.mloop { a := .s 10, b := .s 11, c := .s 12, imm := 0x1882 }) = true ∧
    means 0xC1604348_52168600_00001DD0 (.mloop { dst := .s 13, a := .s 10, b := .s 11, c := .s 12, imm := 0x1DD0 }) = true ∧
    means 0xD0600500_4014AE00_00000247 (.neval { dst := .v 20, a := .v 8, b := .v 10, imm := 0x247 }) = true ∧
    means 0xD26050CA_E2B8AE00_00000000 (.nstat { dst := .k 3 }) = true ∧
    means 0xD5600A08_2028AE00_00000000 (.vconn { dst := .v 40, a := .s 4, b := .v 20 }) = true ∧
    means 0xD4640A08_2060AE00_00000001 (.vapp { g := 2, dst := .v 40, a := .s 4, b := .v 48, imm := 1 }) = true ∧
    means 0xDC6E0A00_A204AE00_000004FF (.trace { g := 7, dst := .v 40, a := .v 20, b := .s 2, imm := 0x4FF }) = true ∧
    means 0xDD660A0A_E2B8AE01_00000000 (.trresReject { g := 3, dst := .v 40 }) = true ∧
    means 0xE7605708_220A8300_00000003 (.tlsub { a := .s 4, b := .s 5, c := .s 6, imm := 3 }) = true ∧
    means 0xE8605708_0AB88A00_00000003 (.tlflush { a := .s 1, c := .s 20, imm := 3 }) = true ∧
    means 0xB5605708_22B8AE00_00000000 (.collAllReduce { a := .s 4 }) = true ∧
    means 0xD9605448_220A8300_00000001 (.vgenOpenInit { dst := .c 1, a := .s 4, b := .s 5, c := .s 6, imm := 1 }) = true := by
  decide +kernel

/-- Format S: launches, observation, regions and control (spec/12, 18, 25, 26); `ret s4` put together from R40. -/
theorem test_words_system :
    means 0xF0A0548A_E2B8AE00_00000000 (.tilenx { dst := .c 2 }) = true ∧
    means 0xECA05448_32B8AE00_00000000 (.launch { dst := .c 1, a := .s 6 }) = true ∧
    means 0xF8A05448_220AAE00_00000000 (.pmcapStart { dst := .c 1, a := .s 4, b := .s 5 }) = true ∧
    means 0xF7A0570A_E2B8AE00_00000003 (.prog { imm := 3 }) = true ∧
    means 0x68A0570A_E2B8AE00_00000000 (.rgn {}) = true ∧ means 0x68A0570A_E2B8AE00_00000001 (.rgnClose { imm := 1 }) = true ∧
    means 0x69A0570A_E2B8AE00_1234ABCD (.sigchk { imm := 0x1234ABCD }) = true ∧
    means 0x62A05708_22B8AE00_00000000 (.ret { a := .s 4 }) = true := by decide +kernel

/-- The order of the checks (spec/03 R51) and the words that always trap (R49, R50): the all-zero word is a NOP and the all-ones
word a UDF. -/
theorem test_words_refused :
    means 0 .nop = true ∧ (match decode (BitVec.ofNat 96 (2 ^ 96 - 1)) with | .ok i => i == .udf | .error _ => false) = true ∧
    refused 0x1F000000_00000000_00000000 .format = true ∧ refused 0x36000000_00000000_00000000 .major = true ∧
    refused 0x01C00000_00000000_00000000 .major = true ∧ refused 0x01400040_0ABAA000_00000004 .format = true ∧
    refused 0x01200040_0ABAA001_00000004 .function = true ∧ refused 0x01200040_0AAEA000_00000004 .format = true ∧
    refused 0x0120004A_02BAA000_00000004 .operand = true := by decide +kernel

/-- The line word of the worked example (spec/03 R30): slot 0 holds the FFMA above, TM bit 0 is set, and the parity byte is 0x83. -/
theorem test_line_parity :
    parityOf (BitVec.ofNat 512 (0x23000140_200C0280_A0000000 + 0x08000083 * 2 ^ 480)) = 0x83 := by decide +kernel

/-! ## Arithmetic: the manual's worked results -/

/-- Division (spec/05 R88): −7 / 2, 7 / −2, −7 / 0 and 0x80000000 / −1. -/
theorem test_idiv :
    let s := withMask 0xF (withRegs (lanes 1 [0xFFFFFFF9, 7, 0xFFFFFFF9, 0x80000000] ++ lanes 2 [2, 0xFFFFFFFE, 0, 0xFFFFFFFF]) [] base)
    [0, 1, 2, 3].map (vAfter (.idiv { dst := .v 3, a := .v 1, b := .v 2, ty := .i32 }) s 3) =
      [some 0xFFFFFFFD, some 0xFFFFFFFD, some 1, some 0x80000000] ∧
    [0, 1, 2, 3].map (vAfter (.irem { dst := .v 3, a := .v 1, b := .v 2, ty := .i32 }) s 3) =
      [some 0xFFFFFFFF, some 1, some 0xFFFFFFF9, some 0] := by decide +kernel

/-- Wrapping and saturation (R87). -/
theorem test_iadd :
    let s := withRegs (lanes 1 [0x7FFFFFFF, 0xFFFFFFFF] ++ lanes 2 [1, 1]) [] base
    vAfter (.iadd { dst := .v 3, a := .v 1, b := .v 2, ty := .i32 }) s 3 0 = some 0x80000000 ∧
    vAfter (.iadd { dst := .v 3, a := .v 1, b := .v 2, ty := .i32, sat := true }) s 3 0 = some 0x7FFFFFFF ∧
    vAfter (.iadd { dst := .v 3, a := .v 1, b := .v 2, ty := .n32, sat := true }) s 3 1 = some 0xFFFFFFFF ∧
    vAfter (.imul { dst := .v 3, a := .v 1, b := .v 1, ty := .n32, xm := 1 }) s 3 1 = some 0xFFFFFFFE := by decide +kernel

/-- Bit fields and permutation (R91, R93): `bfx.i32` of 0xF70 with 0x0404 and 0x0804, and the worked PERM. -/
theorem test_bfx_perm :
    let s := withRegs (lanes 1 [0xF70] ++ lanes 2 [0x0404] ++ lanes 3 [0x0804] ++ lanes 4 [0x44332211] ++ lanes 5 [0x88F76655] ++
      lanes 6 [0xE420]) [] base
    vAfter (.bfx { dst := .v 7, a := .v 1, b := .v 2, ty := .i32 }) s 7 0 = some 7 ∧
    vAfter (.bfx { dst := .v 7, a := .v 1, b := .v 3, ty := .i32 }) s 7 0 = some 0xFFFFFFF7 ∧
    vAfter (.perm { dst := .v 7, a := .v 4, b := .v 5, c := .v 6, ty := .n32 }) s 7 0 = some 0xFF553311 := by decide +kernel

/-- The compaction example of spec/05: the comparison, the exclusive scan and the count. -/
theorem test_compaction :
    let s := withK [(1, 0x56)] (withMask 0xFF (withRegs (lanes 2 [50, 120, 300, 7, 101, 100, 999, 0] ++ lanes 3 [0, 1, 1, 0, 1, 0, 1, 0]) [] base))
    kAfter (.icmp { fmtI := true, dst := .k 1, a := .v 2, b := .imm, fn := 4, ty := .i32, imm := 100 }) s 1 = some 0x56 ∧
    (List.range 8).map (vAfter (.gscan { dst := .v 4, a := .v 3, ty := .n32, xm := 1 }) s 4) =
      [some 0, some 0, some 1, some 2, some 2, some 3, some 3, some 4] ∧
    sAfter (.kpop { dst := .s 6, b := .k 1 }) s 6 = some 4 := by decide +kernel

/-- Rounding and conversion (spec/04, spec/06): 0.3 to e4m3, f16 and bf16, 500 saturated to e4m3, and 1/3. -/
theorem test_convert :
    let s := withRegs (lanes 1 [0x3E99999A, 0x43FA0000] ++ lanes 2 [0x40400000]) [] base
    vAfter (.cvt { dst := .v 3, b := .v 1, ty := .e4m3, t2 := .f32 }) s 3 0 = some 0x2A ∧
    vAfter (.cvt { dst := .v 3, b := .v 1, ty := .f16, t2 := .f32 }) s 3 0 = some 0x34CD ∧
    vAfter (.cvt { dst := .v 3, b := .v 1, ty := .bf16, t2 := .f32 }) s 3 0 = some 0x3E9A ∧
    vAfter (.cvt { dst := .v 3, b := .v 1, ty := .e4m3, t2 := .f32, sat := true }) s 3 1 = some 0x7E ∧
    vAfter (.frcp { dst := .v 3, b := .v 2, ty := .f32 }) s 3 0 = some 0x3EAAAAAB := by decide +kernel

/-- Block quantisation (spec/06 R130): the worked block 3, −5, 37, 15 under .xmax. -/
theorem test_qpack :
    let s := withMask 0xFFFFFFFF (withRegs (lanes 1 [0x40400000, 0xC0A00000, 0x42140000, 0x41700000]) [] base)
    vAfter (.qpack { dst := .v 2, a := .v 1, ty := .e2m1b, t2 := .f32, xm := 0x100 }) s 2 0 = some 0x68A2 ∧
    vAfter (.qpack { dst := .v 2, a := .v 1, ty := .e2m1b, t2 := .f32, xm := 0x100 }) s 2 4 = some 0x5181 := by decide +kernel

/-! ## Arithmetic: what meets the hypotheses -/

def aw : AluW := { dst := .v 3, a := .v 1, b := .v 2, ty := .i32 }
def aw3 : AluW := { aw with c := .v 4 }
def awF : AluW := { aw with ty := .f32 }

theorem witness_IntegerArithmetic :
    ∀ i ∈ [Instr.iadd aw, .isub aw, .imul aw, .imad aw3, .imin aw, .imax aw, .iabs aw, .ineg aw], Wit i base fun h => h.f.mask = 3 :=
  witAll (by decide +kernel) (by decide +kernel)

theorem witness_Division : WellFormed (.idiv aw) ∧ WellFormed (.irem aw) ∧ ∀ i ∈ [Instr.idiv aw, .irem aw],
    Wit i (withRegs (lanes 1 [0x80000000] ++ lanes 2 [0xFFFFFFFF]) [] base) fun h => h.srcI aw aw.a 0 = -2 ^ 31 ∧ h.srcI aw aw.b 0 = -1 ∧ h.srcI aw aw.b 1 = 0 :=
  ⟨by unfold WellFormed; decide +kernel, by unfold WellFormed; decide +kernel, witAll (by decide +kernel) (by decide +kernel)⟩

theorem witness_LogicAndShifts :
    (∀ i ∈ [Instr.andI aw, .orI aw, .xorI aw, .andn aw, .rot aw, .shl aw, .shr aw], WellFormed i) ∧
    (∀ i ∈ [Instr.andI aw, .orI aw, .xorI aw, .andn aw, .rot aw, .shl aw, .shr aw],
      Wit i (withRegs (lanes 2 [31, 32]) [] base) fun _ => aw.sat = false ∧ aw.ty.packed = false) ∧
    ∀ i ∈ [Instr.shl { aw with ty := .v2i16 }, .shr { aw with ty := .v2i16 }], Wit i base fun _ => Ty.packed .v2i16 = true :=
  ⟨by simp only [WellFormed]; decide +kernel, witAll (by decide +kernel) (by decide +kernel), witAll (by decide +kernel) rfl⟩

theorem witness_BitFields :
    (∀ i ∈ [Instr.bfx aw, .bfi aw3, .popc { aw with a := .zr }, .clz { aw with a := .zr }, .brev { aw with a := .zr }, .perm aw3], WellFormed i) ∧
    ∀ i ∈ [Instr.bfx aw, .bfi aw3, .popc { aw with a := .zr }, .clz { aw with a := .zr }, .brev { aw with a := .zr }, .perm aw3],
      Wit i (withRegs (lanes 2 [0x2000, 0x20]) [] base) fun h => h.f.mask = 3 :=
  ⟨by simp only [WellFormed]; decide +kernel, witAll (by decide +kernel) (by decide +kernel)⟩

theorem witness_CompareSelectMove :
    (∀ i ∈ [Instr.icmp { aw with dst := .k 1 }, .icmp { aw with dst := .c 1, a := .s 1, b := .s 2 }, .sel { aw with c := .k 1 },
      .sel { aw with dst := .s 3, a := .s 1, b := .s 2, c := .c 1 }, .lea { aw with xm := 12 }, .dp4i aw3, .sad { aw with ty := .n8 }], Wit i base fun h => h.f.mask = 3) ∧
    WellFormed (.mov { aw with a := .zr }) ∧ Wit (.mov { aw with a := .zr }) base (fun _ => True) ∧
    (∀ o ∈ [Opnd.k 1, .c 1], Wit (.mov { aw with dst := .s 3, a := .zr, b := o }) base fun _ => o.isK = true ∨ o.isC = true) ∧
    (∀ o ∈ [Opnd.s 2, .imm, .zr], Wit (.mov { aw with dst := .s 3, a := .zr, b := o, imm := 5 }) base fun _ =>
      o.isV = true ∨ o.isS = true ∨ o.isImm = true ∨ o.isZr = true) ∧
    Wit (.mov { aw with dst := .s 3, a := .zr, b := .b 1 }) (base.modFrag 0 fun f => { f with latches := [(1, .mask 5)] })
      (fun h => h.f.latches.get? 1 = some (.mask 5)) ∧
    Wit (.mov { aw with dst := .k 1, a := .zr, b := .s 2 }) base (fun _ => True) ∧ Wit (.mov { aw with dst := .c 1, a := .zr, b := .s 2 }) base fun _ => True :=
  ⟨witAll (by decide +kernel) (by decide +kernel),
   by unfold WellFormed; decide +kernel, wit (by decide +kernel) trivial,
   by intro o ho; simp only [List.mem_cons, List.not_mem_nil, or_false] at ho; obtain rfl | rfl := ho <;> exact wit (by decide +kernel) (by decide +kernel),
   by intro o ho; simp only [List.mem_cons, List.not_mem_nil, or_false] at ho; obtain rfl | rfl | rfl := ho <;> exact wit (by decide +kernel) (by decide +kernel),
   wit (by decide +kernel) (by decide +kernel), wit (by decide +kernel) trivial, wit (by decide +kernel) trivial⟩

theorem witness_FloatArithmetic :
    ∀ i ∈ [Instr.fadd awF, .fsub awF, .fmul awF, .ffma { awF with c := .v 4 }, .fdp2 { awF with ty := .f16, c := .v 4 },
      .fdp4 { awF with ty := .e4m3, t2 := .e5m2, c := .v 4 }, .fmin awF, .fmax awF, .fcmp { awF with dst := .k 1 }, .fcmp { awF with dst := .c 1, a := .s 1, b := .s 2 },
      .fclass { awF with a := .zr }, .frnd { awF with a := .zr }, .fcopys awF, .fldexp awF, .ffrexp { awF with a := .zr }, .ffrexp { awF with a := .zr, xm := 1 },
      .frcp { awF with a := .zr }, .fdiv awF, .fsqrt { awF with a := .zr }, .frsq { awF with a := .zr }, .fexp2 { awF with a := .zr }, .flog2 { awF with a := .zr },
      .fsin { awF with a := .zr }, .fcos { awF with a := .zr }], Wit i base fun h => h.f.mask = 3 := witAll (by decide +kernel) (by decide +kernel)

theorem witness_Conversions :
    (∀ i ∈ [Instr.cvt { awF with a := .zr, t2 := .f16 }, .cvti { aw with a := .zr, t2 := .f32 }, .cvtf { awF with a := .zr, t2 := .i32 },
      .qunpk { awF with a := .zr, t2 := .e2m1b }, .rng { aw with ty := .n64, dst := .v 2, a := .v 4, b := .v 6 }, .rngf { awF with a := .v 4, b := .v 6 }],
      Wit i base fun h => h.f.mask = 3) ∧
    Wit (.qpack { awF with ty := .e2m1b, t2 := .f32, b := .zr }) base (fun h => h.active 0 false ≠ 0) ∧
    Wit (.qpack { awF with g := 1, ty := .e2m1b, t2 := .f32, b := .zr }) base fun h => h.active 1 false = 0 :=
  ⟨witAll (by decide +kernel) (by decide +kernel), wit (by decide +kernel) (by decide +kernel), wit (by decide +kernel) (by decide +kernel)⟩

theorem witness_KpopKffs :
    WellFormed (.kpop { dst := .s 3, b := .k 1 }) ∧ WellFormed (.kffs { dst := .s 3, b := .k 1 }) ∧
    Wit (.kpop { dst := .s 3, b := .k 1 }) base (fun _ => True) ∧
    Wit (.kffs { dst := .s 3, b := .k 1 }) base (fun h => h.srcK (.k 1) 0 &&& h.f.mask = 0) ∧
    Wit (.kffs { dst := .s 3, b := .k 1 }) (withK [(1, 0x80000000)] (withMask 0xFFFFFFFF base)) fun h =>
      (h.srcK (.k 1) 0 &&& h.f.mask).getLsbD 31 = true ∧ ∀ j, j < 31 → (h.srcK (.k 1) 0 &&& h.f.mask).getLsbD j = false :=
  ⟨by unfold WellFormed; decide +kernel, by unfold WellFormed; decide +kernel, wit (by decide +kernel) trivial, wit (by decide +kernel) (by decide +kernel),
   wit (by decide +kernel) (by decide +kernel)⟩

theorem witness_MasksAndLanes :
    (∀ i ∈ [Instr.kop { dst := .k 1, a := .k 2, b := .k 3 }, .vote { dst := .c 1, b := .k 3 }, .shfl { aw with b := .s 2 }, .rdlane { aw with dst := .s 3, a := .zr, b := .s 2 },
      .wrlane { aw with a := .s 1, b := .s 2 }, .gscan { aw with b := .zr, xm := 1 }], Wit i base fun h => h.f.mask = 3) ∧
    Wit (.gred { aw with b := .zr }) base (fun h => (treeNode (h.redOp { aw with b := .zr }) (h.redLeaf { aw with b := .zr } 3) 5 0).isSome = true) ∧
    Wit (.gred { aw with g := 1, b := .zr }) base fun h => treeNode (h.redOp { aw with g := 1, b := .zr }) (h.redLeaf { aw with g := 1, b := .zr } 0) 5 0 = none :=
  ⟨witAll (by decide +kernel) (by decide +kernel), wit (by decide +kernel) (by decide +kernel), wit (by decide +kernel) (by decide +kernel)⟩

theorem witness_Match : Wit (.matchI { aw with b := .zr }) base fun h => h.f.mask = 3 := wit (by decide +kernel) (by decide +kernel)

theorem witness_SpecialRegisters :
    (∀ i ∈ [Instr.srd { dst := .v 2, imm := 3 }, .srd { dst := .s 2, imm := 3 }], Wit i base fun _ => (3 : Nat) ≠ 0x0F) ∧
    Wit (.srd { dst := .s 2, imm := 0x0F }) base (fun _ => True) ∧
    (∀ i ∈ [Instr.swr { a := .s 1, imm := 0x11 }, .swr { a := .s 1, imm := 0x14 }], Wit i base fun _ => True) ∧
    WellFormed (.srd { dst := .s 2, imm := 0x14 }) ∧ WellFormed (.swr { a := .s 1, imm := 0x14 }) ∧ base.g9 = true ∧
    { base with g9 := false }.g9 = false :=
  ⟨witAll (by decide +kernel) (by decide), wit (by decide +kernel) trivial, witAll (by decide +kernel) trivial,
   by unfold WellFormed; decide +kernel, by unfold WellFormed; decide +kernel, rfl, rfl⟩

/-! ## Control: single steps -/

/-- The split of spec/07's worked example: mask 0xFFFFFFFF, k2 = 0xF0, a complement at slot 0 two lines ahead. The fragment goes on
with 0xF0, and 0xFFFFFF0F starts there in a free entry. -/
theorem test_split :
    let s := withTm (withK [(2, 0xF0)] (withMask 0xFFFFFFFF base))
    ((after (.split { b := .k 2, foff := 3, lineOff := 2 }) s).map fun t =>
      ((t.frags.get? 0).map fun f => f.mask.toNat, (t.frags.get? 1).map fun f => (f.mask.toNat, f.line.toNat, f.slot.val))) =
      some (some 0xF0, some (0xFFFFFF0F, 0x40080, 0)) := by decide +kernel

/-- Branches (spec/07 R155, R156): a taken branch two lines on, the same without TM bits (TARGET, cause 9), and the link of a CALL. -/
theorem test_branch :
    atAfter (.br { lineOff := 2, slot := 3 }) (withTm base) = some (0x40080, 3) ∧
    (trapAfter (.br { lineOff := 2, slot := 3 }) base).map (·.2) = some 3 ∧
    sAfter (.call { dst := .s 7, lineOff := 2 }) (withTm base) 7 = some 0x40001 ∧
    atAfter (.ret { a := .s 1 }) (withTm (withRegs [] [(1, 0x40082)] base)) = some (0x40080, 2) := by decide +kernel

/-- A NOP goes on; UDF traps as RI with DETAIL 0; TRAPI traps; a YIELD and an EXIT of one lane go on. -/
theorem test_nop_udf :
    atAfter .nop base = some (0x40000, 1) ∧ trapAfter .udf base = some (Cause.ri.code, 0) ∧
    (trapAfter (.trapi { imm := 0x46 }) base).map (·.1) = some Cause.trapi.code ∧ atAfter (.yield {}) base = some (0x40000, 1) ∧
    ((after (.exit { g := 1 }) (withK [(1, 1)] base)).bind fun t => (t.frags.get? 0).map fun f => f.mask.toNat) = some 2 := by decide +kernel

/-! ## Control: what meets the hypotheses -/

theorem witness_NopAndSoftwareTraps :
    base.here = some here0 ∧ ({ base with cur := none } : State).here = none ∧
    Wit (.trapi { imm := 5 }) base (fun _ => True) ∧ Wit (.brk { imm := 5 }) base (fun h => h.cx.debugger = false) ∧
    Wit (.brk { imm := 5 }) (base.modCtx 0 fun c => { c with debugger := true }) (fun h => h.cx.debugger = true) ∧
    ∀ i ∈ [Instr.rgn {}, .rgnClose { imm := 1 }, .tbar {}, .cjoin {}, .cleave {}, .cbar {}, .rbsur {}, .rbclm {}, .tilenx { dst := .c 1 }, .tilenxExit {}],
      Wit i (withSib 4 [] base) fun h => (withSib 4 [] base).sole h = false :=
  ⟨by decide +kernel, by decide +kernel, wit (by decide +kernel) trivial, wit (by decide +kernel) (by decide +kernel),
   wit (by decide +kernel) (by decide +kernel), witAll (by decide +kernel) (by decide +kernel)⟩

def br2 : BrW := { lineOff := 2, slot := 4 }

theorem witness_Branches :
    Wit (.br { br2 with a := .c 1, cond := .cset }) base (fun h => h.cond { br2 with a := .c 1, cond := .cset } = false) ∧
    Wit (.br br2) (withTm base) (fun h => h.cond br2 = true ∧ ((withTm base).landing h (h.target br2) 4).isSome = true) ∧
    Wit (.br br2) base (fun h => h.cond br2 = true ∧ base.landing h (h.target br2) 4 = none) ∧
    Wit (.call { br2 with dst := .s 1 }) (withTm base) (fun h => ((withTm base).landing h (h.target br2) 4).isSome = true) ∧
    Wit (.call { br2 with dst := .s 1 }) base (fun h => base.landing h (h.target br2) 4 = none) ∧
    (∀ i ∈ [Instr.ret { a := .s 1 }, .jmpi { a := .s 1 }],
      Wit i (withRegs [] [(1, 2 ^ 56)] base) (fun h => 2 ^ 56 ≤ (h.srcS (.s 1)).toNat) ∧
      Wit i (withRegs [] [(1, 0x40008)] base) (fun h => bitsN (h.srcS (.s 1)).toNat 5 3 ≠ 0) ∧
      Wit i (withRegs [] [(1, 0x40085)] base) (fun h => 5 ≤ (h.srcS (.s 1)).toNat % 8) ∧
      Wit i (withTm (withRegs [] [(1, 0x40084)] base)) (fun h => (h.srcS (.s 1)).toNat = 0x40084 ∧
        ((withTm (withRegs [] [(1, 0x40084)] base)).landing h 0x40080 4).isSome = true) ∧
      Wit i (withRegs [] [(1, 0x40084)] base) fun h => (h.srcS (.s 1)).toNat = 0x40084 ∧ (withRegs [] [(1, 0x40084)] base).landing h 0x40080 4 = none) := by
  refine ⟨wit (by decide +kernel) (by decide +kernel), wit (by decide +kernel) (by decide +kernel), wit (by decide +kernel) (by decide +kernel),
    wit (by decide +kernel) (by decide +kernel), wit (by decide +kernel) (by decide +kernel), ?_⟩
  intro i hi
  refine ⟨witAll (by decide +kernel) (by decide +kernel) i hi, witAll (by decide +kernel) (by decide +kernel) i hi,
    witAll (by decide +kernel) (by decide +kernel) i hi, witAll (by decide +kernel) (by decide +kernel) i hi, witAll (by decide +kernel) (by decide +kernel) i hi⟩

/-- A serialised split's point of an executing fragment whose complement, lanes 2 and 3, has not run. -/
def serialS (m : W32) : State := (base.modGroup 0 fun g => { g with
    laneSet := m, nextFp := 1, fps := [(0, { line := 0x40000, mask := m, serial := true, e := 12, target := 0x40080 })] }).modFrag 0 fun f =>
  { f with chain := [0] }
/-- Its last two lanes leave, and the complement takes their place: are the lanes conserved? -/
def serialOn (m : W32) : Bool :=
  let left := (((serialS m).noteExit (hereD (serialS m)) 3).abandon 0 3).modGroup 0 fun g =>
    { g with exited := 3, fps := g.fps.mapV fun _ p => { p with exited := 3, ran := true } }
  (left.modFrag 0 fun f => { f.leave 0x40080 0 with mask := 12, chain := [0], checkTm := true }).lanesConserved 0

/-- EXIT without a lane, of one of two lanes, of the last lanes, and where a lane has been lost; of the last lanes of a fragment that
lost one, and of one whose complement has still to run, with and without a lost lane; YIELD. -/
theorem witness_Exits :
    Wit (.exit { g := 1 }) base (fun h => h.active 1 false = 0) ∧
    Wit (.exit { g := 1 }) (withK [(1, 1)] base) (fun h => h.active 1 false = 1 ∧ h.f.mask &&& ~~~(h.active 1 false) = 2 ∧
      (((withK [(1, 1)] base).noteExit h 1).abandon h.gid 1 |>.modGroup 0 (fun g => { g with exited := 1 }) |>.modFrag 0
        (fun f => { f with mask := 2 })).lanesConserved 0 = true) ∧
    Wit (.exit {}) base (fun h => h.f.mask &&& ~~~(h.active 0 false) = 0 ∧ h.active 0 false ≠ 0 ∧ h.f.chain = [] ∧
      ((base.noteExit h 3).abandon h.gid 3 |>.modGroup 0 (fun g => { g with exited := 3 }) |>.modFrag 0
        (fun f => { f with mask := 0, st := .gone })).lanesConserved 0 = true) ∧
    Wit (.exit { g := 1 }) (withK [(1, 1)] (withMask 7 base)) (fun h => h.active 1 false = 1 ∧
      (((withK [(1, 1)] (withMask 7 base)).noteExit h 1).abandon h.gid 1 |>.modGroup 0 (fun g => { g with exited := 1 }) |>.modFrag 0
        (fun f => { f with mask := 6 })).lanesConserved 0 = false) ∧
    Wit (.exit {}) (base.modGroup 0 fun g => { g with laneSet := 7 }) (fun h => h.f.mask &&& ~~~(h.active 0 false) = 0 ∧
      h.active 0 false ≠ 0 ∧ h.f.chain = [] ∧ (((base.modGroup 0 fun g => { g with laneSet := 7 }).noteExit h 3).abandon h.gid 3 |>.modGroup 0
        (fun g => { g with exited := 3 }) |>.modFrag 0 (fun f => { f with mask := 0, st := .gone })).lanesConserved 0 = false) ∧
    (∀ m : W32, m = 15 ∨ m = 31 → Wit (.exit {}) (serialS m) fun h => h.f.mask &&& ~~~(h.active 0 false) = 0 ∧ h.active 0 false ≠ 0 ∧
      h.f.chain = [0] ∧ ((h.g.fps.get? 0).map fun p => (p.serial, p.ran)) = some (true, false)) ∧
    serialOn 15 = true ∧ serialOn 31 = false ∧
    Wit (.yield {}) base (fun _ => True) :=
  ⟨wit (by decide +kernel) (by decide +kernel), wit (by decide +kernel) (by decide +kernel), wit (by decide +kernel) (by decide +kernel),
   wit (by decide +kernel) (by decide +kernel), wit (by decide +kernel) (by decide +kernel),
   by intro m hm; obtain rfl | rfl := hm <;> exact wit (by decide +kernel) (by decide +kernel), by decide +kernel, by decide +kernel,
   wit (by decide +kernel) trivial⟩

def sp2 : BrW := { b := .k 2, foff := 3, lineOff := 2 }
/-- Every split-table entry of the partition but entry 0 belongs to another group. -/
def fullTable (x : State) : State := { x with frags := x.frags ++ (List.range 63).map fun k => (k + 1, { frag0 with group := 9, st := .ready }) }

theorem witness_Split :
    Wit (.split sp2) (withK [(2, 3)] base) (fun h => h.f.mask &&& ~~~(h.srcK sp2.b 0) = 0 ∧ h.f.mask &&& h.srcK sp2.b 0 ≠ 0) ∧
    Wit (.split sp2) (withTm base) (fun h => h.f.mask &&& h.srcK sp2.b 0 = 0 ∧ ((withTm base).landing h (h.target sp2) 0).isSome = true) ∧
    Wit (.split sp2) base (fun h => h.f.mask &&& h.srcK sp2.b 0 = 0 ∧ base.landing h (h.target sp2) 0 = none) ∧
    Wit (.split sp2) (withTm (withK [(2, 1)] base)) (fun h => h.f.mask &&& h.srcK sp2.b 0 ≠ 0 ∧ h.f.mask &&& ~~~(h.srcK sp2.b 0) ≠ 0 ∧
      (withTm (withK [(2, 1)] base)).landing h (h.target sp2) 0 = some false ∧
      ((withTm (withK [(2, 1)] base)).freeEntries (fragPart h.fid)).head? = some 1) ∧
    Wit (.split sp2) (fullTable (withTm (withK [(2, 1)] base))) (fun h =>
      (fullTable (withTm (withK [(2, 1)] base))).freeEntries (fragPart h.fid) = [] ∧ h.t.splitSpill = true ∧ h.g.records < 16) ∧
    Wit (.split sp2) ((fullTable (withTm (withK [(2, 1)] base))).modTeam 0 fun t => { t with splitSpill := false }) fun h =>
      h.t.splitSpill = false :=
  ⟨wit (by decide +kernel) (by decide +kernel), wit (by decide +kernel) (by decide +kernel), wit (by decide +kernel) (by decide +kernel),
   wit (by decide +kernel) (by decide +kernel), wit (by decide +kernel) (by decide +kernel), wit (by decide +kernel) (by decide +kernel)⟩

/-- The state with fusion point 0 pending at the executing fragment's line. -/
def withFp (p : FusePoint) (x : State) : State :=
  (x.modGroup 0 fun g => { g with fps := [(0, p)], nextFp := 1 }).modFrag 0 fun f => { f with chain := [0] }
def fp0 : FusePoint := { line := 0x40000, mask := 3 }

theorem witness_Fuse :
    Wit (.fuse {}) (base.modFrag 0 fun f => { f with slot := 1 }) (fun h => h.f.slot ≠ 0) ∧
    Wit (.fuse {}) base (fun h => h.f.slot = 0 ∧ h.f.chain.head? = none) ∧
    Wit (.fuse {}) (withFp { fp0 with line := 0x40040 } base) (fun h => h.f.slot = 0 ∧ (h.g.fps.get? 0).map FusePoint.line ≠ some h.f.line) ∧
    Wit (.fuse {}) (withFp { fp0 with serial := true, mask := 7, e := 4 } base) (fun h => h.f.chain = [0] ∧
      h.g.fps.get? 0 = some { fp0 with serial := true, mask := 7, e := 4 }) ∧
    Wit (.fuse {}) (withFp { fp0 with serial := true, ran := true, mask := 7, arrivedT := 4 } base) (fun h =>
      (withFp { fp0 with serial := true, ran := true, mask := 7, arrivedT := 4 } base).sharing h.gid h.fid 0 = [] ∧
      FusePoint.conserved { fp0 with mask := 7 } h.f.mask 4 = true) ∧
    Wit (.fuse {}) (withFp { fp0 with serial := true, ran := true, mask := 7, arrivedT := 2 } base) (fun h =>
      FusePoint.conserved { fp0 with mask := 7 } h.f.mask 2 = false) ∧
    Wit (.fuse {}) (withSib 4 [0] (withFp { fp0 with mask := 7 } base)) fun h =>
      (withSib 4 [0] (withFp { fp0 with mask := 7 } base)).sharing h.gid h.fid 0 = [1] ∧
      (((withSib 4 [0] (withFp { fp0 with mask := 7 } base)).frags.get? 1).map fun f => f.st == .fusing && f.chain.head? == some 0) = some false :=
  ⟨wit (by decide +kernel) (by decide +kernel), wit (by decide +kernel) (by decide +kernel), wit (by decide +kernel) (by decide +kernel),
   wit (by decide +kernel) (by decide +kernel), wit (by decide +kernel) (by decide +kernel), wit (by decide +kernel) (by decide +kernel),
   wit (by decide +kernel) (by decide +kernel)⟩

/-- The fragment's sibling has arrived at the fusion point. -/
theorem witness_Fuse_sibling : let s := (withSib 4 [0] (withFp { fp0 with mask := 7 } base)).modFrag 1 fun f => { f with st := .fusing }
    Wit (.fuse {}) s fun h => h.f.slot = 0 ∧ h.f.chain = [0] ∧ s.sharing h.gid h.fid 0 = [1] ∧
      ((s.frags.get? 1).map fun f => (f.st == .fusing, f.chain.head?, f.mask)) = some (true, some 0, 4) ∧
      FusePoint.conserved { fp0 with mask := 7 } h.f.mask 4 = true := wit (by decide +kernel) (by decide +kernel)

theorem witness_TrapEntry : base.here = some here0 ∧ here0.cx.ringFull = false ∧ here0.cx.held = [] ∧
    ((base.modCtx 0 fun c => { c with ftail := 64 }).here.map fun h => h.cx.ringFull) = some true := by decide +kernel

theorem witness_RegionsAndSignatures :
    WitSole (.rgn {}) base (fun _ => True) ∧ WitSole (.rgnClose { imm := 1 }) base (fun _ => True) ∧
    Wit (.sigchk { imm := 0xFFFFFFFF }) base (fun h => h.f.sig = 0xFFFFFFFF) ∧ Wit (.sigchk { imm := 5 }) base fun h => h.f.sig ≠ 5 :=
  ⟨witSole (by decide +kernel) (by decide +kernel) trivial, witSole (by decide +kernel) (by decide +kernel) trivial,
   wit (by decide +kernel) (by decide +kernel), wit (by decide +kernel) (by decide +kernel)⟩

theorem witness_TeamBarriers :
    WitSole (.tbar {}) base (fun h => base.sideBusy h = false ∧ (base.liveGroups h.tid).length = 1) ∧
    WitSole (.tbar { imm := 0x10 }) (withGroup1 base) (fun h => (withGroup1 base).sideBusy h = false ∧ ((withGroup1 base).liveGroups h.tid).length = 2) ∧
    WitSole (.tbar {}) (withGroup1 base) fun h => ((withGroup1 base).liveGroups h.tid).length = 2 :=
  ⟨witSole (by decide +kernel) (by decide +kernel) (by decide +kernel), witSole (by decide +kernel) (by decide +kernel) (by decide +kernel),
   witSole (by decide +kernel) (by decide +kernel) (by decide +kernel)⟩

/-- The state with a launch of clusters of two cores (CLW in bits [387:384] of the range record, spec/12) and its team a member or not. -/
def withCluster (m : Bool) (x : State) : State :=
  (x.modLaunch 0 fun l => { l with record := BitVec.ofNat 1024 (2 ^ 384) }).modTeam 0 fun t => { t with member := m, nslots := 2 }

theorem witness_ClusterBarriers :
    WitSole (.cjoin { dst := .c 1 }) (withCluster false base) (fun h => h.t.member = false ∧ h.t.fragTeam = false ∧
      ((withCluster false base).launches.get? 0).map (fun l => l.clw * l.clh) = some 2 ∧ (withCluster false base).memberAt 0 0 0 = none) ∧
    WitSole (.cjoin { dst := .c 1 }) (withCluster true base) (fun h => h.t.member = true) ∧
    WitSole (.cjoin { dst := .c 1 }) base (fun h => h.t.member = false ∧ (base.launches.get? 0).map (fun l => l.clw * l.clh) = some 1) ∧
    WitSole (.cleave {}) (withCluster true base) (fun _ => True) ∧ WitSole (.cbar {}) base (fun h => h.t.member = false) ∧
    WitSole (.cbar { imm := 0x10 }) (withCluster true base) (fun h => h.t.member = true ∧ (withCluster true base).sideBusy h = false) ∧
    WitSole (.cbar {}) (withCluster true (withGroup1 base)) fun h => h.t.member = true ∧
      (({ withCluster true (withGroup1 base) with clusters := [(0, { arrived := [0] })] }.settleCluster 0).clusters.getD {} 0).gen ≤ 0 :=
  ⟨witSole (by decide +kernel) (by decide +kernel) (by decide +kernel), witSole (by decide +kernel) (by decide +kernel) (by decide +kernel),
   witSole (by decide +kernel) (by decide +kernel) (by decide +kernel), witSole (by decide +kernel) (by decide +kernel) trivial,
   witSole (by decide +kernel) (by decide +kernel) (by decide +kernel), witSole (by decide +kernel) (by decide +kernel) (by decide +kernel),
   witSole (by decide +kernel) (by decide +kernel) (by decide +kernel)⟩

/-- A CJOIN waits while another member of its cluster is saved. -/
theorem witness_ClusterBarriers_away :
    let s := { withCluster false base with teams := (withCluster false base).teams.set 1 { team0 with member := true, nslots := 2, coreslot := 1, saved := true } }
    WitSole (.cjoin { dst := .c 1 }) s (fun h => ((s.members (clusterKey h.t)).any fun t => (s.teams.get? t).any fun x => x.saved || x.saving) = true) ∧
    ∀ m, WitSole (.cjoin { dst := .c 1 }) (withCluster m base) fun h =>
      (((withCluster m base).members (clusterKey h.t)).any fun t => ((withCluster m base).teams.get? t).any fun x => x.saved || x.saving) = false :=
  ⟨witSole (by decide +kernel) (by decide +kernel) (by decide +kernel), by
    intro m; cases m <;> exact witSole (by decide +kernel) (by decide +kernel) (by decide +kernel)⟩

def withPool (n : Nat) (x : State) : State := x.modTeam 0 fun t => { t with pool := [(0, n)] }
def heldIn (s : State) (h : Here) : Nat :=
  ((s.groupsOf h.tid).filterMap s.groups.get?).foldl (fun a g => if g.idx % 4 == h.g.idx % 4 then a + g.blocks else a) 0

theorem witness_RegisterBlocks :
    WitSole (.rbsur {}) base (fun _ => True) ∧ WitSole (.rbclm {}) base (fun _ => True) ∧
    WitSole (.rbsur { imm := 2 }) base (fun h => h.g.blocks < 3) ∧
    WitSole (.rbsur { imm := 1 }) base (fun h => 2 ≤ h.g.blocks ∧ h.g.pend = [] ∧ h.t.claims = []) ∧
    WitSole (.rbclm { imm := 15 }) base (fun h => 16 < h.g.blocks + 15) ∧
    WitSole (.rbclm { imm := 1 }) base (fun h => heldIn base h < h.g.blocks + 1) ∧
    WitSole (.rbclm { imm := 14 }) (withPool 14 base) fun h => h.g.blocks + 14 ≤ 16 ∧ h.g.blocks + 14 ≤ 14 + heldIn (withPool 14 base) h ∧
      h.t.claims.any (fun c => c.1 % 4 == h.g.idx % 4) = false :=
  ⟨witSole (by decide +kernel) (by decide +kernel) trivial, witSole (by decide +kernel) (by decide +kernel) trivial,
   witSole (by decide +kernel) (by decide +kernel) (by decide +kernel), witSole (by decide +kernel) (by decide +kernel) (by decide +kernel),
   witSole (by decide +kernel) (by decide +kernel) (by decide +kernel), witSole (by decide +kernel) (by decide +kernel) (by decide +kernel),
   witSole (by decide +kernel) (by decide +kernel) (by decide +kernel)⟩

/-- A register of the blocks given up is outstanding; another group's claim is served; and a claim waits, with another group running. -/
theorem witness_RegisterBlocks_waits :
    (let s := base.modGroup 0 fun g => { g with pend := [(0, { frag := 0, regs := [.v 16], ready := false })] }
     WitSole (.rbsur { imm := 1 }) s fun h => 16 * (h.g.blocks - 1) ≤ 16 ∧ h.g.outstanding (.v 16) = true) ∧
    (let s := { withGroup1 base with groups := (base.groups.set 4 { group0 with idx := 4 }) }.modTeam 0 fun t => { t with claims := [(4, 1)] }
     WitSole (.rbsur { imm := 1 }) s fun h => h.t.claims = [(4, 1)] ∧ 4 ≠ h.gid ∧ 4 % 4 = h.g.idx % 4 ∧ 1 ≤ h.t.pool.getD 0 0 + 1 ∧ s.groups.has 4 = true ∧
       h.g.pend = []) ∧
    (let s := (withGroup1 base).modGroup 1 fun g => { g with idx := 4 }
     WitSole (.rbclm { imm := 1 }) s fun h => h.g.blocks + 1 ≤ 16 ∧ h.g.blocks + 1 ≤ h.t.pool.getD 0 0 + heldIn s h ∧ h.t.pool.getD 0 0 < 1 ∧
       ∃ k ∈ s.liveGroups h.tid, ∃ x ∈ s.fragsOf k, x ≠ h.fid ∧ (s.frags.get? x).map Frag.st = some .ready) :=
  ⟨witSole (by decide +kernel) (by decide +kernel) (by decide +kernel), witSole (by decide +kernel) (by decide +kernel) (by decide +kernel),
   witSole (by decide +kernel) (by decide +kernel) (by decide +kernel)⟩

/-! ## Memory: single steps -/

/-- Lane addresses in v2:v3: 0x40100 and 0x40108 on page 1; the scalar base s0 = 0x40100. -/
def atMem (x : State) : State := withRegs (lanes 2 [0x40100, 0x40108]) [(0, 0x40100)] x
/-- The same addresses where lane 1 is on the unmapped page 6. -/
def atHole (x : State) : State := withRegs (lanes 2 [0x40100, 0x180000]) [(0, 0x180000)] x

/-- Little-endian stores in lane order (spec/08, spec/09 R189), a load's values on their way, and scratchpad offsets. -/
theorem test_st_ld :
    memAfter (.st { a := .v 2, c := .v 4, width := .w8 }) (withRegs (lanes 4 [0x11223344, 5] ++ lanes 5 [0x55667788, 6]) [] (atMem base)) 0x40100 16 =
      some 0x00000006_00000005_55667788_11223344 ∧
    pendAfter (.ld { dst := .v 6, a := .v 2, width := .w4 }) (atMem (withMem [(0x40100, 4, 0xCAFE), (0x40108, 4, 7)] base)) =
      some [(192, 0xCAFE), (193, 7)] ∧
    ((after (.sts { a := .s 1, c := .v 4, width := .w2 }) (withRegs (lanes 4 [0x1234, 0x5678]) [(1, 64)] base)).bind fun t =>
      (t.teams.get? 0).map fun x => readLE x.scr 64 4) = some 0x5678 := by decide +kernel

/-- A store marks its leaf entry ACC and DIRTY (spec/23 R380, R382), bits 8 and 9. -/
theorem test_acc_dirty : memAfter (.st { a := .s 0, c := .v 4 }) (atMem base) 0x16008 8 = some 0x4033F := by decide +kernel

/-- BPLS (spec/09 R196): the worked example, W = 0x13 and limit 5: W ends as 0x1F and the lanes receive 0x13, 0x1F and 0x1F. -/
theorem test_bpls :
    let s := withMask 7 (withMem [(0x40100, 8, 0x13)] (withRegs (lanes 20 [0x0C, 0x20, 0x40] ++ lanes 22 [5, 5, 5]) [(6, 0x40100)] base))
    memAfter (.bpls { dst := .v 10, a := .s 6, c := .v 20, width := .w8, order := .acq, scope := .dev }) s 0x40100 8 = some 0x1F ∧
    pendAfter (.bpls { dst := .v 10, a := .s 6, c := .v 20, width := .w8, order := .acq, scope := .dev }) s =
      some [(320, 0x13), (352, 0), (321, 0x1F), (353, 0), (322, 0x1F), (354, 0)] := by decide +kernel

/-- Atomics apply in lane order (spec/09 R195): two adds to one word, and a compare-and-swap that fails. -/
theorem test_atom :
    let s := withMem [(0x40100, 4, 10)] (withRegs (lanes 4 [1, 2] ++ lanes 5 [7, 7]) [(0, 0x40100)] base)
    memAfter (.atom { dst := .v 6, a := .s 0, c := .v 4 }) s 0x40100 4 = some 13 ∧
    pendAfter (.atom { dst := .v 6, a := .s 0, c := .v 4 }) s = some [(192, 10), (193, 11)] ∧
    memAfter (.atom { dst := .v 6, a := .s 0, c := .v 4, opc := .cas }) s 0x40100 4 = some 10 := by decide +kernel

/-- BFFCS takes the lowest clear bit; the lock word of spec/08's example. -/
theorem test_bffcs :
    let s := withMask 1 (withMem [(0x40100, 8, 0xFFFFFFFFFFFFFFFE)] (withRegs [] [(0, 0x40100)] base))
    memAfter (.bffcs { dst := .v 6, a := .s 0, width := .w8 }) s 0x40100 8 = some 0xFFFFFFFFFFFFFFFF ∧
    pendAfter (.bffcs { dst := .v 6, a := .s 0, width := .w8 }) s = some [(192, 0), (224, 0)] := by decide +kernel

/-! ## Memory: what meets the hypotheses -/

def leafOf (s : State) (va : Nat) : Option TlbEntry := match s.leafFor 0 cx0 va with | .ok e => some e | .error _ => none

theorem witness_Translation :
    ((leafOf base 0x40000).map fun e => (e.asid, e.va, e.size)) = some (0, 0x40000, 2 ^ 18) ∧ (leafOf base 0x7FFFF).isSome = true ∧
    ((leafOf base 0x100000).map fun e => e.pte.getLsbD 2) = some false ∧ ((leafOf base 0xC0000).map fun e => (e.pte.getLsbD 3, e.pte.getLsbD 5)) = some (false, false) ∧
    ((leafOf base 0x80000).map fun e => e.pte.getLsbD 4) = some false ∧ ((leafOf base 0x140000).map fun e => bitsN e.pte.toNat 7 6) = some 2 ∧
    (∀ k ∈ [AccKind.read, .write, .atomic, .fetch], base.xl 0 cx0 0x40000 k = .ok 0x40000 0) := by decide +kernel

/-- The entries that a walk for 0x40000 reads, and whether it gets to the one of level `n` (spec/23 R379). -/
def walkAt (k : Nat) : Nat := [0x10000, 0x14000, 0x15000, 0x16008].getD k 0
def readsPte (s : State) (k : Nat) : Bool := decide (walkAt k + 8 ≤ s.hbmBytes) && !s.poison.getD false (walkAt k / 8)
def walksTo (s : State) (n : Nat) : Bool :=
  (tlbFind (s.core 0).tlb 0 0x40000).isNone && (tlbFind (s.tlb2.getD [] 0) 0 0x40000).isNone &&
  (List.range n).all fun k =>
    let p := readLE s.mem (walkAt k) 8
    readsPte s k && p.testBit 0 && !pteBad s.hbmBytes p k && !p.testBit 1 &&
      walkAt (k + 1) == bitsN p 51 12 * 4096 + 8 * (0x40000 / 2 ^ (45 - 9 * (k + 1)) % 512)
/-- The walk gets to an entry of level `n` that holds `p`. -/
def walkS (n p : Nat) : State := withMem [(walkAt n, 8, p)] base

theorem witness_Translation_walk :
    (∀ n ∈ List.range 4, (let s : State := { base with poison := [(walkAt n / 8, true)] }; walksTo s n && !readsPte s n) = true ∧
      (walksTo (walkS n 0) n && readsPte (walkS n 0) n) = true ∧ Nat.testBit 0 0 = false ∧
      (walksTo (walkS n (1 + 2 ^ 52)) n && readsPte (walkS n (1 + 2 ^ 52)) n && pteBad base.hbmBytes (1 + 2 ^ 52) n) = true) ∧
    (∀ n ∈ [1, 2, 3], (walksTo (walkS n 3) n && readsPte (walkS n 3) n && !pteBad base.hbmBytes 3 n) = true) ∧
    (∀ k ∈ [AccKind.read, .write, .atomic, .fetch], base.xl 0 cx0 0x180000 k = .fault 0 3) := by decide +kernel

def lw : MemW := { dst := .v 8, a := .v 2 }
def ok4 (s : State) (h : Here) (va : Nat) : Prop := s.laneGlobal h va 4 .read = none ∧ s.vPoison h.core h.cx va 4 .read = false

/-- The team is a member of its cluster, with a window to core slot 0. -/
def withWindow (x : State) : State := withRegs [] [(0, 0)] (withCluster' x)
  where withCluster' (x : State) : State := x.modTeam 0 fun t => { t with member := true, nslots := 2 }

/-- A side-log entry of group 0: a store to page 1, or to the hole. -/
def sideEntry (va : Nat) : SideLog :=
  { group := 0, frag := 0, report := { cause := .xlate, detail := 0, lanes := 1, active := 3, line := 0x40000, slot := 0, addr := va, info := 2 ^ 63 }
    op := .store [(va, 5)] }
def withSide (va : Nat) (x : State) : State := x.modCore 0 fun c => { c with side := [sideEntry va] }
/-- No entry of the side log is free. -/
def withFullSide (x : State) : State := x.modCore 0 fun c => { c with side := List.replicate 64 (sideEntry 0x180000) }
/-- A load of the group waits at a peer. -/
def peerPend : Pend := { frag := 0, regs := [.v 16], ready := false, load := true, peer := some { team := 1, width := 4, lanes := [(0, 0)], dst := 16 } }
def withPeerLoad (x : State) : State := x.modGroup 0 fun g => { g with pend := [(0, peerPend)] }
/-- The memory word of each address is poisoned. -/
def withPoison (l : List Nat) (x : State) : State := { x with poison := l.map fun a => (a / 8, true) }
/-- A second member of the cluster on core 1, at core slot 1, which s0 names; its line 0 is absent. -/
def withPeer (x : State) : State :=
  withRegs [] [(0, 1)] { withWindow x with
    teams := (withWindow x).teams.set 1 { team0 with core := 1, coreslot := 1, member := true, nslots := 2, absent := [(0, 1)] } }

/-- Loads that complete: of memory, of the own scratchpad at its last word, and through the window of the own core slot. -/
theorem witness_Loads :
    Wit (.ld lw) (atMem base) (fun h => (atMem base).sideBusy h = false ∧ ∀ l ∈ lanesOf (h.active 0 false), ok4 (atMem base) h (h.ea lw l)) ∧
    Wit (.ldsc { dst := .s 8, a := .s 0 }) (atMem base) (fun h => ok4 (atMem base) h (h.ea { dst := .s 8, a := .s 0 } 0)) ∧
    Wit (.ldsc { dst := .v 8, a := .s 0 }) (atMem base) (fun h => h.active 0 false ≠ 0 ∧ ok4 (atMem base) h (h.ea { dst := .s 8, a := .s 0 } 0)) ∧
    Wit (.ldsc { g := 1, dst := .v 8, a := .s 0 }) (atMem base) (fun h => h.active 1 false = 0) ∧
    Wit (.lds { dst := .v 8, a := .s 1, off := 4092 }) base (fun h => ∀ l ∈ lanesOf (h.active 0 false),
      base.laneScr h.tid (h.off { a := .s 1, off := 4092 } l) 4 false 0 (h.quiet (lanesOf (h.active 0 false)) (h.off { a := .s 1, off := 4092 }) 4) = none ∧
      h.t.present (h.off { a := .s 1, off := 4092 } l) 4 = true ∧ h.t.scrBad (h.off { a := .s 1, off := 4092 } l) 4 = false) ∧
    Wit (.ldc { dst := .v 8, a := .s 0, b := .s 1 }) (withWindow base) fun h => (withWindow base).windowTeam h 0 = .ok 0 ∧
      ∀ l ∈ lanesOf (h.active 0 false), (withWindow base).laneWin h 0 (h.winOff { b := .s 1 } l) 4 false
        (h.quiet (lanesOf (h.active 0 false)) (h.winOff { b := .s 1 }) 4) = none ∧
        h.t.present (h.winOff { b := .s 1 } l) 4 = true ∧ h.t.scrBad (h.winOff { b := .s 1 } l) 4 = false := by
  refine ⟨wit (by decide +kernel) ?_, wit (by decide +kernel) ?_, wit (by decide +kernel) ?_, wit (by decide +kernel) (by decide +kernel),
    wit (by decide +kernel) (by decide +kernel), wit (by decide +kernel) ⟨rfl, by decide +kernel⟩⟩ <;> (simp only [ok4]; decide +kernel)

/-- Loads that trap, park, freeze, wait at issue or wait at a peer. -/
theorem witness_Loads_waits :
    (∀ i ∈ [Instr.ld lw, .ldsc { lw with a := .s 0 }, .lds lw, .ldc { dst := .v 8, a := .s 0, b := .s 1 }],
      Wit i (withSide 0x180000 base) (fun h => (withSide 0x180000 base).sideBusy h = true) ∧ Wit i (withPeerLoad base) fun h => (withPeerLoad base).sideBusy h = true) ∧
    Wit (.ld lw) (atHole base) (fun h => (pickTrap (failing 3 fun l => (atHole base).laneGlobal h (h.ea lw l) 4 .read)).isSome = true) ∧
    Wit (.ld lw) (withPoison [0x40108] (atMem base)) (fun h => (∀ l ∈ lanesOf (h.active 0 false), (withPoison [0x40108] (atMem base)).laneGlobal h (h.ea lw l) 4 .read = none) ∧
      (withPoison [0x40108] (atMem base)).vPoison h.core h.cx (h.ea lw 1) 4 .read = true) ∧
    Wit (.lds { dst := .v 8, a := .s 1 }) (base.modTeam 0 fun t => { t with absent := [(0, 1)] }) (fun h => h.t.present (h.off { a := .s 1 } 0) 4 = false ∧
      ∀ l ∈ lanesOf (h.active 0 false), (base.modTeam 0 fun t => { t with absent := [(0, 1)] }).laneScr h.tid (h.off { a := .s 1 } l) 4 false 0 true = none) ∧
    Wit (.lds { dst := .v 8, a := .s 1, off := 4096 }) base (fun h => (pickTrap (failing 3 fun l =>
      base.laneScr h.tid (h.off { a := .s 1, off := 4096 } l) 4 false 0 (h.quiet (lanesOf (h.active 0 false)) (h.off { a := .s 1, off := 4096 }) 4))).isSome = true) ∧
    Wit (.ldc { dst := .v 8, a := .s 0, b := .s 1 }) base (fun h => (pickTrap (failing 3 fun l => base.laneWin h 0 (h.winOff { b := .s 1 } l) 4 false
      (h.quiet (lanesOf (h.active 0 false)) (h.winOff { b := .s 1 }) 4))).isSome = true) ∧
    Wit (.ldc { dst := .v 8, a := .s 0, b := .s 1 }) (withPeer base) fun h => (withPeer base).sideBusy h = false ∧ (withPeer base).windowTeam h 1 = .ok 1 ∧ 1 ≠ h.tid ∧
      ((withPeer base).teams.get? 1).map (fun t => t.present (h.winOff { b := .s 1 } 0) 4) = some false ∧
      ∀ l ∈ lanesOf (h.active 0 false), (withPeer base).laneWin h 1 (h.winOff { b := .s 1 } l) 4 false
        (h.quiet (lanesOf (h.active 0 false)) (h.winOff { b := .s 1 }) 4) = none :=
  ⟨fun i hi => ⟨witAll (by decide +kernel) (by decide +kernel) i hi, witAll (by decide +kernel) (by decide +kernel) i hi⟩,
   wit (by decide +kernel) (by decide +kernel), wit (by decide +kernel) (by decide +kernel), wit (by decide +kernel) (by decide +kernel),
   wit (by decide +kernel) (by decide +kernel), wit (by decide +kernel) (by decide +kernel),
   wit (by decide +kernel) ⟨by decide +kernel, rfl, by decide +kernel, by decide +kernel, by decide +kernel⟩⟩

theorem witness_Barriers_stall : ∀ i ∈ [Instr.tbar {}, .cbar {}], Wit i (withSide 0x180000 (base.modTeam 0 fun t => { t with member := true })) fun h =>
    (withSide 0x180000 base).sole h = true ∧ h.t.member = true ∧ (withSide 0x180000 base).sideBusy h = true :=
  witAll (by decide +kernel) (by decide +kernel)

def sw : MemW := { a := .v 2, c := .v 4 }
def failsWrite (s : State) (h : Here) : List (Nat × LaneTrap) := failing 3 fun l => s.laneGlobal h (h.ea sw l) 4 .write

theorem witness_Stores :
    Wit (.st sw) (atMem base) (fun h => (atMem base).sideBusy h = false ∧ h.peerBusy = false ∧ ∀ l ∈ lanesOf (h.active 0 false),
      (atMem base).laneGlobal h (h.ea sw l) 4 .write = none ∧ (atMem base).vPartPoison h.core h.cx (h.ea sw l) 4 = false) ∧
    Wit (.stsc { a := .s 0, c := .s 4 }) (atMem base) (fun h => (atMem base).laneGlobal h (h.ea { a := .s 0 } 0) 4 .write = none) ∧
    Wit (.st sw) (atHole base) (fun h => failsWrite (atHole base) h ≠ [] ∧ onlyXlate (failsWrite (atHole base) h) = true ∧
      (atHole base).vPartPoison h.core h.cx (h.ea sw 0) 4 = false ∧ ((atHole base).sideAdd h [(1, 0x180000)] 0 (storeOp h sw.c 4 (h.ea sw))).isSome = true) ∧
    Wit (.sts { a := .s 1, c := .v 4, off := 4092 }) base (fun h => ∀ l ∈ lanesOf (h.active 0 false), base.laneScr h.tid (h.off { a := .s 1, off := 4092 } l) 4 true 0 = none) ∧
    Wit (.stc { a := .s 0, b := .s 1, c := .v 4 }) (withWindow base) fun h => (withWindow base).windowTeam h 0 = .ok 0 ∧
      ∀ l ∈ lanesOf (h.active 0 false), (withWindow base).laneWin h 0 (h.winOff { b := .s 1 } l) 4 true = none :=
  ⟨wit (by decide +kernel) (by decide +kernel), wit (by decide +kernel) (by decide +kernel),
   wit (by decide +kernel) (by decide +kernel), wit (by decide +kernel) (by decide +kernel), wit (by decide +kernel) ⟨rfl, by decide +kernel⟩⟩

/-- Stores that trap, wait at issue, and enter the side log behind an entry of the group. -/
theorem witness_Stores_waits :
    (∀ i ∈ [Instr.st sw, .stsc { sw with a := .s 0, c := .s 4 }, .sts sw, .stc { a := .s 0, b := .s 1, c := .v 4 }],
      Wit i (withPeerLoad (atMem base)) fun h => h.peerBusy = true) ∧
    (∀ i ∈ [Instr.st { sw with order := .rel }, .sts { sw with order := .rel }], Wit i (withSide 0x180000 (atMem base)) fun h =>
      (withSide 0x180000 (atMem base)).sideBusy h = true) ∧
    Wit (.st sw) (withRegs (lanes 2 [0x40102]) [] base) (fun h => onlyXlate (failsWrite (withRegs (lanes 2 [0x40102]) [] base) h) = false ∧
      (pickTrap (failsWrite (withRegs (lanes 2 [0x40102]) [] base) h)).isSome = true) ∧
    Wit (.sts { a := .s 1, c := .v 4, off := 4096 }) base (fun h => (pickTrap (failing 3 fun l => base.laneScr h.tid (h.off { a := .s 1, off := 4096 } l) 4 true 0)).isSome = true) ∧
    Wit (.stc { a := .s 0, b := .s 1, c := .v 4 }) base (fun h => (pickTrap (failing 3 fun l => base.laneWin h 0 (h.winOff { b := .s 1 } l) 4 true)).isSome = true) ∧
    Wit (.st sw) (withSide 0x180000 (atMem base)) (fun h => h.peerBusy = false ∧ (withSide 0x180000 (atMem base)).logBusy h = true ∧
      onlyXlate (failsWrite (withSide 0x180000 (atMem base)) h) = true ∧
      ((withSide 0x180000 (atMem base)).sideAdd h ((lanesOf (h.active 0 false)).map fun l => (l, h.ea sw l)) 0 (storeOp h sw.c 4 (h.ea sw))).isSome = true) ∧
    Wit (.st sw) (withFullSide (atMem base)) (fun h =>
      ((withFullSide (atMem base)).sideAdd h ((lanesOf (h.active 0 false)).map fun l => (l, h.ea sw l)) 0 (storeOp h sw.c 4 (h.ea sw))).isSome = false) ∧
    Wit (.sts { a := .s 1, c := .v 4 }) (withSide 0x180000 base) (fun h => (∀ l ∈ lanesOf (h.active 0 false), (withSide 0x180000 base).laneScr h.tid (h.off { a := .s 1 } l) 4 true 0 = none) ∧
      ((withSide 0x180000 base).sideAdd h ((lanesOf (h.active 0 false)).map fun l => (l, h.off { a := .s 1 } l)) 0 fun _ => .scr 0 []).isSome = true) ∧
    Wit (.stc { a := .s 0, b := .s 1, c := .v 4 }) (withSide 0x180000 (withWindow base)) fun h => (withSide 0x180000 (withWindow base)).windowTeam h 0 = .ok 0 ∧
      (∀ l ∈ lanesOf (h.active 0 false), (withSide 0x180000 (withWindow base)).laneWin h 0 (h.winOff { b := .s 1 } l) 4 true = none) ∧
      ((withSide 0x180000 (withWindow base)).sideAdd h ((lanesOf (h.active 0 false)).map fun l => (l, h.winOff { b := .s 1 } l)) 0 fun _ => .scr 0 []).isSome = true :=
  ⟨witAll (by decide +kernel) (by decide +kernel), witAll (by decide +kernel) (by decide +kernel), wit (by decide +kernel) (by decide +kernel),
   wit (by decide +kernel) (by decide +kernel), wit (by decide +kernel) (by decide +kernel), wit (by decide +kernel) (by decide +kernel),
   wit (by decide +kernel) (by decide +kernel), wit (by decide +kernel) (by decide +kernel), wit (by decide +kernel) ⟨rfl, by decide +kernel, by decide +kernel⟩⟩

def mw : MemW := { dst := .c 1, a := .s 0, b := .s 2, width := .w8 }
/-- The fragment waits at an MWAIT on 0x40100 for the value `v`. -/
def atWait (v : W64) (left : Nat) (timed : Bool) : State :=
  base.modFrag 0 fun f => { f with st := .parked (.mwait 0x40100 0 v left timed) }

theorem witness_CachesFencesAndWaits :
    Wit (.pref { a := .s 0 }) base (fun _ => True) ∧
    (∀ i ∈ [Instr.cctlClean { a := .s 0, b := .s 1 }, .cctlInval { a := .s 0, b := .s 1 }, .cctlCinv { a := .s 0, b := .s 1 }],
      Wit i (withRegs [] [(0, 0x40000), (1, 256)] base) fun h => h.peerBusy = false ∧ (h.srcS (.s 1)).toNat = 256 ∧ (h.srcS (.s 0)).toNat = 0x40000) ∧
    (∀ i ∈ [Instr.cctlClean { a := .s 0, b := .s 1 }, .cctlInval { a := .s 0, b := .s 1 }, .cctlCinv { a := .s 0, b := .s 1 }],
      Wit i (withPeerLoad base) (fun h => h.peerBusy = true) ∧ Wit i base (fun h => h.peerBusy = false ∧ (h.srcS (.s 1)).toNat = 0) ∧
      Wit i (withRegs [] [(0, 0xFFFEFFFFFFFFFF), (1, 1)] base) (fun h => (h.srcS (.s 0)).toNat + (h.srcS (.s 1)).toNat = apertureBase) ∧
      Wit i (withRegs [] [(0, 0xFFFEFFFFFFFFFF), (1, 2)] base) fun h => apertureBase < (h.srcS (.s 0)).toNat + (h.srcS (.s 1)).toNat ∧ (h.srcS (.s 0)).toNat < 2 ^ 56) ∧
    Wit (.fenceAcq {}) base (fun _ => True) ∧
    (∀ i ∈ [Instr.fenceRel {}, .fenceAr {}], Wit i base (fun h => base.sideBusy h = false) ∧
      Wit i (withSide 0x180000 base) fun h => (withSide 0x180000 base).sideBusy h = true) := by
  refine ⟨wit (by decide +kernel) trivial, witAll (by decide +kernel) (by decide +kernel), ?_, wit (by decide +kernel) trivial, ?_⟩
  · intro i hi
    exact ⟨witAll (by decide +kernel) (by decide +kernel) i hi, witAll (by decide +kernel) (by decide +kernel) i hi,
      witAll (by decide +kernel) (by decide +kernel) i hi, witAll (by decide +kernel) (by decide +kernel) i hi⟩
  · intro i hi
    exact ⟨witAll (by decide +kernel) (by decide +kernel) i hi, witAll (by decide +kernel) (by decide +kernel) i hi⟩

/-- MWAIT as it issues: met, not met, on the hole, and behind a side-logged store; and as its word is looked at again. -/
theorem witness_Waits :
    Wit (.mwait mw) (atMem base) (fun h => (atMem base).sideBusy h = false ∧ (atMem base).mwaitTrap h (h.atomEa mw 0) = none ∧
      (atMem base).mwaitPoison h (h.atomEa mw 0) = false ∧ ((atMem base).touch h.core h.cx 0x40100 false).mwaitWord h (h.atomEa mw 0) = h.srcS (.s 2)) ∧
    Wit (.mwait mw) (withRegs [] [(2, 1)] (atMem base)) (fun h => ((atMem base).touch h.core h.cx 0x40100 false).mwaitWord h (h.atomEa mw 0) ≠ h.srcS (.s 2)) ∧
    Wit (.mwait mw) (atHole base) (fun h => ((atHole base).mwaitTrap h (h.atomEa mw 0)).isSome = true) ∧
    Wit (.mwait mw) (withSide 0x180000 base) (fun h => (withSide 0x180000 base).sideBusy h = true) ∧
    (∀ e ∈ [((0 : W64), 9, true, some (true, 9, true)), (1, 9, true, some (false, 9, true)), (1, 0, true, some (false, 0, true)), (1, 0, false, some (false, 0, false))],
      let s := atWait e.1 e.2.1 e.2.2.1
      (s.hereOf 0).map (fun h => (h.t.saved, h.f.st == .parked (.mwait 0x40100 0 e.1 e.2.1 e.2.2.1), (s.mwaitTrap h 0x40100).isNone)) = some (false, true, true) ∧
      (s.touch 0 cx0 0x40100 false).mwaitSees 0 = e.2.2.2 ∧ s.mwaitSees 0 = e.2.2.2) ∧
    (({ atWait 1 9 true with mem := [] } : State).hereOf 0).map (fun h => (({ atWait 1 9 true with mem := [] } : State).mwaitTrap h 0x40100).isSome) = some true :=
  ⟨wit (by decide +kernel) (by decide +kernel), wit (by decide +kernel) (by decide +kernel), wit (by decide +kernel) (by decide +kernel),
   wit (by decide +kernel) (by decide +kernel), by decide +kernel, by decide +kernel⟩

/-- An outstanding write of v3 and s2 that may land, one that carries a poisoned word and one that waits for the side log; a side log
whose oldest entry can perform, would consume an error, and cannot be mapped. -/
theorem witness_LandingAndSideLog :
    let p : Pend := { frag := 0, regs := [.v 3, .s 2], vs := [(96, 5), (96, 7)], ss := [(2, 9)] }
    (∀ q ∈ [p, { p with bad := true }, { p with parts := 1 }],
      (((base.modGroup 0 fun g => { g with pend := [(0, q)] }).groups.get? 0).bind fun g => g.pend.get? 0) = some q ∧ q.peer = none ∧ q.ready = true ∧ q.report = none) ∧
    ((sideHeads ((withSide 0x40100 base).core 0).side).find? fun e => ((withSide 0x40100 base).sideFault e.2).isNone) = some (0, sideEntry 0x40100) ∧
    (withSide 0x40100 base).sideBad (sideEntry 0x40100) = none ∧
    (let s := withPoison [0x40100] (withSide 0x40100 base)
     ((sideHeads (s.core 0).side).find? fun e => (s.sideFault e.2).isNone) = some (0, sideEntry 0x40100) ∧ s.sideBad (sideEntry 0x40100) = some 8) ∧
    ((sideHeads ((withSide 0x180000 base).core 0).side).findSome? fun e => ((withSide 0x180000 base).sideFault e.2).map fun f => (e, f)) =
      some ((0, sideEntry 0x180000), (0, 3, 0x180000)) := by decide +kernel

/-! ## Atomics and synchronisation: what meets the hypotheses -/

def at_ : MemW := { dst := .v 8, a := .v 2, c := .v 4 }
def at8 : MemW := { at_ with width := .w8 }
def obj0 : Nat := 0xFFFF0000000000
/-- Object 0 of die 0, its address in s0. -/
def withObj (o : Option Obj) (x : State) : State :=
  withRegs [] [(0, obj0)] (match o with | some o => { x with objs := [(0, o)] } | none => x)

def okAtom (s : State) (h : Here) (w : MemW) (n l : Nat) (cell hostOk : Bool) : Prop :=
  s.laneAtomic h (h.atomEa w l) n cell hostOk = none ∧ s.atomPoison h.core h.cx (h.atomEa w l) n = false
def atS : MemW := { at_ with dst := .s 8, a := .s 0, c := .s 4, off := 8 }
def atE : MemW := { at_ with a := .s 1, off := 4092 }

theorem witness_Atomics :
    Wit (.atom at_) (atMem base) (fun h => h.peerBusy = false ∧ (atMem base).logBusy h = false ∧ ∀ l ∈ lanesOf (h.active 0 false), okAtom (atMem base) h at_ 4 l true (hostAtom at_)) ∧
    Wit (.atom atS) (withObj (some { kind := .cell [] }) base) (fun h => okAtom (withObj (some { kind := .cell [] }) base) h atS 4 0 true true) ∧
    (∀ i ∈ [Instr.bins at8, .bffcs { at8 with c := .zr }, .bpls at8], Wit i (atMem base) fun h => ∀ l ∈ lanesOf (h.active 0 false), okAtom (atMem base) h at8 8 l false false) ∧
    Wit (.red { at_ with dst := .zr }) (atMem base) (fun h => (atMem base).sideBusy h = false ∧ ∀ l ∈ lanesOf (h.active 0 false),
      (atMem base).laneRed h (h.atomEa at_ l) 4 true = none ∧ (atMem base).vPoison h.core h.cx (h.atomEa at_ l) 4 .atomic = false) ∧
    Wit (.atoms atE) base (fun h => ∀ l ∈ lanesOf (h.active 0 false),
      base.laneScr h.tid (h.atomOff atE l) 4 true 0 (h.quiet (lanesOf (h.active 0 false)) (h.atomOff atE) 4) = none ∧
      h.t.present (h.atomOff atE l) 4 = true ∧ h.t.scrBad (h.atomOff atE l) 4 = false) ∧ AtomKind.signed ≠ .float := by
  refine ⟨wit (by decide +kernel) ?_, wit (by decide +kernel) ?_, witAll (by decide +kernel) ?_, wit (by decide +kernel) (by decide +kernel),
    wit (by decide +kernel) (by decide +kernel), by decide⟩ <;> (simp only [okAtom]; decide +kernel)

/-- Atomics that trap, park, wait at issue, and enter the side log or find it full. -/
theorem witness_Atomics_waits :
    (∀ i ∈ [Instr.atom at_, .bins at8, .bffcs { at8 with c := .zr }, .bpls at8, .red { at_ with dst := .zr }, .atoms { at_ with a := .s 1 }],
      Wit i (withPeerLoad (atMem base)) fun h => h.peerBusy = true) ∧
    Wit (.bins at8) (atHole base) (fun h => (pickTrap (failing 3 fun l => (atHole base).laneAtomic h (h.atomEa at8 l) 8 false false)).isSome = true) ∧
    Wit (.atom at_) (withSide 0x180000 (atMem base)) (fun h => h.peerBusy = false ∧ (withSide 0x180000 (atMem base)).logBusy h = true ∧
      (∀ l ∈ lanesOf (h.active 0 false), okAtom (withSide 0x180000 (atMem base)) h at_ 4 l true (hostAtom at_)) ∧
      ((withSide 0x180000 (atMem base)).sideAdd h ((lanesOf (h.active 0 false)).map fun l => (l, h.atomEa at_ l)) 0 fun _ => .atom 0xA0 at_ none []).isSome = true) ∧
    Wit (.atom at_) (withFullSide (atMem base)) (fun h =>
      ((withFullSide (atMem base)).sideAdd h ((lanesOf (h.active 0 false)).map fun l => (l, h.atomEa at_ l)) 0 fun _ => .atom 0xA0 at_ none []).isSome = false) ∧
    Wit (.atoms { at_ with a := .s 1 }) (base.modTeam 0 fun t => { t with absent := [(0, 1)] }) fun h => h.t.present (h.atomOff { a := .s 1 } 0) 4 = false ∧
      ∀ l ∈ lanesOf (h.active 0 false), (base.modTeam 0 fun t => { t with absent := [(0, 1)] }).laneScr h.tid (h.atomOff { a := .s 1 } l) 4 true 0
        (h.quiet (lanesOf (h.active 0 false)) (h.atomOff { a := .s 1 }) 4) = none := by
  refine ⟨witAll (by decide +kernel) (by decide +kernel), wit (by decide +kernel) (by decide +kernel), wit (by decide +kernel) ?_,
    wit (by decide +kernel) (by decide +kernel), wit (by decide +kernel) (by decide +kernel)⟩
  simp only [okAtom]; decide +kernel

def ow : MemW := { dst := .c 1, a := .s 0, b := .s 2, width := .w8 }
def owZ : MemW := { dst := .c 1, a := .s 0, width := .w8 }

/-- The synchronisation engine takes row `i`, which runs; and its object can be read. -/
def WitTaken (i : Instr) (s : State) (w : MemW) (p : Here → Prop) : Prop := ∃ h, SyncTaken i h s w ∧ p h
theorem witTaken {i : Instr} {s : State} {w : MemW} {p : Here → Prop} (hr : runsB i s = true)
    (hs : s.sideBusy (hereD s) = false ∧ s.syncTrap (hereD s) ((hereD s).atomEa w 0) = none ∧
      s.syncBusy.getD 0 (bitsN ((hereD s).atomEa w 0) 39 38) = 0) (hp : p (hereD s)) : WitTaken i s w p :=
  ⟨hereD s, ⟨runs_of_runsB hr, hs.1, hs.2.1, hs.2.2⟩, hp⟩
def WitSync (i : Instr) (s : State) (w : MemW) (p : Here → Prop) : Prop := ∃ h, SyncRuns i h s w ∧ p h
theorem witSync {i : Instr} {s : State} {w : MemW} {p : Here → Prop} (hr : runsB i s = true)
    (hs : (s.sideBusy (hereD s) = false ∧ s.syncTrap (hereD s) ((hereD s).atomEa w 0) = none ∧
      s.syncBusy.getD 0 (bitsN ((hereD s).atomEa w 0) 39 38) = 0) ∧
      ((s.objs.get? (objKey ((hereD s).atomEa w 0))).map Obj.poisoned).getD false = false) (hp : p (hereD s)) : WitSync i s w p :=
  ⟨hereD s, ⟨⟨runs_of_runsB hr, hs.1.1, hs.1.2.1, hs.1.2.2⟩, hs.2⟩, hp⟩

def barO (gen exp arr : Nat) (ws : List Nat) : Obj := { kind := .bar (BitVec.ofNat 32 gen) (BitVec.ofNat 32 exp) (BitVec.ofNat 32 arr), waiters := ws }
def semO (v : Nat) (ws : List Nat) : Obj := { kind := .sem (BitVec.ofNat 64 v), waiters := ws }
def s2 (v : Nat) (x : State) : State := withRegs [] [(2, v)] x

/-- Making objects: a free one with EXPECT 1, 0 and 2^32; a busy one with a waiter; freeing none, an idle one, one with a waiter, a Fold
and a counter; an address that names no object, a busy engine and a side-logged store. -/
theorem witness_SyncObjects_init :
    WitTaken (.sobjBar ow) (s2 1 (withObj none base)) ow (fun h => (h.srcS (.s 2)).toNat = 1) ∧
    WitTaken (.sobjBar ow) (withObj none base) ow (fun h => (h.srcS (.s 2)).toNat = 0) ∧
    WitTaken (.sobjBar ow) (s2 (2 ^ 32) (withObj none base)) ow (fun h => 2 ^ 32 ≤ (h.srcS (.s 2)).toNat) ∧
    WitTaken (.sobjBar ow) (s2 1 (withObj (some (barO 0 2 1 [1])) base)) ow (fun h => (h.srcS (.s 2)).toNat = 1) ∧
    WitTaken (.sobjBar ow) (withObj (some { kind := .fold }) base) ow (fun _ => True) ∧
    WitTaken (.sobjSem ow) (withObj none base) ow (fun _ => True) ∧ WitTaken (.sobjSem ow) (withObj (some (semO 0 [1])) base) ow (fun _ => True) ∧
    WitTaken (.sobjCell owZ) (withObj none base) owZ (fun _ => True) ∧ WitTaken (.sobjCell owZ) (withObj (some (semO 0 [1])) base) owZ (fun _ => True) ∧
    WitTaken (.sobjInv owZ) (withObj none base) owZ (fun _ => True) ∧ WitTaken (.sobjInv owZ) (withObj (some (semO 0 [])) base) owZ (fun _ => True) ∧
    WitTaken (.sobjInv owZ) (withObj (some (semO 0 [1])) base) owZ (fun _ => True) ∧ WitTaken (.sobjInv owZ) (withObj (some { kind := .fold }) base) owZ (fun _ => True) ∧
    WitTaken (.sobjInv owZ) (withObj (some { kind := .counter 1 true none 0 0 }) base) owZ (fun _ => True) ∧
    ∀ i ∈ [Instr.sobjBar ow, .sobjSem ow, .sobjCell owZ, .sobjInv owZ, .sarv { owZ with dst := .s 3 }, .sarvPost ow, .swait ow, .swaitTake ow, .swaitTry ow],
      Wit i (atMem base) (fun h => (atMem base).sideBusy h = false ∧ ((atMem base).syncTrap h (h.atomEa ow 0)).isSome = true) ∧
      Wit i (withSide 0x180000 base) (fun h => (withSide 0x180000 base).sideBusy h = true) ∧
      Wit i { withObj none base with syncBusy := [(0, 2)] } fun h => (withObj none base).syncTrap h (h.atomEa ow 0) = none ∧ bitsN (h.atomEa ow 0) 39 38 = 0 := by
  refine ⟨witTaken (by decide +kernel) (by decide +kernel) (by decide +kernel), witTaken (by decide +kernel) (by decide +kernel) (by decide +kernel),
   witTaken (by decide +kernel) (by decide +kernel) (by decide +kernel), witTaken (by decide +kernel) (by decide +kernel) (by decide +kernel),
   witTaken (by decide +kernel) (by decide +kernel) trivial,
   witTaken (by decide +kernel) (by decide +kernel) trivial, witTaken (by decide +kernel) (by decide +kernel) trivial,
   witTaken (by decide +kernel) (by decide +kernel) trivial, witTaken (by decide +kernel) (by decide +kernel) trivial,
   witTaken (by decide +kernel) (by decide +kernel) trivial, witTaken (by decide +kernel) (by decide +kernel) trivial,
   witTaken (by decide +kernel) (by decide +kernel) trivial, witTaken (by decide +kernel) (by decide +kernel) trivial,
   witTaken (by decide +kernel) (by decide +kernel) trivial, fun i hi => ⟨?_, ?_, ?_⟩⟩ <;> exact witAll (by decide +kernel) (by decide +kernel) i hi

/-- Barriers: an arrival of two, the last one with a waiter whose token passes, another kind; waits on a passed token, on the current
generation, on a free object and on a semaphore. -/
theorem witness_SyncObjects_bar :
    WitSync (.sarv { owZ with dst := .s 3 }) (withObj (some (barO 0 2 0 [])) base) owZ (fun _ => (0 : W32).toNat + 1 < (2 : W32).toNat) ∧
    WitSync (.sarv { owZ with dst := .s 3 }) ((withSib 4 [] (withObj (some (barO 0 2 1 [1])) base)).modFrag 1 fun f => { f with st := .parked (.token 0 obj0 0) }) owZ (fun _ => ((withSib 4 [] base).modFrag 1 fun f => { f with st := .parked (.token 0 obj0 0) }).tokenPassed 1 1 = true) ∧
    WitSync (.sarv { owZ with dst := .s 3 }) (withObj (some (semO 0 [])) base) owZ (fun _ => True) ∧
    WitSync (.swait ow) (withObj none base) ow (fun _ => True) ∧
    WitSync (.swait ow) (withObj (some (barO 1 2 0 [])) base) ow (fun h => (1 - BitVec.ofNat 32 (h.srcS (.s 2)).toNat : W32).toNat = 1) ∧
    WitSync (.swait ow) (withObj (some (barO 0 2 0 [])) base) ow (fun h => (0 - BitVec.ofNat 32 (h.srcS (.s 2)).toNat : W32).toNat = 0) ∧
    WitSync (.swait ow) (withObj (some (semO 0 [])) base) ow (fun _ => True) ∧
    ∀ i ∈ [Instr.sarvPost ow, .swaitTake ow, .swaitTry ow], WitSync i (withObj (some (barO 0 2 0 [])) base) ow fun _ => True := by
  refine ⟨witSync (by decide +kernel) (by decide +kernel) (by decide), witSync (by decide +kernel) (by decide +kernel) (by decide +kernel),
   witSync (by decide +kernel) (by decide +kernel) trivial, witSync (by decide +kernel) (by decide +kernel) trivial,
   witSync (by decide +kernel) (by decide +kernel) (by decide +kernel), witSync (by decide +kernel) (by decide +kernel) (by decide +kernel),
   witSync (by decide +kernel) (by decide +kernel) trivial, fun i hi => ?_⟩
  simp only [List.mem_cons, List.not_mem_nil, or_false] at hi
  obtain rfl | rfl | rfl := hi <;> exact witSync (by decide +kernel) (by decide +kernel) trivial

/-- Semaphores: a post beyond 2^64 − 1 and one within; takes of 0, of what is there, and of more; a refused request with its ticket. -/
theorem witness_SyncObjects_sem :
    WitSync (.sarvPost ow) (s2 1 (withObj (some (semO (2 ^ 64 - 1) [])) base)) ow (fun h => 2 ^ 64 ≤ 2 ^ 64 - 1 + (h.srcS (.s 2)).toNat) ∧
    WitSync (.sarvPost ow) (s2 1 (withObj (some (semO (2 ^ 64 - 2) [])) base)) ow (fun h => 2 ^ 64 - 2 + (h.srcS (.s 2)).toNat < 2 ^ 64) ∧
    (∀ i ∈ [Instr.swaitTake ow, .swaitTry ow], WitSync i (withObj (some (semO 1 [])) base) ow (fun h => h.srcS (.s 2) = 0) ∧
      WitSync i (s2 1 (withObj (some (semO 1 [])) base)) ow (fun h => h.srcS (.s 2) = 1) ∧
      WitSync i (s2 2 (withObj (some (semO 1 [])) base)) ow (fun h => (1 : W64).toNat < (h.srcS (.s 2)).toNat) ∧
      WitSync i (s2 1 (withObj (some (semO 1 [1])) base)) ow (fun h => h.srcS (.s 2) ≠ 0)) ∧
    WitSync (.sarvPost ow) (s2 1 ((withSib 4 [] (withObj (some (semO 0 [1])) base)).modFrag 1 fun f => { f with st := .parked (.take 0 obj0 1) })) ow (fun h =>
      (serveTakes (s2 1 ((withSib 4 [] (withObj (some (semO 0 [1])) base)).modFrag 1 fun f => { f with st := .parked (.take 0 obj0 1) }))
        (0 + (h.srcS (.s 2)).toNat) [1]).2.1 = [1]) ∧
    (let s := { (withObj (some (semO 1 [])) base).modFrag 0 fun f => { f with stall := true, ticket := some 0, buf := BitVec.ofNat 512 (encode (.swait ow)).toNat } with
       syncBusy := [(0, 1)] }
     (s.hereOf 0).isSome = true ∧ s.parkedAt 0 = some (.swait ow) ∧ ((s.hereOf 0).map fun h => s.requestDie h (.swait ow)) = some (some 0) ∧ ((s.hereOf 0).map fun h => h.f.stall) = some true ∧ 0 < s.syncBusy.getD 0 0) := by
  refine ⟨witSync (by decide +kernel) (by decide +kernel) (by decide +kernel), witSync (by decide +kernel) (by decide +kernel) (by decide +kernel), ?_,
    witSync (by decide +kernel) (by decide +kernel) (by decide +kernel), by decide +kernel⟩
  intro i hi
  simp only [List.mem_cons, List.not_mem_nil, or_false] at hi
  obtain rfl | rfl := hi <;>
  exact ⟨witSync (by decide +kernel) (by decide +kernel) (by decide +kernel), witSync (by decide +kernel) (by decide +kernel) (by decide +kernel), witSync (by decide +kernel) (by decide +kernel) (by decide +kernel),
    witSync (by decide +kernel) (by decide +kernel) (by decide +kernel)⟩

def WitCnt (i : Instr) (s : State) (w : MemW) (p : Here → Prop) : Prop := ∃ h, CounterRuns i h s w ∧ p h
theorem witCnt {i : Instr} {s : State} {w : MemW} {p : Here → Prop} (hr : runsB i s = true)
    (hs : s.sideBusy (hereD s) = false ∧ ((hereD s).atomEa w 0 < 2 ^ 56 ∧ inAperture ((hereD s).atomEa w 0) = true ∧
      s.objExists ((hereD s).atomEa w 0) = true ∧ (hereD s).atomEa w 0 % 64 = 0) ∧ ((hereD s).srcS w.b).toNat < 2 ^ 32 ∧
      s.syncBusy.getD 0 (bitsN ((hereD s).atomEa w 0) 39 38) = 0 ∧
      ((s.objs.get? (objKey ((hereD s).atomEa w 0))).map Obj.poisoned).getD false = false) (hp : p (hereD s)) : WitCnt i s w p :=
  ⟨hereD s, ⟨runs_of_runsB hr, hs.1, hs.2.1, hs.2.2.1, hs.2.2.2.1, hs.2.2.2.2⟩, hp⟩

def cntO (c : Int) (a : Bool) (t : Option Nat) : Obj := { kind := .counter c a t 2 3 }

/-- Counters: free objects, a signal that leaves COUNT above zero, one that brings it to zero and fires a task, an arm of an armed
counter and of one that is not, and another kind. -/
theorem witness_Counters :
    WitCnt (.cntaSig ow) (withObj none base) ow (fun _ => True) ∧ WitCnt (.cntaArm ow) (s2 1 (withObj none base)) ow (fun h => 0 < (h.srcS (.s 2)).toNat) ∧
    WitCnt (.cntaSig ow) (s2 1 (withObj (some (cntO 2 true none)) base)) ow (fun h => ((h.srcS (.s 2)).toNat : Int) < 2) ∧
    WitCnt (.cntaSig ow) (s2 2 (withObj (some (cntO 2 true (some 0))) base)) ow (fun h => (2 : Int) ≤ (h.srcS (.s 2)).toNat) ∧
    WitCnt (.cntaArm ow) (s2 1 (withObj (some (cntO 2 true none)) base)) ow (fun _ => True) ∧
    WitCnt (.cntaArm ow) (s2 2 (withObj (some (cntO (-1) false none)) base)) ow (fun h => 0 < (-1 : Int) + (h.srcS (.s 2)).toNat) ∧
    WitCnt (.cntaArm ow) (withObj (some (cntO (-1) false none)) base) ow (fun h => (-1 : Int) + (h.srcS (.s 2)).toNat ≤ 0) ∧
    ∀ i ∈ [Instr.cntaSig ow, .cntaArm ow], WitCnt i (withObj (some (semO 1 [])) base) ow (fun _ => True) ∧
      Wit i (s2 (2 ^ 32) (withObj none base)) (fun h => h.atomEa ow 0 < 2 ^ 56 ∧ inAperture (h.atomEa ow 0) = true ∧
        (withObj none base).objExists (h.atomEa ow 0) = true ∧ h.atomEa ow 0 % 64 = 0 ∧ 2 ^ 32 ≤ (h.srcS (.s 2)).toNat) ∧
      Wit i (withSide 0x180000 base) fun h => (withSide 0x180000 base).sideBusy h = true := by
  refine ⟨witCnt (by decide +kernel) (by decide +kernel) trivial, witCnt (by decide +kernel) (by decide +kernel) (by decide +kernel),
    witCnt (by decide +kernel) (by decide +kernel) (by decide +kernel), witCnt (by decide +kernel) (by decide +kernel) (by decide +kernel),
    witCnt (by decide +kernel) (by decide +kernel) trivial, witCnt (by decide +kernel) (by decide +kernel) (by decide +kernel),
    witCnt (by decide +kernel) (by decide +kernel) (by decide +kernel), ?_⟩
  intro i hi
  simp only [List.mem_cons, List.not_mem_nil, or_false] at hi
  obtain rfl | rfl := hi <;> exact ⟨witCnt (by decide +kernel) (by decide +kernel) trivial, wit (by decide +kernel) (by decide +kernel), wit (by decide +kernel) (by decide +kernel)⟩

/-! ## Copies and streams: what meets the hypotheses -/

def cw : EngW := { a := .v 2, b := .v 4, imm := 2 }
/-- 16-byte copies of lanes 0 and 1 between 0x40100 and 0x40110 and scratchpad offsets 128 and 144. -/
def atCopy (x : State) : State := withRegs (lanes 2 [0x40100, 0x40110] ++ lanes 4 [128, 144]) [] x
def rep0 : Report := { cause := .xlate, detail := 0, lanes := 1, active := 3, line := 0x40000, slot := 0, addr := 0, info := 0 }
def xfer0 (isIn : Bool) : Xfer := { group := 0, frag := 0, report := rep0, team := 0, cmd := 7, isIn := isIn, line := 1, width := 16, moves := [(0, 0x40100, 128)] }
def withXfer (isIn : Bool) (x : State) : State :=
  (x.modCore 0 fun c => { c with xfers := [(3, xfer0 isIn)], cpls := [(7, { entries := [0, 1] })] }).modTeam 0 fun t =>
    { t with absent := if isIn then [(1, 1)] else [] }

/-- `n` entries of the engine part of the Hasp table are taken. -/
def withHasp (n : Nat) (x : State) : State := x.modCore 0 fun c => { c with hasp := (List.range n).map fun k =>
  (k, { wlock := false, scratch := false, owner := 1, tag := 0, asid := 9, first := 0, last := 0 }) }

/-- Per-lane copies that wait at issue for an entry, and at a line with 15 transfers. -/
theorem witness_LaneCopies_waits :
    (∀ e ∈ [(Instr.cplIn cw, false), (.cplOut { cw with imm := 6 }, true)], Wit e.1 (withHasp 31 (atCopy base)) fun h => h.active 0 false ≠ 0 ∧
      ((withHasp 31 (atCopy base)).core h.core).haspFree.length = 1 ∧
      ∀ l ∈ lanesOf (h.active 0 false), (withHasp 31 (atCopy base)).cplLane h e.2 16 (h.src64 cw.a 0 l) (h.src32 cw.b 0 l) = none) ∧
    (let s := (atCopy base).modTeam 0 fun t => { t with absent := [(1, 15)] }
     Wit (.cplIn cw) s fun h => (∀ l ∈ lanesOf (h.active 0 false), s.cplLane h false 16 (h.src64 cw.a 0 l) (h.src32 cw.b 0 l) = none) ∧
       ∃ ln ∈ linesOf ((lanesOf (h.active 0 false)).map fun l => h.src32 cw.b 0 l), 15 ≤ h.t.absent.getD 0 ln) := by
  refine ⟨?_, wit (by decide +kernel) (by decide +kernel)⟩
  intro e he
  simp only [List.mem_cons, List.not_mem_nil, or_false] at he
  obtain rfl | rfl := he <;> exact wit (by decide +kernel) (by decide +kernel)

theorem witness_LaneCopies :
    (∀ i ∈ [Instr.cplIn cw, .cplOut { cw with imm := 6 }], Wit i (withSide 0x180000 (atCopy base)) (fun h => (withSide 0x180000 (atCopy base)).sideBusy h = true)) ∧
    (∀ i ∈ [Instr.cplIn { cw with g := 1 }, .cplOut { cw with g := 1, imm := 6 }], Wit i base fun h => base.sideBusy h = false ∧ h.active 1 false = 0) ∧
    Wit (.cplIn cw) (withRegs (lanes 4 [4096]) [] (atCopy base)) (fun h => (pickTrap (failing 3 fun l =>
      base.cplLane h false 16 (h.src64 cw.a 0 l) ([4096, 144].getD l 0))).isSome = true) ∧
    (∀ e ∈ [(Instr.cplIn cw, false), (.cplOut { cw with imm := 6 }, true)], Wit e.1 (atCopy base) fun h => h.active 0 false ≠ 0 ∧
      (∀ l ∈ lanesOf (h.active 0 false), (atCopy base).cplLane h e.2 16 (h.src64 cw.a 0 l) (h.src32 cw.b 0 l) = none) ∧
      (∀ ln ∈ linesOf ((lanesOf (h.active 0 false)).map fun l => h.src32 cw.b 0 l), h.t.absent.getD 0 ln < 15) ∧ 2 ≤ ((atCopy base).core h.core).haspFree.length) ∧
    (∀ isIn ∈ [true, false], (((withXfer isIn base).core 0).xfers.get? 3) = some (xfer0 isIn) ∧ (withXfer isIn base).teams.has 0 = true ∧
      (isIn = true ∨ ((withXfer isIn base).teams.get? 0).map (fun t => t.absent.has 1) = some false) ∧ ((withXfer isIn base).core 0).xfers.wf = true ∧
      ((withXfer isIn base).core 0).cpls.get? 7 = some { entries := [0, 1] }) := by
  refine ⟨witAll (by decide +kernel) (by decide +kernel), witAll (by decide +kernel) (by decide +kernel), wit (by decide +kernel) (by decide +kernel), ?_, by decide +kernel⟩
  intro e he
  simp only [List.mem_cons, List.not_mem_nil, or_false] at he
  obtain rfl | rfl := he <;> exact wit (by decide +kernel) (by decide +kernel)

/-- A copy of one row of 16 bytes between two places, its stamp at 0x60000. -/
def copyD (src dst : Nat) : Nat := src + at_bit dst 64 + at_bit 16 128 + at_bit 1 160 + at_bit 0x60000 256 + at_bit 3 384
def bw : EngW := { a := .s 0 }

/-- Every address of a domain's window can be reached. -/
def withDomain (x : State) : State := { x with domOn := true, domMembers := 0xFFFFFFFFFFFFFFFF, domDown := 0 }
theorem domain_reaches (x : State) (pa : Nat) : (withDomain x).reach pa = true := by
  have h : pa / 2 ^ 46 % 64 < 64 := Nat.mod_lt _ (by decide)
  have : ∀ n, n < 64 → (0xFFFFFFFFFFFFFFFF : W64).getLsbD n = true := by decide
  have h0 : ∀ n, (0 : W64).getLsbD n = false := by intro n; simp
  simp only [State.reach, withDomain, this _ h, h0, Bool.not_false, Bool.and_self]
theorem domain_keeps (x : State) (core va : Nat) (cx : Ctx) : (withDomain x).storeLost core cx va = false := by
  unfold State.storeLost
  split
  · simp only [domain_reaches, Bool.not_true, Bool.and_false]
  · rfl

def bulk0 : Bulk := { group := 0, frag := 0, report := rep0, ctx := 0, desc := BitVec.ofNat 512 (copyD 0x40100 0x60100), entries := [2, 3] }
def withBulk (x : State) : State := x.modCore 0 fun c => { c with bulks := [(5, bulk0)] }
def seal0 : SealBatch := { group := 0, ctx := 0, xfers := [], addr := 0x60000, value := 66, scope := 3 }

theorem witness_SealsAndBulkCopies_waits :
    Wit (.cpseal { a := .s 0, b := .s 1, imm := 3 }) (withSide 0x180000 base) (fun h => (withSide 0x180000 base).sideBusy h = true) ∧
    Wit (.bcpy bw) (withDesc (copyD 0x40100 0x40110 - 0x60000 * 2 ^ 256 + 0x180000 * 2 ^ 256) base) (fun h =>
      descOk (withDesc (copyD 0x40100 0x40110 - 0x60000 * 2 ^ 256 + 0x180000 * 2 ^ 256) base) h 64 ∧
      ((withDesc (copyD 0x40100 0x40110 - 0x60000 * 2 ^ 256 + 0x180000 * 2 ^ 256) base).stampTrap h 0x180000).isSome = true) ∧
    Wit (.bcpy bw) (withDesc (copyD (obj0 - 15) 0x40110) base) (fun h => descOk (withDesc (copyD (obj0 - 15) 0x40110) base) h 64 ∧ meetsAperture (obj0 - 15) 16 = true) ∧
    Wit (.bcpy bw) (withDesc (copyD 0x40100 obj0) base) (fun h => descOk (withDesc (copyD 0x40100 obj0) base) h 64 ∧
      meetsAperture 0x40100 16 = false ∧ meetsAperture obj0 16 = true) ∧
    Wit (.bcpy bw) (withDesc (copyD 0x40100 0x40110) (withHasp 31 base)) (fun h => descOk (withDesc (copyD 0x40100 0x40110) (withHasp 31 base)) h 64 ∧
      ((withDesc (copyD 0x40100 0x40110) (withHasp 31 base)).core h.core).haspFree.length = 1) := by
  refine ⟨wit (by decide +kernel) (by decide +kernel), wit (by decide +kernel) ?_, wit (by decide +kernel) ?_, wit (by decide +kernel) ?_, wit (by decide +kernel) ?_⟩ <;>
  (simp only [descOk]; decide +kernel)

theorem witness_SealsAndBulkCopies :
    Wit (.cpseal { a := .s 0, b := .s 1, imm := 3 }) (withRegs [] [(0, 0x180000)] base) (fun h => ((withRegs [] [(0, 0x180000)] base).stampTrap h 0x180000).isSome = true) ∧
    Wit (.cpseal { a := .s 0, b := .s 1, imm := 3 }) (atMem base) (fun h => (atMem base).stampTrap h 0x40100 = none) ∧
    (let s := base.modCore 0 fun c => { c with seals := [(5, seal0)] }
     (s.core 0).sealReady 5 seal0 = true ∧ s.stampFault 0 cx0 0x60000 = none) ∧
    Wit (.bcpy bw) (withDesc (copyD 0x40100 0x60100 + at_bit 1 387) base) (fun h => descOk (withDesc (copyD 0x40100 0x60100 + at_bit 1 387) base) h 64 ∧
      bitsN ((withDesc (copyD 0x40100 0x60100 + at_bit 1 387) base).vload h.core h.cx 0x50000 64) 511 387 = 1) ∧
    Wit (.bcpy bw) (withDesc (copyD 0x40100 0x4010F) base) (fun h => descOk (withDesc (copyD 0x40100 0x4010F) base) h 64) ∧
    Wit (.bcpy bw) (withDesc (copyD 0x40100 0x40110) base) (fun h => descOk (withDesc (copyD 0x40100 0x40110) base) h 64 ∧
      (withDesc (copyD 0x40100 0x40110) base).stampTrap h 0x60000 = none ∧ 2 ≤ ((withDesc (copyD 0x40100 0x40110) base).core h.core).haspFree.length ∧
      meetsAperture 0x40100 16 = false) ∧
    ((withDomain (withBulk base)).core 0).bulks.get? 5 = some bulk0 ∧ (withDomain (withBulk base)).ctxs.get? 0 = some cx0 ∧
    (∀ va, (withDomain (withBulk base)).storeLost 0 cx0 va = false) ∧ (copyBulk 0 cx0 bulk0.desc 16 0 (withDomain (withBulk base))).2 = (16, none) := by
  refine ⟨wit (by decide +kernel) (by decide +kernel), wit (by decide +kernel) (by decide +kernel), by decide +kernel, wit (by decide +kernel) ?_,
    wit (by decide +kernel) ?_, wit (by decide +kernel) ?_, by decide +kernel, by decide +kernel, fun va => domain_keeps _ _ va _, by decide +kernel⟩ <;>
  (simp only [descOk]; decide +kernel)

/-- A fill record of one row of 128 n8 elements of 256, with a ring of one 128-byte slot; a drain record of the same. -/
def tlrD (drain : Nat) : Nat := 0 + at_bit drain 4 + at_bit 1 8 + at_bit 128 32 + at_bit 128 64 + at_bit 0x40000 96 + at_bit 256 160 + at_bit 127 320
def stream0 (drain st : Nat) (slots : SMap Nat) : Stream := { st := st, owner := some 0, tlr := BitVec.ofNat 512 (tlrD drain), slots := slots }
def withStream (x : Stream) (s : State) : State := s.modCore 0 fun c => { c with streams := [(0, x)] }
def sdw : EngW := { dst := .c 1, a := .s 0 }

theorem witness_StreamEngines_waits :
    (∀ i ∈ [Instr.seprog sdw, .sectlStart {}, .sectlStop {}], Wit i (withSide 0x180000 base) fun h => (withSide 0x180000 base).sideBusy h = true) ∧
    (let d := tlrD 0 - at_bit 0x40000 96 + at_bit obj0 96
     Wit (.seprog sdw) (withDesc d base) fun h => (withDesc d base).laneGlobal h 0x50000 64 .read = none ∧ Tlr.refuse { bits := BitVec.ofNat 512 d } 4096 = none ∧
       Tlr.wsrc { bits := BitVec.ofNat 512 d } = false ∧ meetsAperture (Tlr.extent { bits := BitVec.ofNat 512 d }).1 (Tlr.extent { bits := BitVec.ofNat 512 d }).2 = true) ∧
    Wit (.rsig {}) (withSide 0x180000 (withStream (stream0 0 2 [(0, 2)]) base)) fun h =>
      (withSide 0x180000 (withStream (stream0 0 2 [(0, 2)]) base)).sideBusy h = true ∧
      ((withSide 0x180000 (withStream (stream0 0 2 [(0, 2)]) base)).stream h.core 0).mine 0 = true :=
  ⟨witAll (by decide +kernel) (by decide +kernel), wit (by decide +kernel) (by decide +kernel), wit (by decide +kernel) (by decide +kernel)⟩

theorem witness_StreamEngines_instr :
    Wit (.seprog sdw) (withDesc (tlrD 0) (withStream { stream0 0 1 [] with owner := some 9 } base)) (fun h =>
      descOk (withDesc (tlrD 0) (withStream { stream0 0 1 [] with owner := some 9 } base)) h 64) ∧
    Wit (.seprog sdw) (withDesc (tlrD 0 + at_bit 1 11) base) (fun h => descOk (withDesc (tlrD 0 + at_bit 1 11) base) h 64 ∧
      Tlr.refuse { bits := BitVec.ofNat 512 (tlrD 0 + at_bit 1 11) } 4096 = some 2) ∧
    Wit (.seprog sdw) (withDesc (tlrD 0) base) (fun h => descOk (withDesc (tlrD 0) base) h 64 ∧ Tlr.refuse { bits := BitVec.ofNat 512 (tlrD 0) } 4096 = none ∧
      meetsAperture (Tlr.extent { bits := BitVec.ofNat 512 (tlrD 0) }).1 (Tlr.extent { bits := BitVec.ofNat 512 (tlrD 0) }).2 = false) ∧
    Wit (.sectlStart {}) base (fun h => (base.stream h.core 0).owner ≠ some h.tid) ∧
    Wit (.sectlStart {}) (withStream (stream0 0 4 []) base) (fun h => ((withStream (stream0 0 4 []) base).stream h.core 0).owner = some h.tid) ∧
    Wit (.sectlStop {}) (withStream (stream0 0 3 []) base) (fun h => ((withStream (stream0 0 3 []) base).stream h.core 0).st = 3) ∧
    Wit (.sectlStop {}) (withStream (stream0 0 2 []) base) (fun h => ((withStream (stream0 0 2 []) base).stream h.core 0).st = 2) ∧
    Wit (.sectlStop {}) (withStream (stream0 0 6 []) base) (fun h => ((withStream (stream0 0 6 []) base).stream h.core 0).st = 6) ∧
    Wit (.sectlQuery { dst := .s 1 }) (withStream (stream0 0 6 []) base) (fun _ => True) ∧
    (∀ i ∈ [Instr.rsig {}, .rwait {}], Wit i (withStream (stream0 0 0 []) base) (fun h => ((withStream (stream0 0 0 []) base).stream h.core 0).bars h.tid 0 = true)) ∧
    (∀ i ∈ [Instr.rsig { imm := 0x100 }, .rwait { imm := 0x100 }], Wit i (withStream (stream0 0 2 []) base) fun h =>
      ((withStream (stream0 0 2 []) base).stream h.core 0).bars h.tid (h.ringSlot { imm := 0x100 }) = true) ∧
    Wit (.rsig {}) (withStream (stream0 0 2 [(0, 1)]) base) (fun h => ((withStream (stream0 0 2 [(0, 1)]) base).stream h.core 0).bars h.tid 0 = false) ∧
    Wit (.rsig {}) (withStream (stream0 0 2 []) base) (fun h => ((withStream (stream0 0 2 []) base).stream h.core 0).mine 0 = false) ∧
    (∀ i ∈ [Instr.rsig {}, .rwait {}], Wit i (withStream (stream0 0 2 [(0, 2)]) base) fun h => ((withStream (stream0 0 2 [(0, 2)]) base).stream h.core 0).mine 0 = true) ∧
    (∀ o ∈ [Opnd.c 1, .zr], Wit (.rwait { dst := o }) (withStream (stream0 0 4 []) base) fun h => ((withStream (stream0 0 4 []) base).stream h.core 0).mine 0 = false) ∧
    Wit (.rwait {}) (withStream (stream0 0 3 []) base) fun h => ((withStream (stream0 0 3 []) base).stream h.core 0).bars h.tid 0 = false := by
  refine ⟨wit (by decide +kernel) ?_, wit (by decide +kernel) ?_, wit (by decide +kernel) ?_, wit (by decide +kernel) (by decide +kernel),
    wit (by decide +kernel) (by decide +kernel), wit (by decide +kernel) (by decide +kernel), wit (by decide +kernel) (by decide +kernel), wit (by decide +kernel) (by decide +kernel),
    wit (by decide +kernel) trivial, witAll (by decide +kernel) (by decide +kernel), witAll (by decide +kernel) (by decide +kernel), wit (by decide +kernel) (by decide +kernel),
    wit (by decide +kernel) (by decide +kernel), witAll (by decide +kernel) (by decide +kernel), ?_, wit (by decide +kernel) (by decide +kernel)⟩
  · simp only [descOk]; decide +kernel
  · simp only [descOk]; decide +kernel
  · simp only [descOk]; decide +kernel
  · intro o ho
    simp only [List.mem_cons, List.not_mem_nil, or_false] at ho
    obtain rfl | rfl := ho <;> exact wit (by decide +kernel) (by decide +kernel)

/-- No fragment waits at a ring. -/
theorem base_noRingWait (x : Stream) : (withStream x base).noRingWait 0 0 := by
  intro f hf _ k
  simp only [withStream, State.modCore, State.putCore, base, List.mem_cons, List.not_mem_nil, or_false] at hf
  subst hf
  simp [frag0]

theorem witness_StreamEngines_events :
    (let x := stream0 0 2 []
     (withStream x base).stream 0 0 = x ∧ x.cursor < x.layout.tiles ∧ x.slot (x.cursor % x.layout.nslot) = 0 ∧ 2 ≤ ((withStream x base).core 0).haspFree.length ∧
     (withStream x base).teams.has 0 = true) ∧
    (let x := { stream0 1 2 [(0, 1)] with slotTile := [(0, 1)], entries := [(0, [5, 6])], cursor := 2, done := 1 }
     x.oldest = some (0, 1) ∧ x.parked = none ∧ x.layout.wsrc = false ∧ x.layout.tiles = x.done + 1 ∧ (withStream x base).tileFault 0 cx0 x.layout 1 = none ∧
     (withStream x base).poison = [] ∧ x.layout.drain = true) ∧
    (let x := { stream0 0 2 [(0, 1)] with slotTile := [(0, 1)], entries := [(0, [5, 6])], cursor := 2, done := 1 }
     x.oldest = some (0, 1) ∧ (withStream x base).tileFault 0 cx0 x.layout 1 = none) ∧
    ((withStream (stream0 0 3 []) base).stream 0 0).slotTile = [] ∧
    ((withStream { stream0 0 2 [(0, 1)] with parked := some 0x180000 } base).stream 0 0).parked = some 0x180000 := by decide +kernel

/-! ## The matrix engine and the Pen -/

/-- The worked K-loop of spec/11: 2^24 plus a step's exact sum of 1 stays 2^24; plus 2 it is 0x4B800001. -/
theorem test_matrix_step :
    let one := MVal.flt (Fmt.bf16.dec false 0x3F80)
    let half := MVal.flt (Fmt.bf16.dec false 0x3F00)
    matCell true 0x4B800000 [one, one] [half, half] = 0x4B800000 ∧
    matCell true 0x4B800000 [one, one, one, one] [half, half, half, half] = 0x4B800001 ∧
    matCell false 5 [.int 3, .int (-2)] [.int 7, .int 20] = 0xFFFFFFF2 := by decide +kernel

/-- The first MFENCE of a group gives batch 1 (spec/11 R241 and the worked K-loop). -/
theorem test_mfence : sAfter (.mfence { dst := .s 20 }) base 20 = some 1 := by decide +kernel

def mmw : EngW := { a := .s 0, b := .s 1, c := .s 2 }
/-- A at 0 and B at 1024, each of 32-byte rows; strides 32. -/
def atMat (x : State) : State := withRegs [] [(0, 32 * 2 ^ 32), (1, 1024 + 32 * 2 ^ 32), (2, 0)] x
def quarter (ty : Ty) : Quarter := { ty := ty, words := [(0, 3)] }
def withQuad (ty : Ty) (ws : List Nat) (x : State) : State :=
  { x with accs := [(0, { stage := [(0, quarter ty), (1, quarter ty), (2, quarter ty), (3, quarter ty)], waiters := ws })] }
def fits4 (s : State) (a : Nat) : Bool := ({ off := a, str := 32 } : MatRange).firstBad 4096 == none && decide ((s.core 0).mops.length < 32) &&
  decide (4 ≤ (s.core 0).haspFree.length)

/-- MLOOP with scratchpad scales; quarters of another type; and no quad. -/
theorem witness_MatrixIssue_quad :
    Wit (.mloop { mmw with dst := .s 4, imm := 0x1881 }) (withRegs [] [(4, 2048 + 2176 * 2 ^ 32)] (atMat base)) (fun h =>
      (2048 + 2176 * 2 ^ 32 : Nat) = (h.sreg 4).toNat ∧ ({ off := 2048, n := 2, rows := 1, width := 128 } : MatRange).firstBad h.t.fixedLen = none ∧
      ({ off := 2176, n := 2, rows := 1, width := 128 } : MatRange).firstBad h.t.fixedLen = none) ∧
    (∀ i ∈ [Instr.mma { a := .s 0 }, .mloopm { a := .s 0, c := .s 2, imm := 0x1000 }],
      Wit i (withQuad .i8 [] (atMat base)) (fun h => ((withQuad .i8 [] (atMat base)).acc h.tid).quad h.g.idx = some (List.replicate 4 (quarter .i8)) ∧
        (withQuad .i8 [] (atMat base)).quadWaiters h.tid (h.g.idx / 4) = [] ∧ (quarter .i8).ty ≠ immTy 0 11 8 ∧ matCombo (immTy 0 7 4) (immTy 0 11 8) = true) ∧
      Wit i (atMat base) (fun h => ((atMat base).acc h.tid).quad h.g.idx = none ∧ h.t.acc = 2 ∧ (atMat base).sideBusy h = false)) :=
  ⟨wit (by decide +kernel) (by decide +kernel), fun i hi => ⟨witAll (by decide +kernel) (by decide +kernel) i hi, witAll (by decide +kernel) (by decide +kernel) i hi⟩⟩

theorem witness_MatrixIssue :
    (∀ i ∈ [Instr.mma { mmw with c := .zr, imm := 2 }, .mloop { mmw with imm := 2 }], Wit i base fun h => h.t.acc ≤ 2) ∧
    (∀ i ∈ [Instr.mma { mmw with c := .zr, imm := 0x890 }, .mloop { mmw with imm := 0x890 }], Wit i base fun h => 0 < h.t.acc ∧ matCombo (immTy 0x890 7 4) (immTy 0x890 11 8) = false) ∧
    Wit (.mma { mmw with c := .zr, imm := 0x881 }) (atMat base) (fun h => 1 < h.t.acc ∧ matCombo (immTy 0x881 7 4) (immTy 0x881 11 8) = true ∧
      matOpnd (h.srcS (.s 0)) = (0, 32) ∧ matOpnd (h.srcS (.s 1)) = (1024, 32) ∧ fits4 (atMat base) 0 = true ∧ fits4 (atMat base) 1024 = true ∧ (atMat base).sideBusy h = false) ∧
    Wit (.mma { a := .s 0 }) (withQuad .n8 [] (atMat base)) (fun h => ((withQuad .n8 [] (atMat base)).acc h.tid).quad h.g.idx = some (List.replicate 4 (quarter .n8)) ∧
      (withQuad .n8 [] (atMat base)).quadWaiters h.tid 0 = [] ∧ ∀ x ∈ List.replicate 4 (quarter .n8), x.ty = immTy 0 11 8) ∧
    Wit (.mma { a := .s 0 }) (withQuad .n8 [0] (atMat base)) (fun h => ((withQuad .n8 [0] (atMat base)).quadWaiters h.tid (h.g.idx / 4)).head? = some h.fid) ∧
    Wit (.mma { a := .s 0 }) (atMat base) (fun h => ((atMat base).acc h.tid).quad h.g.idx = none) ∧
    Wit (.mloop { mmw with imm := 0x1881 }) (atMat base) (fun h => matOpnd (h.srcS (.s 0)) = (0, 32) ∧ (h.srcS (.s 2)).toNat = 0 ∧
      ({ off := 1024, str := 32, n := immF 0x1881 23 12 + 1 } : MatRange).firstBad h.t.fixedLen = none) ∧
    Wit (.mloopm { mmw with b := .zr, imm := 0x1000 }) (withQuad .n8 [] (atMat base)) (fun h => 0 + immF 0x1000 15 12 < h.t.acc ∧
      ({ off := 0, str := 32, n := immF 0x1000 15 12 + 1 } : MatRange).firstBad h.t.fixedLen = none) := by
  refine ⟨witAll (by decide +kernel) (by decide +kernel), witAll (by decide +kernel) (by decide +kernel), wit (by decide +kernel) (by decide +kernel),
    wit (by decide +kernel) (by decide +kernel), wit (by decide +kernel) (by decide +kernel), wit (by decide +kernel) (by decide +kernel),
    wit (by decide +kernel) (by decide +kernel), wit (by decide +kernel) (by decide +kernel)⟩

theorem witness_Accumulators :
    (∀ i ∈ [Instr.accnew { imm := 2 }, .accld { a := .s 0, imm := 0xA2 }, .accst { a := .s 0, imm := 0xAA2 }, .accrd { dst := .v 4, imm := 2 }, .accwr { a := .v 4, imm := 2 }],
      Wit i base fun h => h.t.acc ≤ 2) ∧
    Wit (.mqb { a := .v 2 }) base (fun h => h.t.ngroups < 4) ∧
    Wit (.mqb { a := .v 2, b := .v 4, imm := 0xD0 }) (base.modTeam 0 fun t => { t with ngroups := 4 }) (fun h => 4 * (h.g.idx / 4) + 4 ≤ h.t.ngroups) ∧
    Wit (.accnew {}) base (fun h => 0 < h.t.acc ∧ base.freeTile h = some 2) ∧
    Wit (.accnew {}) (base.modCore 0 fun c => { c with mops := [(0, { group := 0, team := 0, kind := .load 2 0 128 })] }) (fun h =>
      (base.modCore 0 fun c => { c with mops := [(0, { group := 0, team := 0, kind := .load 2 0 128 })] }).freeTile h = none) ∧
    Wit (.accld { a := .s 0, imm := 0xA1 }) (withRegs [] [(0, 128 * 2 ^ 32)] base) (fun h => 1 < h.t.acc ∧
      ({ off := 0, str := 128, width := 128 } : MatRange).firstBad h.t.fixedLen = none) ∧
    Wit (.accst { a := .s 0, imm := 0xA81 }) (withRegs [] [(0, 64 * 2 ^ 32)] base) (fun h =>
      ({ off := 0, str := 64, width := 32 * storeBytes (immTy 0xA81 7 4) } : MatRange).firstBad h.t.fixedLen = none) ∧
    Wit (.accrd { dst := .v 4, imm := 1 }) base (fun h => 1 < h.t.acc) ∧ Wit (.accwr { a := .v 4, imm := 1 }) base (fun h => 1 < h.t.acc) :=
  ⟨witAll (by decide +kernel) (by decide +kernel), wit (by decide +kernel) (by decide +kernel), wit (by decide +kernel) (by decide +kernel),
   wit (by decide +kernel) (by decide +kernel), wit (by decide +kernel) (by decide +kernel), wit (by decide +kernel) (by decide +kernel),
   wit (by decide +kernel) (by decide +kernel), wit (by decide +kernel) (by decide +kernel), wit (by decide +kernel) (by decide +kernel)⟩

/-- The group has closed batch 1, with an operation that has not completed. -/
def withBatch (ops : List Nat) (x : State) : State := x.modGroup 0 fun g => { g with batch := 1, batches := [(1, ops)] }

theorem witness_Batches :
    Wit (.mfence { dst := .s 1 }) (base.modGroup 0 fun g => { g with batch := 0xFFFFFFFF, openOps := [3] }) (fun h => h.g.batch = 0xFFFFFFFF ∧ h.g.openOps ≠ []) ∧
    Wit (.mbwait {}) base (fun _ => True) ∧
    Wit (.mbwait { imm := 2 }) (withBatch [3] base) (fun h => ((2 : W32) - h.g.batch).toNat = 1) ∧
    Wit (.mbwait { imm := 1 }) (withBatch [3] base) (fun h => ((1 : W32) - h.g.batch).toNat = 0 ∧ ∃ x ∈ h.g.batches, x.1 = 1) ∧
    Wit (.mbwait { imm := 1 }) (base.modGroup 0 fun g => { g with batch := 1 }) (fun h => ∀ x ∈ h.g.batches, x.1 ≠ 1) ∧
    (let s := (withBatch [] base).modFrag 0 fun f => { f with st := .parked (.batch 1) }
     s.groups.has 0 = true ∧ ((s.groups.get? 0).map fun g => g.batches.takeWhile fun b => b.2.isEmpty) = some [(1, [])]) :=
  ⟨wit (by decide +kernel) (by decide +kernel), wit (by decide +kernel) trivial, wit (by decide +kernel) (by decide +kernel),
   wit (by decide +kernel) ⟨by decide +kernel, (1, [3]), by decide +kernel, rfl⟩, wit (by decide +kernel) (by decide +kernel), by decide +kernel⟩

def mop (k : MKind) : MOp := { group := 0, team := 0, kind := k }
theorem witness_MatrixSteps :
    (∀ k ∈ [MKind.load 0 0 128, .read 0 9 3 2 false 3 0xFF, .steps .n8 .n8 [0, 1] 0 32 32 false 1024 32 0 [] 0 false 0 0 0 0 [] []],
      let s := base.modCore 0 fun c => { c with mops := [(3, mop k)] }
      (s.core 0).mops.get? 3 = some (mop k) ∧ (s.core 0).matReady team0 3 (mop k) = true ∧ ((mop k).needs.any fun r => ((mop k).view team0).scrBad r.1 r.2) = false) ∧
    (let s := (base.modCore 0 fun c => { c with mops := [(3, mop (.load 0 0 128))] }).modTeam 0 fun t => { t with scrPoison := [(0, true)] }
     (s.core 0).matReady { team0 with scrPoison := [(0, true)] } 3 (mop (.load 0 0 128)) = true ∧
     ((mop (.load 0 0 128)).needs.any fun r => ((mop (.load 0 0 128)).view { team0 with scrPoison := [(0, true)] }).scrBad r.1 r.2) = true) ∧
    (let i : ScrImage := { bytes := [(5, 7)], poison := [], absent := [(1, 2)] }
     { mop (.load 0 0 128) with image := some i }.image = some i ∧ Memory.wf i.bytes = true ∧ Memory.wf team0.scr = true ∧
     i.absent.has (5 / 128) = false ∧ i.absent.has (130 / 128) = true) ∧
    Acc.consumes { poison := [(48, true)] } (mop (.read 0 9 3 2 false 3 0xFF)) = true ∧
    (List.replicate 32 [MVal.int 1]).length = 32 := by decide +kernel

/-- A network of one layer: 16 inputs, 4 outputs of bf16 weights at 0x60000 (spec/14 R268). -/
def netD : Nat := 1 + at_bit 3 32 + at_bit 0x60000 128 + at_bit 192 192
def nevalW : EngW := { dst := .v 8, a := .v 2, b := .v 10, imm := 0x67 }
def tile0 (st : Nat) (fault : Option Nat) : PenTile :=
  { handle := 0x50000, ctx := 0, opener := 0, penwin := 3, opened := 0, ends := 5, rows := [{ neval := 5, lane := 0, inputs := List.replicate 8 0x3F80 }], st := st, fault := fault }
def slot0 (ready : Bool) : PenSlot := { handle := 0x50000, asid := 0, desc := BitVec.ofNat 512 netD, image := [], ready := ready, entries := [7, 8] }
def withPen (t : List (Nat × PenTile)) (p : List (Nat × PenSlot)) (x : State) : State :=
  withDesc netD (x.modCore 0 fun c => { c with penTiles := t, penSlots := p })
def withNeval (x : State) : State := x.modCore 0 fun c => { c with
  nevals := [(5, { group := 0, frag := 0, line := 0x40000, slot := 0, mask := 3, nin := 8, nout := 4, dst := 8, trap := false, pend := 0, left := 3 })] }

theorem witness_PenInstructions :
    Wit (.neval nevalW) (withSide 0x180000 base) (fun h => (withSide 0x180000 base).sideBusy h = true) ∧
    Wit (.neval { nevalW with g := 1 }) base (fun h => h.active 1 false = 0) ∧
    Wit (.neval nevalW) (atMem base) (fun h => h.active 0 false ≠ 0 ∧ ∀ l ∈ lanesOf (h.active 0 false), penBad (h.src64 (.v 2) 0 l) = (l == 1)) ∧
    Wit (.neval nevalW) (withRegs (lanes 2 [0x50000, 0x50000]) [] base) (fun h => ∀ l ∈ lanesOf (h.active 0 false), penBad (h.src64 (.v 2) 0 l) = false) ∧
    Wit (.neval nevalW) (withRegs (lanes 2 [1, 2]) [] base) (fun h => (∀ l ∈ lanesOf (h.active 0 false), penBad (h.src64 (.v 2) 0 l) = true) ∧ nevalW.imm.getLsbD 9 = false) ∧
    (∀ x ∈ base.frags, ∀ n, x.2.st ≠ .parked (.nstat n)) ∧
    Wit (.nhldPre { a := .s 0 }) base (fun h => penBad (h.srcS (.s 0)).toNat = false) ∧
    Wit (.nhldPre { a := .s 0 }) (withRegs [] [(0, 1)] base) (fun h => penBad (h.srcS (.s 0)).toNat = true) ∧
    Wit (.nhldPre { a := .s 0 }) (withPen [] [] base) (fun h => penBad (h.srcS (.s 0)).toNat = false ∧
      ((withPen [] [] base).core h.core).penHolder 0x50000 h.cx.asid = none ∧ (withPen [] [] base).penVictim ((withPen [] [] base).core h.core) ≠ none) ∧
    (∀ r ∈ [true, false], Wit (.nhldDrop { a := .s 0 }) (withPen [] [(0, slot0 r)] base) fun h =>
      ((withPen [] [(0, slot0 r)] base).core h.core).penHolder 0x50000 h.cx.asid = some 0) ∧
    Wit (.nstat { dst := .k 3, imm := 1 }) base (fun h => base.penDone h.core h.gid (base.core h.core).nextId = true) ∧
    Wit (.nstat { dst := .k 3 }) ((withNeval base).modCore 0 fun c => { c with nextId := 6 }) (fun h => ((withNeval base).penDone h.core h.gid 6) = false) := by
  refine ⟨wit (by decide +kernel) (by decide +kernel), wit (by decide +kernel) (by decide +kernel), wit (by decide +kernel) (by decide +kernel),
    wit (by decide +kernel) (by decide +kernel), wit (by decide +kernel) (by decide +kernel), ?_, wit (by decide +kernel) (by decide +kernel), wit (by decide +kernel) (by decide +kernel),
    wit (by decide +kernel) (by decide +kernel), ?_, wit (by decide +kernel) (by decide +kernel), wit (by decide +kernel) (by decide +kernel)⟩
  · intro x hx n
    simp only [base, List.mem_cons, List.not_mem_nil, or_false] at hx
    subst hx
    simp [frag0]
  · intro r hr
    simp only [List.mem_cons, List.not_mem_nil, or_false] at hr
    obtain rfl | rfl := hr <;> exact wit (by decide +kernel) (by decide +kernel)

theorem witness_PenEvents :
    (let s := withPen [(0, tile0 0 none)] [(0, slot0 true)] base
     (s.core 0).penTiles.get? 0 = some (tile0 0 none) ∧ (s.core 0).penHolder 0x50000 0 = some 0) ∧
    ((withPen [(0, tile0 0 none)] [] base).core 0).penHolder 0x50000 0 = none ∧
    (let s := withPen [(0, tile0 1 none)] [] base
     s.penVictim (s.core 0) = some 0 ∧ (match s.penRead 0 cx0 0x50000 64 with | .ok d => d == netD | .error _ => false) = true ∧
       s.penPoison 0 cx0 0x50000 64 = none ∧ (s.penTake 0 cx0 0x50000 64).1 = netD ∧ (penNet (BitVec.ofNat 512 netD)).isSome = true ∧ 2 ≤ (s.core 0).haspFree.length) ∧
    penNet (BitVec.ofNat 512 (netD + at_bit 1 11)) = none ∧
    (let s := withPen [(0, tile0 2 none)] [(0, slot0 false)] base
     (s.core 0).penSlots.get? 0 = some (slot0 false) ∧ (penNet (slot0 false).desc).map (fun n => (n.waddr, n.wbytes)) = some (0x60000, 192) ∧
       (match s.penRead 0 cx0 0x60000 192 with | .ok _ => true | .error _ => false) = true ∧ s.penPoison 0 cx0 0x60000 192 = none ∧
       ((s.haspDrop 0 [7, 8]).penTake 0 cx0 0x60000 192).1 = s.vload 0 cx0 0x60000 192) ∧
    (let s := withNeval (withPen [(0, tile0 2 none)] [(0, slot0 true)] base)
     (s.core 0).nevals.has 5 = true ∧ (penNet (slot0 true).desc).map (fun n => (n.inw, (n.layers.getLast?.map PenLayer.outw).getD 0)) = some (16, 4) ∧
       (3 : W32) &&& ~~~(BitVec.ofNat 32 (2 ^ 0)) ≠ 0) ∧
    (let s := (withNeval (withPen [(0, tile0 2 none)] [(0, slot0 true)] base)).modCore 0 fun c => { c with
       nevals := c.nevals.mapV fun _ e => { e with nout := 6 } }
     (s.core 0).nevals.has 5 = true ∧ ((s.core 0).nevals.get? 5).map (fun e => (2 * e.nin, e.nout)) = some (16, 6)) ∧
    (let s := withPen [(0, tile0 0 none), (1, { tile0 0 none with ends := 9 }), (2, { tile0 0 none with ends := 4 })] [] base
     max (tile0 0 none).ends (s.core 0).clock.toNat = 5 ∧ ((s.core 0).penTiles.map fun e => (e.1, e.2.st, e.2.ends)) = [(0, 0, 5), (1, 0, 9), (2, 0, 4)]) ∧
    ((withPen [(0, tile0 2 (some 1))] [] base).core 0).penTiles.get? 0 = some (tile0 2 (some 1)) ∧
    (let t := { tile0 2 none with rows := [{ neval := 5, lane := 0, inputs := [], bad := true }] }
     let s := withNeval (withPen [(0, t)] [(0, slot0 true)] base)
     (s.core 0).penTiles.get? 0 = some t ∧ (s.core 0).nevals.has 5 = true ∧ (s.hereOf 0).map (·.gid) = some 0) := by decide +kernel

/-! ## Encoding, steps and the memory invariant: what meets the hypotheses -/

theorem witness_DecodeOfEncode : WellFormed (.iadd { dst := .v 1, a := .v 1, b := .v 2, ty := .i32 }) := test_wf_plain
theorem witness_EncodeOfDecode : means 0x23000140_200C0280_A0000000 (.ffma { dst := .v 5, a := .v 4, b := .v 6, c := .v 5, ty := .f32 }) = true := by
  decide +kernel
theorem witness_WordsDecode :
    (let f : Fields := { (fieldsOf .nop) with op := 0x02 }
     f.op ≠ 0xFF ∧ f.op ≠ 0 ∧ majorAssigned f.op.toNat = true ∧ formatOk f.op.toNat f.fmt.toNat = true) ∧
    (let f : Fields := { (fieldsOf .nop) with op := 0x81 }
     f.fmt.toNat < 6 ∧ majorAssigned f.op.toNat = true ∧ formatOk f.op.toNat f.fmt.toNat = false) ∧
    6 ≤ ({ (fieldsOf .nop) with fmt := 6 } : Fields).fmt.toNat ∧ majorAssigned 0xFE = false := by decide +kernel

/-- The fragment issues at a NOP inside its line, or is Ready for the line at 0x40000, which holds zeros. -/
def readyS : State := base.modFrag 0 fun f => { f with st := .ready }
theorem witness_StepRunsDecoded :
    ((base.issuing 0).hereOf 0).isSome = true ∧ here0.cx.brks = [] ∧ (match slotDecode here0.f.buf 0 with | .ok i => i == .nop | .error _ => false) = true ∧
    (∀ e ∈ [(base, FragSt.issuing), (readyS, .ready)], e.1.upsets = [] ∧ e.1.agenda = [] ∧ e.1.mwaitDue = none ∧ e.1.units = false ∧ e.1.pick false = some 0 ∧
      ((e.1.turned.hereOf 0).map fun h => h.f.st) = some e.2) ∧
    (let u := readyS.touch 0 cx0 0x40000 false
     inAperture 0x40000 = false ∧ readyS.xl 0 cx0 0x40000 .fetch = .ok 0x40000 0 ∧ u.xl 0 cx0 0x40000 .fetch = .ok 0x40000 0 ∧ u.poisoned 0 0x40000 64 = false ∧
     BitVec.ofNat 512 (u.physRead 0 0x40000 64) = 0 ∧ parityOf 0 = lineWord 0 % 256 ∧ frag0.checkTm = false ∧ lineCheck 0 = none ∧
     ((lineRegs 0 group0 3 0).any (group0.outside frag0)) = false) := by decide +kernel

theorem witness_StepKeepsMemory : base.MemOk ∧ (match step base with | .next _ => true | _ => false) = true := by
  refine ⟨?_, by decide +kernel⟩
  unfold State.MemOk
  decide +kernel

/-! ## Folds (spec/19): what meets the hypotheses -/

/-- Four vertices at 0x44000: a light and an eye root, and a light and an eye vertex of depth 1 behind them; F is 1. -/
def fvert (x : Nat) (parent depth kind : Nat) : Nat :=
  x + 2 ^ (32 * 7) * 0x3F800000 + 2 ^ (32 * 12) * parent + 2 ^ (32 * 14) * (65536 * depth + 2 ^ 24 * kind)
def fold0 : Fold :=
  { ctx := 0, beta := false, arena := 0x44000, cap := 32, open_ := true, gens := [{ num := 3, base := 0, pins := 1 }], gen := 3
    hwm := 4, next := 4, nl := 4, ne := 4, radius := 0x3F800000, cseq := 6 }
def withFold (f : Fold) (x : State) : State :=
  withRegs (lanes 16 [3, 3] ++ lanes 17 [2, 2] ++ lanes 18 [0x3F800000, 0x3F800000] ++ lanes 27 [0xFFFFFFFF, 0xFFFFFFFF]) [] <|
  withMem [(0x44000, 64, fvert 0x3F800000 0xFFFFFFFF 0 1), (0x44040, 64, fvert 0x40000000 0xFFFFFFFF 0 0), (0x44080, 64, fvert 0x40400000 0 1 1),
    (0x440C0, 64, fvert 0x40800000 1 1 0)] (withObj (some { kind := .fold }) { x with folds := [(0, f)] })
def foldS : State := withFold fold0 base
def fw : EngW := { dst := .v 8, a := .s 0, b := .v 16 }
def vgw : EngW := { dst := .c 1, a := .s 0, b := .s 5, c := .s 6 }
def okRows (x : Except FoldErr (List (Nat × Except Nat (List Nat)) × State)) : Bool :=
  match x with
  | .ok (rs, _) => !rs.isEmpty && rs.all fun e => match e.2 with | .ok _ => true | .error _ => false
  | .error _ => false
theorem fold_runs {i : Instr} {w : EngW} {s : State} {p : Here → Prop} (hr : runsB i s = true)
    (ha : s.foldTrap ((hereD s).issued.active w.g w.gn) ((hereD s).issued.srcS w.a).toNat = none ∧
      ((s.objs.get? (objKey ((hereD s).issued.srcS w.a).toNat)).map Obj.poisoned).getD false = false ∧
      s.foldQueued (hereD s).issued (objKey ((hereD s).issued.srcS w.a).toNat) = false) (hp : p (hereD s)) :
    ∃ h, FoldRuns i h s w ∧ p h := ⟨hereD s, ⟨runs_of_runsB hr, ha.1, ha.2.1, ha.2.2⟩, hp⟩

/-- Another fragment of the group has an operation that waits on the Fold. -/
def withHeld (x : State) : State := (withSib 4 [] x).modFrag 1 fun f => { f with held := some { key := 0, v := [], s := [], k := [], latches := [] } }
/-- The Fold's arena lies on a page that is not mapped. -/
def foldHole : State := withFold { fold0 with arena := 0x180000 } base
/-- The record that its lanes name is poisoned. -/
def foldBad : State := withPoison [0x440C0] foldS

theorem witness_FoldLanes :
    (∀ i ∈ [Instr.vapp fw, .vconn fw, .vmerge fw, .vld fw, .vrwgt fw],
      (∃ h, FoldRuns i h foldS fw ∧ foldS.sideBusy h = false ∧ h.active 0 false ≠ 0 ∧ foldS.folds.has (objKey (h.srcS fw.a).toNat) = true) ∧
      (∃ h, FoldRuns i h { foldS with folds := [] } fw ∧ State.sideBusy { foldS with folds := [] } h = false ∧
        State.foldAt { foldS with folds := [] } 0 = { ctx := 0, beta := false, arena := 0, cap := 1 }) ∧
      Wit i (withRegs [] [(0, obj0 + 2)] foldS) (fun h => ((withRegs [] [(0, obj0 + 2)] foldS).foldTrap (h.issued.active 0 false) (obj0 + 2)).isSome = true) ∧
      Wit i (withSide 0x180000 foldS) (fun h => (withSide 0x180000 foldS).sideBusy h = true ∧ (withSide 0x180000 foldS).foldTrap (h.issued.active 0 false) obj0 = none) ∧
      Wit i (withHeld foldS) fun h => (withHeld foldS).foldQueued h.issued 0 = true ∧ (withHeld foldS).foldTrap (h.issued.active 0 false) obj0 = none) ∧
    (∀ i ∈ [Instr.vapp { fw with g := 1 }, .vconn { fw with g := 1 }, .vpinPin { fw with g := 1, dst := .zr }], Wit i foldS fun h => h.issued.active 1 false = 0) ∧
    (match foldLanesGo (vldLane fw (hereD foldHole) 0) true (lanesOf ((hereD foldHole).active 0 false)) foldHole with
      | .error (.unmapped _) => true | _ => false) = true ∧ (∃ h, FoldRuns (.vld fw) h foldHole fw ∧ foldHole.folds.has 0 = true) ∧
    (match foldLanesGo (vldLane fw (hereD foldBad) 0) true (lanesOf ((hereD foldBad).active 0 false)) foldBad with
      | .error (.poison _) => true | _ => false) = true ∧ (∃ h, FoldRuns (.vld fw) h foldBad fw ∧ foldBad.folds.has 0 = true) ∧
    (∀ i ∈ [Instr.vpinPin { fw with dst := .zr }, .vpinUnpin { fw with dst := .zr }],
      ∃ h, FoldRuns i h foldS { fw with dst := .zr } ∧ foldS.sideBusy h = false ∧ h.active 0 false ≠ 0) ∧
    (∀ x ∈ [vappLane fw (hereD foldS) 0, weightLane fw 0 false (hereD foldS) 0, weightLane fw 2 true (hereD foldS) 0, vldLane fw (hereD foldS) 0,
        vpinLane fw false (hereD foldS) 0, weightLane fw (immF fw.imm 1 0) false (hereD foldS) 0],
      okRows (foldLanesGo x true (lanesOf ((hereD foldS).active 0 false)) foldS) = true) ∧
    okRows (foldLanesGo (vpinLane fw true (hereD foldS) 0) true [0] foldS) = true := by
  refine ⟨?_, witAll (by decide +kernel) (by decide +kernel), by decide +kernel, fold_runs (by decide +kernel) (by decide +kernel) (by decide +kernel),
    by decide +kernel, fold_runs (by decide +kernel) (by decide +kernel) (by decide +kernel), ?_, by decide +kernel, by decide +kernel⟩
  · intro i hi
    have h1 : ∀ i ∈ [Instr.vapp fw, .vconn fw, .vmerge fw, .vld fw, .vrwgt fw], runsB i foldS = true ∧ runsB i { foldS with folds := [] } = true := by decide +kernel
    obtain ⟨a, b⟩ := h1 i hi
    exact ⟨fold_runs a (by decide +kernel) (by decide +kernel), fold_runs b (by decide +kernel) (by decide +kernel),
      witAll (by decide +kernel) (by decide +kernel) i hi, witAll (by decide +kernel) (by decide +kernel) i hi, witAll (by decide +kernel) (by decide +kernel) i hi⟩
  · intro i hi
    have h1 : ∀ i ∈ [Instr.vpinPin { fw with dst := .zr }, .vpinUnpin { fw with dst := .zr }], runsB i foldS = true := by decide +kernel
    exact fold_runs (h1 i hi) (by decide +kernel) (by decide +kernel)

/-- The lanes' own clauses: a closed Fold, an append of a root, a connection, a field, and a generation's pins at both ends. -/
theorem witness_FoldLane :
    { fold0 with open_ := false }.open_ = false ∧
    (let h := hereD foldS
     fold0.open_ = true ∧ fold0.next - fold0.base0 ≠ fold0.cap ∧ fold0.next ≠ 0xFFFFFFFF ∧ h.blk fw.b 11 0 = 0xFFFFFFFF ∧
     (match foldS.foldWrite 0 fold0 4 (foldRecord fold0 (fun i => h.blk fw.b i 0) (fw.imm.getLsbD 0) (fw.imm.getLsbD 1) none none) with
      | .ok _ => true | .error _ => false) = true ∧
     (match foldS.foldOperands 0 fold0 0 (h.blk fw.b 0 0) (h.blk fw.b 1 0) with | .ok (_, y, _, _, _) => y.isSome | .error _ => false) = true ∧
     immF fw.imm 3 0 = 0 ∧ fold0.check (h.blk fw.b 0 0) = none ∧ (match foldS.foldRead 0 fold0 (h.blk fw.b 0 0) with | .ok _ => true | .error _ => false) = true ∧
     fold0.genAt (h.blk fw.b 0 0) = 0 ∧ ∀ n ∈ [0, 1, 65535], { fold0 with gens := [{ num := 3, base := 0, pins := n }] }.check (h.blk fw.b 0 0) = none) := by decide +kernel

/-- A Fold at rest; and one with a closed generation. -/
def foldC : Fold := { fold0 with open_ := false, gens := [{ num := 3, base := 0, closed := true }] }
def withRadius (r : Nat) (x : State) : State := withRegs [] [(5, 0), (6, r)] x
/-- Four Folds of the context; and 32 Folds. -/
def manyFolds (n : Nat) (x : State) : State := { x with folds := (List.range n).map fun k => (k + 5, foldC) }

theorem witness_FoldGenerations :
    (∀ i ∈ [Instr.vgenOpen vgw, .vgenClose vgw, .vgenOpenInit { vgw with imm := 1 }, .vgenCloseFree { vgw with imm := 1 }],
      Wit i (withRegs [] [(0, obj0 + 2)] foldS) (fun h => ((withRegs [] [(0, obj0 + 2)] foldS).foldTrap h.f.mask (obj0 + 2)).isSome = true) ∧
      Wit i (withHeld foldS) fun h => (withHeld foldS).foldQueued h.issued 0 = true ∧ (withHeld foldS).foldTrap h.f.mask obj0 = none) ∧
    (∀ i ∈ [Instr.vgenOpen vgw, .vgenClose vgw, .vgenCloseFree vgw], ∃ h, FoldRuns i h { foldS with folds := [] } vgw ∧ h.gid = 0) ∧
    (∀ i ∈ [Instr.vgenOpen vgw, .vgenClose vgw], ∀ f ∈ [fold0, foldC, { foldC with gens := List.replicate 4 { num := 3, base := 0 } }],
      ∀ r ∈ [0x3F800000, 0x7F800000], ∃ h, FoldRuns i h (withRadius r (withFold f base)) vgw ∧ badRadius ((h.srcS vgw.c).toNat % 2 ^ 32) = (r == 0x7F800000)) ∧
    (∀ f ∈ [fold0, foldC, { foldC with gens := [{ num := 3, base := 0, pins := 1 }] }],
      ∃ h, FoldRuns (.vgenCloseFree vgw) h (withFold f base) vgw ∧ (withFold f base).folds.get? 0 = some f) ∧
    (∃ h, FoldRuns (.vgenOpenInit vgw) h foldS vgw ∧ foldS.objs.has 0 = true ∧ h.gid = 0) ∧
    (∃ h, FoldRuns (.vgenOpenInit vgw) h (withObj none base) vgw ∧ (h.srcS vgw.c).toNat % 2 ^ 32 < 32 ∧ ((withObj none base).foldsOf h.t.ctx).length < 4) ∧
    (∃ h, FoldRuns (.vgenOpenInit vgw) h (withObj none (manyFolds 4 base)) vgw ∧ 4 ≤ ((withObj none (manyFolds 4 base)).foldsOf h.t.ctx).length) ∧
    (let s := withRegs [] [(5, 0x44000), (6, 32)] (withObj none base)
     ∃ h, FoldRuns (.vgenOpenInit vgw) h s vgw ∧ s.objs.has 0 = false ∧ (s.foldsOf h.t.ctx).length < 4 ∧ (h.srcS vgw.b).toNat % 128 = 0 ∧
       s.arenaOutside h.core h.cx (h.srcS vgw.b).toNat (64 * 32) = false ∧ ∀ c ∈ s.coresOf h.t.ctx, s.arenasWith c h.t.ctx < 32) ∧
    (let s := withRegs [] [(5, 0x44000), (6, 32)] (withObj none { base with
       teams := (1, { team0 with ctx := 1 }) :: base.teams, folds := (List.range 32).map fun k => (k + 5, { foldC with ctx := 1 }) })
     ∃ h, FoldRuns (.vgenOpenInit vgw) h s vgw ∧ (s.foldsOf h.t.ctx).length < 4 ∧ s.arenaOutside h.core h.cx (h.srcS vgw.b).toNat (64 * 32) = false ∧
       ∃ c ∈ s.coresOf h.t.ctx, 32 ≤ s.arenasWith c h.t.ctx) := by
  refine ⟨fun i hi => ⟨witAll (by decide +kernel) (by decide +kernel) i hi, witAll (by decide +kernel) (by decide +kernel) i hi⟩, ?_, ?_, ?_, fold_runs (by decide +kernel) (by decide +kernel) (by decide +kernel),
    fold_runs (by decide +kernel) (by decide +kernel) (by decide +kernel),
    fold_runs (by decide +kernel) (by decide +kernel) (by decide +kernel),
    fold_runs (by decide +kernel) (by decide +kernel) (by decide +kernel),
    fold_runs (by decide +kernel) (by decide +kernel) (by decide +kernel)⟩
  · intro i hi
    have h1 : ∀ i ∈ [Instr.vgenOpen vgw, .vgenClose vgw, .vgenCloseFree vgw], runsB i { foldS with folds := [] } = true := by decide +kernel
    exact fold_runs (h1 i hi) (by decide +kernel) (by decide +kernel)
  · intro i hi f hf r hr
    have h1 : ∀ i ∈ [Instr.vgenOpen vgw, .vgenClose vgw], ∀ f ∈ [fold0, foldC, { foldC with gens := List.replicate 4 { num := 3, base := 0 } }],
        ∀ r ∈ [0x3F800000, 0x7F800000], let s := withRadius r (withFold f base)
          runsB i s = true ∧ (s.foldTrap ((hereD s).issued.active vgw.g vgw.gn) ((hereD s).issued.srcS vgw.a).toNat = none ∧
          ((s.objs.get? (objKey ((hereD s).issued.srcS vgw.a).toNat)).map Obj.poisoned).getD false = false ∧
          s.foldQueued (hereD s).issued (objKey ((hereD s).issued.srcS vgw.a).toNat) = false) ∧
          badRadius (((hereD s).srcS vgw.c).toNat % 2 ^ 32) = (r == 0x7F800000) := by decide +kernel
    obtain ⟨a, b, c⟩ := h1 i hi f hf r hr
    exact fold_runs a b c
  · intro f hf
    have h1 : ∀ f ∈ [fold0, foldC, { foldC with gens := [{ num := 3, base := 0, pins := 1 }] }], let s := withFold f base
        runsB (.vgenCloseFree vgw) s = true ∧ (s.foldTrap ((hereD s).issued.active vgw.g vgw.gn) ((hereD s).issued.srcS vgw.a).toNat = none ∧
        ((s.objs.get? (objKey ((hereD s).issued.srcS vgw.a).toNat)).map Obj.poisoned).getD false = false ∧
        s.foldQueued (hereD s).issued (objKey ((hereD s).issued.srcS vgw.a).toNat) = false) ∧ s.folds.get? 0 = some f := by decide +kernel
    obtain ⟨a, b, c⟩ := h1 f hf
    exact fold_runs a b c

/-- Two fragments that wait in a VGEN.open.init, one with a flag destination. -/
def foldWait (dst : Opnd) (x : State) : State := x.modFrag 0 fun f => { f with
  st := .parked .foldInit, buf := BitVec.ofNat 512 (encode (.vgenOpenInit { vgw with dst := dst, imm := 1 })).toNat }
theorem witness_FoldInitWaits :
    (∀ d ∈ [Opnd.c 1, .zr],
      ((foldWait d base).parkedAt 0).map (fun i => match i with | .vgenOpenInit w => w.dst == d | _ => false) = some true ∧
      (foldWait d base).foldInitReady 0 = true ∧
      (foldWait d { base with folds := (List.range 32).map fun k => (k + 5, foldC) }).foldInitReady 0 = false) ∧
    retireGens [{ num := 1, base := 0, closed := true }, { num := 2, base := 1, closed := true }, { num := 3, base := 2, closed := true }] =
      [{ num := 2, base := 1, closed := true }, { num := 3, base := 2, closed := true }] := by decide +kernel

/-! ## The traversal unit (spec/16, spec/17): what meets the hypotheses -/

def frameZ : RFrame := { o := [0x3E800000, 0x3E800000, 0xC0000000], d := [0, 0, 0x3F800000] }
def ray0 : Ray := { query := false, group := 0, lane := 0, cmd := 1, root := 0x40000, tmax := 0x7F800000, frame := frameZ }
def withRays (l : List (Nat × Ray)) (x : State) : State := (x.modTeam 0 fun t => { t with tspl := true }).modCore 0 fun c => { c with
  rays := l, travCmds := [(1, { group := 0, frag := 0, line := 0x40000, slot := 0, mask := 3, dst := 8, pend := 9, left := 3 })] }
def fullRays (n : Nat) : List (Nat × Ray) := (List.range n).map fun k => (k, { ray0 with group := 9 })
def traceW : EngW := { dst := .v 8, a := .v 16, b := .s 8, imm := 0x4FF }
def tqryW : EngW := { a := .v 16, b := .s 8 }
/-- Every slot of the unit is another group's, and lane 0 has a spilled ray and a spilled query. -/
def manySpilled (q : Bool) (x : State) : State := { withRays (fullRays 256) x with spilled := [(0, { ray0 with query := q })] }
def roomB (s : State) (h : Here) : Bool :=
  decide ((((s.abandon h.gid (h.active 0 false)).core h.core).rays.length + (lanesOf (h.active 0 false)).length) ≤ 256)

theorem witness_Traversal :
    (∀ i ∈ [Instr.trace { traceW with g := 1 }, .tqry { tqryW with g := 1 }], Wit i base fun h => h.active 1 false = 0) ∧
    (∀ i ∈ [Instr.trace traceW, .tqry tqryW],
      Wit i base (fun h => h.active 0 false ≠ 0 ∧ h.t.tspl = false) ∧
      Wit i (withRays [] (withSide 0x180000 base)) (fun h => h.t.tspl = true ∧ (withRays [] (withSide 0x180000 base)).sideBusy h = true) ∧
      Wit i (withRays [(0, ray0)] base) (fun h => h.t.tspl = true ∧ (withRays [(0, ray0)] base).sideBusy h = false ∧ roomB (withRays [(0, ray0)] base) h = true) ∧
      Wit i (withRays (fullRays 255) base) fun h => (withRays (fullRays 255) base).sideBusy h = false ∧ roomB (withRays (fullRays 255) base) h = false) ∧
    (∀ i ∈ [Instr.trresAccept { dst := .v 8, g := 1 }, .trresReject { dst := .v 8, g := 1 }, .trresCommit { dst := .v 8, g := 1, a := .v 16 },
        .tqnext { dst := .v 8, g := 1 }], Wit i base fun h => h.active 1 false = 0) ∧
    (let hit : RHit := { t := .fin 3, u := 1 / 4, v := 1 / 8, prim := 7 }
     let s := withMask 1 (withRays [(0, { ray0 with phase := 1, cand := some hit })] base)
     hit.kind ≠ 2 ∧ (s.core 0).rayOf 0 0 = some (0, { ray0 with phase := 1, cand := some hit }) ∧
     ∀ i ∈ [Instr.trresAccept { dst := .v 8 }, .trresReject { dst := .v 8 }, .trresCommit { dst := .v 8, a := .v 16 }], Wit i s fun h =>
       h.active 0 false = BitVec.ofNat 32 (2 ^ 0) ∧ s.sideBusy h = false ∧ s.spilled.get? (32 * h.gid + 0) = none ∧
       (s.core h.core).rays.length + (s.reloads h false (lanesOf (h.active 0 false))).length ≤ 256) ∧
    (let r := { ray0 with query := true }
     let s := withMask 1 (withRays [(0, r)] base)
     (s.core 0).rayOf 0 0 = some (0, r) ∧ Wit (.tqnext { dst := .v 8, imm := 1 }) s fun h =>
       h.active 0 false = BitVec.ofNat 32 (2 ^ 0) ∧ s.sideBusy h = false ∧ s.spilled.get? (32 * h.gid + 0) = none ∧
       (s.core h.core).rays.length + (s.reloads h true (lanesOf (h.active 0 false))).length ≤ 256) ∧
    (∀ n ∈ [(0 : BitVec 32), 8], Wit (.trstat { dst := .s 8, imm := n }) base fun _ => immF n 7 0 = n.toNat) ∧
    Wit (.trstat { dst := .v 8, imm := 8 }) base (fun _ => immF (8 : BitVec 32) 7 0 = 8) := by
  refine ⟨witAll (by decide +kernel) (by decide +kernel), ?_, witAll (by decide +kernel) (by decide +kernel),
    ⟨by decide +kernel, by decide +kernel, witAll (by decide +kernel) (by decide +kernel)⟩,
    ⟨by decide +kernel, wit (by decide +kernel) (by decide +kernel)⟩, ?_, wit (by decide +kernel) (by decide +kernel)⟩
  · intro i hi
    exact ⟨witAll (by decide +kernel) (by decide +kernel) i hi, witAll (by decide +kernel) (by decide +kernel) i hi,
      witAll (by decide +kernel) (by decide +kernel) i hi, witAll (by decide +kernel) (by decide +kernel) i hi⟩
  · intro n hn
    simp only [List.mem_cons, List.not_mem_nil, or_false] at hn
    obtain rfl | rfl := hn <;> exact wit (by decide +kernel) (by decide +kernel)

/-- Lane 0 has a spilled ray or query, whose record lies at 0x44000, poisoned or not. -/
def spilledS (q bad : Bool) : State :=
  let s := (withRays [] base).modGroup 0 fun g => { g with spillVA := 0x44000 }
  { s with spilled := [(0, { ray0 with query := q })], poison := if bad then [(0x44000 / 8, true)] else [] }
theorem witness_Traversal_reloads :
    ∀ e ∈ [(Instr.trresAccept { dst := .v 8 }, false), (.trresReject { dst := .v 8 }, false), (.trresCommit { dst := .v 8, a := .v 16 }, false),
        (.tqnext { dst := .v 8 }, true)], ∀ bad ∈ [true, false], let s := spilledS e.2 bad
      runsB e.1 s = true ∧ s.sideBusy (hereD s) = false ∧ (s.core 0).rays.length + (s.reloads (hereD s) e.2 [0, 1]).length ≤ 256 ∧
      (s.reloads (hereD s) e.2 [0, 1]).any (fun l => s.vPoison 0 cx0 (0x44000 + 256 * l) 256 .read) = bad ∧
      s.reloads (hereD s) e.2 (lanesOf ((hereD s).active 0 false)) = [0] := by decide +kernel

theorem witness_Traversal_waits :
    (∀ e ∈ [(Instr.trresAccept { dst := .v 8 }, false), (.trresReject { dst := .v 8 }, false), (.trresCommit { dst := .v 8, a := .v 16 }, false),
        (.tqnext { dst := .v 8 }, true)],
      Wit e.1 (withSide 0x180000 base) (fun h => h.active 0 false ≠ 0 ∧ (withSide 0x180000 base).sideBusy h = true) ∧
      Wit e.1 (manySpilled e.2 base) fun h => h.active 0 false ≠ 0 ∧ (manySpilled e.2 base).sideBusy h = false ∧
        256 < ((manySpilled e.2 base).core h.core).rays.length + ((manySpilled e.2 base).reloads h e.2 (lanesOf (h.active 0 false))).length) ∧
    (let c : RHit := { t := .fin 1, kind := 2 }
     { ray0 with phase := 1, cand := some c }.cand = some c ∧ (f32XR 0x40400000).isSome = true) := by
  refine ⟨?_, by decide +kernel⟩
  intro e he
  have h1 : ∀ e ∈ [(Instr.trresAccept { dst := .v 8 }, false), (.trresReject { dst := .v 8 }, false), (.trresCommit { dst := .v 8, a := .v 16 }, false),
      (.tqnext { dst := .v 8 }, true)], let s := manySpilled e.2 base
      runsB e.1 (withSide 0x180000 base) = true ∧ runsB e.1 s = true ∧ (hereD s).active 0 false ≠ 0 ∧ s.sideBusy (hereD s) = false ∧
        256 < (s.core (hereD s).core).rays.length + (s.reloads (hereD s) e.2 (lanesOf ((hereD s).active 0 false))).length := by decide +kernel
  obtain ⟨a, b, c⟩ := h1 e he
  exact ⟨wit a (by decide +kernel), wit b c⟩

/-- A box node at 0x40000 whose cells are 1 wide and which has no child. -/
def nodeZ (x : State) : State := withMem [(0x40000 + 12, 4, 0x7F7F7F)] x
def item0 : RItem := { kind := 1, addr := 0x40000, frame := frameZ }
/-- The ray of a state walks. -/
def walksIn (r : Ray) : Bool :=
  let s := withRays [(0, r)] base
  (s.core 0).rays.get? 0 == some r && (s.groups.get? r.group).isSome && r.walks
/-- The ray's fetch at 0x40000. -/
def fetched (s : State) (a : Nat) : RFetch := s.rayFetch 0 cx0 a 128
def pendT : Pend := { frag := 0, regs := [.v 8], ready := false }
def delivers (r : Ray) : Bool :=
  let s := (withRays [(0, r)] base).modGroup 0 fun g => { g with pend := [(9, pendT)] }
  (s.core 0).rays.get? 0 == some r && r.waiting.isEmpty && ((s.core 0).travCmds.get? r.cmd).isSome && ((s.groups.get? 0).bind fun g => g.pend.get? 9) == some pendT

theorem witness_RayEvents :
    (walksIn { ray0 with root := 0x40010 } = true ∧ { ray0 with root := 0x40010 }.inputs = some (1, 0x40010)) ∧
    (walksIn ray0 = true ∧ ray0.inputs = none) ∧
    walksIn { ray0 with started := true } = true ∧ walksIn { ray0 with started := true, query := true } = true ∧
    walksIn { ray0 with started := true, cur := some item0 } = true ∧ walksIn { ray0 with started := true, cur := some { item0 with level := 21 } } = true ∧
    (walksIn { ray0 with started := true, stack := [item0], live := 0 } = true ∧ walksIn { ray0 with started := true, redo := [0x40000] } = true) ∧
    ((match fetched (nodeZ base) 0x40000 with | .ok x _ => (nodeFields x).isSome | _ => false) = true ∧
     (match fetched (withMem [(0x40000, 64, 2 ^ 512 - 1)] base) 0x40000 with | .ok x _ => (nodeFields x).isNone | _ => false) = true ∧
     (match fetched base 0x180000 with | .unmapped _ => true | _ => false) = true ∧ (match fetched base 0x100000 with | .noread _ => true | _ => false) = true) ∧
    ({ ray0 with phase := 1 }.phase ≠ 0 ∧ { ray0 with started := true, parked := some 0x180000 }.parked = some 0x180000) ∧
    (let hit : RHit := { t := .fin 3 }
     delivers { ray0 with out := some .hit, best := some hit } = true ∧ delivers { ray0 with out := some .miss } = true ∧
     delivers { ray0 with out := some (.error 3 0x40000) } = true ∧ delivers { ray0 with out := some (.shader hit) } = true) ∧
    (let q := { ray0 with query := true, waiting := [{ cmd := 1, n := 1 }] }
     { q with ended := true }.canServe = true ∧ { q with results := [{ dist := 1, order := 0, key := 5, payload := 6 }] }.canServe = true ∧
     { q with ended := true }.results.length ≤ 1) ∧
    (triHit [1 / 4, 1 / 4, -2] [0, 0, 1] [0, 0, 0] [1, 0, 0] [0, 1, 0]).isSome = true := by decide +kernel

/-! ## Texture and tiles (spec/21): what meets the hypotheses -/

/-- A texture of 4 by 4 texels in one level at 0x60000, and a sampler of zeros at 0x50040. -/
def texD : Nat := 0x60000 + at_bit 4 96 + at_bit 4 112
def texS (d : Nat) : State := withRegs (lanes 16 [0x3F000000, 0]) [(4, 0x50040)] (withDesc d base)
def texsW : EngW := { dst := .v 8, a := .s 0, b := .v 16, c := .s 4 }
def texlW : EngW := { dst := .v 8, a := .s 0, b := .v 20 }
def loadsOk (s : State) (h : Here) (l : List (Nat × Nat)) : Bool :=
  l.all fun e => s.laneGlobal h e.1 e.2 .read == none && !s.vPoison h.core h.cx e.1 e.2 .read
def planLoads (plan : Nat → Option TexPlan) (h : Here) : List (Nat × Nat) :=
  (lanesOf (h.active 0 false)).flatMap fun l => ((plan l).map TexPlan.loads).getD []

theorem witness_Texture :
    Wit (.texs texsW) (texS texD) (fun h => (texS texD).sideBusy h = false ∧
      loadsOk (texS texD) h ([(0x50000, 32), (0x50040, 16)] ++ planLoads (fun l => some ((texS texD).texsPlan h texsW l)) h) = true) ∧
    Wit (.texl texlW) (texS texD) (fun h => loadsOk (texS texD) h ([(0x50000, 32)] ++ planLoads ((texS texD).texlPlan h texlW) h) = true ∧
      planLoads ((texS texD).texlPlan h texlW) h ≠ []) ∧
    Wit (.texs texsW) (texS (texD + at_bit 1 128)) (fun _ => texDesc (texD + at_bit 1 128) = none ∧ (texDesc texD).isSome = true) ∧
    Wit (.texq { dst := .s 8, a := .s 0 }) (texS texD) (fun h => descOk (texS texD) h 32) ∧
    Wit (.texq { dst := .s 8, a := .s 0 }) (atHole base) (fun h => (pickTrap ((((atHole base).laneGlobal h 0x180000 32 .read).map fun t => (0, t)).toList)).isSome = true) := by
  refine ⟨wit (by decide +kernel) (by decide +kernel), wit (by decide +kernel) (by decide +kernel), wit (by decide +kernel) (by decide +kernel),
    wit (by decide +kernel) ?_, wit (by decide +kernel) (by decide +kernel)⟩
  simp only [descOk]
  decide +kernel

/-- The side log is busy; the texel that each lane names lies in the level, or beyond its width or its levels. -/
theorem witness_Texture_waits :
    (∀ i ∈ [Instr.texs texsW, .texl texlW, .texq { dst := .s 8, a := .s 0 }],
      Wit i (withSide 0x180000 (texS texD)) fun h => (withSide 0x180000 (texS texD)).sideBusy h = true) ∧
    (∀ e ∈ [(lanes 20 [0] ++ lanes 22 [0], true), (lanes 20 [3], true), (lanes 20 [5], false), (lanes 21 [5], false), (lanes 22 [9], false)],
      let s := withRegs e.1 [] (texS texD)
      runsB (.texl texlW) s = true ∧ (texDesc (s.vload 0 cx0 0x50000 32)).any (fun t =>
        let c (i : Nat) := ((hereD s).vreg (20 + i) 0).toNat
        (t.levels < c 2 || decide (levelDim t.w (c 2) ≤ c 0) || decide (levelDim t.h (c 2) ≤ c 1)) != e.2) = true) :=
  ⟨fun i hi => witAll (by decide +kernel) (by decide +kernel) i hi, by decide +kernel⟩

def rtD : Nat := 0x70000 + at_bit 63 80 + at_bit 15 96 + at_bit 256 128
/-- A bin set of two tiles with its render target at 0x50100, and four splats with the same target. -/
def binD : Nat := 0x50100 + at_bit 0x61000 64 + at_bit 1 128 + at_bit 0x60000 160 + at_bit 0x60800 224
def splD : Nat := 0x62000 + at_bit 4 64 + at_bit 0x50100 96
def subS (d : Nat) : State := withRegs [] [(5, 1), (6, 0x40100), (7, 9)] (withMem [(0x50100, 64, rtD)] (withDesc d base))
def subW : EngW := { a := .s 0, b := .s 5, c := .s 6 }
def flW : EngW := { a := .s 0, c := .s 6 }
/-- The submission's descriptor, target and stamp are good, and there is room for it. -/
def joinsIn (s : State) (h : Here) (rt : Nat := rtD) (n : Nat := 0) : Bool :=
  let s1 := s.touch h.core h.cx 0x50000 false
  let s2 := s1.touch h.core h.cx 0x50100 false
  !s.sideBusy h && s.laneGlobal h 0x50000 64 .read == none && !s.vPoison h.core h.cx 0x50000 64 .read && s1.laneGlobal h 0x50100 64 .read == none &&
  !s.vPoison h.core h.cx 0x50100 64 .read && s2.vload h.core h.cx 0x50100 64 % 2 ^ 512 == rt && rtdBad rt == (rt != rtD) &&
  (s2.stampTrap h (h.stampPair (.s 6)).1.toNat).isNone && (s.tileEng 0).subs.length == n && decide (6 ≤ (s.core h.core).haspFree.length)
def subOf (kind d : Nat) (tiles : List Nat) : Submission :=
  { kind := kind, core := 0, group := 0, team := 0, launch := 0, ctx := 0, bsd := BitVec.ofNat 512 d, rtd := BitVec.ofNat 512 rtD
    tiles := tiles, addr := 0x40100, value := 9, scope := 0 }

theorem witness_TileSubmissions :
    Wit (.tlsub subW) (subS binD) (fun h => joinsIn (subS binD) h = true ∧ bsdBad binD = false ∧ h.src32 subW.b 0 0 = 1) ∧
    Wit (.tlflush flW) (subS binD) (fun h => joinsIn (subS binD) h = true) ∧
    Wit (.spsub flW) (subS splD) (fun h => joinsIn (subS splD) h = true ∧ splatBad splD = false) ∧
    (∀ b ∈ [subOf 0 binD [1], subOf 1 binD [0, 1], subOf 2 splD []], ∀ r ∈ b.ranges, meetsAperture r.1 r.2.1 = false) ∧
    (∀ i ∈ [Instr.tlsub subW, .tlflush flW], Wit i (subS (binD + at_bit 1 56)) fun h => descOk (subS (binD + at_bit 1 56)) h 64 ∧ bsdBad (binD + at_bit 1 56) = true) ∧
    Wit (.tlsub { subW with b := .s 6 }) (subS binD) (fun h => 2 ≤ h.src32 (.s 6) 0 0 % 65536) ∧
    Wit (.spsub flW) (subS (splD + 1)) (fun h => descOk (subS (splD + 1)) h 64 ∧ splatBad (splD + 1) = true) ∧
    Wit (.fout { a := .v 8, g := 1 }) base (fun h => h.active 1 false = 0) ∧
    Wit (.fout { a := .v 8 }) base (fun h => h.active 0 false ≠ 0 ∧ h.t.fragTeam = false) ∧
    Wit (.fout { a := .v 8 }) (base.modTeam 0 fun t => { t with fragTeam := true }) (fun h => h.t.fragTeam = true) := by
  refine ⟨wit (by decide +kernel) (by decide +kernel), wit (by decide +kernel) (by decide +kernel), wit (by decide +kernel) (by decide +kernel),
    by decide +kernel, witAll (by decide +kernel) ?_, wit (by decide +kernel) (by decide +kernel), wit (by decide +kernel) ?_,
    wit (by decide +kernel) (by decide +kernel), wit (by decide +kernel) (by decide +kernel), wit (by decide +kernel) (by decide +kernel)⟩ <;>
  (simp only [descOk]; decide +kernel)

/-- Submissions of a context that a draw-level pre-emption holds take no place. -/
theorem witness_TileSubmissions_held :
    let e : TileEng := { subs := (List.range 64).map fun k => (k, { subOf 0 binD [1] with ctx := 1 }), stopped := [1] }
    (e.subs.filter fun x => !e.stopped.contains x.2.ctx).length = 0 ∧
    (({ e with stopped := [] } : TileEng).subs.filter fun x => !([] : List Nat).contains x.2.ctx).length = 64 := by decide +kernel

/-- The side log is busy, the render target is malformed, or 64 submissions wait. -/
theorem witness_TileSubmissions_waits :
    (∀ i ∈ [Instr.tlsub subW, .tlflush flW, .spsub flW], Wit i (withSide 0x180000 (subS binD)) fun h => (withSide 0x180000 (subS binD)).sideBusy h = true) ∧
    (∀ e ∈ [(Instr.tlsub subW, binD), (.tlflush flW, binD), (.spsub flW, splD)],
      (let s := withMem [(0x50100, 64, rtD + at_bit 1 56)] (subS e.2)
       Wit e.1 s fun h => joinsIn s h (rtD + at_bit 1 56) = true) ∧
      (let s := { subS e.2 with tileEngs := [(0, { subs := (List.range 64).map fun k => (k, subOf 0 binD [1]) })] }
       Wit e.1 s fun h => joinsIn s h rtD 64 = true)) := by
  refine ⟨fun i hi => witAll (by decide +kernel) (by decide +kernel) i hi, ?_⟩
  intro e he
  have h1 : ∀ e ∈ [(Instr.tlsub subW, binD), (.tlflush flW, binD), (.spsub flW, splD)],
      (let s := withMem [(0x50100, 64, rtD + at_bit 1 56)] (subS e.2)
       runsB e.1 s = true ∧ joinsIn s (hereD s) (rtD + at_bit 1 56) = true) ∧
      (let s := { subS e.2 with tileEngs := [(0, { subs := (List.range 64).map fun k => (k, subOf 0 binD [1]) })] }
       runsB e.1 s = true ∧ joinsIn s (hereD s) rtD 64 = true) := by decide +kernel
  obtain ⟨⟨a, b⟩, c, d⟩ := h1 e he
  exact ⟨wit a b, wit c d⟩

def withTile (e : TileEng) : State := { base with tileEngs := [(0, e)] }
def px0 : Pixel := { x := 1, y := 2, b1 := 0x3E800000, b2 := 0x3E800000, z := 5 }
def fg0 : FragGroup := { sub := 0, tile := 0, pos := 0, draw := 0x40000, drawIx := 0, prim := 3, user := 4, px := [px0], first := 0 }
def con0 (c : Option (List W32)) : Contrib := { sub := 0, x := 1, y := 2, blend := 1, unord := none, colour := c, exitAt := some 3 }
def grey : List W32 := [0x3F800000, 0, 0x3F000000, 0x3F800000]

theorem witness_TileEngine :
    (∀ b ∈ [subOf 0 binD [1], subOf 1 binD [0, 1], subOf 0 binD []], (withTile { subs := [(0, b)] }).tileEng 0 = { subs := [(0, b)] } ∧
      ({ subs := [(0, b)] } : TileEng).current = some (0, b) ∧ b.kind ≠ 2 ∧ b.parked = none ∧ b.locked = true) ∧
    (cover [0, 0, 0, 8, 0, 0, 0, 8, 0] 0 8 0 8).length = 28 ∧
    (let s := withTile { subs := [(0, subOf 0 binD [])], groups := [fg0] }
     ((s.fragWaits 0).find? fun x => !s.outranked x.2.2 0) = some (fg0, subOf 0 binD [], launch0) ∧ dieOf 0 = 0 ∧ 0 < 12 * s.rows ∧
     (fg0, subOf 0 binD [], launch0) ∈ s.fragWaits 0 ∧ fg0.px.length ≤ 32) ∧
    (∀ c ∈ [none, some grey],
      let e : TileEng := { subs := [(0, subOf 0 binD [])], contribs := [(0, con0 c)] }
      (e.contribs.find? fun x => !e.heldSub x.2.sub && (withTile e).blendable e x.1 x.2 && (((e.subs.get? x.2.sub).map fun b => b.parked.isNone && b.locked).getD true)) = some (0, con0 c)) ∧
    (let b := subOf 0 binD []
     let r := Ras.read { s := base, b := b } (b.colourAt 1 2) (pixelBytes b.fmt)
     r.1.isSome = true ∧ (r.2.write (b.colourAt 1 2) (pixelBytes b.fmt) 0).park = none) ∧
    (let b := { subOf 0 binD [] with parked := some 0x180000 }
     (([(0, b)] : List (Nat × Submission)).findSome? fun x => x.2.parked.map fun a => (x.1, x.2, a)) = some (0, b, 0x180000)) ∧
    (∀ b ∈ [{ subOf 0 binD [] with done := true }, { subOf 1 binD [] with done := true, zeroed := true }],
      ({ subs := [(0, b)] } : TileEng).completing = some (0, b) ∧ (b.kind ≠ 1 ∨ b.zeroed = true) ∧ b.bad = none) ∧
    base.stampFault 0 cx0 0x40100 = none ∧
    (let e : TileEng := { subs := [(0, subOf 2 splD [])] }
     e.current = some (0, subOf 2 splD []) ∧ (subOf 2 splD []).locked = true ∧ e.groups = [] ∧ e.contribs = []) ∧
    (base.ctxs.get? 0).isSome = true := by decide +kernel

/-! ## Launches and work graphs (spec/18): what meets the hypotheses -/

def lauC : Nat := 1 + at_bit 0x58000 64
/-- A task record: TYPE 2, ARM 2, its range record, and its gate: object 0. -/
def taskC (arm : Nat) : Nat := 2 + at_bit arm 32 + at_bit 0x58000 64 + at_bit obj0 128
def lauW (d : Opnd) : EngW := { dst := d, a := .s 0 }
def withLq (n : Nat) (x : State) : State := x.modCtx 0 fun c => { c with lq := List.range n }
def withTasks (n : Nat) (x : State) : State := x.modCtx 0 fun c => { c with tasks := (List.range n).map fun k => (k, k) }
def gateS (o : Option Obj) (arm : Nat) : State := { withDesc (taskC arm) base with objs := match o with | some o => [(0, o)] | none => [] }
def cmdOf (c : Nat) : BitVec 512 := BitVec.ofNat 512 c
/-- The gate of a task exists, its engine takes the signal, and it is not poisoned. -/
def armsIn (s : State) (h : Here) : Bool :=
  !s.sideBusy h && s.laneGlobal h 0x50000 64 .read == none && !s.vPoison h.core h.cx 0x50000 64 .read && s.queueRoom 0 != 0 && !s.storeFull 0 &&
  s.objExists obj0 && s.syncBusy.getD 0 (bitsN obj0 39 38) == 0 && !((s.objs.get? (objKey obj0)).map Obj.poisoned).getD false

theorem witness_LaunchCommands :
    (∀ i ∈ [Instr.launch (lauW (.c 1)), .taskpub (lauW .zr)],
      Wit i (withSib 0xC [] base) (fun h => (withSib 0xC [] base).sole h = false) ∧
      WitSole i (withSide 0x180000 base) (fun h => (withSide 0x180000 base).sideBusy h = true)) ∧
    (∀ i ∈ [Instr.launch (lauW (.c 1)), .launch (lauW .zr), .taskpub (lauW (.c 1)), .taskpub (lauW .zr)],
      WitSole i (withDesc 3 base) (fun h => (withDesc 3 base).sideBusy h = false ∧ descOk (withDesc 3 base) h 64 ∧ Cmd.ty (cmdOf 3) = 3)) ∧
    (∀ n ∈ [0, 4096], WitSole (.launch (lauW .zr)) (withLq n (withDesc lauC base)) fun h => descOk (withLq n (withDesc lauC base)) h 64 ∧
      Cmd.ty (cmdOf lauC) = 1 ∧ (withLq n (withDesc lauC base)).cmdBad (cmdOf lauC) false = false ∧ (withLq n (withDesc lauC base)).queueRoom 0 = 4096 - n) ∧
    (∀ s ∈ [withLq 4096 (gateS none 2), withTasks 4096 (gateS none 2)], WitSole (.taskpub (lauW .zr)) s fun h =>
      Cmd.ty (cmdOf (taskC 2)) = 2 ∧ s.cmdBad (cmdOf (taskC 2)) true = false ∧ (s.queueRoom 0 = 0 ∨ s.storeFull h.t.ctx = true)) ∧
    (∀ o ∈ [none, some { kind := .counter 1 false none 0 0 }, some { kind := .counter (-2) false (some 9) 2 3 }, some { kind := .counter 1 true (some 9) 0 0 },
        some { kind := .bar 0 1 0 }],
      ∀ d ∈ [Opnd.c 1, .zr], WitSole (.taskpub (lauW d)) (gateS o 2) fun h => armsIn (gateS o 2) h = true) ∧
    WitSole (.taskpub (lauW .zr)) (gateS none 0) (fun h => armsIn (gateS none 0) h = true ∧ Cmd.arm (cmdOf (taskC 0)) = 0) ∧
    (let c := taskC 2 + at_bit 0x800000 128
     WitSole (.taskpub (lauW .zr)) (withDesc c base) fun h => h.active 0 false ≠ 0 ∧ (withDesc c base).cmdBad (cmdOf c) true = false ∧
       (withDesc c base).objExists (Cmd.gate (cmdOf c)) = false) := by
  refine ⟨?_, ?_, ?_, ?_, ?_, witSole (by decide +kernel) (by decide +kernel) (by decide +kernel),
    witSole (by decide +kernel) (by decide +kernel) (by decide +kernel)⟩
  · intro i hi
    have h1 : ∀ i ∈ [Instr.launch (lauW (.c 1)), .taskpub (lauW .zr)], runsB i (withSib 0xC [] base) = true ∧ runsB i (withSide 0x180000 base) = true := by
      decide +kernel
    exact ⟨wit (h1 i hi).1 (by decide +kernel), witSole (h1 i hi).2 (by decide +kernel) (by decide +kernel)⟩
  · intro i hi
    have h1 : ∀ i ∈ [Instr.launch (lauW (.c 1)), .launch (lauW .zr), .taskpub (lauW (.c 1)), .taskpub (lauW .zr)], runsB i (withDesc 3 base) = true := by
      decide +kernel
    refine witSole (h1 i hi) (by decide +kernel) ?_
    simp only [descOk]; decide +kernel
  · intro n hn
    simp only [List.mem_cons, List.not_mem_nil, or_false] at hn
    obtain rfl | rfl := hn <;> (refine witSole (by decide +kernel) (by decide +kernel) ?_; simp only [descOk]; decide +kernel)
  · intro s hs
    simp only [List.mem_cons, List.not_mem_nil, or_false] at hs
    obtain rfl | rfl := hs <;> exact witSole (by decide +kernel) (by decide +kernel) (by decide +kernel)
  · intro o ho d hd
    have h1 : ∀ o ∈ [none, some { kind := .counter 1 false none 0 0 }, some { kind := .counter (-2) false (some 9) 2 3 },
        some { kind := .counter 1 true (some 9) 0 0 }, some { kind := .bar 0 1 0 }], ∀ d ∈ [Opnd.c 1, .zr],
        let s := gateS o 2
        runsB (.taskpub (lauW d)) s = true ∧ s.sole (hereD s) = true ∧ armsIn s (hereD s) = true := by decide +kernel
    obtain ⟨a, b, c⟩ := h1 o ho d hd
    exact witSole a b c

/-- A node of nine records of 32 bytes at 0x62000, batches of four; its state: allocated, emitted, open batch. -/
def nodeD : Nat := 0x60000 + at_bit 3 64 + at_bit 1 72 + at_bit 5 96 + at_bit 0x62000 128 + at_bit 8 192
def nd0 (alloc emitted batch : List Nat) : GNode := { desc := BitVec.ofNat 512 nodeD, alloc := alloc, emitted := emitted, batch := batch }
/-- The node is number 5, and s0 = 5; lane 0 of v2:v3 is the address of record 1. -/
def withNode (d : GNode) (x : State) : State := withRegs (lanes 2 [0x62020, 0x62040]) [(0, 5)] (x.modCtx 0 fun c => { c with nodes := [(5, d)] })
def allocW : EngW := { dst := .v 8, a := .s 0, imm := 1 }
def emitW' : EngW := { a := .s 0, b := .v 2 }
/-- The rows' pre-check and one lane. -/
def lane0 (h : Here) : Bool := lanesOf (h.active 0 false) == [0]

theorem witness_WorkGraphs :
    Wit (.recalloc allocW) base (fun h => h.cx.nodes.get? 0 = none) ∧
    (∀ d ∈ [nd0 [] [] [], nd0 (List.range 9) [] []], Wit (.recalloc allocW) (withNode d base) fun h =>
      h.cx.nodes.get? (h.srcS allocW.a).toNat = some d) ∧
    Wit (.recemit emitW') (withSide 0x180000 base) (fun h => (withSide 0x180000 base).sideBusy h = true) ∧
    Wit (.recemit emitW') (withMask 1 base) (fun h => lane0 h = true ∧ h.cx.nodes.get? 0 = none) ∧
    (∀ d ∈ [nd0 [] [] [], nd0 [1] [1] []], Wit (.recemit emitW') (withMask 1 (withNode d base)) fun h => lane0 h = true ∧
      d.index (h.src64 (.v 2) 0 0) = some 1 ∧ (1 ∉ d.alloc ∨ 1 ∈ d.emitted)) ∧
    (∀ d ∈ [nd0 [1] [] [], nd0 [1, 2, 3, 4] [2, 3, 4] [2, 3, 4]], ∀ n ∈ [0, 4096],
      Wit (.recemit emitW') (withLq n (withMask 1 (withNode d base))) fun h => lane0 h = true ∧ h.cx.nodes.get? (h.srcS (.s 0)).toNat = some d ∧
        d.index (h.src64 (.v 2) 0 0) = some 1 ∧ 1 ∈ d.alloc ∧ 1 ∉ d.emitted ∧ d.batch.length < d.size ∧
        (withLq n (withMask 1 (withNode d base))).queueRoom h.t.ctx = 4096 - n) ∧
    (let s := withNode (nd0 [2] [2] [2]) base
     ((s.ctxs.get? 0).bind fun c => c.nodes.get? 5) = some (nd0 [2] [2] [2]) ∧ bitsN (nd0 [2] [2] [2]).desc.toNat 127 96 ≠ 0 ∧ s.queueRoom 0 ≠ 0 ∧
       (nd0 [2] [2] [2]).batch ≠ [] ∧ (BitVec.ofNat 56 (nodeD + 1)).toNat % 128 ≠ 0) := by
  refine ⟨wit (by decide +kernel) (by decide +kernel), ?_, wit (by decide +kernel) (by decide +kernel), wit (by decide +kernel) (by decide +kernel), ?_, ?_,
    by decide +kernel⟩
  · intro d hd
    simp only [List.mem_cons, List.not_mem_nil, or_false] at hd
    obtain rfl | rfl := hd <;> exact wit (by decide +kernel) (by decide +kernel)
  · intro d hd
    simp only [List.mem_cons, List.not_mem_nil, or_false] at hd
    obtain rfl | rfl := hd <;> exact wit (by decide +kernel) (by decide +kernel)
  · intro d hd n hn
    simp only [List.mem_cons, List.not_mem_nil, or_false] at hd hn
    obtain rfl | rfl := hd <;> obtain rfl | rfl := hn <;> exact wit (by decide +kernel) (by decide +kernel)

def sysW (n : Nat) : EngW := { dst := .s 8, a := .s 0, imm := BitVec.ofNat 32 n }
def sysI (n : Nat) : Instr :=
  match n with
  | 0 => .syscallNodeCreate (sysW 0) | 1 => .syscallNodeFlush (sysW 1) | 2 => .syscallNodeDelete (sysW 2) | 3 => .syscallWake (sysW 3)
  | n => .syscallUnassigned (sysW n)
/-- The fragment waits in a SYSCALL with the argument a. -/
def sysS (n : Nat) (a : W64) (x : State) : State := (withDesc nodeD x).modFrag 0 fun f => { f with
  st := .parked (.syscall a), buf := BitVec.ofNat 512 (encode (sysI n)).toNat }
def sysAt (s : State) (n : Nat) (a : W64) : Bool :=
  match s.hereOf 0 with
  | some h => h.f.st == .parked (.syscall a) && ((s.parkedAt 0).bind Instr.engRow).map (·.2) == some (sysW n) && !h.t.saved && h.cx.st == 1
  | none => false
def fullNodes (x : State) : State := x.modCtx 0 fun c => { c with nodes := (List.range 4096).map fun k => (k, nd0 [] [] []) }
def withWakes (n cond : Nat) (x : State) : State := x.modCtx 0 fun c => { c with wakes := List.replicate n 3, cond := cond }

theorem witness_SystemCalls :
    (∀ n ∈ [0, 1, 2, 3, 4], Wit (sysI n) (withSib 0xC [] base) (fun h => (withSib 0xC [] base).sole h = false) ∧
      (WitSole (sysI n) (withDesc nodeD base) fun h => (withDesc nodeD base).sideBusy h = false ∧ descOk (withDesc nodeD base) h 64) ∧
      WitSole (sysI n) (withSide 0x180000 base) fun h => (withSide 0x180000 base).sideBusy h = true) ∧
    (sysAt (sysS 0 0x50000 base) 0 0x50000 = true ∧ ((sysS 0 0x50000 base).loadRange 0 cx0 0x50000 64).map (fun x => nodeBad x.1) = some false) ∧
    SMap.freeKey ([] : SMap GNode) 0 4096 = some 0 ∧
    (sysAt (sysS 0 0x180000 base) 0 0x180000 = true ∧ ((sysS 0 0x180000 base).loadRange 0 cx0 0x180000 64).isNone = true) ∧
    (sysAt (sysS 0 0x50008 base) 0 0x50008 = true ∧ ((sysS 0 0x50008 base).loadRange 0 cx0 0x50008 64).map (fun x => nodeBad x.1) = some true) ∧
    base.queueRoom 0 ≠ 0 ∧
    sysAt (sysS 1 5 base) 1 5 = true ∧ sysAt (sysS 2 5 base) 2 5 = true ∧ sysAt (sysS 3 5 base) 3 5 = true ∧ sysAt (sysS 9 5 base) 9 5 = true ∧
    (∀ d ∈ [nd0 [] [] [], nd0 [1] [1] [1]], ∀ n ∈ [1, 2], sysAt (sysS n 5 (withNode d base)) n 5 = true ∧
      (((sysS n 5 (withNode d base)).ctxs.get? 0).bind fun c => c.nodes.get? 5) = some d) ∧
    (∀ c ∈ [0, 1, 2], ∀ n ∈ [0, 1, 64], sysAt (sysS 3 5 (withWakes n c base)) 3 5 = true) ∧
    nodeBad (nodeD + at_bit 1 56) = true ∧ SMap.freeKey ((List.range 4).map fun k => (k, nd0 [] [] [])) 0 4 = none := by
  refine ⟨?_, by decide +kernel⟩
  intro n hn
  have h1 : ∀ n ∈ [0, 1, 2, 3, 4], runsB (sysI n) (withSib 0xC [] base) = true ∧ runsB (sysI n) (withDesc nodeD base) = true ∧
      runsB (sysI n) (withSide 0x180000 base) = true := by decide +kernel
  obtain ⟨a, b, c⟩ := h1 n hn
  refine ⟨wit a (by decide +kernel), witSole b (by decide +kernel) ?_, witSole c (by decide +kernel) (by decide +kernel)⟩
  simp only [descOk]; decide +kernel

/-! ## The launch path, Drovers and tiles (spec/12): what meets the hypotheses -/

/-- A range record: a grid of 3 by 2 by 1, tiles in order 0 by single ones, teams of one group, entry 0x40000, a rectangle of two cores. -/
def recD : Nat := 3 + at_bit 2 32 + at_bit 1 64 + at_bit 1 160 + at_bit 0x40000 256 + at_bit 0x80000 320 + at_bit 1 400
def lau1 (r st : Nat) (c : Nat := lauC) : Launch := { ctx := 0, cmd := cmdOf c, recVa := 0x58000, record := BitVec.ofNat 1024 r, st := st }
/-- Launch 1 at the head of the queue, its record in memory. -/
def beginS (va r : Nat) (x : State) : State :=
  let y := withMem [(0x58000, 128, r)] (x.modCtx 0 fun c => { c with lq := [1] })
  { y with launches := y.launches.set 1 { lau1 0 1 with recVa := va } }
def beginAt (s : State) (va : Nat) : Bool :=
  (s.launches.get? 1).any (fun l => l.recVa == va && l.st == 1 && l.node.isNone && l.held.isNone) &&
  (s.ctxs.get? 0).any fun c => c.st == 1 && c.lq.head? == some 1
def named (r : Nat) : Launch := { lau1 0 1 with record := nameRecord r (lau1 0 1) }
def originB (l : Launch) : Option Nat := match base.originOf 1 l 0 0 with | .ok o => some (12 * o.2 + o.1) | .error _ => none

theorem witness_LaunchPath :
    (∀ va ∈ [0x58001, 2 ^ 56, 0xFFFF0000000000, 0x100000, 0x58000], beginAt (beginS va recD base) va = true) ∧
    (let c := (beginS 0x58000 recD base).modCtx 0 fun c => { c with lq := [0, 1] }
     ((c.ctxs.get? 0).map fun x => (x.st, x.lq)) = some (1, [0, 1]) ∧ (c.launches.get? 1).map Launch.st = some 1) ∧
    (∀ im ∈ [some none, some (some recD)], beginAt ((beginS 0x58000 recD base).modLaunch 1 fun l => { l with image := im }) 0x58000 = true) ∧
    (match base.xl devAgent cx0 0x100000 .read with | .prot _ => true | _ => false) = true ∧ base.xl devAgent cx0 0x58000 .read = .ok 0x58000 0 ∧
    ({ base with poison := [(0xB000, true)] }.touch devAgent cx0 0x58000 false).poisoned 0 0x58000 128 = true ∧
    (match (beginS 0x58000 recD base).readRecord devAgent cx0 0x58000 with | .ok raw _ => raw == recD | _ => false) = true ∧
    ((named recD).badRecord = none ∧ originB (named recD) = some 0 ∧ (named recD).tiles = 6 ∧ (named recD).fld 479 448 = 0 ∧
      base.drovers.freeKey 0 32 = some 0 ∧ (named recD).record.getLsbD 420 = false ∧ (named (recD + at_bit 1 420)).record.getLsbD 420 = true ∧
      (named (recD + at_bit 1 420)).badRecord = none) ∧
    (named (recD + at_bit 1 150)).badRecord = some 1 ∧ (named (recD - 3)).badRecord = none ∧ (named (recD - 3)).tiles = 0 ∧ originB (named (recD - 3)) = some 0 ∧
    (let l := named (recD + at_bit 1 408 + at_bit 15 392)
     l.badRecord = none ∧ originB l = none) ∧
    (let l := lau1 recD 3
     l.st = 3 ∧ l.cores = [0, 1]) ∧
    (∀ c ∈ [lauC, lauC + at_bit obj0 192, lauC + at_bit 0x40100 256], let l := lau1 recD 5 c
     base.launchDone 1 l = true ∧ l.drained = false ∧ l.reuse = [] ∧ (Cmd.stampA l.cmd = 0 ∨ base.stampFault devAgent cx0 (Cmd.stampA l.cmd) = none)) ∧
    (∀ e ∈ base.teams, e.2.launch ≠ 1) ∧ Cmd.doneAt (cmdOf (lauC + at_bit obj0 192)) = obj0 ∧ base.objExists obj0 = true ∧
    base.objs.get? (objKey obj0) = none := by decide +kernel

/-- Launch 1 dispatches from Drover 0, whose home is core 0. -/
def drovS (last : Nat) (others : List (Nat × Drover)) : State :=
  { base with launches := base.launches.set 1 (lau1 recD 4), drovers := (0, { launch := 1, home := 0, next := 0, last := last }) :: others }
def manyDrovers : List (Nat × Drover) := (List.range 31).map fun k => (k + 1, { launch := 9, home := 5, next := 0, last := 1 })

theorem witness_TileDispatch :
    (let s := drovS 6 []
     let x : Drover := { launch := 1, home := 0, next := 0, last := 6 }
     s.drovers.get? 0 = some x ∧ s.dispatching x = true ∧ s.offer 0 x (lau1 recD 4) = some 0 ∧ s.outranked (lau1 recD 4) 0 = false ∧ 0 < (lau1 recD 4).ngroups ∧
     (lau1 recD 4).tspl = false) ∧
    (∀ s ∈ [drovS 1 [], drovS 6 manyDrovers, drovS 6 []], s.launches.get? 1 = some (lau1 recD 4) ∧ s.runs (lau1 recD 4) = true ∧
      s.idleFor 1 1 (lau1 recD 4) = true ∧ s.drovers.wf = true) ∧ (lau1 recD 4).refused = [] ∧
    (drovS 6 manyDrovers).drovers.freeKey (32 * dieOf 1) 32 = none ∧ (drovS 6 []).drovers.freeKey (32 * dieOf 1) 32 = some 1 ∧
    (lau1 recD 4).gran = 1 ∧ (drovS 1 []).drovers = [(0, { launch := 1, home := 0, next := 0, last := 1 })] := by decide +kernel

/-- The team holds tile 3 of Drover 0. -/
def holdS (x : State) : State :=
  { x.modTeam 0 fun t => { t with drover := some 0, tile := some 3 } with
    drovers := [(0, { launch := 0, home := 0, next := 4, last := 6, tiles := [(3, 0)] })] }
/-- A TILENX in slot 0 of the fragment's line. -/
def tnx (d : Opnd) : EngW := { dst := d }
def nxS (x : State) : State := x.modFrag 0 fun f => { f with buf := BitVec.ofNat 512 (encode (.tilenx (tnx (.c 2)))).toNat }
def withEngine (st : Nat) (x : State) : State := { x with frags := [], groups := x.groups.modify 0 fun g => { g with exited := 0xFFFFFFFF } }.modCore 0 fun c => { c with
  streams := [(0, { st := st, owner := some 0 })] }

theorem witness_TilesGivenUp :
    (let s := { holdS base with teams := [] }
     ((([(3, 0)] : List (Nat × Nat)).find? fun e => e.1 == 3 && s.tileDrained e.2 3) = some (3, 0)) ∧ s.drovers.has 0 = true) ∧
    (∀ i ∈ [Instr.tilenx (tnx (.c 2)), .tilenxExit (tnx .zr)],
      Wit i (withSib 0xC [] base) (fun h => (withSib 0xC [] base).sole h = false) ∧
      WitSole i (withSide 0x180000 base) (fun h => (withSide 0x180000 base).sideBusy h = true) ∧
      WitSole i (withGroup1 base) (fun h => (withGroup1 base).sideBusy h = false ∧ ∃ g ∈ (withGroup1 base).liveGroups h.tid, g ≠ h.gid ∧ (withGroup1 base).atTilenx g = false) ∧
      WitSole i (nxS base) (fun h => (nxS base).sideBusy h = false ∧ (nxS base).liveGroups h.tid = [h.gid] ∧ h.t.drover = none)) ∧
    WitSole (.tilenxExit (tnx .zr)) (holdS base) (fun h => (holdS base).liveGroups h.tid = [h.gid] ∧ h.t.tile = some 3) ∧
    WitSole (.tilenx (tnx (.c 2))) (nxS (holdS base)) (fun h => (nxS (holdS base)).sideBusy h = false ∧ (nxS (holdS base)).liveGroups h.tid = [h.gid] ∧
      ((nxS (holdS base)).parkedAt h.fid).map (fun i => i == .tilenx (tnx (.c 2))) = some true ∧ h.t.drover = some 0 ∧
      ((nxS (holdS base)).drovers.get? 0).map (fun x => (x.launch, x.saved, x.next, x.last)) = some (0, false, 4, 6) ∧ ((nxS (holdS base)).launches.get? 0).map (fun l => (nxS (holdS base)).runs l) = some true) ∧
    (let s := nxS ((holdS base).modCtx 0 fun c => { c with st := 4 })
     WitSole (.tilenx (tnx (.c 2))) s fun h => s.sideBusy h = false ∧ s.liveGroups h.tid = [h.gid] ∧ h.t.drover = some 0 ∧
       ((s.parkedAt h.fid).map fun i => i == .tilenx (tnx (.c 2))) = some true ∧ (s.launches.get? 0).map (fun l => s.runs l) = some false) ∧
    base.spilled = [] ∧
    (∀ n ∈ [1, 2], ((withEngine n base).teams.get? 0).isSome = true ∧ (withEngine n base).mayRetire 0 = true ∧
      (((withEngine n base).core 0).streams.get? 0).map (fun x => (x.owner, x.st)) = some (some 0, n)) := by
  refine ⟨by decide +kernel, ?_, witSole (by decide +kernel) (by decide +kernel) (by decide +kernel),
    witSole (by decide +kernel) (by decide +kernel) (by decide +kernel), witSole (by decide +kernel) (by decide +kernel) (by decide +kernel),
    rfl, by decide +kernel⟩
  intro i hi
  have h1 : ∀ i ∈ [Instr.tilenx (tnx (.c 2)), .tilenxExit (tnx .zr)], runsB i (withSib 0xC [] base) = true ∧ runsB i (withSide 0x180000 base) = true ∧
      runsB i (withGroup1 base) = true ∧ runsB i (nxS base) = true := by decide +kernel
  obtain ⟨a, b, c, d⟩ := h1 i hi
  exact ⟨wit a (by decide +kernel), witSole b (by decide +kernel) (by decide +kernel), witSole c (by decide +kernel) (by decide +kernel),
    witSole d (by decide +kernel) (by decide +kernel)⟩

/-! ## Fault records, host queues and the command port: what meets the hypotheses -/

def recB (cause detail : Nat) : BitVec 512 := BitVec.ofNat 512 (cause + at_bit detail 16 + at_bit 0x180000 192)
def trapS (cause detail : Nat) (inLine : Bool) (x : State) : State := x.modFrag 0 fun f => { f with st := .parked (.trap (recB cause detail) inLine) }

theorem witness_TrapHandling :
    (let s := base.modCtx 0 fun c => { c with held := [recB 5 0] }
     ((s.ctxs.get? 0).map fun c => (c.held, c.ringFull)) = some ([recB 5 0], false)) ∧
    (∀ d ∈ [0, 1], ∀ b ∈ [true, false], let s := trapS Cause.xlate.code d b base
      ((s.hereOf 0).map fun h => (h.f.st == .parked (.trap (recB Cause.xlate.code d) b) && h.cx.held.isEmpty)) = some true ∧
        bitsN (recB Cause.xlate.code d).toNat 5 0 = Cause.xlate.code ∧ bitsN (recB Cause.xlate.code d).toNat 23 16 = d) ∧
    (∀ b ∈ [true, false], let s := trapS Cause.prot.code 0 b base
      ((s.hereOf 0).map fun h => (h.withHandler && h.f.st != .parked .halt && !h.f.stopAt)) = some true) ∧
    (let s := base.modFrag 0 fun f => { f with st := .parked .halt }
     ((s.hereOf 0).map fun h => (h.withHandler && h.f.st == .parked .halt)) = some true) := by decide +kernel

def q0 : Queue := { m := 4, base := 0x90000, host := false, ctx := 0, tail := 1 }
/-- A packet of SEQ 1 with its TYPE, CMP, ADDR and VALUE; ARG is 9. -/
def pkt (ty cmp a v : Nat) : Nat := ty + at_bit cmp 8 + at_bit a 64 + at_bit v 128 + at_bit 9 192 + at_bit 1 448
def queueS (p : Nat) (x : Queue) (s : State) : State := { withMem [(0x90000, 64, p)] s with queues := [(0, x)] }
/-- The packet at the head of queue 0 is whole, valid and of the given type. -/
def wholeB (s : State) (ty : Nat) : Bool :=
  match s.queues.get? 0 with
  | some x => s.fetching x && bitsN (s.packet x).toNat 511 448 == x.seq.toNat && !Packet.bad (s.packet x) && Packet.ty (s.packet x) == ty
  | none => false

theorem witness_HostQueues :
    queueKey 0 0 = 0 ∧ base.queues.get? 0 = none ∧ base.up = true ∧ cx0.fn = 0 ∧ ((1 : W32) - q0.head).toNat ≤ 2 ^ q0.m ∧
    2 ^ q0.m < ((17 : W32) - q0.head).toNat ∧ ((16 : W32) - q0.head).toNat ≤ 2 ^ q0.m ∧
    (∀ ty ∈ [0, 1, 2, 3], wholeB (queueS (pkt ty 0 0x40100 5) q0 base) ty = true) ∧
    wholeB (queueS (pkt 4 0 0x40100 5) q0 base) 4 = true ∧ wholeB (queueS (pkt 4 0 0x40100 5) { q0 with held := true } base) 4 = true ∧
    (let s := queueS (pkt 4 0 0x40100 5) q0 (withMem [(0x40100, 8, 5)] base)
     (s.waitRead q0 (BitVec.ofNat 512 (pkt 4 0 0x40100 5))).waitMet q0 (BitVec.ofNat 512 (pkt 4 0 0x40100 5)) = true) ∧
    (let s := queueS (pkt 4 0 0x40100 5) q0 base
     (s.waitRead q0 (BitVec.ofNat 512 (pkt 4 0 0x40100 5))).waitMet q0 (BitVec.ofNat 512 (pkt 4 0 0x40100 5)) = false) ∧
    wholeB (queueS (pkt 5 0 0x40100 5) q0 base) 5 = true ∧ base.stampFault devAgent cx0 0x40100 = none ∧
    (queueS 0 q0 base).fetching q0 = true ∧ bitsN ((queueS 0 q0 base).packet q0).toNat 511 448 ≠ q0.seq.toNat ∧
    Packet.bad (BitVec.ofNat 512 (pkt 6 0 0x40100 5)) = true ∧ bitsN (pkt 6 0 0x40100 5) 511 448 = 1 ∧
    (∀ n ∈ [0, 63, 64], ∀ c ∈ [0, 1, 2], (((withWakes n c (queueS (pkt 2 0 0 5) q0 base)).ctxs.get? 0).map fun x => (x.wakes.length, x.cond)) = some (n, c) ∧
      wholeB (withWakes n c (queueS (pkt 2 0 0 5) q0 base)) 2 = true) ∧ cx0.ticket = cx0.consumed := by decide +kernel

/-- A command of TYPE n in slot 0 under SEQ 1. -/
def cmdAt (n : Nat) : BitVec 512 := BitVec.ofNat 512 (n + (if n = 0 then 0 else if n = 1 then at_bit 0x58000 64 else if n = 2 then at_bit 2 32 + at_bit obj0 128
  else at_bit 0x40100 256 + at_bit 9 320) + at_bit 1 448)
def portS (n : Nat) (x : State) : State := x.modCtx 0 fun c => { c with cond := 1, ticket := 1, slots := [(0, cmdAt n)], slotPc := [(0, 0x77)] }
def portAt (s : State) (bad : Bool) (n : Nat) : Bool :=
  match s.ctxs.get? 0 with
  | some c => c.st == 1 && c.slots.get? (c.consumed % 256) == some (cmdAt n) && Cmd.seq (cmdAt n) == c.consumed + 1 && s.portBad (cmdAt n) == bad &&
      Cmd.ty (cmdAt n) == n
  | none => false

theorem witness_CommandPort :
    (let v := cmdAt 3 + BitVec.ofNat 512 (at_bit obj0 192)
     Cmd.doneAt v = obj0 ∧ Cmd.doneAt v ≠ 0 ∧ Cmd.doneAt (cmdAt 3) = 0 ∧ base.objExists obj0 = true ∧ base.objs.get? (objKey obj0) = none) ∧
    (∀ n ∈ [0, 1, 2, 3], portAt (portS n base) false n = true) ∧ portAt (portS 4 base) true 4 = true ∧
    (∀ n ∈ [0, 1], (((withWakes n 1 base).ctxs.get? 0).map fun c => (c.cond, c.st, c.wakes.length)) = some (1, 1, n)) ∧
    (∀ n ∈ [255, 256], (((base.modCtx 0 fun c => { c with cond := 1, ticket := n }).ctxs.get? 0).map fun c => c.ticket - c.consumed) = some n) ∧
    (inAperture (obj0 + 8) = true ∧ (obj0 + 8) % 64 = 8 ∧ base.objExists (obj0 + 8) = true ∧ base.objs.get? (objKey obj0) = none) ∧
    (Cmd.rrec (cmdAt 1) = 0x58000 ∧ (match base.readRecord devAgent cx0 0x58000 with | .ok _ _ => true | _ => false) = true) ∧
    (Cmd.gate (cmdAt 2) = obj0 ∧ Cmd.arm (cmdAt 2) = 2 ∧ base.storeFull 0 = false ∧ base.objExists obj0 = true) ∧
    (let s := base.modCtx 0 fun c => { c with stamps := [(0, cmdAt 3)], portOpen := [1] }
     ((s.ctxs.get? 0).map fun c => (c.stamps, c.st, c.portOpen)) = some ([(0, cmdAt 3)], 1, [1]) ∧ Cmd.stampA (cmdAt 3) = 0x40100 ∧
       s.stampFault devAgent { cx0 with stamps := [(0, cmdAt 3)], portOpen := [1] } 0x40100 = none) := by decide +kernel

/-! ## Collectives and contexts: what meets the hypotheses -/

/-- An all-reduce of two i32 elements from 0x40100 to 0x40200 on modules 0 and 1, stamp 9 at 0x40300. -/
def collD (mask : Nat) : Nat := 0x40100 + at_bit 0x40200 64 + at_bit 2 128 + at_bit 5 160 + at_bit mask 256 + at_bit 0x40300 320 + at_bit 9 384
def coll0 (fn mask : Nat) : Coll :=
  { group := 0, frag := 0, report := rep0, ctx := 0, fn := fn, desc := BitVec.ofNat 512 (collD mask), entries := [9, 10] }
def collS (m : W64) (d : Nat) : State := { withDesc d base with domOn := true, domMembers := m }
def withColl (b : Coll) (x : State) : State := { x.modCore 0 fun c => { c with colls := [(2, b)] } with domOn := true, domMembers := 3 }
def peer1 (fn : Fin 4) : PeerIssue := { module := 1, fn := fn, desc := BitVec.ofNat 512 (collD 3), src := List.replicate 8 1 }
def collW : EngW := { a := .s 0 }
def collI : List Instr := [.collAllReduce collW, .collReduceScatter collW, .collAllGather collW, .collBroadcast collW]

theorem witness_Collectives :
    (∀ i ∈ collI, Wit i (withSide 0x180000 base) (fun h => (withSide 0x180000 base).sideBusy h = true) ∧
      Wit i (collS 3 (collD 2)) (fun h => descOk (collS 3 (collD 2)) h 64) ∧
      Wit i (collS 3 (collD 3)) (fun h => descOk (collS 3 (collD 3)) h 64 ∧ (collS 3 (collD 3)).stampTrap h 0x40300 = none ∧ 2 ≤ ((collS 3 (collD 3)).core h.core).haspFree.length) ∧
      Wit i (collS 1 (collD 3)) (fun h => descOk (collS 1 (collD 3)) h 64 ∧ (collS 1 (collD 3)).stampTrap h 0x40300 = none)) ∧
    (∀ fn ∈ [0, 1, 2, 3], CollD.bad fn 0 (BitVec.ofNat 512 (collD 2)) = true ∧ CollD.bad fn 0 (BitVec.ofNat 512 (collD 3)) = false) ∧
    (∀ m ∈ CollD.members (BitVec.ofNat 512 (collD 3)), (collS 3 (collD 3)).domMember m = true) ∧ (collS 1 (collD 3)).domMember 1 = false ∧
    (let s := withColl (coll0 0 3) base
     (s.core 0).colls.get? 2 = some (coll0 0 3) ∧ s.domOn = true ∧ collPeers (coll0 0 3).desc 0 [peer1 0] = some [none, some (peer1 0)] ∧
       CollD.same (peer1 0).desc (coll0 0 3).desc = true ∧ (peer1 1).fn.val ≠ (coll0 0 3).fn ∧ s.rangeFault 0 cx0 0x40100 8 false = none ∧ (coll0 0 3).parked = none ∧ (coll0 0 3).locked = true ∧
       let u := (List.range 8).foldl (fun s i => s.touch 0 cx0 (0x40100 + i) false) s
       ∀ i, i < 8 → u.vPoison 0 cx0 (0x40100 + i) 1 .read = false) ∧
    (∀ b ∈ [{ coll0 0 3 with started := true, mismatch := true }, { coll0 0 3 with started := true },
        { coll0 0 3 with started := true, result := List.replicate 8 1 }], let s := withColl b base
      (∀ e ∈ (s.core 0).colls, e.1 < 2 → e.2.group ≠ b.group) ∧ s.stampFault 0 cx0 0x40300 = none ∧ s.rangeFault 0 cx0 0x40200 b.result.length true = none ∧ b.parked = none ∧ b.locked = true ∧
      s.collBad 0 cx0 b = none ∧ (s.collWrite 0 cx0 b).stampFault 0 cx0 0x40300 = none) ∧
    (let b := { coll0 0 3 with started := true, result := List.replicate 8 1, desc := BitVec.ofNat 512 (collD 3 + at_bit 4 64) }
     let s := withPoison [0x40200] (withColl b base)
     s.stampFault 0 cx0 (CollD.stampA b.desc) = none ∧ s.rangeFault 0 cx0 (CollD.dst b.desc) 8 true = none ∧ s.collBad 0 cx0 b = some 0x40200) ∧
    base.up = true ∧
    (let s := base.modGroup 0 fun g => { g with lost := some (0, rep0) }
     ((s.groups.get? 0).map fun g => g.lost.isSome) = some true ∧ s.frags.wf = true) ∧
    (collS 3 0).domMember 1 = true := by
  refine ⟨?_, by decide +kernel, by decide +kernel, by decide +kernel, by decide +kernel, by decide +kernel, by decide +kernel, by decide +kernel, by decide +kernel,
    by decide +kernel⟩
  intro i hi
  have h1 : ∀ i ∈ collI, runsB i (withSide 0x180000 base) = true ∧ runsB i (collS 3 (collD 2)) = true ∧
      runsB i (collS 3 (collD 3)) = true ∧ runsB i (collS 1 (collD 3)) = true := by decide +kernel
  obtain ⟨a, b, c, d⟩ := h1 i hi
  refine ⟨wit a (by decide +kernel), wit b ?_, wit c ?_, wit d ?_⟩ <;> (simp only [descOk]; decide +kernel)

def ctxD : Nat := 0x10000 + at_bit 5 64 + at_bit 6 83 + at_bit 6 88 + at_bit 0x24000 128 + at_bit 0x34000 192
/-- The team is saved, with its fragment; its launch has a rectangle of n cores. -/
def savedS (n : Nat) : State :=
  ({ base with frags := [(2 ^ 20, { frag0 with st := .ready })] }.modTeam 0 fun t => { t with saved := true }).modLaunch 0 fun l =>
    { l with record := BitVec.ofNat 1024 (at_bit (n - 1) 400) }
/-- The saved team can be placed on the core. -/
def restorable (s : State) (core : Nat) (frag : Bool) : Bool :=
  (s.teams.get? 0).any (fun t => t.saved && t.fragTeam == frag && !t.member && s.canRestore core 0 t) && (s.ctxs.get? 0).any fun c => c.st != 5
def servesB (s : State) (ox oy : Nat) : Bool := (s.launches.get? 0).any fun l => s.onMesh l ox oy && s.routable 0 l ox oy
def coresB (s : State) : List Nat := ((s.launches.get? 0).map Launch.cores).getD []

theorem witness_Contexts :
    base.xfersOf 0 = [] ∧ ((base.teams.get? 0).map fun t => (t.member, t.saved, t.saving)) = some (false, false, false) ∧
    ((base.frags.get? 0).map fun f => f.st != .gone) = some true ∧
    (let s := base.modTeam 0 fun t => { t with saving := true }
     ((s.teams.get? 0).map fun t => s.saveReady 0 t) = some true) ∧
    (restorable ((savedS 1).modTeam 0 fun t => { t with fragTeam := true }) 1 true = true) ∧
    (restorable (savedS 1) 0 false = true ∧ coresB (savedS 1) = [0] ∧ servesB (savedS 1) 0 0 = true ∧ (savedS 1).badTable 0 = none) ∧
    (let s := { (savedS 1).modCtx 0 fun c => { c with st := 3 } with launches := (savedS 1).launches.set 1 { launch0 with ox := 20 } }
     restorable s 0 false = true ∧ coresB s = [0] ∧ servesB s 0 0 = true ∧ s.badTable 0 = some 1) ∧
    (let s := { savedS 2 with boot := { base.boot with fenced := [1] } }
     restorable s 0 false = true ∧ coresB s = [0, 1] ∧ s.movable 0 = true ∧ servesB s 0 0 = false) ∧
    (let s := savedS 2
     restorable s 5 false = true ∧ coresB s = [0, 1] ∧ s.movable 0 = true ∧ 5 + coreX 0 = coreX 5 + 0 ∧ 0 + coreY 0 = coreY 5 + 0 ∧
       (({ (s.launches.getD launch0 0) with ox := 5 } : Launch).cores = [5, 6]) ∧ servesB s 5 0 = true ∧
       (s.moveLaunch 0 (s.launches.getD launch0 0) 5 0).any (fun u => (u.badTable 0).isNone) = true) ∧
    (let s := (savedS 1).modCtx 0 fun c => { c with st := 2 }
     ((s.ctxs.get? 0).map Ctx.st) = some 2 ∧ ∀ e ∈ s.teams, e.2.ctx = 0 → e.2.saved = true) ∧
    (let s := { base with teams := [] }.modCtx 0 fun c => { c with st := 3 }
     let t := s.modLaunch 0 fun l => { l with st := 1 }
     ((t.ctxs.get? 0).map Ctx.st) = some 3 ∧ (∀ e ∈ t.teams, e.2.ctx ≠ 0) ∧ ∀ e ∈ t.launches, e.2.ctx = 0 → e.2.st ≠ 3 ∧ e.2.st ≠ 4) ∧
    cx0.st = 1 ∧ base.queues.wf = true ∧ ((ctxOfDesc (BitVec.ofNat 512 ctxD)).map Ctx.asid) = some 5 ∧
    (∀ e ∈ base.ctxs, e.2.asid ≠ 5) ∧ base.ctxs.get? 1 = none ∧ base.up = true := by decide +kernel

/-! ## Counters, trials, the debug core, reliability and boot: what meets the hypotheses -/

def cap0 : Capture := { addr := 0x40100, sel := 0, start := 0, base := List.replicate 9 0, sum := List.replicate 9 0 }
def withCap (c : Option Capture) (x : State) : State := x.modGroup 0 fun g => { g with capture := c }
def pmW : EngW := { dst := .c 1, a := .s 0, b := .s 1 }
def withDbg (x : State) : State := x.modCtx 0 fun c => { c with debugger := true }
/-- A trial of two epochs of 1 µs at half speed for the region at 0x40000, its report at 0x40400. -/
def trialD : BitVec 512 := BitVec.ofNat 512 (0x40000 + at_bit 0x40040 64 + at_bit 50 128 + at_bit 1 160 + at_bit 2 192 + at_bit 0x40400 256)
def trial0 (e : Nat) : Trial :=
  { desc := trialD, epoch := e, gd := 9, base := List.replicate 16 1, noff := List.replicate 16 2, non := List.replicate 16 3 }
def pmReady (s : State) (h : Here) : Bool := (s.checkGlobal h 0x40100 128 .write true).all fun t => t.cause == .xlate

theorem witness_CountersAndTrials :
    Wit (.prog { imm := 3 }) base (fun _ => True) ∧
    Wit (.halt {}) base (fun h => h.cx.debugger = false) ∧ Wit (.halt {}) (withDbg base) (fun h => h.cx.debugger = true) ∧
    Wit (.pmcapStart pmW) (withCap none (atMem base)) (fun h => pmReady (withCap none (atMem base)) h = true ∧ h.g.capture = none ∧
      (∀ n ∈ selCtrs (h.srcS (.s 1)), n ≤ 47) ∧ bitsN (h.srcS (.s 1)).toNat 63 48 = 0) ∧
    Wit (.pmcapStart pmW) (withCap (some cap0) (atMem base)) (fun h => pmReady (withCap (some cap0) (atMem base)) h = true ∧ h.g.capture = some cap0) ∧
    (∀ v ∈ [48, 2 ^ 48], Wit (.pmcapStart pmW) (withRegs [] [(1, v)] (atMem base)) fun h => pmReady (withRegs [] [(1, v)] (atMem base)) h = true ∧
      ((∃ n ∈ selCtrs (h.srcS (.s 1)), 47 < n) ∨ bitsN (h.srcS (.s 1)).toNat 63 48 ≠ 0)) ∧
    Wit (.pmcapStop { dst := .c 1 }) base (fun h => h.g.capture = none) ∧
    Wit (.pmcapStop { dst := .c 1 }) (withCap (some cap0) base) (fun h => h.g.capture = some cap0 ∧ (withCap (some cap0) base).logBusy h = false ∧
      ∀ i, i < 16 → (withCap (some cap0) base).laneGlobal h (0x40100 + 8 * i) 8 .write = none) ∧
    (trialBad 0 = true ∧ trialBad trialD = false ∧ cx0.trial = none ∧
     (∀ e ∈ [0, 1], let s := base.modCtx 0 fun c => { c with trial := some (trial0 e) }
       ((s.ctxs.get? 0).map fun c => (c.trial, c.st)) = some (some (trial0 e), 1) ∧ 1000 * bitsN trialD.toNat 191 160 ≤ 1000 ∧
       decide (bitsN trialD.toNat 207 192 ≤ e + 1) = (e == 1))) ∧ base.up = true := by
  refine ⟨wit (by decide +kernel) trivial, wit (by decide +kernel) (by decide +kernel), wit (by decide +kernel) (by decide +kernel),
    wit (by decide +kernel) (by decide +kernel), wit (by decide +kernel) (by decide +kernel), ?_, wit (by decide +kernel) (by decide +kernel),
    wit (by decide +kernel) (by decide +kernel), by decide +kernel, by decide +kernel⟩
  intro v hv
  simp only [List.mem_cons, List.not_mem_nil, or_false] at hv
  obtain rfl | rfl := hv <;> exact wit (by decide +kernel) (by decide +kernel)

/-- Group 0 is halted, its fragment at its slot. -/
def haltS : State := (base.modFrag 0 fun f => { f with st := .ready }).modGroup 0 fun g => { g with halted := true, stopCause := .debug }
theorem witness_DebugCore :
    haltS.asleep = false ∧ obj0 % 16 = 0 ∧ (withObj (some { kind := .fold, poisoned := true }) haltS).hartGroup 0 = some 0 ∧
    ((withObj (some { kind := .fold, poisoned := true }) haltS).objs.get? (objKey (obj0 - obj0 % 64))).map Obj.poisoned = some true ∧
    (∀ n ∈ [2 ^ 14, 48 * 64, 63 * 64, 1, 16], base.hartGroup n = none) ∧ base.hartGroup 0 = some 0 ∧ haltS.hartGroup 0 = some 0 ∧
    base.isHalted 0 = false ∧ haltS.isHalted 0 = true ∧ (haltS.fragsOf 0).head? = some 0 ∧
    (∀ e ∈ [(0xC005, DbgReg.s 5, 3), (0xC043, .k 3, 2), (0xC050, .c, 2), (0xC060, .pc, 3), (0xC062, .rgnpc, 3), (0xC061, .sig, 2), (0xC063, .fsr, 2),
      (0xD025, .v 1 5, 2)], dbgReg e.1 = some e.2) ∧ badPtr 0x40043 = false ∧ 1 < 16 * group0.blocks ∧
    (∀ n ∈ [0, 4], 0x40100 % 2 ^ n = 0) ∧ 0x40101 % 2 ^ 1 ≠ 0 ∧ inAperture 0x40100 = false ∧ inAperture obj0 = true ∧
    (inAperture (obj0 + 0x800000) = true ∧ haltS.objExists (obj0 + 0x800000) = false) ∧
    (∀ va ∈ [obj0, obj0 + 56], va % 8 = 0 ∧ va < 2 ^ 56 ∧ inAperture va = true ∧ haltS.objExists va = true ∧
      ((withObj (some (semO 7 [])) haltS).objs.get? (objKey (va - va % 64))).map Obj.poisoned = some false) ∧
    haltS.xl 0 cx0 0x40100 .read = .ok 0x40100 0 ∧ haltS.xl 0 cx0 0x40100 .write = .ok 0x40100 0 ∧ haltS.poisoned 0 0x40100 8 = false ∧
    haltS.storeLost 0 cx0 0x40100 = false ∧ haltS.vPartPoison 0 cx0 0x40100 8 = false := by decide +kernel

/-- Group 0 is frozen after `n` events, with a region open at 0x40003 or none. -/
def frozeS (i : Instr) (rgn n : Nat) (x : State) : State :=
  (x.modFrag 0 fun f => { f with st := .parked .frozen, buf := BitVec.ofNat 512 (encode i).toNat }).modGroup 0 fun g => { g with
    frozen := true, rgnpc := BitVec.ofNat 56 rgn, events := n }
def frozeAt (s : State) (poisoned : Bool) : Bool :=
  ((s.fragsOf 0).find? fun k => (s.frags.get? k).map Frag.st == some (.parked .frozen)) == some 0 &&
  (s.hereOf 0).any fun h => h.gid == 0 && s.foldPoisoned h == poisoned && h.cx.st != 5

/-- Lane 0 of v1 and v2, and k1, have an uncorrectable error. -/
def badRegs (x : State) : State := x.modGroup 0 fun g => { g with badV := [(32, true), (64, true)], badR := [.k 1] }

/-- Group 0's fragments wait at no object. -/
theorem frozeS_quiet (rgn n : Nat) : ∀ k ∈ (frozeS .nop rgn n base).fragsOf 0, ∀ f, (frozeS .nop rgn n base).frags.get? k = some f →
    ∀ key a b x, f.st ≠ .parked (.token key a b) ∧ f.st ≠ .parked (.take key a x) := by
  intro k hk f hf key a b x
  have h : (frozeS .nop rgn n base).frags = [(0, { frag0 with st := .parked .frozen, buf := BitVec.ofNat 512 (encode .nop).toNat })] := rfl
  rw [h] at hf
  by_cases hk : k = 0
  · subst hk
    cases hf
    simp
  · simp [SMap.get?, hk] at hf

theorem witness_Recovery :
    (∀ i ∈ [Instr.iadd aw, .fadd awF, .ld lw, .bpls { a := .v 2, b := .v 1 }, .br { br2 with a := .k 1, cond := .kz }, .st { a := .v 2, c := .v 1 }],
      (badRegs base).here.isSome = true ∧ (i.aluMajor.isSome || i.memRow.isSome || i.engRow.isSome || i.brRow.isSome) = true ∧
      (preCheck i (hereD (badRegs base)) (badRegs base)).isNone = true ∧
      (hereD (badRegs base)).mustWait i = false ∧ (badRead i (hereD (badRegs base))).isSome = true) ∧
    base.asleep = false ∧ base.up = true ∧ (base.groups.get? 0).isSome = true ∧ base.pageRetired 9 = false ∧
    (let s := frozeS .nop 0x40003 1 base
     ((s.groups.get? 0).map fun g => (g.frozen, g.error)) = some (true, {}) ∧ ({} : ErrEvent).kind < 16 ∧ ({} : ErrEvent).array < 256 ∧
     { s with frags := [] }.fragsOf 0 = [] ∧ { s with frags := [] }.frags.get? (2 ^ 21) = none) ∧
    (let s := (frozeS .nop 0x40003 1 base).modFrag 0 fun f => { f with st := .parked (.bar 0 0) }
     (((s.fragsOf 0).find? fun k => (s.frags.get? k).map Frag.st == some (.parked .frozen)).orElse fun _ => (s.fragsOf 0).head?) = some 0) ∧
    (∀ e ∈ [(0x40003, 1), (0x40003, 2), (0, 1)], frozeAt (frozeS .nop e.1 e.2 base) false = true) ∧
    (let s := frozeS .nop 0x40003 1 base
     s.groups.wf = true ∧ ∀ e ∈ s.groups, e.2.frozen = true → e.1 = 0) ∧
    frozeAt (frozeS (.vapp fw) 0x40003 1 (withObj (some { kind := .fold, poisoned := true }) base)) true = true ∧
    32 * 5 < base.hbmBytes ∧ 12884901887 * 32 + 32 = base.hbmBytes ∧
    ((1 + 1) * 2 ^ 18 ≤ base.hbmBytes ∧ (9 + 1) * 2 ^ 18 ≤ base.hbmBytes ∧ 1 ∉ base.boot.retiredPages ∧ 9 ∉ base.boot.retiredPages ∧
      (∀ c ∈ base.cores, c.2.xfers = []) ∧ Memory.wf base.mem = true) := by decide +kernel

/-- A public key and a signature of a message that it verifies: the key holds the root that the signature's zeros give. -/
def goodSig : List Byte := bytesBE 4 0 ++ bytesBE 4 3 ++ List.replicate 2176 0 ++ bytesBE 4 6 ++ List.replicate 320 0
def goodIdent : List Byte := List.replicate 16 0
def goodRoot (m : List Byte) : List Byte :=
  lmsClimb goodIdent ((List.range 10).map fun i => sliceB goodSig (2188 + 32 * i) 32) (2 ^ 10 + 0)
    (lmsHash goodIdent (2 ^ 10 + 0) 0x8282 (otsKey goodIdent 0 m (sliceB goodSig 4 2180)))
def goodKey (m : List Byte) : List Byte := bytesBE 4 6 ++ bytesBE 4 3 ++ goodIdent ++ goodRoot m

theorem lmsHash_length (i : List Byte) (n t : Nat) (r : List Byte) : (lmsHash i n t r).length = 32 := by simp [lmsHash, bytes32]
theorem lmsClimb_length (i : List Byte) (p : List (List Byte)) (n : Nat) (x : List Byte) (h : x.length = 32) : (lmsClimb i p n x).length = 32 := by
  induction p generalizing n x with
  | nil => exact h
  | cons y p ih => exact ih _ _ (lmsHash_length ..)
theorem good_verifies (m : List Byte) : lmsVerify (goodKey m) m goodSig = true := by
  have hr : (goodRoot m).length = 32 := lmsClimb_length _ _ _ _ (lmsHash_length ..)
  have hh : (bytesBE 4 6 ++ bytesBE 4 3 ++ goodIdent).length = 24 := by decide +kernel
  have hd : (goodKey m).drop 24 = goodRoot m := by rw [goodKey, List.drop_append_of_le_length (by omega), List.drop_of_length_le (by omega), List.nil_append]
  have hl : (goodKey m).length = 56 := by simp [goodKey, hr, bytesBE, goodIdent]
  have hp (o n : Nat) (h : o + n ≤ 24) : sliceB (goodKey m) o n = sliceB (bytesBE 4 6 ++ bytesBE 4 3 ++ goodIdent) o n := by
    rw [sliceB, sliceB, goodKey, List.drop_append_of_le_length (by omega), List.take_append_of_le_length (by rw [List.length_drop, hh]; omega)]
  have hi : sliceB (goodKey m) 8 16 = goodIdent := (hp 8 16 (by omega)).trans (by decide +kernel)
  have h6 : sliceB (goodKey m) 0 4 = bytesBE 4 6 := (hp 0 4 (by omega)).trans (by decide +kernel)
  have h3 : sliceB (goodKey m) 4 4 = bytesBE 4 3 := (hp 4 4 (by omega)).trans (by decide +kernel)
  have hq : bigEndian (sliceB goodSig 0 4) = 0 := by decide +kernel
  have hs : (goodSig.length == 2508 && sliceB goodSig 4 4 == bytesBE 4 3 && sliceB goodSig 2184 4 == bytesBE 4 6) = true := by decide +kernel
  simp only [Bool.and_eq_true] at hs
  simp only [lmsVerify, hd, hl, hi, h6, h3, hq, hs.1.1, hs.1.2, hs.2, goodRoot, BEq.rfl, Bool.and_self, decide_true, Nat.reducePow, Nat.reduceLT]

/-- The three outcomes of a boot, in a state whose fuses hold the hash of a key that verifies; windows, registers and refusals. -/
theorem witness_PowerAndBoot :
    (∀ m : List Byte, let key := goodKey m
      let s : State := { base with boot := { base.boot with keyHash := sha256 key } }
      let good (x sig : List Byte) (v : W32) : Prop := sha256 key = s.boot.keyHash ∧ lmsVerify key x sig = true ∧ s.boot.minVer.toNat ≤ v.toNat
      good m goodSig 0 ∧ ¬ good m [] 0) ∧
    (191 < 192 ∧ 0 < 1) ∧ base.funs.wf = true ∧ base.asleep = false ∧ base.up = true ∧ base.boot.leaf < 2 ^ 20 ∧
    ({ base with asleep := true } : State).up = false ∧
    ({ base with boot := { base.boot with leaf := 2 ^ 20 } } : State).boot.leaf = 2 ^ 20 ∧
    ({ base with boot := { base.boot with recovery := true } } : State).up = false := by
  refine ⟨fun m => ⟨⟨rfl, good_verifies m, Nat.le_refl 0⟩, fun h => ?_⟩, by decide +kernel⟩
  have h2 := h.2.1
  simp [lmsVerify] at h2

/-! ## Worked examples of the manual -/

/-- The vertices of spec/19's worked connection: position z, normal pair, F, RPDF, WC, WM, depth, kind. -/
def wv (z nrm fp rp wc wm depth kind : Nat) : FVert := [0, 0, z, nrm, 0, 0, 0, fp, rp, wc, wm, 0, 0, 0, 65536 * depth + 2 ^ 24 * kind, 0]
def wFold : Fold := { ctx := 0, beta := false, arena := 0, cap := 32, nl := 1, ne := 1 }
/-- spec/19: emission at z2, the connections of y0 with z1 and of y1 with z0, and G. -/
theorem test_fold_weights :
    let one := 0x3F800000
    let y0 := wv 0 0 0x3F000000 0 0 0 0 1
    let y1 := wv 0x40000000 0x7FFF7FFF 0x3E800000 0 0x40000000 0 1 1
    let z0 := wv 0x40800000 0x7FFF7FFF one 0 0 0 0 0
    let z1 := wv 0x40000000 0x7FFF7FFF one 0 0 0 1 0
    let z2 := wv 0 0 0x3F000000 0x3F400000 one one 2 0
    wFold.emitW z2 (some z1) [some (1 / 2), some 1] = 0x3EE38E39 ∧
    wFold.connW y0 z1 none (some z0) [some 2, some 3, some 1, none] = 0x3EE38E39 ∧ geomFactor y0 z1 = 0x3E800000 ∧
    wFold.connW y1 z0 (some y0) none [some 4, none, some 3, some 2] = 0x3DE38E39 := by decide +kernel

/-- spec/24: the all-reduce of 3, 0.75 and −0.5 in bf16. -/
theorem test_all_reduce :
    reduceVec (BitVec.ofNat 512 (at_bit 1 128 + at_bit 8 160 + at_bit 7 256)) [[0x40, 0x40], [0x40, 0x3F], [0x00, 0xBF]] = [0x4050] := by decide +kernel

/-- spec/21: P is blended before Q. -/
theorem test_blend :
    let ov (old : Nat) (c : List Nat) : Nat := pixelOut 0 old (blendChan 1 (c.map fun w => Fmt.f32.dec false w))
    let p := ov 0xFF000000 [0x3F800000, 0, 0, 0x3F000000]
    p = 0xBF000080 ∧ ov p [0, 0, 0x3F800000, 0x3F000000] = 0x9F800040 := by decide +kernel

/-- spec/16: the boxes [0, 2]³ and [2, 4] × [0, 1]², their entry parameters 1 and 3, and the second one's after a hit at 2.5. -/
theorem test_box :
    let t (lo hi : List Rat) (cur : Rat) := slabs (axes [-1, 1 / 2, 1 / 2] [1, 0, 0] lo hi) (.fin 0) (.fin cur)
    t [0, 0, 0] [2, 2, 2] 100 = some (.fin 1) ∧ t [2, 0, 0] [4, 1, 1] 100 = some (.fin 3) ∧ t [2, 0, 0] [4, 1, 1] (5 / 2) = none := by decide +kernel

/-- spec/23: the walk to VA 0x60_0004_0000, which ends at level 3 before the mapping and sets ACC after it. -/
def walkQ (leaf : Nat) : State :=
  withRegs (lanes 2 [0x40000] ++ lanes 3 [0x60]) [] <| withMask 1 <| withMem [(0x100000000, 8, 0x100004001), (0x100004030, 8, 0x100005001),
    (0x100005000, 8, 0x100006001), (0x100006008, 8, leaf), (0x1234400000, 4, 77)] (base.modCtx 0 fun c => { c with root := 0x100000000 })
theorem test_walk :
    trapAfter (.ld { dst := .v 8, a := .v 2 }) (walkQ 0) = some (Cause.xlate.code, 0) ∧
    memAfter (.ld { dst := .v 8, a := .v 2 }) (walkQ 0x00123440002F) 0x100006008 8 = some 0x00123440012F ∧
    pendAfter (.ld { dst := .v 8, a := .v 2 }) (walkQ 0x00123440002F) = some [(256, 77)] := by decide +kernel

/-- spec/12: of [0, 10) with grain 2 the first request takes [6, 10), and the next one [4, 6) of the larger rest. -/
theorem test_drover_split :
    let l : Launch := lau1 (10 + at_bit 1 32 + at_bit 1 64 + at_bit 2 160 + at_bit 0x40000 256 + at_bit 2 400) 4
    let s : State := { base with launches := base.launches.set 1 l, drovers := [(0, { launch := 1, home := 0, next := 0, last := 10 })] }
    let split (c : Nat) (s : State) : State := match exec (.splitRequest 1 c) s with | .next t => t | _ => s
    ((split 2 (split 1 s)).drovers.map fun e => (e.2.home, e.2.next, e.2.last, e.2.gen)) = [(0, 0, 4, 2), (1, 6, 10, 1), (2, 4, 6, 2)] := by decide +kernel

end Sys2Proof.Tests
end

section
/-! Every step keeps the memories canonical: one lemma for each operation that a step is made of, in the order of the model. A
lemma says of the state that an operation returns, alone or inside its result, that its memories are canonical when those of
the state it started from are. The memories change in `State.physWrite`, in a page's retirement and at a reset alone. -/

/- The lemmas are elaborated one after the other: in parallel, as many threads as lemmas wait for each other, and their stacks
pass the memory limit of the check. -/
set_option Elab.async false

namespace Sys2Proof.Machine

/-! ## What a result must satisfy -/

/-- An outcome that goes on does so in a state whose memories are canonical. -/
def OutcomeMemOk : Host.Outcome State Fault Refusal → Prop
  | .next s => s.MemOk
  | _ => True

/-- An instruction's own effect leaves the memories canonical. -/
def SlotResult.MemOk : SlotResult → Prop
  | .done s | .moved s | .placed s | .park _ s => s.MemOk
  | _ => True

/-- So does the state that a range record, a split request, a ray's fetch, a relocation or a line fetch answers with. -/
def RecRead.MemOk : RecRead → Prop
  | .ok _ s => s.MemOk
  | _ => True

def SplitRes.MemOk : SplitRes → Prop
  | .split _ s => s.MemOk
  | _ => True

def RFetch.MemOk : RFetch → Prop
  | .ok _ s => s.MemOk
  | _ => True

def Relocation.MemOk : Relocation → Prop
  | .stays s => s.MemOk
  | _ => True

def Fetch.MemOk : Fetch → Prop
  | .ok _ s => s.MemOk
  | _ => True

/-- The state that an optional result holds is canonical. -/
def OptionMemOk {α : Type} (p : α → State) (o : Option α) : Prop := ∀ x, o = some x → (p x).MemOk

/-- The state of a result that is no error is canonical. -/
def ExceptMemOk {ε α : Type} (p : α → State) (e : Except ε α) : Prop := ∀ x, e = .ok x → (p x).MemOk

/-- So are the states that an error and a result hold. -/
def EitherMemOk {ε α : Type} (p : ε → State) (q : α → State) (e : Except ε α) : Prop :=
  (∀ x, e = .error x → (p x).MemOk) ∧ ∀ x, e = .ok x → (q x).MemOk

protected theorem OptionMemOk.none {α : Type} {p : α → State} : OptionMemOk p none := nofun

protected theorem OptionMemOk.some {α : Type} {p : α → State} {x : α} (h : (p x).MemOk) : OptionMemOk p (some x) :=
  fun _ hx => Option.some.inj hx ▸ h

theorem ExceptMemOk.error {ε α : Type} {p : α → State} {e : ε} : ExceptMemOk p (.error e) := nofun

theorem ExceptMemOk.ok {ε α : Type} {p : α → State} {x : α} (h : (p x).MemOk) : ExceptMemOk (ε := ε) p (.ok x) :=
  fun _ hx => Except.ok.inj hx ▸ h

theorem EitherMemOk.error {ε α : Type} {p : ε → State} {q : α → State} {x : ε} (h : (p x).MemOk) :
    EitherMemOk p q (.error x) :=
  ⟨fun _ hx => Except.error.inj hx ▸ h, nofun⟩

theorem EitherMemOk.ok {ε α : Type} {p : ε → State} {q : α → State} {x : α} (h : (q x).MemOk) : EitherMemOk p q (.ok x) :=
  ⟨nofun, fun _ hx => Except.ok.inj hx ▸ h⟩

variable {s : State}

theorem OutcomeMemOk.next {o : Host.Outcome State Fault Refusal} (ho : OutcomeMemOk o) (he : o = .next s) : s.MemOk := by
  rwa [he] at ho

theorem RecRead.MemOk.ok {r : RecRead} {x : Nat} (hr : r.MemOk) (he : r = .ok x s) : s.MemOk := by
  rwa [he] at hr

theorem SplitRes.MemOk.split {r : SplitRes} {x : Nat} (hr : r.MemOk) (he : r = .split x s) : s.MemOk := by
  rwa [he] at hr

theorem RFetch.MemOk.ok {r : RFetch} {x : Nat} (hr : r.MemOk) (he : r = .ok x s) : s.MemOk := by
  rwa [he] at hr

theorem Relocation.MemOk.stays {r : Relocation} (hr : r.MemOk) (he : r = .stays s) : s.MemOk := by
  rwa [he] at hr

theorem Fetch.MemOk.ok {r : Fetch} {x : BitVec 512} (hr : r.MemOk) (he : r = .ok x s) : s.MemOk := by
  rwa [he] at hr

/-! ## How the model puts states together -/

/-- Fields other than the memories do not matter. -/
theorem State.MemOk.update {t : State} (hs : s.MemOk) (hm : t.mem = s.mem := by exact rfl)
    (hh : t.hostMem = s.hostMem := by exact rfl) (hd : t.domMem = s.domMem := by exact rfl) : t.MemOk := by
  unfold State.MemOk at *
  rwa [hm, hh, hd]

theorem State.MemOk.ite {t : State} {c : Prop} {_ : Decidable c} (hs : s.MemOk) (ht : t.MemOk) :
    (if c then s else t).MemOk := by
  split
  · exact hs
  · exact ht

theorem State.MemOk.snd {α : Type} {p : α × State} {a : α} (hp : p.2.MemOk) (he : p = (a, s)) : s.MemOk := by
  rwa [he] at hp

theorem State.MemOk.snd2 {α β : Type} {p : α × β × State} {a : α} {b : β} (hp : p.2.2.MemOk) (he : p = (a, b, s)) :
    s.MemOk := by
  rwa [he] at hp

theorem State.MemOk.fst {β : Type} {p : State × β} {b : β} (hp : p.1.MemOk) (he : p = (s, b)) : s.MemOk := by
  rwa [he] at hp

theorem State.MemOk.foldl {α : Type} {l : List α} {f : State → α → State} (hs : s.MemOk)
    (hf : ∀ s x, s.MemOk → (f s x).MemOk) : (l.foldl f s).MemOk := by
  induction l generalizing s with
  | nil => exact hs
  | cons x l ih => exact ih (hf s x hs)

/-- A fold that carries a state beside a result. -/
theorem State.MemOk.foldlSnd {α β : Type} {l : List α} {f : β × State → α → β × State} {p : β × State} (hp : p.2.MemOk)
    (hf : ∀ {p : β × State} {x : α}, p.2.MemOk → (f p x).2.MemOk) : (l.foldl f p).2.MemOk := by
  induction l generalizing p with
  | nil => exact hp
  | cons x l ih => exact ih (hf hp)

theorem State.MemOk.foldlFst {α β : Type} {l : List α} {f : State × β → α → State × β} {p : State × β} (hp : p.1.MemOk)
    (hf : ∀ {p : State × β} {x : α}, p.1.MemOk → (f p x).1.MemOk) : (l.foldl f p).1.MemOk := by
  induction l generalizing p with
  | nil => exact hp
  | cons x l ih => exact ih (hf hp)

/-- A fold that stops at the first error. -/
theorem ExceptMemOk.foldl {ε α : Type} {l : List α} {f : State → α → Except ε State} {e : Except ε State}
    (he : ExceptMemOk id e) (hf : ∀ s x, s.MemOk → ExceptMemOk id (f s x)) :
    ExceptMemOk id (l.foldl (fun e x => e.bind fun s => f s x) e) := by
  induction l generalizing e with
  | nil => exact he
  | cons x l ih =>
    refine ih ?_
    cases e with
    | error e => exact .error
    | ok s => exact hf s x (he s rfl)

/-- A fold that stops where there is no result. -/
theorem OptionMemOk.foldlBind {α : Type} {l : List α} {f : State → α → Option State} {o : Option State}
    (ho : OptionMemOk id o) (hf : ∀ s x, s.MemOk → OptionMemOk id (f s x)) :
    OptionMemOk id (l.foldl (fun o x => o.bind fun s => f s x) o) := by
  induction l generalizing o with
  | nil => exact ho
  | cons x l ih =>
    refine ih ?_
    cases o with
    | none => exact .none
    | some s => exact hf s x (ho s rfl)

protected theorem OptionMemOk.map {α β : Type} {p : β → State} {o : Option α} {f : α → β}
    (hf : ∀ x, o = some x → (p (f x)).MemOk) : OptionMemOk p (o.map f) := by
  cases o with
  | none => exact .none
  | some x => exact .some (hf x rfl)

/-! ## The named operations -/

theorem State.MemOk.putCore {k c} (hs : s.MemOk) : (s.putCore k c).MemOk := hs.update
theorem State.MemOk.modCore {k f} (hs : s.MemOk) : (s.modCore k f).MemOk := hs.putCore
theorem State.MemOk.putFrag {k f} (hs : s.MemOk) : (s.putFrag k f).MemOk := hs.update
theorem State.MemOk.modFrag {k f} (hs : s.MemOk) : (s.modFrag k f).MemOk := hs.update
theorem State.MemOk.putGroup {k g} (hs : s.MemOk) : (s.putGroup k g).MemOk := hs.update
theorem State.MemOk.modGroup {k f} (hs : s.MemOk) : (s.modGroup k f).MemOk := hs.update
theorem State.MemOk.putTeam {k t} (hs : s.MemOk) : (s.putTeam k t).MemOk := hs.update
theorem State.MemOk.modTeam {k f} (hs : s.MemOk) : (s.modTeam k f).MemOk := hs.update
theorem State.MemOk.modCtx {k f} (hs : s.MemOk) : (s.modCtx k f).MemOk := hs.update
theorem State.MemOk.putAcc {t a} (hs : s.MemOk) : (s.putAcc t a).MemOk := hs.update
theorem State.MemOk.modFun {k f} (hs : s.MemOk) : (s.modFun k f).MemOk := hs.update
theorem State.MemOk.modTileEng {d f} (hs : s.MemOk) : (s.modTileEng d f).MemOk := hs.update
theorem State.MemOk.takeFree (hs : s.MemOk) : s.takeFree.2.MemOk := hs.update

theorem State.MemOk.place {core hint mt pa} (hs : s.MemOk) : (s.place core hint mt pa).MemOk := State.place_memOk _ _ _ _ hs

theorem State.MemOk.physWrite {mt pa n x} (hs : s.MemOk) : (s.physWrite mt pa n x).MemOk := State.physWrite_memOk _ _ _ _ hs

theorem State.MemOk.touch {core cx va write hint} (hs : s.MemOk) : (s.touch core cx va write hint).MemOk :=
  State.touch_memOk _ _ _ _ _ hs

theorem State.MemOk.vwrite {core cx va n x} (hs : s.MemOk) :
    (s.vwrite core cx va n x).MemOk := State.vwrite_memOk _ _ _ _ _ hs

theorem State.MemOk.vstore {core cx va n x hint} (hs : s.MemOk) : (s.vstore core cx va n x hint).MemOk := by
  unfold State.vstore
  split
  · exact hs.touch.physWrite
  · exact hs

theorem State.MemOk.mapPage {va fuel table level} (hs : s.MemOk) : (State.mapPage va fuel table level s).MemOk := by
  induction fuel generalizing table level s with
  | zero => exact hs
  | succ fuel ih =>
    unfold State.mapPage
    extract_lets
    split
    · exact hs.ite (ih hs)
    · exact hs.takeFree.physWrite.ite (ih hs.takeFree.physWrite.physWrite)

theorem State.MemOk.countEv {core code n} (hs : s.MemOk) : (s.countEv core code n).MemOk := hs.modCore
theorem State.MemOk.enterRing {cx c r} (hs : s.MemOk) : (s.enterRing cx c r).MemOk := hs.physWrite.modCtx

theorem State.MemOk.postBits {cx r} (hs : s.MemOk) : (s.postBits cx r).MemOk := by
  unfold State.postBits
  split
  · exact hs
  · exact hs.modCtx.ite hs.enterRing

theorem State.MemOk.post {cx r} (hs : s.MemOk) : (s.post cx r).MemOk := hs.postBits

theorem State.MemOk.consumeRecord {cx} (hs : s.MemOk) : (s.consumeRecord cx).MemOk := by
  unfold State.consumeRecord
  split
  · exact hs
  · split
    · exact hs
    · extract_lets
      split
      · exact hs.modCtx
      · exact hs.modCtx.modCtx.enterRing

theorem State.MemOk.spillHeader {gid lane r} (hs : s.MemOk) : (s.spillHeader gid lane r).MemOk := by
  unfold State.spillHeader
  split
  · exact hs
  · split
    · exact hs
    · split
      · exact hs
      · exact hs.takeFree.vwrite.vwrite

theorem State.MemOk.clearSpill {gid lane} (hs : s.MemOk) : (s.clearSpill gid lane).MemOk := by
  unfold State.clearSpill
  split
  · exact hs.vwrite
  · exact hs

theorem State.MemOk.spillRays {core p} (hs : s.MemOk) : (s.spillRays core p).MemOk := by
  refine hs.foldl fun _ _ hs => ?_
  extract_lets _ s1
  have h1 : s1.MemOk := hs.modCore
  exact h1.update.modGroup.spillHeader

theorem State.MemOk.park {fid w} (hs : s.MemOk) : (s.park fid w).MemOk := hs.modFrag
theorem State.MemOk.forgetLatches {gid} (hs : s.MemOk) : (s.forgetLatches gid).MemOk := hs.foldl fun _ _ hs => hs.modFrag

theorem State.MemOk.takeTrap {h r} (hs : s.MemOk) : (s.takeTrap h r).MemOk := by
  unfold State.takeTrap
  extract_lets _ _ s3
  have h3 : s3.MemOk := hs.park.modFrag.spillRays
  exact (h3.countEv.ite h3).post

theorem State.MemOk.raiseMsix {fn v} (hs : s.MemOk) : (s.raiseMsix fn v).MemOk := hs.modFun

theorem State.MemOk.logEvent {kind array decision pa who count} (hs : s.MemOk) :
    (s.logEvent kind array decision pa who count).MemOk :=
  hs.update

theorem State.MemOk.freeze {h c arr pa} (hs : s.MemOk) : (s.freeze h c arr pa).MemOk :=
  hs.logEvent.raiseMsix.park.modGroup.foldl fun _ _ hs => hs.modCore

theorem State.MemOk.freezeGroup {gid arr pa} (hs : s.MemOk) : (s.freezeGroup gid arr pa).MemOk := by
  unfold State.freezeGroup
  extract_lets
  split
  · exact hs.freeze
  · split
    · exact hs
    · exact hs.freeze

theorem State.MemOk.resume {fid} (hs : s.MemOk) : (s.resume fid).MemOk := hs.modFrag
theorem State.MemOk.stopFrag {fid} (hs : s.MemOk) : (s.stopFrag fid).MemOk := hs.modFrag

theorem State.MemOk.stopIssuer {fid uid waits} (hs : s.MemOk) : (s.stopIssuer fid uid waits).MemOk := by
  unfold State.stopIssuer
  split
  · exact hs
  · split
    · exact hs
    · split
      · exact hs.park
      · exact hs.modFrag
      · exact hs.modFrag.ite hs.stopFrag
      · exact hs.stopFrag

theorem State.MemOk.stopGroup {gid} (hs : s.MemOk) : (s.stopGroup gid).MemOk := hs.foldl fun _ _ hs => hs.stopFrag
theorem State.MemOk.haltNow {gid} (hs : s.MemOk) : (s.haltNow gid).MemOk := hs.modGroup.foldl fun _ _ hs => hs.modFrag

theorem State.MemOk.account {fid gid f} (hs : s.MemOk) : (s.account fid gid f).MemOk := by
  unfold State.account
  exact ((hs.ite hs.modFrag).modGroup).ite (hs.ite hs.modFrag)

theorem State.MemOk.finish {h i} (hs : s.MemOk) : (s.finish h i).MemOk := hs.account.modFrag

theorem State.MemOk.finishParked {fid} (hs : s.MemOk) : (s.finishParked fid).MemOk := by
  unfold State.finishParked
  split
  · exact hs
  · exact hs.account.modFrag

theorem State.MemOk.conclude {h i} {r : SlotResult} (hs : s.MemOk) (hr : r.MemOk) : (s.conclude h i r).MemOk := by
  cases r with
  | done t => exact State.MemOk.finish hr
  | moved t => exact State.MemOk.account hr
  | placed t => exact hr
  | trap r => exact hs.takeTrap
  | stall => exact hs.modFrag
  | park w t => exact State.MemOk.park hr
  | freeze c arr pa => exact hs.freeze

/-! ## Register writes and the frame of an instruction -/

theorem State.MemOk.latch {h x} (hs : s.MemOk) : (s.latch h x).MemOk := hs.modFrag.ite hs

theorem State.MemOk.writeVec {h dst ws wide act f} (hs : s.MemOk) : (s.writeVec h dst ws wide act f).MemOk := by
  unfold State.writeVec
  extract_lets
  split
  · exact hs.latch.ite hs.latch.modGroup
  · exact hs.latch

theorem State.MemOk.writeS {h dst ws x} (hs : s.MemOk) : (s.writeS h dst ws x).MemOk := by
  unfold State.writeS
  extract_lets
  split
  · exact hs.latch.ite hs.latch.modGroup
  · exact hs.latch

theorem State.MemOk.writeK {h dst ws act x} (hs : s.MemOk) : (s.writeK h dst ws act x).MemOk := by
  unfold State.writeK
  split
  · exact hs.latch.ite hs.latch.modGroup
  · exact hs

theorem State.MemOk.writeC {h dst ws x} (hs : s.MemOk) : (s.writeC h dst ws x).MemOk := by
  unfold State.writeC
  split
  · exact hs.latch.ite hs.latch.modGroup
  · exact hs

theorem State.MemOk.addPend {gid p} (hs : s.MemOk) : (s.addPend gid p).MemOk := hs.modGroup

theorem State.MemOk.runSlot {i act} (hs : s.MemOk) (hact : ∀ h s, s.MemOk → (act h s).MemOk) :
    OutcomeMemOk (runSlot i act s) := by
  unfold Machine.runSlot
  split
  · trivial
  · split
    · exact hs.takeTrap
    · split
      · exact hs.conclude trivial
      · split
        · exact hs.freeze
        · exact hs.conclude (hact _ _ hs)

/-! ## Flags -/

theorem State.MemOk.raise {gid fl} (hs : s.MemOk) : (s.raise gid fl).MemOk := hs.ite hs.modGroup
theorem State.MemOk.putI {h w f} (hs : s.MemOk) : (s.putI h w f).MemOk := hs.writeS.ite hs.writeVec
theorem State.MemOk.putF {h w f} (hs : s.MemOk) : (s.putF h w f).MemOk := hs.writeS.raise.ite hs.writeVec.raise

theorem State.MemOk.putCmp {h w f} (hs : s.MemOk) : (s.putCmp h w f).MemOk := by
  unfold State.putCmp
  split
  · exact hs.writeC.raise
  · exact hs.writeK.raise

/-! ## Addresses, Hasp entries and accesses -/

theorem State.MemOk.deliver {h dst wd vals load} (hs : s.MemOk) : (s.deliver h dst wd vals load).MemOk := hs.addPend.ite hs

theorem State.MemOk.haspAdd {core xs} (hs : s.MemOk) : OptionMemOk (·.2) (s.haspAdd core xs) := by
  unfold State.haspAdd
  extract_lets
  split
  · exact .none
  · exact .some hs.modCore

theorem State.MemOk.haspDrop {core ids} (hs : s.MemOk) : (s.haspDrop core ids).MemOk := hs.modCore

theorem State.MemOk.eatPoison {h k l} (_ : s.MemOk) : (s.eatPoison h k l).MemOk := trivial

theorem State.MemOk.keepCopies {core tid lines} (hs : s.MemOk) : (s.keepCopies core tid lines).MemOk := by
  unfold State.keepCopies
  split
  · exact hs
  · exact hs.update

theorem State.MemOk.dropCopies {tid lines} (hs : s.MemOk) : (s.dropCopies tid lines).MemOk := hs.ite hs.update

theorem State.MemOk.sideAdd {h lanes info mk mask} (hs : s.MemOk) : OptionMemOk id (s.sideAdd h lanes info mk mask) := by
  unfold State.sideAdd
  extract_lets
  split
  · exact .some hs
  · split
    · exact .none
    · exact .some hs.countEv.modCore

theorem State.MemOk.postReport {gid fid r} (hs : s.MemOk) : (s.postReport gid fid r).MemOk := by
  unfold State.postReport
  split
  · exact hs
  · split
    · exact hs
    · exact hs.post

theorem State.MemOk.noteLost {gid fid r} (hs : s.MemOk) : (s.noteLost gid fid r).MemOk := hs.modGroup

theorem State.MemOk.noteLostLanes {h ls ea mask} (hs : s.MemOk) : (s.noteLostLanes h ls ea mask).MemOk := by
  unfold State.noteLostLanes
  extract_lets r1
  clear_value r1
  split
  · exact hs
  · exact hs.noteLost

/-! ## Loads and stores -/

theorem State.MemOk.performLoad {h w ls at_ ea} (hs : s.MemOk) : (s.performLoad h w ls at_ ea).MemOk :=
  (hs.foldl fun _ _ hs => hs.touch).deliver

theorem State.MemOk.ldSlot {w h} (hs : s.MemOk) : (ldSlot w h s).MemOk := by
  unfold Machine.ldSlot
  split
  · exact trivial
  · extract_lets
    split
    · exact trivial
    · split
      · exact hs.eatPoison
      · exact hs.performLoad

theorem State.MemOk.execLd {w} (hs : s.MemOk) : OutcomeMemOk (execLd w s) := hs.runSlot fun _ _ hs => hs.ldSlot

theorem State.MemOk.ldscSlot {w h} (hs : s.MemOk) : (ldscSlot w h s).MemOk := by
  unfold Machine.ldscSlot
  split
  · exact trivial
  · extract_lets
    split
    · exact hs
    · split
      · exact trivial
      · split
        · exact hs.eatPoison
        · exact hs.performLoad

theorem State.MemOk.execLdsc {w} (hs : s.MemOk) : OutcomeMemOk (execLdsc w s) := hs.runSlot fun _ _ hs => hs.ldscSlot

theorem State.MemOk.storeLanes {h w ls ea mask} (hs : s.MemOk) : (s.storeLanes h w ls ea mask).MemOk := by
  unfold State.storeLanes
  extract_lets
  split
  · exact trivial
  · split
    · split
      · exact trivial
      · exact hs
    · split
      · exact hs.eatPoison
      · split
        · exact trivial
        next s1 he1 =>
          exact ((hs.sideAdd _ he1).foldl fun _ _ hs => hs.vstore).noteLostLanes

theorem State.MemOk.execSt {w} (hs : s.MemOk) : OutcomeMemOk (execSt w s) := hs.runSlot fun _ _ hs => hs.storeLanes
theorem State.MemOk.execStsc {w} (hs : s.MemOk) : OutcomeMemOk (execStsc w s) := hs.runSlot fun _ _ hs => hs.storeLanes

theorem State.MemOk.scrLoad {h w tid act off} (hs : s.MemOk) : (s.scrLoad h w tid act off).MemOk := by
  unfold State.scrLoad
  split
  · exact hs
  · extract_lets
    split
    · split
      · exact hs
      · split
        · exact hs.addPend
        · exact hs
    · split
      · exact trivial
      · exact hs.keepCopies.deliver

theorem State.MemOk.scrStore {h w tid act off} (hs : s.MemOk) : (s.scrStore h w tid act off).MemOk := by
  unfold State.scrStore
  split
  · exact hs
  · extract_lets
    split
    · split
      · exact trivial
      next s1 he1 =>
        exact hs.sideAdd _ he1
    · split
      · exact trivial
      · exact hs.dropCopies.putTeam

theorem State.MemOk.ldsSlot {w h} (hs : s.MemOk) : (ldsSlot w h s).MemOk := by
  unfold Machine.ldsSlot
  split
  · exact trivial
  · extract_lets
    split
    · exact trivial
    · exact hs.scrLoad

theorem State.MemOk.execLds {w} (hs : s.MemOk) : OutcomeMemOk (execLds w s) := hs.runSlot fun _ _ hs => hs.ldsSlot

theorem State.MemOk.stsSlot {w h} (hs : s.MemOk) : (stsSlot w h s).MemOk := by
  unfold Machine.stsSlot
  split
  · exact trivial
  · extract_lets
    split
    · exact trivial
    · exact hs.scrStore

theorem State.MemOk.execSts {w} (hs : s.MemOk) : OutcomeMemOk (execSts w s) := hs.runSlot fun _ _ hs => hs.stsSlot

theorem State.MemOk.ldcSlot {w h} (hs : s.MemOk) : (ldcSlot w h s).MemOk := by
  unfold Machine.ldcSlot
  split
  · exact trivial
  · extract_lets
    split
    · exact trivial
    · split
      · exact hs.scrLoad
      · exact hs

theorem State.MemOk.execLdc {w} (hs : s.MemOk) : OutcomeMemOk (execLdc w s) := hs.runSlot fun _ _ hs => hs.ldcSlot

theorem State.MemOk.stcSlot {w h} (hs : s.MemOk) : (stcSlot w h s).MemOk := by
  unfold Machine.stcSlot
  split
  · exact trivial
  · extract_lets
    split
    · exact trivial
    · split
      · exact hs.scrStore
      · exact hs

theorem State.MemOk.execStc {w} (hs : s.MemOk) : OutcomeMemOk (execStc w s) := hs.runSlot fun _ _ hs => hs.stcSlot

theorem State.MemOk.prefLane {h w va} (hs : s.MemOk) : (s.prefLane h w va).MemOk := by
  unfold State.prefLane
  split
  · exact hs
  · split
    · exact hs.place
    · exact hs

theorem State.MemOk.execPref {w} (hs : s.MemOk) : OutcomeMemOk (execPref w s) :=
  hs.runSlot fun _ _ hs => hs.foldl fun _ _ hs => hs.prefLane

theorem State.MemOk.cctlSlot {clean inval w h} (hs : s.MemOk) : (cctlSlot clean inval w h s).MemOk := by
  unfold Machine.cctlSlot
  extract_lets
  split
  · exact trivial
  · split
    · exact hs
    · split
      · exact trivial
      · exact ((hs.update.ite hs).modCore).ite (hs.update.ite hs)

theorem State.MemOk.execCctlClean {w} (hs : s.MemOk) :
    OutcomeMemOk (execCctlClean w s) := hs.runSlot fun _ _ hs => hs.cctlSlot

theorem State.MemOk.execCctlInval {w} (hs : s.MemOk) :
    OutcomeMemOk (execCctlInval w s) := hs.runSlot fun _ _ hs => hs.cctlSlot

theorem State.MemOk.execCctlCinv {w} (hs : s.MemOk) :
    OutcomeMemOk (execCctlCinv w s) := hs.runSlot fun _ _ hs => hs.cctlSlot

theorem State.MemOk.unblock {gid} (hs : s.MemOk) : (s.unblock gid).MemOk := hs.foldl fun _ _ hs => hs.modFrag

theorem State.MemOk.peerRead {gid id p} (hs : s.MemOk) : (s.peerRead gid id p).MemOk := by
  unfold State.peerRead
  split
  · exact hs
  · split
    · exact hs
    · split
      · exact hs
      · extract_lets _ s1
        have h1 : s1.MemOk := by
          unfold s1
          split
          · exact hs.keepCopies
          · exact hs
        exact h1.modGroup

theorem State.MemOk.settlePeers {tid} (hs : s.MemOk) : (s.settlePeers tid).MemOk :=
  hs.foldl fun _ _ hs => hs.foldl fun _ _ hs => (hs.peerRead.ite hs)

theorem State.MemOk.execLongLatencyWriteLand {gid id} (hs : s.MemOk) :
    OutcomeMemOk (execLongLatencyWriteLand gid id s) := by
  unfold Machine.execLongLatencyWriteLand
  split
  · exact hs
  · extract_lets
    split
    · exact hs.peerRead
    · split
      · exact hs.peerRead
      · split
        · exact hs.peerRead.modGroup.freezeGroup
        · extract_lets _ s3
          have h3 : s3.MemOk := by
            unfold s3
            split
            · extract_lets s4
              have h4 : s4.MemOk := hs.peerRead.modGroup.postReport
              exact h4.stopIssuer.ite h4.stopGroup
            · exact hs.peerRead.modGroup
          exact h3.unblock

/-! ## Atomics -/

theorem State.MemOk.atomWrite {core cx va n x} (hs : s.MemOk) : (s.atomWrite core cx va n x).MemOk := by
  unfold State.atomWrite
  split
  · exact hs.update
  · split
    · exact hs.physWrite
    · exact hs

theorem State.MemOk.atomEat {h l} (hs : s.MemOk) : (s.atomEat h l).MemOk := by
  unfold State.atomEat
  split
  · split
    · exact trivial
    · exact hs.eatPoison
  · exact trivial

theorem State.MemOk.atomApply {core cx tid m w a x} (hs : s.MemOk) : (s.atomApply core cx tid m w a x).2.MemOk := by
  unfold State.atomApply
  extract_lets
  split
  · split
    · exact hs
    · extract_lets
      split
      · exact hs.dropCopies.putTeam
      · exact hs
  · split
    · exact (hs.ite hs.touch).atomWrite
    · exact hs.ite hs.touch

theorem State.MemOk.atomLanes {core cx tid m w ops} (hs : s.MemOk) : (s.atomLanes core cx tid m w ops).2.MemOk :=
  State.MemOk.foldlSnd hs fun hp => hp.atomApply

theorem State.MemOk.atomIssue {h m w ls ea} (hs : s.MemOk) : (s.atomIssue h m w ls ea).MemOk := by
  unfold State.atomIssue
  extract_lets
  split
  · split
    · exact trivial
    next s1 he1 =>
      exact (hs.sideAdd _ he1).ite ((hs.sideAdd _ he1).addPend)
  · exact hs.atomLanes.deliver

theorem State.MemOk.globalAtomic {m w cell hostOk h} (hs : s.MemOk) : (globalAtomic m w cell hostOk h s).MemOk := by
  unfold Machine.globalAtomic
  split
  · exact trivial
  · extract_lets
    split
    · exact trivial
    · split
      · exact hs.atomEat
      · exact hs.atomIssue

theorem State.MemOk.execAtom {w} (hs : s.MemOk) : OutcomeMemOk (execAtom w s) := hs.runSlot fun _ _ hs => hs.globalAtomic
theorem State.MemOk.execBins {w} (hs : s.MemOk) : OutcomeMemOk (execBins w s) := hs.runSlot fun _ _ hs => hs.globalAtomic
theorem State.MemOk.execBffcs {w} (hs : s.MemOk) : OutcomeMemOk (execBffcs w s) := hs.runSlot fun _ _ hs => hs.globalAtomic
theorem State.MemOk.execBpls {w} (hs : s.MemOk) : OutcomeMemOk (execBpls w s) := hs.runSlot fun _ _ hs => hs.globalAtomic

theorem State.MemOk.redSlot {w h} (hs : s.MemOk) : (redSlot w h s).MemOk := by
  unfold Machine.redSlot
  split
  · exact trivial
  · extract_lets
    split
    · split
      · exact trivial
      · exact hs
    · split
      · exact hs.eatPoison
      · split
        · exact trivial
        next s1 he1 =>
          exact ((hs.sideAdd _ he1).atomLanes).noteLostLanes

theorem State.MemOk.execRed {w} (hs : s.MemOk) : OutcomeMemOk (execRed w s) := hs.runSlot fun _ _ hs => hs.redSlot

theorem State.MemOk.atomsSlot {w h} (hs : s.MemOk) : (atomsSlot w h s).MemOk := by
  unfold Machine.atomsSlot
  split
  · exact trivial
  · extract_lets
    split
    · exact trivial
    · split
      · exact hs
      · split
        · exact trivial
        · exact hs.atomIssue

theorem State.MemOk.execAtoms {w} (hs : s.MemOk) : OutcomeMemOk (execAtoms w s) := hs.runSlot fun _ _ hs => hs.atomsSlot

theorem State.MemOk.putBytes {core cx bs} (hs : s.MemOk) : (s.putBytes core cx bs).MemOk :=
  hs.foldl fun _ _ hs => (hs.vstore.ite (hs.foldl fun _ _ hs => hs.vstore))

theorem State.MemOk.logValues {gid w pend vals} (hs : s.MemOk) : (s.logValues gid w pend vals).MemOk := by
  unfold State.logValues
  split
  · exact hs
  · exact hs.modGroup

theorem State.MemOk.sidePerform {e} (hs : s.MemOk) : (s.sidePerform e).MemOk := by
  unfold State.sidePerform
  split
  · exact hs
  · extract_lets _ s1
    have h1 : s1.MemOk := by
      unfold s1
      split
      · exact hs.noteLost
      · exact hs
    split
    · exact h1.putBytes
    · exact h1.foldl fun _ _ hs => hs.touch.atomWrite
    · exact h1.dropCopies.modTeam
    · exact h1.atomLanes.logValues

theorem State.MemOk.sideDiscard {e} (hs : s.MemOk) : (s.sideDiscard e).MemOk := by
  unfold State.sideDiscard
  split
  · exact hs.update.logValues
  · exact hs

theorem State.MemOk.sideVoid {e} (hs : s.MemOk) : (s.sideVoid e).MemOk := by
  unfold State.sideVoid
  split
  · exact hs.modGroup
  · exact hs

theorem State.MemOk.execSideLogPerform {core mappable} (hs : s.MemOk) :
    OutcomeMemOk (execSideLogPerform core mappable s) := by
  unfold Machine.execSideLogPerform
  extract_lets _ f1
  have hf1 : ∀ i s, s.MemOk → (f1 i s).MemOk := fun _ _ hs => hs.modCore
  split
  · split
    · split
      · exact ((hf1 _ _ hs).sideVoid).freezeGroup
      · exact (hf1 _ _ hs).sidePerform
    · exact hs
  · split
    · exact (((hf1 _ _ hs).sideDiscard).postReport).stopGroup
    · exact hs

/-! ## Dependence counters, tasks, stamps and records -/

theorem State.MemOk.postAsync {cx cause detail info addr l} (hs : s.MemOk) :
    (s.postAsync cx cause detail info addr l).MemOk :=
  hs.post

theorem State.MemOk.addLaunch {l} (hs : s.MemOk) : (s.addLaunch l).2.MemOk := hs.update
theorem State.MemOk.modLaunch {l f} (hs : s.MemOk) : (s.modLaunch l f).MemOk := hs.update

theorem State.MemOk.readRecord {agent cx va} (hs : s.MemOk) : (s.readRecord agent cx va).MemOk := by
  unfold State.readRecord
  split
  · exact trivial
  · split
    · extract_lets
      split
      · exact trivial
      · exact hs.touch
    · exact trivial
    · exact trivial

theorem State.MemOk.loadRange {agent cx va n} (hs : s.MemOk) : OptionMemOk (·.2) (s.loadRange agent cx va n) := by
  unfold State.loadRange
  extract_lets
  split
  · exact .none
  · exact .some hs.touch.touch

theorem State.MemOk.reuseList {agent cx va} (hs : s.MemOk) : OptionMemOk (·.2) (s.reuseList agent cx va) := by
  unfold State.reuseList
  split
  · exact .none
  · split
    · exact .none
    next _ s1 he1 =>
      split
      · exact .none
      · split
        · exact .some (hs.loadRange _ he1)
        · split
          · exact .none
          next _ s2 he2 =>
            extract_lets
            split
            · exact .none
            · exact .some ((hs.loadRange _ he1).loadRange _ he2)

theorem State.MemOk.postUsage {cx l range hint kind acc miss} (hs : s.MemOk) :
    (s.postUsage cx l range hint kind acc miss).MemOk := by
  unfold State.postUsage
  split
  · exact hs
  · exact hs.modCtx.ite hs.physWrite.modCtx

theorem State.MemOk.imageLaunch {agent ln} (hs : s.MemOk) : (s.imageLaunch agent ln).MemOk := by
  unfold State.imageLaunch
  split
  · exact hs
  · split
    · exact hs
    · split
      · exact hs
      · exact hs.modLaunch
      next _ s1 he1 =>
        extract_lets _ s2
        have h2 : s2.MemOk := (hs.readRecord.ok he1).modLaunch
        split
        · exact h2
        · split
          next _ s3 he3 =>
            exact (h2.reuseList _ he3).modLaunch
          · exact h2.postUsage

theorem State.MemOk.acceptLaunch {l} (hs : s.MemOk) : (s.acceptLaunch l).MemOk := by
  unfold State.acceptLaunch
  extract_lets s1
  have h1 : s1.MemOk := hs.modLaunch
  exact h1.update

theorem State.MemOk.portDone {cx ticket} (hs : s.MemOk) : (s.portDone cx ticket).MemOk := by
  unfold State.portDone
  split
  · exact hs.modCtx
  · exact hs

theorem State.MemOk.freeTask {l} (hs : s.MemOk) : (s.freeTask l).MemOk := by
  unfold State.freeTask
  split
  · exact hs
  · exact hs.modCtx

theorem State.MemOk.fireTask {l scope} (hs : s.MemOk) : (s.fireTask l scope).MemOk := hs.freeTask.modLaunch.imageLaunch

theorem State.MemOk.dropTask {l} (hs : s.MemOk) : (s.dropTask l).MemOk := by
  unfold State.dropTask
  split
  · exact hs
  · exact hs.freeTask.portDone.update

theorem State.MemOk.settle {cx key count armed task sigs scope} (hs : s.MemOk) :
    (s.settle cx key count armed task sigs scope).MemOk := by
  unfold State.settle
  split
  · extract_lets
    split
    · exact (hs.update.postAsync.ite hs.update).fireTask
    · exact hs.update.postAsync.ite hs.update
  · exact hs.update

theorem State.MemOk.signal {cx key n scope} (hs : s.MemOk) : ExceptMemOk id (s.signal cx key n scope) := by
  unfold State.signal
  split
  · exact .ok hs.settle
  · exact .ok hs.settle
  · exact .error

theorem State.MemOk.arm {cx key n task} (hs : s.MemOk) : ExceptMemOk id (s.arm cx key n task) := by
  unfold State.arm
  split
  · exact .ok hs.settle
  · split
    · exact .error
    · exact .ok hs.settle
  · exact .error

theorem State.MemOk.stampWrite {core cx va v} (hs : s.MemOk) : (s.stampWrite core cx va v).MemOk := hs.vstore

theorem State.MemOk.stampAt {core cx va v l} (hs : s.MemOk) : EitherMemOk id id (s.stampAt core cx va v l) := by
  unfold State.stampAt
  split
  · exact .ok hs
  · split
    · exact .ok hs.stampWrite
    · split
      next _ s1 he1 =>
        split
        · exact .error (hs.takeFree.snd he1)
        · exact .ok ((hs.takeFree.snd he1).postAsync)

theorem State.MemOk.launchStamp {cx va v l} (hs : s.MemOk) : EitherMemOk id id (s.launchStamp cx va v l) := by
  unfold State.launchStamp
  split
  · exact .ok hs
  · exact hs.stampAt

theorem State.MemOk.signalDone {cx va scope l} (hs : s.MemOk) : (s.signalDone cx va scope l).MemOk := by
  unfold State.signalDone
  split
  · exact hs
  · split
    · exact hs.postAsync
    · split
      next s1 he1 =>
        exact hs.signal _ he1
      · exact hs.postAsync

/-! ## Synchronisation -/

theorem State.MemOk.setFlag {gid dst x} (hs : s.MemOk) : (s.setFlag gid dst x).MemOk := by
  unfold State.setFlag
  split
  · exact hs.modGroup
  · exact hs

theorem State.MemOk.answer {fid x} (hs : s.MemOk) : (s.answer fid x).MemOk := by
  unfold State.answer
  split
  · exact hs
  · exact hs.setFlag.finishParked

theorem State.MemOk.lostAt {fid va} (hs : s.MemOk) : (s.lostAt fid va).MemOk := by
  unfold State.lostAt
  split
  · exact hs.answer
  · split
    · exact hs
    · exact hs.takeTrap

theorem State.MemOk.leaveLost {fid} (hs : s.MemOk) : (s.leaveLost fid).MemOk := by
  unfold State.leaveLost
  split
  · exact hs
  · split
    · exact hs.modFrag.ite hs.lostAt
    · exact hs.modFrag.ite hs.lostAt
    · exact hs

theorem State.MemOk.settleLost {tid} (hs : s.MemOk) : (s.settleLost tid).MemOk := by
  unfold State.settleLost
  refine hs.foldl fun _ _ hs => ?_
  split
  · exact hs.lostAt.ite hs
  · exact hs

theorem State.MemOk.syncFail {h dst va detail} (hs : s.MemOk) : (syncFail h dst va detail s).MemOk := by
  unfold Machine.syncFail
  split
  · exact hs.setFlag
  · exact trivial

theorem kindTrap_memOk {h va} : (kindTrap h va).MemOk := trivial

theorem State.MemOk.syncSlot {w whole f h} (hs : s.MemOk) (hf : ∀ x y z s, s.MemOk → (f x y z s).MemOk) :
    (syncSlot w whole f h s).MemOk := by
  unfold Machine.syncSlot
  split
  · exact trivial
  · extract_lets
    split
    · exact trivial
    · split
      · exact trivial
      · split
        · exact trivial
        · exact hf _ _ _ _ hs

theorem State.MemOk.sobjInit {w k bad h va key} (hs : s.MemOk) : (sobjInit w k bad h va key s).MemOk := by
  unfold Machine.sobjInit
  extract_lets
  split
  · split
    · exact hs.syncFail
    · exact hs.update.setFlag
  · split
    · exact hs.syncFail
    · exact hs.syncFail
    · split
      · exact hs.syncFail
      · split
        · exact hs.syncFail
        · exact hs.update.setFlag

theorem State.MemOk.execSobjBar {w} (hs : s.MemOk) : OutcomeMemOk (execSobjBar w s) :=
  hs.runSlot fun _ _ hs => hs.syncSlot fun _ _ _ _ hs => hs.sobjInit

theorem State.MemOk.execSobjSem {w} (hs : s.MemOk) : OutcomeMemOk (execSobjSem w s) :=
  hs.runSlot fun _ _ hs => hs.syncSlot fun _ _ _ _ hs => hs.sobjInit

theorem State.MemOk.execSobjCell {w} (hs : s.MemOk) : OutcomeMemOk (execSobjCell w s) :=
  hs.runSlot fun _ _ hs => hs.syncSlot fun _ _ _ _ hs => hs.sobjInit

theorem State.MemOk.sobjInv {w h va key} (hs : s.MemOk) : (sobjInv w h va key s).MemOk := by
  unfold Machine.sobjInv
  split
  · exact hs.setFlag
  · split
    · exact hs.syncFail
    · extract_lets _ s2
      have h2 : s2.MemOk := by
        unfold s2
        split
        · exact hs.update.dropTask
        · exact hs.update
      exact h2.setFlag
    · exact (hs.update.foldl fun _ _ hs => hs.leaveLost).setFlag

theorem State.MemOk.execSobjInv {w} (hs : s.MemOk) : OutcomeMemOk (execSobjInv w s) :=
  hs.runSlot fun _ _ hs => hs.syncSlot fun _ _ _ _ hs => hs.sobjInv

theorem State.MemOk.arrive {key o gen expect arrived} (hs : s.MemOk) : (s.arrive key o gen expect arrived).MemOk :=
  hs.update.ite (hs.update.foldl fun _ _ hs => hs.answer)

theorem State.MemOk.execSarv {w} (hs : s.MemOk) : OutcomeMemOk (execSarv w s) := by
  unfold Machine.execSarv
  refine hs.runSlot fun _ _ hs => hs.syncSlot fun _ _ _ _ hs => ?_
  split
  · split
    · exact hs.arrive.writeS
    · exact kindTrap_memOk
  · exact kindTrap_memOk

theorem State.MemOk.execSwait {w} (hs : s.MemOk) : OutcomeMemOk (execSwait w s) := by
  unfold Machine.execSwait
  refine hs.runSlot fun _ _ hs => hs.syncSlot fun _ _ _ _ hs => ?_
  split
  · exact hs.syncFail
  · split
    · extract_lets
      split
      · exact hs.setFlag
      · exact hs.update
    · exact kindTrap_memOk

theorem State.MemOk.serve {key} (hs : s.MemOk) : (s.serve key).MemOk := by
  unfold State.serve
  split
  · exact hs
  · split
    · exact hs.update.foldl fun _ _ hs => hs.answer
    · exact hs

theorem State.MemOk.execSarvPost {w} (hs : s.MemOk) : OutcomeMemOk (execSarvPost w s) := by
  unfold Machine.execSarvPost
  refine hs.runSlot fun _ _ hs => hs.syncSlot fun _ _ _ _ hs => ?_
  split
  · split
    · extract_lets
      split
      · exact hs.syncFail
      · exact hs.update.serve.setFlag
    · exact kindTrap_memOk
  · exact kindTrap_memOk

theorem State.MemOk.takeSlot {w tryOnly h va key} (hs : s.MemOk) : (takeSlot w tryOnly h va key s).MemOk := by
  unfold Machine.takeSlot
  split
  · split
    · extract_lets
      split
      · exact hs.setFlag
      · split
        · exact hs.update.setFlag
        · split
          · exact hs.syncFail
          · exact hs.update
    · exact kindTrap_memOk
  · exact kindTrap_memOk

theorem State.MemOk.execSwaitTake {w} (hs : s.MemOk) : OutcomeMemOk (execSwaitTake w s) :=
  hs.runSlot fun _ _ hs => hs.syncSlot fun _ _ _ _ hs => hs.takeSlot

theorem State.MemOk.execSwaitTry {w} (hs : s.MemOk) : OutcomeMemOk (execSwaitTry w s) :=
  hs.runSlot fun _ _ hs => hs.syncSlot fun _ _ _ _ hs => hs.takeSlot

theorem State.MemOk.withdraw {fid} (hs : s.MemOk) : (s.withdraw fid).MemOk := by
  unfold State.withdraw
  split
  · exact hs.update.serve
  · exact hs.update.serve
  · exact hs

theorem State.MemOk.execSyncRequestRetry {fid} (hs : s.MemOk) : OutcomeMemOk (execSyncRequestRetry fid s) := by
  unfold Machine.execSyncRequestRetry
  split
  · split
    · extract_lets
      split
      · exact hs.update.modFrag
      · exact hs
    · exact hs
  · exact hs

theorem State.MemOk.cntaSlot {w f h} (hs : s.MemOk) (hf : ∀ x y z s, s.MemOk → ExceptMemOk id (f x y z s)) :
    (cntaSlot w f h s).MemOk := by
  unfold Machine.cntaSlot
  split
  · exact trivial
  · extract_lets
    split
    · exact trivial
    · split
      · exact trivial
      · split
        · exact hs.syncFail
        · split
          · exact trivial
          · split
            · exact trivial
            · split
              next s1 he1 =>
                exact (hf _ _ _ _ hs _ he1).setFlag
              · exact kindTrap_memOk
              · exact hs.syncFail

theorem State.MemOk.execCntaSig {w} (hs : s.MemOk) : OutcomeMemOk (execCntaSig w s) :=
  hs.runSlot fun _ _ hs => hs.cntaSlot fun _ _ _ _ hs => hs.signal

theorem State.MemOk.execCntaArm {w} (hs : s.MemOk) : OutcomeMemOk (execCntaArm w s) :=
  hs.runSlot fun _ _ hs => hs.cntaSlot fun _ _ _ _ hs => hs.arm

theorem State.MemOk.execFenceAcq {w} (hs : s.MemOk) : OutcomeMemOk (execFenceAcq w s) := hs.runSlot fun _ _ hs => hs

theorem State.MemOk.execFenceRel {w} (hs : s.MemOk) : OutcomeMemOk (execFenceRel w s) := by
  unfold Machine.execFenceRel
  refine hs.runSlot fun _ _ hs => ?_
  split
  · exact trivial
  · exact hs

theorem State.MemOk.execFenceAr {w} (hs : s.MemOk) : OutcomeMemOk (execFenceAr w s) := by
  unfold Machine.execFenceAr
  refine hs.runSlot fun _ _ hs => ?_
  split
  · exact trivial
  · exact hs

theorem State.MemOk.mwaitTouch {h va} (hs : s.MemOk) : (s.mwaitTouch h va).MemOk := hs.ite hs.touch

theorem State.MemOk.execMwait {w} (hs : s.MemOk) : OutcomeMemOk (execMwait w s) := by
  unfold Machine.execMwait
  refine hs.runSlot fun _ _ hs => ?_
  split
  · exact trivial
  · extract_lets
    split
    · exact trivial
    · split
      · split
        · exact trivial
        · exact hs.eatPoison
      · split
        · exact hs.mwaitTouch.setFlag
        · exact hs.mwaitTouch

theorem State.MemOk.execMwaitReevaluate {fid} (hs : s.MemOk) : OutcomeMemOk (execMwaitReevaluate fid s) := by
  unfold Machine.execMwaitReevaluate
  split
  · exact hs
  · extract_lets s1
    have h1 : s1.MemOk := by
      unfold s1
      split
      · exact hs.mwaitTouch.ite hs
      · exact hs
    split
    · exact h1.resume
    · exact h1.answer
    · split
      · exact h1
      · exact h1.takeFree.modFrag.modCore

theorem State.MemOk.execMwaitTimeout {fid} (hs : s.MemOk) : OutcomeMemOk (execMwaitTimeout fid s) := by
  unfold Machine.execMwaitTimeout
  split
  · exact hs
  · split
    · exact hs.answer
    · exact hs.answer
    · exact hs

/-! ## Teams and barriers -/

theorem State.MemOk.syncArenas {core} (hs : s.MemOk) : (s.syncArenas core).MemOk := hs.modCore

theorem State.MemOk.mapSpill {ctx va} (hs : s.MemOk) : (s.mapSpill ctx va).MemOk := by
  unfold State.mapSpill
  split
  · exact hs.mapPage
  · exact hs

theorem State.MemOk.placeTeam {t blk entry slot lanes tspl} (hs : s.MemOk) :
    (s.placeTeam t blk entry slot lanes tspl).2.MemOk := by
  unfold State.placeTeam
  extract_lets _ _ s1 s2
  have h2 : s2.MemOk := by
    refine hs.update.foldl fun s _ hs => ?_
    have hp : (if tspl then s.takeFree else (0, s)).2.MemOk := by
      split
      · exact hs.takeFree
      · exact hs
    extract_lets
    split
    next s1 he =>
      extract_lets s2 s3
      have h2 : s2.MemOk := (hp.snd he).putGroup
      have h3 : s3.MemOk := h2.mapSpill.ite h2
      split
      · exact h3
      · exact h3.update.putFrag
  exact h2.syncArenas

theorem State.MemOk.settleBar {tid id} (hs : s.MemOk) : (s.settleBar tid id).MemOk := by
  unfold State.settleBar
  split
  · exact hs
  · extract_lets
    split
    · exact hs.modTeam.foldl fun _ _ hs => hs.finishParked
    · exact hs

theorem State.MemOk.execTbar {w} (hs : s.MemOk) : OutcomeMemOk (execTbar w s) := by
  unfold Machine.execTbar
  refine hs.runSlot fun _ _ hs => ?_
  split
  · exact trivial
  · split
    · exact trivial
    · extract_lets
      split <;> exact hs.modTeam.settleBar

theorem State.MemOk.settleOnce {key} (hs : s.MemOk) : (s.settleOnce key).MemOk := by
  unfold State.settleOnce
  extract_lets
  split
  · exact hs.update.foldl fun _ _ hs => hs.finishParked
  · exact hs

theorem State.MemOk.settleCluster {key} (hs : s.MemOk) : (s.settleCluster key).MemOk := hs.settleOnce.settleOnce

theorem State.MemOk.execCbar {w} (hs : s.MemOk) : OutcomeMemOk (execCbar w s) := by
  unfold Machine.execCbar
  refine hs.runSlot fun _ _ hs => ?_
  split
  · exact trivial
  · split
    · exact trivial
    · split
      · exact trivial
      · extract_lets
        split <;> exact hs.update.settleCluster

theorem State.MemOk.execCjoin {w} (hs : s.MemOk) : OutcomeMemOk (execCjoin w s) := by
  unfold Machine.execCjoin
  refine hs.runSlot fun _ _ hs => ?_
  split
  · exact trivial
  · split
    · exact trivial
    · exact (hs.modTeam.ite hs).setFlag

theorem State.MemOk.leaveCluster {tid} (hs : s.MemOk) : (s.leaveCluster tid).MemOk := by
  unfold State.leaveCluster
  split
  · exact hs
  · exact hs.ite hs.modTeam.settleCluster

theorem State.MemOk.execCleave {w} (hs : s.MemOk) : OutcomeMemOk (execCleave w s) := by
  unfold Machine.execCleave
  refine hs.runSlot fun _ _ hs => ?_
  split
  · exact trivial
  · exact hs.leaveCluster

theorem State.MemOk.serveClaims {tid} (hs : s.MemOk) : (s.serveClaims tid).MemOk := by
  unfold State.serveClaims
  split
  · exact hs
  · refine State.MemOk.foldlFst hs fun hp => ?_
    extract_lets
    split
    · exact hp
    · exact hp.modTeam.modGroup.foldl fun _ _ hs => hs.finishParked

theorem State.MemOk.checkClaims {tid} (hs : s.MemOk) : (s.checkClaims tid).MemOk := by
  unfold State.checkClaims
  extract_lets
  split
  · refine hs.modTeam.foldl fun _ _ hs => ?_
    split
    · exact hs.takeTrap
    · exact hs
  · exact hs

theorem State.MemOk.execRbsur {w} (hs : s.MemOk) : OutcomeMemOk (execRbsur w s) := by
  unfold Machine.execRbsur
  refine hs.runSlot fun _ _ hs => ?_
  split
  · exact trivial
  · extract_lets
    split
    · exact hs
    · split
      · exact trivial
      · split
        · exact trivial
        · exact hs.modGroup.modTeam.serveClaims

theorem State.MemOk.execRbclm {w} (hs : s.MemOk) : OutcomeMemOk (execRbclm w s) := by
  unfold Machine.execRbclm
  refine hs.runSlot fun _ _ hs => ?_
  split
  · exact trivial
  · extract_lets
    split
    · exact hs
    · split
      · exact trivial
      · split
        · exact trivial
        · split
          · exact hs.modTeam.modGroup
          · exact hs.modTeam.park.checkClaims

theorem State.MemOk.travFinish {core id} (hs : s.MemOk) : (s.travFinish core id).MemOk := by
  unfold State.travFinish
  split
  · exact hs
  · exact hs.ite hs.modGroup.modCore

theorem State.MemOk.abandon {gid lanes} (hs : s.MemOk) : (s.abandon gid lanes).MemOk := by
  unfold State.abandon
  split
  · exact hs
  · exact ((hs.modCore.foldl fun _ _ hs => hs.clearSpill).update).foldl fun _ _ hs => hs.modCore.travFinish

theorem State.MemOk.noteExit {h lanes} (hs : s.MemOk) : (s.noteExit h lanes).MemOk := hs.ite hs.update

theorem State.MemOk.groupGone {tid} (hs : s.MemOk) : (s.groupGone tid).MemOk := by
  unfold State.groupGone
  extract_lets _ s2
  have h2 : s2.MemOk := (hs.foldl fun _ _ hs => hs.settleBar).checkClaims
  split
  · exact h2.settleCluster.ite h2
  · exact h2

theorem State.MemOk.killTeam {tid} (hs : s.MemOk) : (s.killTeam tid).MemOk := by
  unfold State.killTeam
  split
  · exact hs
  · exact (((hs.foldl fun _ _ hs => hs.withdraw).foldl fun _ _ hs => hs.clearSpill).update.foldl
      fun _ _ hs => hs.modGroup).modCore.modTeam.leaveCluster

/-! ## Drovers and tiles -/

theorem State.MemOk.modDrover {d f} (hs : s.MemOk) : (s.modDrover d f).MemOk := hs.update
theorem State.MemOk.settleOpp {core} (hs : s.MemOk) : (s.settleOpp core).MemOk := hs.update
theorem State.MemOk.settleOpps {l} (hs : s.MemOk) : (s.settleOpps l).MemOk := hs.foldl fun _ _ hs => hs.settleOpp

theorem State.MemOk.dispatchOpp {l core} (hs : s.MemOk) :
    (s.dispatchOpp l core).MemOk := hs.ite (hs.settleOpps.ite hs.settleOpp)

theorem State.MemOk.execDroverDispatch {d} (hs : s.MemOk) : OutcomeMemOk (execDroverDispatch d s) := by
  unfold Machine.execDroverDispatch
  split
  · exact hs
  · split
    · exact hs
    · split
      · exact hs
      · split
        · exact hs
        · split
          · exact hs
          · exact hs.placeTeam.modLaunch.dispatchOpp.modDrover

theorem State.MemOk.splitFor {ln core} (hs : s.MemOk) : (s.splitFor ln core).MemOk := by
  unfold State.splitFor
  split
  · exact trivial
  · extract_lets _ _ _ r1
    clear_value r1
    split
    · exact trivial
    · split
      · exact trivial
      · exact hs.update

theorem State.MemOk.request {ln core} (hs : s.MemOk) : (s.request ln core).MemOk := by
  unfold State.request
  split
  next _ s1 he1 =>
    exact (hs.splitFor.split he1).modLaunch
  · exact hs.modLaunch
  · exact hs.modLaunch

theorem State.MemOk.execSplitRequest {ln core} (hs : s.MemOk) : OutcomeMemOk (execSplitRequest ln core s) := by
  unfold Machine.execSplitRequest
  split
  · exact hs
  · split
    · exact hs
    · split
      · exact hs.modLaunch
      · exact hs.request

theorem State.MemOk.startSplits {ln} (hs : s.MemOk) : (s.startSplits ln).MemOk := by
  unfold State.startSplits
  split
  · exact hs
  · exact hs.foldl fun _ _ hs => hs.request

theorem State.MemOk.execTileDone {d tile} (hs : s.MemOk) : OutcomeMemOk (execTileDone d tile s) := by
  unfold Machine.execTileDone
  split
  · exact hs
  · split
    · exact hs
    · split
      · exact hs
      · extract_lets
        split <;> exact hs.update

theorem State.MemOk.execTeamRetire {tid} (hs : s.MemOk) : OutcomeMemOk (execTeamRetire tid s) := by
  unfold Machine.execTeamRetire
  split
  · exact hs
  · split
    · exact hs
    · extract_lets _ _ _ _ s5
      have h5 : s5.MemOk := (hs.modCore.modCore.leaveCluster.settlePeers.foldl fun _ _ hs => hs.clearSpill).update
      split
      · exact hs.modCore
      · exact (h5.settleOpp.ite h5).syncArenas

theorem State.MemOk.takeTile {t} (hs : s.MemOk) : OptionMemOk (·.2.2) (s.takeTile t) := by
  unfold State.takeTile
  split
  · exact .none
  · extract_lets own
    clear_value own
    split
    · exact .some hs
    · split
      next _ s1 he =>
        cases s1.drovers.get? _ with
        | none => exact .none
        | some x => exact .some (hs.splitFor.split he)
      · exact .none

theorem State.MemOk.endLanes {frs} (hs : s.MemOk) : (s.endLanes frs).MemOk := by
  refine State.MemOk.update (s := frs.foldl _ s) (hs.foldl fun _ _ hs => ?_)
  split
  · exact hs.noteExit.abandon.modGroup
  · exact hs

theorem State.MemOk.settleTilenx {tid} (hs : s.MemOk) : (s.settleTilenx tid).MemOk := by
  unfold State.settleTilenx
  split
  · exact hs
  · extract_lets
    split
    · exact hs
    · split
      · exact hs
      · split
        · exact hs.modTeam.endLanes
        · split
          next s1 flag he =>
            refine State.MemOk.foldl (State.MemOk.fst ?_ he) fun _ _ hs => hs.answer
            split
            next ht _ => exact State.MemOk.modTeam (State.MemOk.modDrover (hs.modTeam.takeTile _ ht))
            · exact hs.modTeam

theorem State.MemOk.execTilenx {w} (hs : s.MemOk) : OutcomeMemOk (execTilenx w s) := by
  unfold Machine.execTilenx
  refine hs.runSlot fun _ _ hs => ?_
  split
  · exact trivial
  · split
    · exact trivial
    · exact hs.park.settleTilenx

theorem State.MemOk.execTilenxExit {w} (hs : s.MemOk) : OutcomeMemOk (execTilenxExit w s) := by
  unfold Machine.execTilenxExit
  refine hs.runSlot fun _ _ hs => ?_
  split
  · exact trivial
  · split
    · exact trivial
    · exact hs.park.settleTilenx

theorem State.MemOk.afterGone {tid} (hs : s.MemOk) : (s.afterGone tid).MemOk := hs.groupGone.settleTilenx

/-! ## Control flow and regions -/

theorem State.MemOk.goto {h line slot} (hs : s.MemOk) : (s.goto h line slot).MemOk := hs.modFrag

theorem State.MemOk.land {h line slot unread} (hs : s.MemOk) : (s.land h line slot unread).MemOk := by
  unfold State.land
  extract_lets
  split
  · split
    · exact hs.goto.takeTrap
    · exact hs.goto
  · exact hs.goto

theorem State.MemOk.transfer {h line slot} (hs : s.MemOk) : (s.transfer h line slot).MemOk := by
  unfold State.transfer
  split
  · exact trivial
  · exact hs.land

theorem State.MemOk.execBr {w} (hs : s.MemOk) : OutcomeMemOk (execBr w s) := by
  unfold Machine.execBr
  refine hs.runSlot fun _ _ hs => ?_
  split
  · exact hs.transfer
  · exact hs

theorem State.MemOk.execCall {w} (hs : s.MemOk) : OutcomeMemOk (execCall w s) := by
  unfold Machine.execCall
  refine hs.runSlot fun _ _ hs => ?_
  split
  · exact trivial
  · exact hs.writeS.land

theorem State.MemOk.jumpSlot {w h} (hs : s.MemOk) : (jumpSlot w h s).MemOk := by
  unfold Machine.jumpSlot
  extract_lets
  split
  · exact trivial
  · exact hs.transfer

theorem State.MemOk.execRet {w} (hs : s.MemOk) : OutcomeMemOk (execRet w s) := hs.runSlot fun _ _ hs => hs.jumpSlot
theorem State.MemOk.execJmpi {w} (hs : s.MemOk) : OutcomeMemOk (execJmpi w s) := hs.runSlot fun _ _ hs => hs.jumpSlot
theorem State.MemOk.pushPoint {gid p} (hs : s.MemOk) : (s.pushPoint gid p).MemOk := hs.modGroup

theorem State.MemOk.splitSlot {w h} (hs : s.MemOk) : (splitSlot w h s).MemOk := by
  unfold Machine.splitSlot
  extract_lets
  split
  · exact hs.transfer
  · split
    · exact hs
    · split
      · exact trivial
      · split
        · exact hs.update.putFrag.modFrag
        · split
          · exact trivial
          · exact hs.pushPoint.modFrag

theorem State.MemOk.execSplit {w} (hs : s.MemOk) : OutcomeMemOk (execSplit w s) := hs.runSlot fun _ _ hs => hs.splitSlot
theorem State.MemOk.reap {gid} (hs : s.MemOk) : (s.reap gid).MemOk := hs.update

theorem State.MemOk.fuseAt {gid keep drop p mask} (hs : s.MemOk) : (s.fuseAt gid keep drop p mask).MemOk := by
  unfold State.fuseAt
  exact ((hs.modFrag.ite hs.update).modGroup).reap

theorem State.MemOk.wakeFusing {gid p} (hs : s.MemOk) : ExceptMemOk id (s.wakeFusing gid p) := by
  unfold State.wakeFusing
  split
  · exact .ok hs
  · split
    · split
      · split
        · split
          · exact .error
          · exact .ok hs.fuseAt.modFrag
        · exact .ok hs
      · exact .ok hs
    · exact .ok hs

theorem State.MemOk.fuseSlot {h} (hs : s.MemOk) : (fuseSlot h s).MemOk := by
  unfold Machine.fuseSlot
  split
  · exact trivial
  · split
    · exact hs
    · split
      · exact hs
      · split
        · exact hs
        · split
          · exact hs.modGroup.modFrag
          · extract_lets r1 r2
            clear_value r1
            clear_value r2
            split
            · split
              · exact trivial
              · exact hs.modFrag.modGroup.reap
            · split
              · exact hs
              · split
                · exact trivial
                · extract_lets
                  split
                  · exact hs.update.modFrag.modGroup.reap
                  · exact hs.fuseAt.modFrag
            · exact hs.modFrag

theorem State.MemOk.execFuse {w} (hs : s.MemOk) : OutcomeMemOk (execFuse w s) := hs.runSlot fun _ _ hs => hs.fuseSlot

theorem State.MemOk.wakeChain {gid chain} (hs : s.MemOk) : ExceptMemOk id (s.wakeChain gid chain) :=
  ExceptMemOk.foldl (.ok hs) fun _ _ hs => hs.wakeFusing

theorem State.MemOk.exitSlot {w h} (hs : s.MemOk) : (exitSlot w h s).MemOk := by
  unfold Machine.exitSlot
  extract_lets _ _ _ _ s3
  have h3 : s3.MemOk := hs.noteExit.abandon.modGroup.modFrag
  split
  · exact hs
  · split
    · split
      · exact h3
      · exact trivial
    · split
      · extract_lets
        split
        · exact trivial
        next s7 he7 =>
          split
          · exact (h3.modGroup.modFrag.wakeChain _ he7).reap
          · exact trivial
      · split
        · exact trivial
        next s8 he8 =>
          split
          · exact trivial
          · extract_lets s9
            have h9 : s9.MemOk := (h3.modFrag.wakeChain _ he8).reap
            exact h9.ite h9.afterGone

theorem State.MemOk.execExit {w} (hs : s.MemOk) : OutcomeMemOk (execExit w s) := hs.runSlot fun _ _ hs => hs.exitSlot
theorem State.MemOk.execYield {w} (hs : s.MemOk) : OutcomeMemOk (execYield w s) := hs.runSlot fun _ _ hs => hs.modFrag
theorem State.MemOk.execTrapi {w} (hs : s.MemOk) : OutcomeMemOk (execTrapi w s) := hs.runSlot fun _ _ _ => trivial

theorem State.MemOk.execBrk {w} (hs : s.MemOk) : OutcomeMemOk (execBrk w s) := by
  unfold Machine.execBrk
  refine hs.runSlot fun _ _ hs => ?_
  split
  · exact hs.haltNow
  · exact trivial

theorem State.MemOk.execRgn {w} (hs : s.MemOk) : OutcomeMemOk (execRgn w s) := by
  unfold Machine.execRgn
  refine hs.runSlot fun _ _ hs => ?_
  split
  · exact trivial
  · exact hs.modGroup

theorem State.MemOk.execRgnClose {w} (hs : s.MemOk) : OutcomeMemOk (execRgnClose w s) := by
  unfold Machine.execRgnClose
  refine hs.runSlot fun _ _ hs => ?_
  split
  · exact trivial
  · exact hs.modGroup

theorem State.MemOk.execSigchk {w} (hs : s.MemOk) : OutcomeMemOk (execSigchk w s) := by
  unfold Machine.execSigchk
  refine hs.runSlot fun _ _ hs => ?_
  split
  · exact trivial
  · exact hs.modFrag

theorem State.MemOk.execProg {w} (hs : s.MemOk) : OutcomeMemOk (execProg w s) := hs.runSlot fun _ _ hs => hs.modCtx

theorem State.MemOk.execHalt {w} (hs : s.MemOk) : OutcomeMemOk (execHalt w s) := by
  unfold Machine.execHalt
  refine hs.runSlot fun _ _ hs => ?_
  extract_lets _ _ s3
  have h3 : s3.MemOk := hs.account.modFrag.modTeam
  split
  · exact hs.account.modFrag.foldl fun _ _ hs => hs.modGroup
  · split
    · exact h3.post
    · exact h3

/-! ## Copies -/

theorem State.MemOk.markPoison {mt pa n} (hs : s.MemOk) : (s.markPoison mt pa n).MemOk := hs.ite hs.update
theorem State.MemOk.copyIn {tid mt pa off n} (hs : s.MemOk) : (s.copyIn tid mt pa off n).MemOk := hs.dropCopies.modTeam

theorem State.MemOk.copyOut {tid mt pa off n} (hs : s.MemOk) : (s.copyOut tid mt pa off n).MemOk := by
  unfold State.copyOut
  split
  · exact hs
  · exact hs.physWrite.foldl fun _ _ hs => hs.markPoison

theorem State.MemOk.copyUnit {core cx src dst k} (hs : s.MemOk) : ExceptMemOk id (s.copyUnit core cx src dst k) := by
  unfold State.copyUnit
  split
  · exact .error
  · split
    · exact .error
    · split
      · exact .error
      · extract_lets r1 _ s2
        have h2 : s2.MemOk := (hs.foldl fun _ _ hs => hs.touch).vstore
        clear_value r1
        split
        · exact .ok h2.markPoison
        · exact .ok h2

theorem State.MemOk.noteLostWrite {gid fid r mt pa va} (hs : s.MemOk) : (s.noteLostWrite gid fid r mt pa va).MemOk :=
  hs.noteLost.ite hs

theorem State.MemOk.cplSlot {w isOut h} (hs : s.MemOk) : (cplSlot w isOut h s).MemOk := by
  unfold Machine.cplSlot
  split
  · exact trivial
  · extract_lets
    split
    · exact hs
    · split
      · exact trivial
      · split
        · exact trivial
        · split
          · split
            · split
              · exact trivial
              next _ s1 he1 =>
                extract_lets _ _ _ _ _ s4
                have h4 : s4.MemOk := (((hs.haspAdd _ he1).foldl fun _ _ hs => hs.touch).modCore).modGroup
                exact h4.ite h4.modTeam

theorem State.MemOk.execCplIn {w} (hs : s.MemOk) : OutcomeMemOk (execCplIn w s) := hs.runSlot fun _ _ hs => hs.cplSlot
theorem State.MemOk.execCplOut {w} (hs : s.MemOk) : OutcomeMemOk (execCplOut w s) := hs.runSlot fun _ _ hs => hs.cplSlot
theorem State.MemOk.wakeAbsent {core} (hs : s.MemOk) : (s.wakeAbsent core).MemOk := hs.foldl fun _ _ hs => hs.resume

theorem State.MemOk.execCplLineLand {core id} (hs : s.MemOk) : OutcomeMemOk (execCplLineLand core id s) := by
  unfold Machine.execCplLineLand
  split
  · exact hs
  · extract_lets _ _ _ s2
    have h2 : s2.MemOk := (hs.freezeGroup.ite (hs.foldl fun _ _ hs => (hs.copyIn.ite hs.noteLostWrite.copyOut))).modCore
    split
    · exact hs
    · split
      · exact h2.modTeam.wakeAbsent.ite h2
      · exact ((h2.modTeam.wakeAbsent.ite h2).haspDrop).modCore

theorem State.MemOk.execCpseal {w} (hs : s.MemOk) : OutcomeMemOk (execCpseal w s) := by
  unfold Machine.execCpseal
  refine hs.runSlot fun _ _ hs => ?_
  split
  · exact trivial
  · extract_lets
    split
    · exact trivial
    · exact hs.modCore.modGroup

theorem State.MemOk.execCpsealStampWrite {core id} (hs : s.MemOk) : OutcomeMemOk (execCpsealStampWrite core id s) := by
  unfold Machine.execCpsealStampWrite
  split
  · exact hs
  · split
    · exact hs
    · split
      next s1 he1 =>
        exact hs.stampAt.1 _ he1
      next s2 he2 =>
        exact (hs.stampAt.2 _ he2).modCore

theorem State.MemOk.readDesc {h va} (hs : s.MemOk) : ExceptMemOk (·.2) (s.readDesc h va) := by
  unfold State.readDesc
  split
  · exact .error
  · exact .ok hs.touch

theorem State.MemOk.bcpySlot {w h} (hs : s.MemOk) : (bcpySlot w h s).MemOk := by
  unfold Machine.bcpySlot
  split
  · exact trivial
  · extract_lets
    split
    · exact trivial
    next _ s1 he1 =>
      split
      · exact hs.eatPoison
      · extract_lets
        split
        · split
          · split
            · exact trivial
            · extract_lets
              split
              · exact trivial
              · split
                · exact trivial
                · split
                  · exact trivial
                  · split
                    · exact trivial
                    · split
                      · exact trivial
                      next _ s2 he2 =>
                        exact ((hs.readDesc _ he1).haspAdd _ he2).modCore

theorem State.MemOk.execBcpy {w} (hs : s.MemOk) : OutcomeMemOk (execBcpy w s) := hs.runSlot fun _ _ hs => hs.bcpySlot

theorem State.MemOk.copyBulk {core cx d fuel i} (hs : s.MemOk) : (copyBulk core cx d fuel i s).1.MemOk := by
  induction fuel generalizing i s with
  | zero => exact hs
  | succ fuel ih =>
    unfold Machine.copyBulk
    extract_lets
    split
    · exact hs
    · split
      next s1 he => exact ih (hs.copyUnit _ he)
      · exact hs

theorem State.MemOk.engineFault {gid fid r e} (hs : s.MemOk) : (s.engineFault gid fid r e).MemOk := by
  unfold State.engineFault
  split
  · exact hs.freezeGroup
  · exact hs.postReport.stopGroup.ite hs.postReport

theorem State.MemOk.stampBulks {core ids} (hs : s.MemOk) : (s.stampBulks core ids).MemOk := by
  unfold State.stampBulks
  refine hs.foldl fun _ _ hs => ?_
  split
  · exact hs
  · split
    · exact hs
    · extract_lets f1
      have hf1 : ∀ s, s.MemOk → (f1 s).MemOk := fun _ hs => hs.modCore
      split
      · exact hf1 _ hs
      · split
        next s1 he1 =>
          exact hf1 _ (hs.stampAt.2 _ he1)
        next s2 he2 =>
          exact hs.stampAt.1 _ he2

theorem State.MemOk.execBcpyComplete {core id} (hs : s.MemOk) : OutcomeMemOk (execBcpyComplete core id s) := by
  unfold Machine.execBcpyComplete
  split
  · exact hs
  · extract_lets _ f1
    have hf1 : ∀ f s, s.MemOk → (f1 f s).MemOk := fun _ _ hs => hs.modCore
    split
    · exact hs.stampBulks
    · split
      · exact hs
      · split
        · exact hs
        · extract_lets r1 s1
          have h1 : s1.MemOk := by
            unfold s1
            clear_value r1
            split
            · exact hs.ite hs.noteLost
            · exact hs
          split
          next s2 _ he2 =>
            exact (hf1 _ _ ((h1.copyBulk.fst he2).haspDrop)).stampBulks
          next s3 _ _ he3 =>
            split
            · exact hf1 _ _ (h1.copyBulk.fst he3)
            · exact ((hf1 _ _ ((h1.copyBulk.fst he3).haspDrop)).engineFault).stampBulks

theorem State.MemOk.execHingeCopyExpire {hinge line} (hs : s.MemOk) :
    OutcomeMemOk (execHingeCopyExpire hinge line s) := hs.update

/-! ## Stream engines -/

theorem State.MemOk.setStream {core e x} (hs : s.MemOk) : (s.setStream core e x).MemOk := hs.modCore

theorem State.MemOk.wakeRing {core e} (hs : s.MemOk) : (s.wakeRing core e).MemOk := by
  refine hs.foldl fun _ _ hs => ?_
  split
  · split
    · exact hs
    · split
      · exact hs
      · split
        · exact hs
        · split
          · exact hs.takeTrap
          · split
            · exact hs.answer
            · exact hs.answer
            · exact hs.takeTrap
            · exact hs
  · exact hs

theorem State.MemOk.flagPend {h dst x} (hs : s.MemOk) : (flagPend h dst x s).MemOk := by
  unfold Machine.flagPend
  split
  · exact hs.addPend
  · exact hs

theorem State.MemOk.seprogSlot {w h} (hs : s.MemOk) : (seprogSlot w h s).MemOk := by
  unfold Machine.seprogSlot
  split
  · exact trivial
  · extract_lets
    split
    · exact trivial
    next _ s1 he1 =>
      split
      · exact hs.eatPoison
      · extract_lets _ r1
        clear_value r1
        split
        · exact ((hs.readDesc _ he1).setStream).flagPend
        · split
          · exact trivial
          · exact ((((hs.readDesc _ he1).setStream).modCore).wakeRing).flagPend

theorem State.MemOk.execSeprog {w} (hs : s.MemOk) : OutcomeMemOk (execSeprog w s) := hs.runSlot fun _ _ hs => hs.seprogSlot

theorem State.MemOk.execSectlStart {w} (hs : s.MemOk) : OutcomeMemOk (execSectlStart w s) := by
  unfold Machine.execSectlStart
  refine hs.runSlot fun _ _ hs => ?_
  split
  · exact trivial
  · extract_lets
    split
    · exact hs
    · exact hs.setStream.wakeRing

theorem State.MemOk.execSectlStop {w} (hs : s.MemOk) : OutcomeMemOk (execSectlStop w s) := by
  unfold Machine.execSectlStop
  refine hs.runSlot fun _ _ hs => ?_
  split
  · exact trivial
  · extract_lets
    split
    · exact hs
    · split
      · exact hs.setStream
      · exact hs.setStream.wakeRing

theorem State.MemOk.execSectlQuery {w} (hs : s.MemOk) :
    OutcomeMemOk (execSectlQuery w s) := hs.runSlot fun _ _ hs => hs.writeS

theorem State.MemOk.execRsig {w} (hs : s.MemOk) : OutcomeMemOk (execRsig w s) := by
  unfold Machine.execRsig
  refine hs.runSlot fun _ _ hs => ?_
  extract_lets
  split
  · exact trivial
  · split
    · exact trivial
    · split
      · exact trivial
      · split
        · exact trivial
        · exact hs.setStream

theorem State.MemOk.execRwait {w} (hs : s.MemOk) : OutcomeMemOk (execRwait w s) := by
  unfold Machine.execRwait
  refine hs.runSlot fun _ _ hs => ?_
  extract_lets
  split
  · exact trivial
  · split
    · exact hs.setFlag
    · exact hs.setFlag
    · exact trivial
    · exact hs

theorem State.MemOk.execStreamSlotTake {core e} (hs : s.MemOk) : OutcomeMemOk (execStreamSlotTake core e s) := by
  unfold Machine.execStreamSlotTake
  extract_lets
  split
  · exact hs
  · refine iteInduction (fun _ => ?_) fun _ => ?_
    · exact hs
    · split
      · exact hs
      · extract_lets
        split
        · exact hs
        next _ s1 he1 =>
          exact (hs.haspAdd _ he1).setStream

theorem State.MemOk.moveTile {core cx owner t tile off peer} (hs : s.MemOk) :
    OptionMemOk id (s.moveTile core cx owner t tile off peer) := by
  unfold State.moveTile
  split
  · extract_lets
    split
    · exact .none
    · refine .some (hs.putBytes.foldl fun _ _ hs => ?_)
      split
      · exact hs.markPoison
      · exact hs
  · extract_lets
    split
    · exact .none
    · exact .some (hs.ite (hs.foldl fun _ _ hs => hs.touch)).modTeam

theorem State.MemOk.streamFault {core e x err} (hs : s.MemOk) : (s.streamFault core e x err).MemOk := by
  unfold State.streamFault
  extract_lets _ _ s2
  have h2 : s2.MemOk := by
    unfold s2
    split
    · exact hs.haspDrop.setStream.engineFault
    · exact hs.haspDrop.setStream
  exact h2.wakeRing

theorem State.MemOk.execStreamTileComplete {core e} (hs : s.MemOk) : OutcomeMemOk (execStreamTileComplete core e s) := by
  unfold Machine.execStreamTileComplete
  extract_lets
  split
  · split
    · exact hs
    · split
      · exact hs
      · extract_lets r1 _ _ r2 _ r3 s1 s2
        have h1 : s1.MemOk := by
          unfold s1
          clear_value r3
          split
          · exact hs.noteLost
          · exact hs
        have h2 : s2.MemOk := by
          unfold s2
          clear_value r1
          split
          · exact h1.keepCopies
          · exact h1
        clear_value r2
        split
        · split
          · exact hs.setStream
          · exact hs.streamFault
        · split
          · exact hs
          · split
            · exact h2.dropCopies.streamFault
            next s4 he4 =>
              exact (((h2.dropCopies.moveTile _ he4).haspDrop).setStream).wakeRing
  · exact hs

theorem State.MemOk.execStreamStopComplete {core e} (hs : s.MemOk) : OutcomeMemOk (execStreamStopComplete core e s) := by
  unfold Machine.execStreamStopComplete
  extract_lets
  split
  · exact hs.setStream.wakeRing
  · exact hs

theorem State.MemOk.applyMap {m} (hs : s.MemOk) : (s.applyMap m).MemOk := hs.foldl fun _ _ hs => (hs.ite hs.physWrite)

theorem State.MemOk.execTransferXlateService {core unit map} (hs : s.MemOk) :
    OutcomeMemOk (execTransferXlateService core unit map s) := by
  unfold Machine.execTransferXlateService
  split
  · extract_lets
    split
    · exact hs
    · split
      · exact hs.streamFault
      · exact hs.applyMap.setStream
  · split
    · exact hs
    · split
      · exact hs
      · extract_lets f1
        have hf1 : ∀ f s, s.MemOk → (f1 f s).MemOk := fun _ _ hs => hs.modCore
        split
        · exact (hf1 _ _ hs.haspDrop).engineFault.stampBulks
        · exact hf1 _ _ hs.applyMap
  · split
    · exact hs
    · split
      · exact hs
      · split
        · exact hs.haspDrop.modCore.engineFault
        · exact hs.applyMap.modCore
  · split
    · exact hs
    · exact hs.applyMap.modCore

/-! ## The matrix engine -/

theorem State.MemOk.acceptMat {h kind hasp batch} (hs : s.MemOk) : OptionMemOk id (s.acceptMat h kind hasp batch) := by
  unfold State.acceptMat
  extract_lets
  split
  · exact .none
  · split
    · exact .none
    next _ s1 he1 =>
      extract_lets s2
      have h2 : s2.MemOk := (hs.haspAdd _ he1).modCore
      refine .some ?_
      exact h2.modGroup.ite h2

theorem State.MemOk.acceptOr {h kind hasp batch} (hs : s.MemOk) : (Here.acceptOr h s kind hasp batch).MemOk := by
  unfold Machine.Here.acceptOr
  split
  next s1 he1 =>
    exact hs.acceptMat _ he1
  · exact trivial

theorem State.MemOk.wakeQuad {tid q} (hs : s.MemOk) : (s.wakeQuad tid q).MemOk := by
  unfold State.wakeQuad
  split
  · exact hs
  · split
    · exact hs
    · split
      · exact hs.resume
      · exact hs

theorem State.MemOk.dropWaiter {tid fid} (hs : s.MemOk) : (s.dropWaiter tid fid).MemOk := hs.putAcc

theorem State.MemOk.withQuad {h tb go} (hs : s.MemOk) (hgo : ∀ x s, s.MemOk → (go x s).MemOk) :
    (Here.withQuad h s tb go).MemOk := by
  unfold Machine.Here.withQuad
  extract_lets _ _ r1
  clear_value r1
  split
  · split
    · exact hs.dropWaiter.wakeQuad.takeTrap
    · exact hgo _ _ hs.putAcc
  · exact hs.putAcc

theorem State.MemOk.mmaSlot {w h} (hs : s.MemOk) : (mmaSlot w h s).MemOk := by
  unfold Machine.mmaSlot
  extract_lets
  split
  · split
    · exact trivial
    · split
      · exact trivial
      · extract_lets
        split
        · exact hs.withQuad fun _ _ hs => hs.acceptOr
        · exact hs.acceptOr

theorem State.MemOk.execMma {w} (hs : s.MemOk) : OutcomeMemOk (execMma w s) := hs.runSlot fun _ _ hs => hs.mmaSlot

theorem State.MemOk.loopSlot {w multi h} (hs : s.MemOk) : (loopSlot w multi h s).MemOk := by
  unfold Machine.loopSlot
  extract_lets
  split
  · split
    · extract_lets
      split
      · exact trivial
      · split
        · exact trivial
        · split
          · exact hs.withQuad fun _ _ hs => hs.acceptOr
          · exact hs.acceptOr

theorem State.MemOk.execMloop {w} (hs : s.MemOk) : OutcomeMemOk (execMloop w s) := hs.runSlot fun _ _ hs => hs.loopSlot
theorem State.MemOk.execMloopm {w} (hs : s.MemOk) : OutcomeMemOk (execMloopm w s) := hs.runSlot fun _ _ hs => hs.loopSlot

theorem State.MemOk.execMqb {w} (hs : s.MemOk) : OutcomeMemOk (execMqb w s) := by
  unfold Machine.execMqb
  refine hs.runSlot fun _ _ hs => ?_
  extract_lets
  split
  · exact trivial
  · exact hs.putAcc.wakeQuad

theorem State.MemOk.settleBatches {gid} (hs : s.MemOk) : (s.settleBatches gid).MemOk := by
  unfold State.settleBatches
  split
  · exact hs
  · exact hs.modGroup.foldl fun _ _ hs => hs.finishParked

theorem State.MemOk.execMfence {w} (hs : s.MemOk) : OutcomeMemOk (execMfence w s) :=
  hs.runSlot fun _ _ hs => hs.modGroup.settleBatches.writeS

theorem State.MemOk.execBatchComplete {group} (hs : s.MemOk) : OutcomeMemOk (execBatchComplete group s) := hs.settleBatches

theorem State.MemOk.execMbwait {w} (hs : s.MemOk) : OutcomeMemOk (execMbwait w s) := by
  unfold Machine.execMbwait
  refine hs.runSlot fun _ _ hs => ?_
  extract_lets
  split
  · exact hs
  · split
    · exact trivial
    · split <;> exact hs

theorem State.MemOk.execAccnew {w} (hs : s.MemOk) : OutcomeMemOk (execAccnew w s) := by
  unfold Machine.execAccnew
  refine hs.runSlot fun _ _ hs => ?_
  extract_lets
  split
  · exact trivial
  · split
    · exact trivial
    · exact hs.putAcc

theorem State.MemOk.execAccld {w} (hs : s.MemOk) : OutcomeMemOk (execAccld w s) := by
  unfold Machine.execAccld
  refine hs.runSlot fun _ _ hs => ?_
  extract_lets
  split
  · exact trivial
  · split
    · exact trivial
    · exact hs.acceptOr

theorem State.MemOk.execAccst {w} (hs : s.MemOk) : OutcomeMemOk (execAccst w s) := by
  unfold Machine.execAccst
  refine hs.runSlot fun _ _ hs => ?_
  extract_lets
  split
  · extract_lets
    split
    · exact trivial
    · split
      · exact trivial
      · exact hs.acceptOr

theorem State.MemOk.execAccrd {w} (hs : s.MemOk) : OutcomeMemOk (execAccrd w s) := by
  unfold Machine.execAccrd
  refine hs.runSlot fun _ _ hs => ?_
  extract_lets
  split
  · exact trivial
  · exact hs.addPend.acceptOr
  · exact hs

theorem State.MemOk.execAccwr {w} (hs : s.MemOk) : OutcomeMemOk (execAccwr w s) := by
  unfold Machine.execAccwr
  refine hs.runSlot fun _ _ hs => ?_
  extract_lets
  split
  · exact trivial
  · exact hs.acceptOr

theorem State.MemOk.matPerform {m t} (hs : s.MemOk) : (s.matPerform m t).MemOk := by
  unfold State.matPerform
  extract_lets
  split
  · exact hs.countEv.putAcc
  · exact hs.putAcc
  · exact (hs.foldl fun _ _ hs => hs.modTeam).dropCopies
  · exact hs.modGroup
  · exact hs.putAcc

theorem State.MemOk.dropMop {core id m} (hs : s.MemOk) : (s.dropMop core id m).MemOk := hs.haspDrop.modCore.modGroup

theorem State.MemOk.mopError {core id m arr} (hs : s.MemOk) : (s.mopError core id m arr).MemOk := by
  unfold State.mopError
  extract_lets _ s2
  have h2 : s2.MemOk := by
    unfold s2
    split
    · exact hs.dropMop.modGroup
    · exact hs.dropMop
  exact h2.freezeGroup

theorem State.MemOk.execMatrixStep {core id} (hs : s.MemOk) : OutcomeMemOk (execMatrixStep core id s) := by
  unfold Machine.execMatrixStep
  split
  · exact hs
  · split
    · exact hs
    · split
      · exact hs
      · split
        · exact hs.mopError
        · split
          · exact hs.mopError
          · extract_lets
            split
            · exact hs.matPerform.putAcc.modCore
            · exact hs.matPerform.putAcc.dropMop

/-! ## The Pen -/

theorem State.MemOk.nstatEnd {h kd clr} (hs : s.MemOk) : (s.nstatEnd h kd clr).MemOk := by
  unfold State.nstatEnd
  extract_lets s1
  have h1 : s1.MemOk := by
    unfold s1
    split
    · exact hs.modGroup
    · exact hs
  exact h1.modGroup.ite h1

theorem State.MemOk.settleNstat {core gid} (hs : s.MemOk) : (s.settleNstat core gid).MemOk := by
  unfold State.settleNstat
  refine hs.foldl fun _ _ hs => ?_
  split
  · exact hs
  · split
    · split
      · split
        · exact hs.nstatEnd.finishParked
        · exact hs
      · exact hs
    · exact hs

theorem State.MemOk.nevalEnd {core id e} (hs : s.MemOk) : (s.nevalEnd core id e).MemOk := by
  unfold State.nevalEnd
  exact ((hs.modCore.modGroup.postReport.stopIssuer.ite hs.modCore.modGroup).unblock).settleNstat

theorem State.MemOk.penPut {core id lane outs} (hs : s.MemOk) : (s.penPut core id lane outs).MemOk := by
  unfold State.penPut
  split
  · exact hs
  · extract_lets _ _ _ _ s3
    have h3 : s3.MemOk := hs.modGroup.modGroup.unblock
    split
    · exact h3.nevalEnd.ite h3.modCore
    · exact h3.modGroup.nevalEnd.ite h3.modGroup.modCore

theorem State.MemOk.modPenTile {core t f} (hs : s.MemOk) : (s.modPenTile core t f).MemOk := hs.modCore

theorem State.MemOk.penLaunch {core t} (hs : s.MemOk) : (s.penLaunch core t).MemOk := by
  unfold State.penLaunch
  split
  · exact hs
  · extract_lets
    split
    · exact ((hs.countEv.ite hs).update).modPenTile.modCore
    · exact (hs.countEv.ite hs).modPenTile

theorem State.MemOk.penGather {h id lane handle inputs} (hs : s.MemOk) : (s.penGather h id lane handle inputs).MemOk := by
  unfold State.penGather
  extract_lets _ _ _ s1
  have h1 : s1.MemOk := by
    unfold s1
    split
    · split
      · exact hs.penLaunch
      · exact hs
    · exact hs
  split
  · exact hs.modPenTile.penLaunch.ite hs.modPenTile
  · exact h1.modCore

theorem State.MemOk.nevalSlot {w h} (hs : s.MemOk) : (nevalSlot w h s).MemOk := by
  unfold Machine.nevalSlot
  split
  · exact trivial
  · extract_lets
    split
    · exact hs
    · split
      · exact (hs.addPend.modCore.foldl fun _ _ hs => (hs.penPut.ite hs.penGather)).foldl fun _ _ hs => hs.penLaunch
      · exact hs

theorem State.MemOk.execNeval {w} (hs : s.MemOk) : OutcomeMemOk (execNeval w s) := hs.runSlot fun _ _ hs => hs.nevalSlot

theorem State.MemOk.execNhldPre {w} (hs : s.MemOk) : OutcomeMemOk (execNhldPre w s) := by
  unfold Machine.execNhldPre
  refine hs.runSlot fun _ _ hs => ?_
  extract_lets
  split
  · exact hs
  · exact hs.modCore

theorem State.MemOk.penRelease {core k} (hs : s.MemOk) : (s.penRelease core k).MemOk := by
  unfold State.penRelease
  extract_lets
  split
  · exact hs.modCore.ite hs
  · exact hs

theorem State.MemOk.execNhldDrop {w} (hs : s.MemOk) : OutcomeMemOk (execNhldDrop w s) := by
  unfold Machine.execNhldDrop
  refine hs.runSlot fun _ _ hs => ?_
  extract_lets _ _ s1
  have h1 : s1.MemOk := hs.foldl fun _ _ hs => hs.penLaunch
  split
  · exact h1
  · exact h1.modCore.penRelease

theorem State.MemOk.execNstat {w} (hs : s.MemOk) : OutcomeMemOk (execNstat w s) := by
  unfold Machine.execNstat
  refine hs.runSlot fun _ _ hs => ?_
  extract_lets
  split
  · exact hs.nstatEnd
  · exact hs

theorem State.MemOk.penExpire {core now} (hs : s.MemOk) :
    (s.penExpire core now).MemOk := hs.foldl fun _ _ hs => hs.penLaunch

theorem State.MemOk.execPenWindowExpire {core tile} (hs : s.MemOk) : OutcomeMemOk (execPenWindowExpire core tile s) := by
  unfold Machine.execPenWindowExpire
  split
  · split
    · exact hs
    · exact hs.modCore.penExpire
  · exact hs

theorem State.MemOk.penTouch {core cx va n} (hs : s.MemOk) :
    (s.penTouch core cx va n).MemOk := hs.foldl fun _ _ hs => hs.touch

theorem State.MemOk.penTake {core cx va n} (hs : s.MemOk) : (s.penTake core cx va n).2.MemOk := hs.penTouch

theorem State.MemOk.penAbandon {core id} (hs : s.MemOk) : (s.penAbandon core id).MemOk := by
  unfold State.penAbandon
  split
  · exact hs
  · exact hs.modCore.modGroup

theorem State.MemOk.penError {core tile x arr pa} (hs : s.MemOk) : (s.penError core tile x arr pa).MemOk :=
  ((hs.foldl fun _ _ hs => hs.penAbandon).modCore).freezeGroup

theorem State.MemOk.penDiscard {core k} (hs : s.MemOk) : (s.penDiscard core k).MemOk := by
  unfold State.penDiscard
  split
  · exact hs
  · exact hs.haspDrop.modCore

theorem State.MemOk.penFail {core tile e} (hs : s.MemOk) : (s.penFail core tile e).MemOk := by
  unfold State.penFail
  exact hs.modPenTile.modCore.ite hs.modPenTile

theorem State.MemOk.execPenSlotFill {core tile} (hs : s.MemOk) : OutcomeMemOk (execPenSlotFill core tile s) := by
  unfold Machine.execPenSlotFill
  split
  · exact hs
  · split
    · exact hs
    · split
      · exact hs
      · split
        · split
          · exact hs.penLaunch
          · split
            · exact hs
            · split
              · exact hs.penFail
              · split
                · exact hs.penError
                · split
                  next _ s1 he1 =>
                    extract_lets
                    split
                    · exact (hs.penTake.snd he1).penFail
                    · split
                      · exact hs.penTake.snd he1
                      next _ s2 he2 =>
                        exact ((((hs.penTake.snd he1).haspAdd _ he2).update).modPenTile).modCore
        · split
          · split
            · exact hs
            · split
              · exact hs
              · split
                · exact hs
                · extract_lets
                  split
                  · exact ((hs.haspDrop.foldl fun _ _ hs => hs.modPenTile).penFail).modCore
                  · split
                    · exact hs.penDiscard.penError
                    · exact hs.haspDrop.penTake.modCore
          · exact hs

theorem State.MemOk.execPenTileScatter {core tile} (hs : s.MemOk) : OutcomeMemOk (execPenTileScatter core tile s) := by
  unfold Machine.execPenTileScatter
  split
  · exact hs
  · extract_lets f1
    have hf1 : ∀ s, s.MemOk → (f1 s).MemOk := fun _ hs => hs.modCore
    split
    · exact hs
    · split
      · exact (hf1 _ hs).foldl fun _ _ hs => hs.penPut
      · split
        · exact hs
        · split
          · exact hs
          · split
            · exact hs
            · refine State.MemOk.penRelease ((hf1 _ hs).foldl fun _ _ hs => ?_)
              split
              · exact hs
              · split
                · exact hs.penAbandon.freezeGroup
                · exact hs.penPut.ite hs.penPut

theorem State.MemOk.execRegisterWrite {core v} (hs : s.MemOk) : OutcomeMemOk (execRegisterWrite core v s) := by
  unfold Machine.execRegisterWrite
  extract_lets
  split
  · exact hs
  · exact hs.modCore

/-! ## Folds -/

theorem State.MemOk.foldRead {core f i} (hs : s.MemOk) : ExceptMemOk (·.2) (s.foldRead core f i) := by
  unfold State.foldRead
  split
  · exact .error
  · extract_lets
    split
    · exact .error
    · exact .error
    · split
      · exact .error
      · exact .ok hs.touch

theorem State.MemOk.foldWrite {core f i ws} (hs : s.MemOk) : ExceptMemOk id (s.foldWrite core f i ws) := by
  unfold State.foldWrite
  split
  · exact .error
  · extract_lets
    split
    · exact .error
    · exact .error
    · exact .ok hs.touch.physWrite

theorem State.MemOk.foldParent {core f v} (hs : s.MemOk) : ExceptMemOk (·.2) (s.foldParent core f v) := by
  unfold State.foldParent
  split
  · exact .ok hs
  · split
    next _ s1 he1 =>
      exact .ok (hs.foldRead _ he1)
    · exact .error

theorem State.MemOk.holdOps {h key} (hs : s.MemOk) : (s.holdOps h key).MemOk := hs.modFrag

theorem State.MemOk.foldLanesGo {work mapped ls} (hs : s.MemOk)
    (hwork : ∀ l s, s.MemOk → EitherMemOk (·.2) (·.2) (work l s)) : ExceptMemOk (·.2) (foldLanesGo work mapped ls s) := by
  induction ls generalizing s with
  | nil => exact .ok hs
  | cons l rest ih =>
    unfold Machine.foldLanesGo
    extract_lets next
    have hnext : ∀ r s, s.MemOk → ExceptMemOk (·.2) (next r s) := by
      intro r s hs
      unfold next
      split
      next he =>
        have h := ih hs _ he
        exact .ok h
      · exact .error
    split
    next he => exact hnext _ _ ((hwork l s hs).2 _ he)
    next he => exact hnext _ _ ((hwork l s hs).1 _ he)
    next he =>
      split
      · exact .error
      · exact hnext _ _ ((hwork l s hs).1 _ he)
    · exact .error

theorem State.MemOk.foldSlot {w engine n bad idx work h} (hs : s.MemOk)
    (hwork : ∀ x y z s, s.MemOk → EitherMemOk (·.2) (·.2) (work x y z s)) :
    (foldSlot w engine n bad idx work h s).MemOk := by
  unfold Machine.foldSlot
  extract_lets _ _ _ _ f2 _ f3
  have hf2 : ∀ mapped s, s.MemOk → ExceptMemOk (·.2) (f2 mapped s) := by
    intro mapped s hs
    unfold f2
    split
    · exact hs.foldLanesGo fun _ _ hs => hwork _ _ _ _ hs
    · exact .ok hs
  have hf3 : ∀ rs s, s.MemOk → (f3 rs s).MemOk := by
    intro rs s hs
    unfold f3
    extract_lets
    split
    · exact hs
    · exact hs.addPend
  split
  · exact hs
  · split
    · exact trivial
    · split
      · exact trivial
      · split
        · exact trivial
        · split
          next _ s1 he1 =>
            exact hf3 _ _ (hf2 _ _ hs _ he1)
          · exact trivial
          · split
            next _ s2 he2 =>
              split
              · exact ((hs.takeFree.snd he2).holdOps).modFrag
              · split
                next _ s3 he3 =>
                  exact hf3 _ _ (hf2 _ _ (hs.takeFree.snd he2) _ he3)
                · exact trivial
                · exact trivial

theorem State.MemOk.vappLane {w h key l} (hs : s.MemOk) : EitherMemOk (·.2) (·.2) (vappLane w h key l s) := by
  unfold Machine.vappLane
  extract_lets _ _ _ _ r1
  have hr1 : EitherMemOk (·.2) (·.2.2) r1 := by
    unfold r1
    split
    · exact .ok hs
    · split
      · exact .error hs
      · split
        · exact .error hs
        next _ s1 he1 =>
          split
          · exact .error (hs.foldRead _ he1)
          · split
            · exact .ok (hs.foldRead _ he1)
            · split
              · exact .error (hs.foldRead _ he1)
              next _ s2 he2 =>
                exact .ok ((hs.foldRead _ he1).foldRead _ he2)
  split
  · exact .ok hs
  · clear_value r1
    split
    · exact .error (hr1.1 _ rfl)
    ·
      split
      · exact .error (hr1.2 _ rfl)
      next s5 he5 =>
        split
        · exact .error (hr1.2 _ rfl)
        · exact .ok (((hr1.2 _ rfl).foldWrite _ he5).update)

theorem State.MemOk.execVapp {w} (hs : s.MemOk) : OutcomeMemOk (execVapp w s) :=
  hs.runSlot fun _ _ hs => hs.foldSlot fun _ _ _ _ hs => hs.vappLane

theorem foldTake_memOk {α : Type} {r : Except FoldErr (α × State)} {t : State} {x l} (hr : ExceptMemOk (·.2) r)
    (ht : t.MemOk) (he : foldTake r t = (x, s, l)) : s.MemOk := by
  cases r with
  | ok y =>
    cases he
    exact hr _ rfl
  | error e =>
    cases he
    exact ht

theorem State.MemOk.foldOperands {core f mode ze yi} (hs : s.MemOk) :
    EitherMemOk (·.2) (·.2.2.2.2) (s.foldOperands core f mode ze yi) := by
  unfold State.foldOperands
  split
  · exact .error hs
  · split
    next _ s1 _ he1 =>
      have h1 : s1.MemOk := foldTake_memOk hs.foldRead hs he1
      split
      next _ s2 _ he2 =>
        have h2 : s2.MemOk := by
          split at he2
          · cases he2
            exact h1
          · exact foldTake_memOk h1.foldRead h1 he2
        extract_lets
        split
        · exact .error h2
        · exact .error h2
        · split
          next _ s3 _ he3 =>
            have h3 : s3.MemOk := foldTake_memOk h2.foldParent h2 he3
            split
            next _ s4 _ he4 =>
              have h4 : s4.MemOk := by
                split at he4
                · exact foldTake_memOk h3.foldParent h3 he4
                · cases he4
                  exact h3
              split
              · exact .error h4
              · exact .ok h4

theorem State.MemOk.weightLane {w mode within h key l} (hs : s.MemOk) :
    EitherMemOk (·.2) (·.2) (weightLane w mode within h key l s) := by
  unfold Machine.weightLane
  extract_lets
  split
  next s1 he1 =>
    exact .error (hs.foldOperands.1 _ he1)
  next _ _ _ _ s2 he2 =>
    exact .ok (hs.foldOperands.2 _ he2)

theorem State.MemOk.execVconn {w} (hs : s.MemOk) : OutcomeMemOk (execVconn w s) :=
  hs.runSlot fun _ _ hs => hs.foldSlot fun _ _ _ _ hs => hs.weightLane

theorem State.MemOk.execVmerge {w} (hs : s.MemOk) : OutcomeMemOk (execVmerge w s) :=
  hs.runSlot fun _ _ hs => hs.foldSlot fun _ _ _ _ hs => hs.weightLane

theorem State.MemOk.execVrwgt {w} (hs : s.MemOk) : OutcomeMemOk (execVrwgt w s) := by
  unfold Machine.execVrwgt
  refine hs.runSlot fun _ _ hs => hs.foldSlot fun _ _ _ _ hs => ?_
  split
  next _ _ _ s1 he1 =>
    have h1 := hs.weightLane.2 _ he1
    exact .ok h1
  next _ s2 he2 =>
    exact .ok (hs.weightLane.2 _ he2)
  next s3 he3 =>
    exact .error (hs.weightLane.1 _ he3)

theorem State.MemOk.vldLane {w h key l} (hs : s.MemOk) : EitherMemOk (·.2) (·.2) (vldLane w h key l s) := by
  unfold Machine.vldLane
  extract_lets
  split
  · exact .ok hs
  · split
    · exact .ok hs
    · split
      · exact .error hs
      · split
        · exact .error hs
        next _ s1 he1 =>
          have h1 := hs.foldRead _ he1
          exact .ok h1

theorem State.MemOk.execVld {w} (hs : s.MemOk) : OutcomeMemOk (execVld w s) :=
  hs.runSlot fun _ _ hs => hs.foldSlot fun _ _ _ _ hs => hs.vldLane

theorem State.MemOk.vpinLane {w unpin h key l} (hs : s.MemOk) : EitherMemOk (·.2) (·.2) (vpinLane w unpin h key l s) := by
  unfold Machine.vpinLane
  extract_lets
  split
  · exact .error hs
  · split
    · exact .error hs
    · exact .ok hs.update

theorem State.MemOk.execVpinPin {w} (hs : s.MemOk) : OutcomeMemOk (execVpinPin w s) :=
  hs.runSlot fun _ _ hs => hs.foldSlot fun _ _ _ _ hs => hs.vpinLane

theorem State.MemOk.execVpinUnpin {w} (hs : s.MemOk) : OutcomeMemOk (execVpinUnpin w s) :=
  hs.runSlot fun _ _ hs => hs.foldSlot fun _ _ _ _ hs => hs.vpinLane

theorem State.MemOk.vgenEnd {w h va} {r : Except Nat State} (hs : s.MemOk) (hr : ExceptMemOk id r) :
    (vgenEnd w h va s r).MemOk := by
  unfold Machine.vgenEnd
  split
  next t => exact State.MemOk.setFlag (hr t rfl)
  · exact hs.setFlag
  · exact trivial

theorem State.MemOk.vgenSlot {w f h} (hs : s.MemOk) (hf : ∀ x y s, s.MemOk → (f x y s).MemOk) :
    (vgenSlot w f h s).MemOk := by
  unfold Machine.vgenSlot
  extract_lets
  split
  · exact trivial
  · split
    · exact trivial
    · split
      · exact trivial
      · exact hf _ _ _ hs

theorem State.MemOk.execVgenOpen {w} (hs : s.MemOk) : OutcomeMemOk (execVgenOpen w s) := by
  refine hs.runSlot fun _ _ hs => hs.vgenSlot fun _ _ _ hs => hs.vgenEnd ?_
  split
  · exact .error
  · split
    · exact .error
    · split
      · exact .error
      · exact .ok hs.update

theorem State.MemOk.execVgenClose {w} (hs : s.MemOk) : OutcomeMemOk (execVgenClose w s) := by
  refine hs.runSlot fun _ _ hs => hs.vgenSlot fun _ _ _ hs => hs.vgenEnd ?_
  split
  · exact .error
  · split
    · exact .error
    · split
      · exact .error
      · exact .ok hs.update

theorem State.MemOk.execVgenOpenInit {w} (hs : s.MemOk) : OutcomeMemOk (execVgenOpenInit w s) := by
  refine hs.runSlot fun _ _ hs => hs.vgenSlot fun _ _ _ hs => ?_
  extract_lets
  split
  · exact hs.vgenEnd .error
  · split
    · exact hs.vgenEnd .error
    · split
      · exact hs.holdOps
      · exact State.MemOk.vgenEnd hs.update (.ok (hs.update.foldl fun _ _ hs => hs.syncArenas))

theorem State.MemOk.execFoldInitTimeout {fid} (hs : s.MemOk) : OutcomeMemOk (execFoldInitTimeout fid s) := by
  unfold Machine.execFoldInitTimeout
  split
  · exact hs
  · split
    · exact hs
    · split
      · exact hs.resume
      · split
        · split
          · exact hs.setFlag.finishParked
          · exact hs.takeTrap
        · exact hs

theorem State.MemOk.execVgenCloseFree {w} (hs : s.MemOk) : OutcomeMemOk (execVgenCloseFree w s) := by
  refine hs.runSlot fun _ _ hs => hs.vgenSlot fun _ _ _ hs => hs.vgenEnd ?_
  split
  · exact .error
  · split
    · exact .error
    · exact .ok (hs.update.foldl fun _ _ hs => hs.syncArenas)

/-! ## Textures -/

theorem State.MemOk.texSlot {w ds plan h} (hs : s.MemOk) : (texSlot w ds plan h s).MemOk := by
  unfold Machine.texSlot
  split
  · exact trivial
  · extract_lets
    split
    · exact trivial
    · split
      · exact hs.eatPoison
      · exact ((hs.foldl fun _ _ hs => hs.touch).update).deliver

theorem State.MemOk.execTexs {w} (hs : s.MemOk) : OutcomeMemOk (execTexs w s) := hs.runSlot fun _ _ hs => hs.texSlot
theorem State.MemOk.execTexl {w} (hs : s.MemOk) : OutcomeMemOk (execTexl w s) := hs.runSlot fun _ _ hs => hs.texSlot

theorem State.MemOk.execTexq {w} (hs : s.MemOk) : OutcomeMemOk (execTexq w s) := by
  unfold Machine.execTexq
  refine hs.runSlot fun _ _ hs => ?_
  split
  · exact trivial
  · extract_lets
    split
    · exact trivial
    · split
      · exact hs.eatPoison
      · exact hs.touch.writeS

/-! ## The traversal unit -/

theorem State.MemOk.rayFetch {core cx va n} (hs : s.MemOk) : (s.rayFetch core cx va n).MemOk := by
  unfold State.rayFetch
  split
  · exact trivial
  · exact trivial
  · split
    · exact trivial
    · exact hs.penTake

theorem State.MemOk.travCount {gid sel n} (hs : s.MemOk) : (s.travCount gid sel n).MemOk := hs.modGroup

/-- A fetch that is not made ends or parks the ray. -/
theorem State.MemOk.rayStop {r k core f} (hs : s.MemOk) (hf : f.MemOk) : (s.rayStop r k core f).MemOk := by
  unfold State.rayStop
  cases f with
  | unmapped a => exact hs.modCore
  | noread a => exact hs.modCore
  | poison pa => exact hs.abandon.freezeGroup
  | ok x s => exact hf

theorem State.MemOk.rayFollow {core cx k r it} (hs : s.MemOk) : (s.rayFollow core cx k r it).MemOk := by
  unfold State.rayFollow
  extract_lets set
  have hset : ∀ r s, s.MemOk → (set r s).MemOk := fun _ _ hs => hs.modCore
  clear_value set
  split
  · extract_lets fetch
    have hfetch : ∀ n go, (∀ x s, s.MemOk → (go x s).MemOk) → (fetch n go).MemOk := by
      intro n go hgo
      unfold fetch
      split
      next _ _ he => exact hgo _ _ (hs.rayFetch.ok he)
      · exact hs.rayStop hs.rayFetch
    clear_value fetch
    split
    · exact hset _ _ hs
    · refine hfetch _ _ fun _ _ hs => ?_
      split
      · exact hset _ _ hs
      · exact hset _ _ hs.travCount
    · refine hfetch _ _ fun _ _ hs => ?_
      extract_lets
      split
      · split
        · exact hset _ _ hs
        · split
          extract_lets
          split <;> exact hset _ _ hs.travCount
      · exact hset _ _ hs
    · refine hfetch _ _ fun _ _ hs => ?_
      split
      · split
        · exact hset _ _ hs
        · split <;> exact hset _ _ hs
      · exact hset _ _ hs
    · refine hfetch _ _ fun _ _ hs => ?_
      extract_lets
      refine (hset _ _ hs).ite ((hset _ _ hs).ite ((hset _ _ hs).ite ?_))
      split <;> exact hset _ _ hs
    · exact hfetch _ _ fun _ _ hs => hset _ _ hs
    · exact hset _ _ hs
  · exact hset _ _ hs
  · exact hset _ _ hs

theorem State.MemOk.execRayWalk {core ray} (hs : s.MemOk) : OutcomeMemOk (execRayWalk core ray s) := by
  unfold Machine.execRayWalk
  split
  · exact hs
  · split
    · exact hs
    · extract_lets f1
      have hf1 : ∀ r s, s.MemOk → (f1 r s).MemOk := fun _ _ hs => hs.modCore
      split
      · exact hs
      · split
        · split <;> exact hf1 _ _ hs
        · split
          · split
            next _ s1 he1 =>
              exact hf1 _ _ ((hs.rayFetch.ok he1).travCount)
            · exact hs.rayStop hs.rayFetch
          · split
            · exact hf1 _ _ hs
            · split
              · exact hf1 _ _ hs
              · exact hf1 _ _ hs.travCount
          · split
            · split
              · exact hf1 _ _ hs
              · split
                next _ s3 he3 =>
                  exact hf1 _ _ ((hs.rayFetch.ok he3).travCount)
                · exact hs.rayStop hs.rayFetch
            · split
              · extract_lets
                split
                next _ s5 he5 =>
                  split
                  · exact hf1 _ _ (hs.rayFetch.ok he5)
                  · exact hf1 _ _ ((hs.rayFetch.ok he5).travCount)
                · exact hs.rayStop hs.rayFetch
              · extract_lets
                split
                · exact hf1 _ _ hs
                · exact hs.rayFollow

theorem State.MemOk.travPut {core cmd lane words err} (hs : s.MemOk) : (s.travPut core cmd lane words err).MemOk := by
  unfold State.travPut
  split
  · exact hs
  · exact hs.modGroup.modCore.travFinish

theorem State.MemOk.noTrav {core gid lane w query} (hs : s.MemOk) : (s.noTrav core gid lane w query).MemOk := hs.travPut

theorem State.MemOk.flushWaits {core gid lane ws query} (hs : s.MemOk) : (s.flushWaits core gid lane ws query).MemOk :=
  hs.foldl fun _ _ hs => hs.noTrav

theorem State.MemOk.execRayDeliver {core ray} (hs : s.MemOk) : OutcomeMemOk (execRayDeliver core ray s) := by
  unfold Machine.execRayDeliver
  split
  · exact hs
  · extract_lets final
    have hfinal : ∀ words err, (final words err).MemOk := fun _ _ => hs.modCore.travPut.flushWaits
    split
    · exact hs
    · split
      · exact hfinal _ _
      · exact hs
    · exact hfinal _ _
    · exact hfinal _ _
    · exact hs.modCore.travPut

theorem State.MemOk.execQueryResultsReady {core ray} (hs : s.MemOk) : OutcomeMemOk (execQueryResultsReady core ray s) := by
  unfold Machine.execQueryResultsReady
  split
  · exact hs
  · split
    · exact hs
    · split
      · exact hs.modCore.ite hs
      · split
        · exact hs
        · extract_lets
          split
          · exact hs.modCore.travPut.flushWaits.ite hs.modCore.travPut

theorem State.MemOk.execRaySpillTimeout {core ray} (hs : s.MemOk) : OutcomeMemOk (execRaySpillTimeout core ray s) := by
  unfold Machine.execRaySpillTimeout
  split
  · exact hs
  · exact hs.ite hs.spillRays

theorem State.MemOk.execRayFetchXlateService {core ray map} (hs : s.MemOk) :
    OutcomeMemOk (execRayFetchXlateService core ray map s) := by
  unfold Machine.execRayFetchXlateService
  split
  · exact hs
  · split
    · exact hs
    · split
      · exact hs.modCore
      · exact hs.applyMap.travCount.modCore

theorem State.MemOk.reloadAt {core cx spill gid lane} (hs : s.MemOk) :
    OptionMemOk (·.2.2.2) (s.reloadAt core cx spill gid lane) := by
  unfold State.reloadAt
  split
  · exact .some hs.touch.update.clearSpill.modCore
  · exact .none

theorem State.MemOk.reloadRay {h lane} (hs : s.MemOk) : OptionMemOk (·.2.2.2) (s.reloadRay h lane) := hs.reloadAt
theorem State.MemOk.openTrav {h dst n lanes} (hs : s.MemOk) : (s.openTrav h dst n lanes).2.MemOk := hs.addPend.modCore

theorem State.MemOk.claimRays {h lanes trap mk} (hs : s.MemOk) : OptionMemOk id (s.claimRays h lanes trap mk) := by
  unfold State.claimRays
  extract_lets
  split
  · exact .none
  · refine .some (State.MemOk.foldl hs.abandon.countEv.modGroup fun s l hs => ?_)
    split
    · exact hs.modCore
    · exact hs

theorem State.MemOk.traceSlot {w h} (hs : s.MemOk) : (traceSlot w h s).MemOk := by
  unfold Machine.traceSlot
  extract_lets
  split
  · exact hs
  · split
    · exact trivial
    · split
      · exact trivial
      · split
        · extract_lets
          split
          · exact trivial
          next s1 he1 =>
            exact (hs.claimRays _ he1).openTrav
        · exact hs

theorem State.MemOk.execTrace {w} (hs : s.MemOk) : OutcomeMemOk (execTrace w s) := hs.runSlot fun _ _ hs => hs.traceSlot

/-- A lane's spilled record, if it has one, is read back first. -/
theorem State.MemOk.resumeTrav {h query dst n act mk} (hs : s.MemOk) : (resumeTrav h query dst n act mk s).MemOk := by
  unfold Machine.resumeTrav
  extract_lets
  split
  · exact hs
  · split
    · exact trivial
    · split
      · exact trivial
      · split
        · exact hs.eatPoison
        · refine State.MemOk.foldl hs.openTrav fun s l hs => ?_
          extract_lets
          split
          next t bad heq =>
            have ht : t.MemOk := by
              refine State.MemOk.fst ?_ heq
              split
              · split
                next he => exact hs.reloadRay _ he
                · exact hs
              · exact hs
            split
            · split
              · exact ht
              · exact ht.modCore.travPut
            · split
              · exact ht.noTrav
              · exact ht.noTrav.ite ht.modCore

theorem State.MemOk.trresSlot {w fn h} (hs : s.MemOk) : (trresSlot w fn h s).MemOk := by
  unfold Machine.trresSlot
  split
  · exact hs.resumeTrav
  · exact hs

theorem State.MemOk.execTrresAccept {w} (hs : s.MemOk) : OutcomeMemOk (execTrresAccept w s) :=
  hs.runSlot fun _ _ hs => hs.trresSlot

theorem State.MemOk.execTrresReject {w} (hs : s.MemOk) : OutcomeMemOk (execTrresReject w s) :=
  hs.runSlot fun _ _ hs => hs.trresSlot

theorem State.MemOk.execTrresCommit {w} (hs : s.MemOk) : OutcomeMemOk (execTrresCommit w s) :=
  hs.runSlot fun _ _ hs => hs.trresSlot

theorem State.MemOk.execTqry {w} (hs : s.MemOk) : OutcomeMemOk (execTqry w s) := by
  unfold Machine.execTqry
  refine hs.runSlot fun _ _ hs => ?_
  extract_lets
  split
  · exact hs
  · split
    · exact trivial
    · split
      · exact trivial
      · split
        · extract_lets
          split
          · exact trivial
          next s1 he1 =>
            exact hs.claimRays _ he1
        · exact hs

theorem State.MemOk.execTqnext {w} (hs : s.MemOk) : OutcomeMemOk (execTqnext w s) := by
  unfold Machine.execTqnext
  refine hs.runSlot fun _ _ hs => ?_
  extract_lets
  split
  · exact hs.resumeTrav
  · exact hs

theorem State.MemOk.execTrstat {w} (hs : s.MemOk) : OutcomeMemOk (execTrstat w s) := by
  unfold Machine.execTrstat
  refine hs.runSlot fun _ _ hs => ?_
  extract_lets
  split
  · split
    · exact trivial
    · exact hs.writeS
  · exact hs.writeVec

/-! ## The tile engine and the splat unit -/

theorem State.MemOk.submit {h b} (hs : s.MemOk) : (s.submit h b).MemOk := by
  unfold State.submit
  extract_lets
  split
  · exact trivial
  · split
    · exact trivial
    · split
      · exact trivial
      · split
        · exact trivial
        next _ s1 he1 =>
          exact ((hs.haspAdd _ he1).update).modTileEng

theorem State.MemOk.tileSlot {w flush h} (hs : s.MemOk) : (tileSlot w flush h s).MemOk := by
  unfold Machine.tileSlot
  split
  · exact trivial
  · extract_lets
    split
    · exact trivial
    next _ s1 he1 =>
      split
      · exact hs.eatPoison
      · split
        · split
          · split
            · exact trivial
            · extract_lets
              split
              · exact trivial
              next _ s2 he2 =>
                split
                · exact hs.eatPoison
                · split
                  · exact trivial
                  · exact ((hs.readDesc _ he1).readDesc _ he2).submit

theorem State.MemOk.execTlsub {w} (hs : s.MemOk) : OutcomeMemOk (execTlsub w s) := hs.runSlot fun _ _ hs => hs.tileSlot
theorem State.MemOk.execTlflush {w} (hs : s.MemOk) : OutcomeMemOk (execTlflush w s) := hs.runSlot fun _ _ hs => hs.tileSlot

theorem State.MemOk.execSpsub {w} (hs : s.MemOk) : OutcomeMemOk (execSpsub w s) := by
  unfold Machine.execSpsub
  refine hs.runSlot fun _ _ hs => ?_
  split
  · exact trivial
  · extract_lets
    split
    · exact trivial
    next _ s1 he1 =>
      split
      · exact hs.eatPoison
      · split
        · exact trivial
        · extract_lets
          split
          · exact trivial
          next _ s2 he2 =>
            split
            · exact hs.eatPoison
            · split
              · exact trivial
              · exact ((hs.readDesc _ he1).readDesc _ he2).submit

theorem State.MemOk.execFout {w} (hs : s.MemOk) : OutcomeMemOk (execFout w s) := by
  unfold Machine.execFout
  refine hs.runSlot fun _ _ hs => ?_
  extract_lets
  split
  · exact hs
  · split
    · exact trivial
    · exact hs.modGroup

/-- The state that the engine's session has reached is canonical. -/
def Ras.MemOk (r : Ras) : Prop := r.s.MemOk

section Ras

variable {r : Ras}

theorem Ras.MemOk.snd {α : Type} {p : α × Ras} {a : α} (hp : p.2.MemOk) (he : p = (a, r)) : r.MemOk := by
  rwa [he] at hp

theorem Ras.MemOk.foldl {α : Type} {l : List α} {f : Ras → α → Ras} (hr : r.MemOk)
    (hf : ∀ r x, r.MemOk → (f r x).MemOk) : (l.foldl f r).MemOk := by
  induction l generalizing r with
  | nil => exact hr
  | cons x l ih => exact ih (hf r x hr)

theorem Ras.MemOk.foldlSnd {α β : Type} {l : List α} {f : β × Ras → α → β × Ras} {p : β × Ras} (hp : p.2.MemOk)
    (hf : ∀ p x, p.2.MemOk → (f p x).2.MemOk) : (l.foldl f p).2.MemOk := by
  induction l generalizing p with
  | nil => exact hp
  | cons x l ih => exact ih (hf p x hp)

theorem Ras.MemOk.bad {va} (hr : r.MemOk) : (r.bad va).MemOk := hr

theorem Ras.MemOk.access {va n k} (hr : r.MemOk) : (r.access va n k).2.MemOk := by
  unfold Ras.access
  split
  · exact hr
  · split
    · exact hr.bad
    · split
      · exact hr.bad
      · extract_lets
        split
        · exact hr
        · exact hr.bad
        · refine iteInduction (motive := fun p : Bool × Ras => p.2.MemOk) (fun _ => ?_) fun _ => ?_
          · exact State.MemOk.freezeGroup hr
          · exact hr

theorem Ras.MemOk.read {va n} (hr : r.MemOk) : (r.read va n).2.MemOk := by
  unfold Ras.read
  split
  next he _ => exact State.MemOk.touch (hr.access.snd he)
  next he _ => exact hr.access.snd he

theorem Ras.MemOk.write {va n x} (hr : r.MemOk) : (r.write va n x).MemOk := by
  unfold Ras.write
  split
  next he _ => exact State.MemOk.vwrite (hr.access.snd he)
  next he _ => exact hr.access.snd he

theorem Ras.MemOk.depth {draw x y z} (hr : r.MemOk) : (r.depth draw x y z).2.MemOk := by
  unfold Ras.depth
  split
  · exact hr
  · extract_lets
    split
    next he => exact hr.read.snd he
    next he =>
      split
      · exact hr.read.snd he
      · split
        · exact (hr.read.snd he).write
        · exact hr.read.snd he

theorem Ras.MemOk.entries {tile n} (hr : r.MemOk) : (r.entries tile n).2.MemOk := by
  refine foldlSnd hr fun p _ hp => ?_
  extract_lets
  split
  next he => exact hp.read.snd he
  next he =>
    have hr := hp.read.snd he
    split
    · exact hr.bad
    · extract_lets
      split
      next he => exact hr.read.snd he
      next he =>
        split
        · exact (hr.read.snd he).bad
        · exact hr.read.snd he

theorem Ras.MemOk.prim {tile t} (hr : r.MemOk) : (r.prim tile t).2.MemOk := by
  unfold Ras.prim
  extract_lets
  split
  next he => exact hr.read.snd he
  next he =>
    have hr := hr.read.snd he
    split
    · exact hr.bad
    · extract_lets
      split
      · exact hr
      · refine foldlSnd hr fun p _ hp => ?_
        extract_lets
        split
        next he => exact hp.depth.snd he
        next he => exact hp.depth.snd he

theorem State.MemOk.execTileRasterise {die} (hs : s.MemOk) : OutcomeMemOk (execTileRasterise die s) := by
  unfold Machine.execTileRasterise
  extract_lets
  split
  · exact hs
  · split
    · exact hs
    · split
      · exact hs.modTileEng
      · extract_lets r
        have hr : r.MemOk := hs
        split
        next r1 he =>
          have hr : r1.MemOk := by
            refine Ras.MemOk.snd ?_ he
            split
            next he => exact hr.read.snd he
            next he => exact hr.read.snd he
          split
          next he =>
            have hr := hr.entries.snd he
            extract_lets
            split
            next r1 he =>
              have hr : r1.MemOk := by
                refine Ras.MemOk.snd (Ras.MemOk.foldlSnd hr fun p _ hp => ?_) he
                split
                next he => exact hp.prim.snd he
                next he => exact hp.prim.snd he
              split
              · exact hs.modTileEng
              · exact State.MemOk.modTileEng hr

theorem State.MemOk.execFragmentGroupDispatch {die core} (hs : s.MemOk) :
    OutcomeMemOk (execFragmentGroupDispatch die core s) := by
  unfold Machine.execFragmentGroupDispatch
  split
  · exact hs
  · split
    · exact hs
    · exact hs.placeTeam.modLaunch.modGroup.modTileEng

theorem State.MemOk.execPixelBlend {die} (hs : s.MemOk) : OutcomeMemOk (execPixelBlend die s) := by
  unfold Machine.execPixelBlend
  extract_lets
  split
  · exact hs
  · extract_lets f1
    have hf1 : ∀ s, s.MemOk → (f1 s).MemOk := fun _ hs => hs.modTileEng
    split
    · extract_lets r0 _ _ r
      have h0 : r0.MemOk := hs
      have hr : r.MemOk := by
        unfold r
        split
        next he => exact (h0.read.snd he).write
        next he => exact h0.read.snd he
      split
      · exact hs.modTileEng
      · exact hf1 _ (State.MemOk.modTileEng hr)
    · exact hf1 _ hs

theorem State.MemOk.execTileEngineXlateService {die map} (hs : s.MemOk) :
    OutcomeMemOk (execTileEngineXlateService die map s) := by
  unfold Machine.execTileEngineXlateService
  split
  · exact hs
  · exact hs.applyMap.modTileEng

theorem Ras.MemOk.zero (hr : r.MemOk) : r.zero.MemOk := by
  unfold Ras.zero
  extract_lets r1
  have h1 : r1.MemOk := hr.foldl fun _ _ hr => hr.write
  split
  · exact h1
  · exact h1.write

theorem State.MemOk.endSubmission {die k b} (hs : s.MemOk) : (s.endSubmission die k b).MemOk := by
  unfold State.endSubmission
  extract_lets s1 s2
  have h1 : s1.MemOk := hs.haspDrop.modTileEng
  have h2 : s2.MemOk := by
    unfold s2
    split
    · exact h1.postAsync
    · exact h1
  split
  next s3 he3 =>
    exact h1.update
  next s4 he4 =>
    exact (h2.stampAt.2 _ he4).modTileEng

theorem State.MemOk.execSubmissionComplete {die} (hs : s.MemOk) : OutcomeMemOk (execSubmissionComplete die s) := by
  unfold Machine.execSubmissionComplete
  split
  · exact hs
  · split
    · extract_lets r
      have hr : r.MemOk := Ras.MemOk.zero (r := { s := s, b := _ }) hs
      split
      · exact hs.modTileEng
      · exact State.MemOk.endSubmission hr
    · exact hs.endSubmission

theorem Ras.MemOk.splatPixel {tmin sps x y} (hr : r.MemOk) : (r.splatPixel tmin sps x y).MemOk := by
  unfold Ras.splatPixel
  extract_lets _ _ _ r1
  have h1 : r1.MemOk := by
    unfold r1
    split
    next he => exact (hr.read.snd he).write
    next he => exact hr.read.snd he
  split
  · split
    · exact h1
    · exact h1.write
  · exact h1

end Ras

theorem State.MemOk.execSplatRender {die} (hs : s.MemOk) : OutcomeMemOk (execSplatRender die s) := by
  unfold Machine.execSplatRender
  extract_lets
  split
  · exact hs
  · extract_lets
    split
    · exact hs
    · split
      · exact hs
      · split
        next r1 he =>
          have hr : r1.MemOk := by
            refine Ras.MemOk.snd (Ras.MemOk.foldlSnd (p := (_, { s := s, b := _ })) hs fun p _ hp => ?_) he
            split
            next he => exact hp.read.snd he
            next he => exact hp.read.snd he
          extract_lets _ r
          have hr : r.MemOk := hr.foldl fun _ _ hr => hr.splatPixel
          split
          · exact hs.modTileEng
          · exact State.MemOk.modTileEng hr

theorem State.MemOk.execSplatTminWrite {ctx v} (hs : s.MemOk) : OutcomeMemOk (execSplatTminWrite ctx v s) := hs.modCtx

theorem State.MemOk.execDrawPreempt {die} (hs : s.MemOk) : OutcomeMemOk (execDrawPreempt die s) := by
  unfold Machine.execDrawPreempt
  split
  · exact hs
  · exact hs.modTileEng

/-! ## Launches, work graphs and system calls -/

theorem State.MemOk.issueName {h} (hs : s.MemOk) : (s.issueName h).2.2.MemOk := by
  unfold State.issueName
  extract_lets
  split
  · exact hs
  · exact hs.modLaunch

theorem State.MemOk.enqueue {agent l} (hs : s.MemOk) : (s.enqueue agent l).MemOk := hs.addLaunch.modCtx.imageLaunch

theorem State.MemOk.recordSlot {w ty f h} (hs : s.MemOk) (hf : ∀ x y s, s.MemOk → (f x y s).MemOk) :
    (recordSlot w ty f h s).MemOk := by
  unfold Machine.recordSlot
  split
  · exact trivial
  · split
    · exact trivial
    · extract_lets
      split
      · exact trivial
      next _ s1 he1 =>
        split
        · exact hs.eatPoison
        · split
          · exact (hs.readDesc _ he1).syncFail
          · split
            · exact trivial
            · exact hf _ _ _ (hs.readDesc _ he1)

theorem State.MemOk.execLaunch {w} (hs : s.MemOk) : OutcomeMemOk (execLaunch w s) :=
  hs.runSlot fun _ _ hs => hs.recordSlot fun _ _ _ hs => hs.issueName.enqueue.setFlag

theorem State.MemOk.storeTask {l n t r} (hs : s.MemOk) (he : s.storeTask l = (n, t, r)) : t.MemOk ∧ ExceptMemOk id r := by
  have h : (s.storeTask l).2.1.MemOk := hs.addLaunch.modCtx
  cases he
  exact ⟨h, h.arm⟩

theorem State.MemOk.execTaskpub {w} (hs : s.MemOk) : OutcomeMemOk (execTaskpub w s) := by
  unfold Machine.execTaskpub
  refine hs.runSlot fun _ _ hs => hs.recordSlot fun _ _ _ hs => ?_
  extract_lets
  split
  · exact trivial
  · split
    · exact trivial
    · split
      · exact trivial
      · split
        · exact trivial
        · split
          next he =>
            have h1 := hs.issueName.snd2 he
            split
            next he =>
              exact ((h1.storeTask he).2 _ rfl).setFlag
            · exact kindTrap_memOk
            · exact hs.syncFail

theorem State.MemOk.batchList {cx l nd} (hs : s.MemOk) : (s.batchList cx l nd).2.MemOk :=
  hs.takeFree.mapPage.vwrite.foldl fun _ _ hs => hs.vwrite

theorem State.MemOk.failLaunch {ln d} (hs : s.MemOk) : (s.failLaunch ln d).MemOk := by
  unfold State.failLaunch
  split
  · exact hs
  · exact hs.postAsync.modLaunch

theorem State.MemOk.energyHold {ln l fn} (hs : s.MemOk) : (s.energyHold ln l fn).2.MemOk := by
  unfold State.energyHold
  extract_lets
  split
  · exact hs
  · exact hs.update

theorem State.MemOk.takeRecord {ln l raw} (hs : s.MemOk) : (s.takeRecord ln l raw).MemOk := by
  unfold State.takeRecord
  extract_lets
  split
  · exact hs.modCtx
  · extract_lets nd
    clear_value nd
    split
    next he =>
      refine State.MemOk.acceptLaunch (State.MemOk.modLaunch (State.MemOk.snd ?_ he))
      split
      · exact State.MemOk.batchList hs.modCtx
      · exact hs.modCtx

theorem State.MemOk.lostRecord {ln l} (hs : s.MemOk) : (s.lostRecord ln l).MemOk := hs.modCtx.acceptLaunch.failLaunch

theorem State.MemOk.beginLaunch {ln l cx ox oy} (hs : s.MemOk) : (s.beginLaunch ln l cx ox oy).MemOk := by
  unfold State.beginLaunch
  split
  · exact hs.failLaunch
  · split
    · exact hs.failLaunch
    · split
      · exact hs.modLaunch
      · split
        · exact hs
        · split
          next s1 he1 =>
            exact (hs.energyHold.snd he1).modLaunch
          next s2 he2 =>
            extract_lets
            split
            · exact hs.energyHold.snd he2
            · extract_lets _ s4
              have h4 : s4.MemOk := ((hs.energyHold.snd he2).update).modLaunch
              exact h4.ite h4.startSplits

theorem State.MemOk.execLaunchBegin {ln ox oy} (hs : s.MemOk) : OutcomeMemOk (execLaunchBegin ln ox oy s) := by
  unfold Machine.execLaunchBegin
  split
  · exact hs
  · split
    · exact hs
    · split
      · exact hs
      · split
        · split
          · exact hs
          · extract_lets
            split
            · exact hs.imageLaunch
            · split
              · extract_lets
                split
                · exact hs.imageLaunch.takeRecord.beginLaunch
                · exact hs.imageLaunch.takeRecord
              · exact hs.imageLaunch.lostRecord
              · split
                next _ s3 he3 =>
                  split
                  · exact hs.imageLaunch.takeFree.snd he3
                  · exact (hs.imageLaunch.takeFree.snd he3).lostRecord
        · split
          · exact hs.beginLaunch
          · exact hs

theorem State.MemOk.execOppStable {ln granted} (hs : s.MemOk) : OutcomeMemOk (execOppStable ln granted s) := by
  unfold Machine.execOppStable
  split
  · exact hs
  · split
    · exact hs
    · exact hs.modLaunch.settleOpps.startSplits

theorem State.MemOk.returnBatch {l} (hs : s.MemOk) : (s.returnBatch l).MemOk := by
  unfold State.returnBatch
  split
  · exact hs
  · exact hs.modCtx

theorem State.MemOk.reportReuse {l} (hs : s.MemOk) : (s.reportReuse l).MemOk :=
  hs.foldl fun _ _ hs => (hs.takeFree.ite hs.takeFree.postUsage)

theorem State.MemOk.execLaunchComplete {ln} (hs : s.MemOk) : OutcomeMemOk (execLaunchComplete ln s) := by
  unfold Machine.execLaunchComplete
  split
  · exact hs
  · extract_lets f1
    have hf1 : ∀ s, s.MemOk → (f1 s).MemOk := by
      intro s hs
      unfold f1
      exact hs.modLaunch.ite hs.update
    split
    · exact hf1 _ hs
    · split
      · exact hs
      · split
        next s1 he1 =>
          exact hs.launchStamp.1 _ he1
        next s2 he2 =>
          exact hf1 _ (((((hs.launchStamp.2 _ he2).signalDone).portDone).returnBatch).reportReuse)

theorem State.MemOk.launchBatch {ctx node} (hs : s.MemOk) : (s.launchBatch ctx node).MemOk := by
  unfold State.launchBatch
  split
  · exact hs
  · exact hs.ite hs.enqueue.modCtx

theorem State.MemOk.emitRecord {h node i} (hs : s.MemOk) : (s.emitRecord h node i).MemOk := by
  unfold State.emitRecord
  split
  · exact hs
  · exact hs.modCtx.launchBatch.ite hs.modCtx

theorem State.MemOk.execRecalloc {w} (hs : s.MemOk) : OutcomeMemOk (execRecalloc w s) := by
  unfold Machine.execRecalloc
  refine hs.runSlot fun _ _ hs => ?_
  extract_lets
  split
  · exact trivial
  · extract_lets
    split
    · exact hs.addPend
    · exact hs.modCtx.addPend

theorem State.MemOk.execRecemit {w} (hs : s.MemOk) : OutcomeMemOk (execRecemit w s) := by
  unfold Machine.execRecemit
  refine hs.runSlot fun _ _ hs => ?_
  split
  · exact trivial
  · extract_lets _ _ _ _ _ r1
    clear_value r1
    split
    · exact trivial
    · split
      · exact trivial
      · refine hs.foldl fun _ _ hs => ?_
        split
        · exact hs.emitRecord
        · exact hs

theorem State.MemOk.execWorkgraphBatchTimeout {ctx node} (hs : s.MemOk) :
    OutcomeMemOk (execWorkgraphBatchTimeout ctx node s) := by
  unfold Machine.execWorkgraphBatchTimeout
  split
  · exact hs
  · split
    · exact hs
    · exact hs.launchBatch

theorem State.MemOk.syscallSlot {w desc h} (hs : s.MemOk) : (syscallSlot w desc h s).MemOk := by
  unfold Machine.syscallSlot
  split
  · exact trivial
  · split
    · exact trivial
    · split
      · exact hs
      · split
        · exact trivial
        next _ s1 he1 =>
          split
          · exact hs.eatPoison
          · exact hs.readDesc _ he1

theorem State.MemOk.execSyscallNodeCreate {w} (hs : s.MemOk) : OutcomeMemOk (execSyscallNodeCreate w s) :=
  hs.runSlot fun _ _ hs => hs.syscallSlot

theorem State.MemOk.execSyscallNodeFlush {w} (hs : s.MemOk) : OutcomeMemOk (execSyscallNodeFlush w s) :=
  hs.runSlot fun _ _ hs => hs.syscallSlot

theorem State.MemOk.execSyscallNodeDelete {w} (hs : s.MemOk) : OutcomeMemOk (execSyscallNodeDelete w s) :=
  hs.runSlot fun _ _ hs => hs.syscallSlot

theorem State.MemOk.execSyscallWake {w} (hs : s.MemOk) : OutcomeMemOk (execSyscallWake w s) :=
  hs.runSlot fun _ _ hs => hs.syscallSlot

theorem State.MemOk.execSyscallUnassigned {w} (hs : s.MemOk) : OutcomeMemOk (execSyscallUnassigned w s) :=
  hs.runSlot fun _ _ hs => hs.syscallSlot

theorem State.MemOk.service {h svc a} (hs : s.MemOk) : OptionMemOk (·.2) (s.service h svc a) := by
  unfold State.service
  extract_lets
  split
  · split
    · exact .some hs
    next _ s1 he1 =>
      split
      · exact .some ((hs.loadRange _ he1).modCtx)
      · exact .some (hs.loadRange _ he1)
  · split
    · exact .some hs
    · split
      · exact .none
      · exact .some hs.launchBatch
  · split
    · exact .some hs.takeFree
    · split
      · exact .some hs
      · exact .some hs.modCtx
  · split
    · exact .some hs
    · exact .some hs.modCtx
  · exact .some hs

theorem State.MemOk.execSyscallAnswer {fid} (hs : s.MemOk) : OutcomeMemOk (execSyscallAnswer fid s) := by
  unfold Machine.execSyscallAnswer
  split
  · exact hs
  · split
    · split
      · exact hs
      · split
        · exact hs
        next _ s1 he1 =>
          extract_lets s2
          have h2 : s2.MemOk := by
            unfold s2
            split
            · exact (hs.service _ he1).modGroup
            · exact hs.service _ he1
          exact h2.finishParked
    · exact hs

/-! ## Host queues, conductors and the command port -/

theorem State.MemOk.modQueue {k f} (hs : s.MemOk) : (s.modQueue k f).MemOk := hs.update
theorem State.MemOk.haltQueue {k} (hs : s.MemOk) : (s.haltQueue k).MemOk := hs.update.raiseMsix

theorem State.MemOk.execQueueCreate {fn q m base host ctx} (hs : s.MemOk) :
    OutcomeMemOk (execQueueCreate fn q m base host ctx s) := by
  unfold Machine.execQueueCreate
  extract_lets
  split
  · exact hs
  · exact hs.update

theorem State.MemOk.execKickWrite {fn q tail} (hs : s.MemOk) : OutcomeMemOk (execKickWrite fn q tail s) := by
  unfold Machine.execKickWrite
  extract_lets
  split
  · exact hs
  · split
    · exact hs
    · split
      · exact hs.haltQueue
      · exact hs.modQueue

theorem State.MemOk.consumePacket {k p} (hs : s.MemOk) : (s.consumePacket k p).MemOk := by
  unfold State.consumePacket
  exact hs.modQueue.raiseMsix.ite hs.modQueue

theorem State.MemOk.execPacketRefetch {fn q} (hs : s.MemOk) : OutcomeMemOk (execPacketRefetch fn q s) := by
  unfold Machine.execPacketRefetch
  extract_lets
  split
  · exact hs
  · extract_lets
    split
    · exact hs
    · split
      · split
        · exact hs.haltQueue
        · exact hs.modQueue
      · split
        · exact hs.haltQueue
        · exact hs

theorem State.MemOk.execQueueReset {fn q} (hs : s.MemOk) : OutcomeMemOk (execQueueReset fn q s) := by
  unfold Machine.execQueueReset
  extract_lets
  split
  · split
    · exact hs.modQueue
    · exact hs
  · exact hs

theorem State.MemOk.execHostPacketNop {fn q} (hs : s.MemOk) : OutcomeMemOk (execHostPacketNop fn q s) := by
  unfold Machine.execHostPacketNop
  extract_lets
  split
  · exact hs.consumePacket
  · exact hs

theorem State.MemOk.execHostPacketStart {fn q} (hs : s.MemOk) : OutcomeMemOk (execHostPacketStart fn q s) := by
  unfold Machine.execHostPacketStart
  extract_lets
  split
  · exact hs.modCtx.consumePacket
  · exact hs

theorem State.MemOk.execHostPacketWake {fn q} (hs : s.MemOk) : OutcomeMemOk (execHostPacketWake fn q s) := by
  unfold Machine.execHostPacketWake
  extract_lets
  split
  · split
    · exact hs
    · exact hs.modCtx.consumePacket
  · exact hs

theorem State.MemOk.stopConductor {ctx} (hs : s.MemOk) : (s.stopConductor ctx).MemOk := hs.modCtx

theorem State.MemOk.execHostPacketStop {fn q} (hs : s.MemOk) : OutcomeMemOk (execHostPacketStop fn q s) := by
  unfold Machine.execHostPacketStop
  extract_lets
  split
  · exact hs.stopConductor.consumePacket
  · exact hs

theorem State.MemOk.waitRead {x p} (hs : s.MemOk) : (s.waitRead x p).MemOk := by
  unfold State.waitRead
  split
  · exact hs
  · split
    · exact hs.ite hs.touch
    · exact hs

theorem State.MemOk.execHostPacketWait {fn q} (hs : s.MemOk) : OutcomeMemOk (execHostPacketWait fn q s) := by
  unfold Machine.execHostPacketWait
  extract_lets
  split
  · exact hs.waitRead.consumePacket.ite hs.waitRead.modQueue
  · exact hs

theorem State.MemOk.execQueueWaitSatisfied {fn q} (hs : s.MemOk) : OutcomeMemOk (execQueueWaitSatisfied fn q s) := by
  unfold Machine.execQueueWaitSatisfied
  extract_lets
  split
  · extract_lets
    split
    · exact hs.waitRead.consumePacket
    · exact hs
  · exact hs

theorem State.MemOk.execHostPacketStamp {fn q} (hs : s.MemOk) : OutcomeMemOk (execHostPacketStamp fn q s) := by
  unfold Machine.execHostPacketStamp
  extract_lets
  split
  · split
    next s1 he1 =>
      exact hs.stampAt.1 _ he1
    next s2 he2 =>
      exact (hs.stampAt.2 _ he2).consumePacket
  · exact hs

theorem State.MemOk.execConductorWait {ctx} (hs : s.MemOk) : OutcomeMemOk (execConductorWait ctx s) := hs.modCtx
theorem State.MemOk.condFault {ctx} (hs : s.MemOk) : (s.condFault ctx).MemOk := hs.modCtx

theorem State.MemOk.execConductorCounterSignal {ctx addr n} (hs : s.MemOk) :
    OutcomeMemOk (execConductorCounterSignal ctx addr n s) := by
  unfold Machine.execConductorCounterSignal
  extract_lets
  split
  · exact hs
  · split
    · exact hs
    · split
      · exact hs.condFault
      · split
        next s1 he1 =>
          exact hs.modCtx.signal _ he1
        · exact hs.condFault

theorem State.MemOk.execPortReserve {ctx pc put} (hs : s.MemOk) : OutcomeMemOk (execPortReserve ctx pc put s) := by
  unfold Machine.execPortReserve
  split
  · exact hs
  · split
    · exact hs
    · split
      · split
        · exact hs.modCtx
        · exact hs
      · extract_lets
        split <;> exact hs.modCtx

theorem State.MemOk.execPortReserveRefused {access} (hs : s.MemOk) :
    OutcomeMemOk (execPortReserveRefused access s) := hs.modCtx

theorem State.MemOk.consumeSlot {ctx} (hs : s.MemOk) : (s.consumeSlot ctx).MemOk := hs.modCtx

theorem State.MemOk.execPortNop {ctx} (hs : s.MemOk) : OutcomeMemOk (execPortNop ctx s) := by
  unfold Machine.execPortNop
  split
  · exact hs
  · split
    · exact hs.post.consumeSlot
    · split
      · exact hs.consumeSlot.signalDone
      · exact hs

theorem State.MemOk.execPortLaunch {ctx} (hs : s.MemOk) : OutcomeMemOk (execPortLaunch ctx s) := by
  unfold Machine.execPortLaunch
  split
  · exact hs
  · extract_lets _ f1
    have hf1 : ∀ s, s.MemOk → (f1 s).MemOk := by
      intro s hs
      unfold f1
      split
      next _ s1 he1 =>
        extract_lets s2
        have h2 : s2.MemOk := (hs.consumeSlot.modCtx.addLaunch.snd he1).imageLaunch
        split
        · exact h2
        · split
          · exact h2.takeRecord
          · exact h2.lostRecord
    split
    · split
      next _ s3 he3 =>
        split
        · exact hs.takeFree.snd he3
        · exact hf1 _ (hs.takeFree.snd he3)
    next s4 he4 =>
      exact hf1 _ hs

theorem State.MemOk.execPortTask {ctx} (hs : s.MemOk) : OutcomeMemOk (execPortTask ctx s) := by
  unfold Machine.execPortTask
  split
  · exact hs
  · split
    · exact hs
    · split
      · exact hs.post.consumeSlot
      · extract_lets s1
        have h1 : s1.MemOk := hs.consumeSlot.modCtx
        split
        next he =>
          exact (h1.storeTask he).2 _ rfl
        next he =>
          exact (h1.storeTask he).1.postAsync.dropTask

theorem State.MemOk.execPortStamp {ctx} (hs : s.MemOk) : OutcomeMemOk (execPortStamp ctx s) := by
  unfold Machine.execPortStamp
  split
  · exact hs
  · exact hs.consumeSlot.modCtx

theorem State.MemOk.stampDone {ctx x rest} (hs : s.MemOk) : (s.stampDone ctx x rest).MemOk := hs.modCtx.signalDone

theorem State.MemOk.execPortStampWrite {ctx} (hs : s.MemOk) : OutcomeMemOk (execPortStampWrite ctx s) := by
  unfold Machine.execPortStampWrite
  split
  · exact hs
  · split
    · exact hs
    · split
      · exact hs
      · split
        next s1 he1 =>
          exact hs.launchStamp.1 _ he1
        next s2 he2 =>
          exact (hs.launchStamp.2 _ he2).stampDone

/-! ## Collectives and undeliverable stores -/

theorem State.MemOk.collSlot {w fn h} (hs : s.MemOk) : (collSlot w fn h s).MemOk := by
  unfold Machine.collSlot
  split
  · exact trivial
  · extract_lets
    split
    · exact trivial
    next _ s1 he1 =>
      split
      · exact hs.eatPoison
      · split
        · exact trivial
        · extract_lets
          split
          · exact trivial
          · split
            · exact trivial
            · split
              · exact trivial
              next _ s2 he2 =>
                exact ((hs.readDesc _ he1).haspAdd _ he2).modCore

theorem State.MemOk.execCollAllReduce {w} (hs : s.MemOk) : OutcomeMemOk (execCollAllReduce w s) :=
  hs.runSlot fun _ _ hs => hs.collSlot

theorem State.MemOk.execCollReduceScatter {w} (hs : s.MemOk) : OutcomeMemOk (execCollReduceScatter w s) :=
  hs.runSlot fun _ _ hs => hs.collSlot

theorem State.MemOk.execCollAllGather {w} (hs : s.MemOk) : OutcomeMemOk (execCollAllGather w s) :=
  hs.runSlot fun _ _ hs => hs.collSlot

theorem State.MemOk.execCollBroadcast {w} (hs : s.MemOk) : OutcomeMemOk (execCollBroadcast w s) :=
  hs.runSlot fun _ _ hs => hs.collSlot

theorem State.MemOk.modColl {core id f} (hs : s.MemOk) : (s.modColl core id f).MemOk := hs.modCore
theorem State.MemOk.dropColl {core id b} (hs : s.MemOk) : (s.dropColl core id b).MemOk := hs.haspDrop.modCore

theorem State.MemOk.execCollStart {core id peers} (hs : s.MemOk) : OutcomeMemOk (execCollStart core id peers s) := by
  unfold Machine.execCollStart
  split
  · exact hs
  · split
    · exact hs
    · split
      · extract_lets _ _ _ s1
        have h1 : s1.MemOk := hs.foldl fun _ _ hs => hs.touch
        split
        · exact hs.modColl
        · split
          · split
            · exact hs.modColl
            · exact hs.dropColl.engineFault
          · split
            · exact h1.dropColl.freezeGroup
            · exact h1.modColl
      · exact hs

theorem State.MemOk.collWrite {core cx b} (hs : s.MemOk) : (s.collWrite core cx b).MemOk := by
  refine State.MemOk.foldl hs.vwrite fun _ _ hs => ?_
  split
  · exact hs.markPoison
  · exact hs

theorem State.MemOk.collFree {core id b} (hs : s.MemOk) : (s.collFree core id b).MemOk := hs.haspDrop.modColl

theorem State.MemOk.execCollComplete {core id} (hs : s.MemOk) : OutcomeMemOk (execCollComplete core id s) := by
  unfold Machine.execCollComplete
  split
  · exact hs
  · split
    · exact hs
    · split
      · exact hs
      · split
        · split
          next s1 he1 =>
            exact hs.collFree.stampAt.1 _ he1
          next s2 he2 =>
            exact ((hs.collFree.stampAt.2 _ he2).dropColl).postReport
        · split
          · split
            · exact hs.modColl
            · exact hs.dropColl.engineFault
          · split
            · exact hs.dropColl.freezeGroup
            · extract_lets
              split
              next s4 he4 =>
                exact hs.collWrite.collFree.stampAt.1 _ he4
              next s5 he5 =>
                exact (hs.collWrite.collFree.stampAt.2 _ he5).dropColl

theorem State.MemOk.execRemoteStoreFail {gid} (hs : s.MemOk) : OutcomeMemOk (execRemoteStoreFail gid s) := by
  unfold Machine.execRemoteStoreFail
  split
  · exact hs
  · exact hs.modGroup.postReport.stopGroup

theorem State.MemOk.execDomainConfigure {id members} (hs : s.MemOk) : OutcomeMemOk (execDomainConfigure id members s) := by
  unfold Machine.execDomainConfigure
  split
  · exact hs
  · exact hs.update

theorem State.MemOk.execDomainMemberLeave {m} (hs : s.MemOk) : OutcomeMemOk (execDomainMemberLeave m s) := by
  unfold Machine.execDomainMemberLeave
  split
  · exact hs
  · exact hs.update

/-! ## Integer instructions -/

theorem State.MemOk.execNop (hs : s.MemOk) : OutcomeMemOk (execNop s) := hs.runSlot fun _ _ hs => hs
theorem State.MemOk.execUdf (hs : s.MemOk) : OutcomeMemOk (execUdf s) := hs.runSlot fun _ _ _ => trivial
theorem State.MemOk.arithSlot {w f h} (hs : s.MemOk) : (arithSlot w f h s).MemOk := hs.putI
theorem State.MemOk.execIadd {w} (hs : s.MemOk) : OutcomeMemOk (execIadd w s) := hs.runSlot fun _ _ hs => hs.arithSlot
theorem State.MemOk.execIsub {w} (hs : s.MemOk) : OutcomeMemOk (execIsub w s) := hs.runSlot fun _ _ hs => hs.arithSlot
theorem State.MemOk.execImul {w} (hs : s.MemOk) : OutcomeMemOk (execImul w s) := hs.runSlot fun _ _ hs => hs.arithSlot
theorem State.MemOk.execImad {w} (hs : s.MemOk) : OutcomeMemOk (execImad w s) := hs.runSlot fun _ _ hs => hs.arithSlot
theorem State.MemOk.execImin {w} (hs : s.MemOk) : OutcomeMemOk (execImin w s) := hs.runSlot fun _ _ hs => hs.arithSlot
theorem State.MemOk.execImax {w} (hs : s.MemOk) : OutcomeMemOk (execImax w s) := hs.runSlot fun _ _ hs => hs.arithSlot
theorem State.MemOk.execIabs {w} (hs : s.MemOk) : OutcomeMemOk (execIabs w s) := hs.runSlot fun _ _ hs => hs.arithSlot
theorem State.MemOk.execIneg {w} (hs : s.MemOk) : OutcomeMemOk (execIneg w s) := hs.runSlot fun _ _ hs => hs.arithSlot
theorem State.MemOk.execIdiv {w} (hs : s.MemOk) : OutcomeMemOk (execIdiv w s) := hs.runSlot fun _ _ hs => hs.arithSlot
theorem State.MemOk.execIrem {w} (hs : s.MemOk) : OutcomeMemOk (execIrem w s) := hs.runSlot fun _ _ hs => hs.arithSlot
theorem State.MemOk.logicSlot {w f h} (hs : s.MemOk) : (logicSlot w f h s).MemOk := hs.arithSlot
theorem State.MemOk.execAndI {w} (hs : s.MemOk) : OutcomeMemOk (execAndI w s) := hs.runSlot fun _ _ hs => hs.logicSlot
theorem State.MemOk.execOrI {w} (hs : s.MemOk) : OutcomeMemOk (execOrI w s) := hs.runSlot fun _ _ hs => hs.logicSlot
theorem State.MemOk.execXorI {w} (hs : s.MemOk) : OutcomeMemOk (execXorI w s) := hs.runSlot fun _ _ hs => hs.logicSlot
theorem State.MemOk.execAndn {w} (hs : s.MemOk) : OutcomeMemOk (execAndn w s) := hs.runSlot fun _ _ hs => hs.logicSlot
theorem State.MemOk.shiftSlot {w f h} (hs : s.MemOk) : (shiftSlot w f h s).MemOk := hs.putI
theorem State.MemOk.execShl {w} (hs : s.MemOk) : OutcomeMemOk (execShl w s) := hs.runSlot fun _ _ hs => hs.shiftSlot
theorem State.MemOk.execShr {w} (hs : s.MemOk) : OutcomeMemOk (execShr w s) := hs.runSlot fun _ _ hs => hs.shiftSlot
theorem State.MemOk.execRot {w} (hs : s.MemOk) : OutcomeMemOk (execRot w s) := hs.runSlot fun _ _ hs => hs.shiftSlot
theorem State.MemOk.execBfx {w} (hs : s.MemOk) : OutcomeMemOk (execBfx w s) := hs.runSlot fun _ _ hs => hs.putI
theorem State.MemOk.execBfi {w} (hs : s.MemOk) : OutcomeMemOk (execBfi w s) := hs.runSlot fun _ _ hs => hs.putI
theorem State.MemOk.unarySlot {w f h} (hs : s.MemOk) : (unarySlot w f h s).MemOk := hs.putI
theorem State.MemOk.execPopc {w} (hs : s.MemOk) : OutcomeMemOk (execPopc w s) := hs.runSlot fun _ _ hs => hs.unarySlot
theorem State.MemOk.execClz {w} (hs : s.MemOk) : OutcomeMemOk (execClz w s) := hs.runSlot fun _ _ hs => hs.unarySlot
theorem State.MemOk.execBrev {w} (hs : s.MemOk) : OutcomeMemOk (execBrev w s) := hs.runSlot fun _ _ hs => hs.unarySlot
theorem State.MemOk.execPerm {w} (hs : s.MemOk) : OutcomeMemOk (execPerm w s) := hs.runSlot fun _ _ hs => hs.putI
theorem State.MemOk.execIcmp {w} (hs : s.MemOk) : OutcomeMemOk (execIcmp w s) := hs.runSlot fun _ _ hs => hs.putCmp
theorem State.MemOk.execSel {w} (hs : s.MemOk) : OutcomeMemOk (execSel w s) := hs.runSlot fun _ _ hs => hs.putI
theorem State.MemOk.execLea {w} (hs : s.MemOk) : OutcomeMemOk (execLea w s) := hs.runSlot fun _ _ hs => hs.putI

theorem State.MemOk.execMov {w} (hs : s.MemOk) : OutcomeMemOk (execMov w s) := by
  unfold Machine.execMov
  refine hs.runSlot fun _ _ hs => ?_
  split
  · exact hs.writeK
  · exact hs.writeC
  · exact hs.writeS.ite hs.putI
  · exact hs.putI

theorem State.MemOk.execDp4i {w} (hs : s.MemOk) : OutcomeMemOk (execDp4i w s) := hs.runSlot fun _ _ hs => hs.putI
theorem State.MemOk.execSad {w} (hs : s.MemOk) : OutcomeMemOk (execSad w s) := hs.runSlot fun _ _ hs => hs.putI

/-! ## Mask and lane instructions, special registers -/

theorem State.MemOk.execKop {w} (hs : s.MemOk) : OutcomeMemOk (execKop w s) := hs.runSlot fun _ _ hs => hs.writeK
theorem State.MemOk.execKpop {w} (hs : s.MemOk) : OutcomeMemOk (execKpop w s) := hs.runSlot fun _ _ hs => hs.writeS
theorem State.MemOk.execKffs {w} (hs : s.MemOk) : OutcomeMemOk (execKffs w s) := hs.runSlot fun _ _ hs => hs.writeS
theorem State.MemOk.execVote {w} (hs : s.MemOk) : OutcomeMemOk (execVote w s) := hs.runSlot fun _ _ hs => hs.writeC
theorem State.MemOk.execShfl {w} (hs : s.MemOk) : OutcomeMemOk (execShfl w s) := hs.runSlot fun _ _ hs => hs.putI
theorem State.MemOk.execRdlane {w} (hs : s.MemOk) : OutcomeMemOk (execRdlane w s) := hs.runSlot fun _ _ hs => hs.writeS
theorem State.MemOk.execWrlane {w} (hs : s.MemOk) : OutcomeMemOk (execWrlane w s) := hs.runSlot fun _ _ hs => hs.writeVec
theorem State.MemOk.execMatchI {w} (hs : s.MemOk) : OutcomeMemOk (execMatchI w s) := hs.runSlot fun _ _ hs => hs.writeVec

theorem State.MemOk.execGred {w} (hs : s.MemOk) : OutcomeMemOk (execGred w s) := by
  unfold Machine.execGred
  refine hs.runSlot fun _ _ hs => ?_
  extract_lets
  split
  · exact hs.writeVec
  · exact hs.writeVec.raise

theorem State.MemOk.execGscan {w} (hs : s.MemOk) :
    OutcomeMemOk (execGscan w s) := hs.runSlot fun _ _ hs => hs.writeVec.raise

theorem State.MemOk.tick {core} (hs : s.MemOk) : (s.tick core).MemOk := hs.takeFree.modCore

theorem State.MemOk.execSrd {w} (hs : s.MemOk) : OutcomeMemOk (execSrd w s) := by
  unfold Machine.execSrd
  refine hs.runSlot fun _ _ hs => ?_
  extract_lets
  split
  · exact (hs.tick.ite hs).writeS
  · exact (hs.tick.ite hs).writeVec

theorem State.MemOk.execSwr {w} (hs : s.MemOk) : OutcomeMemOk (execSwr w s) := hs.runSlot fun _ _ hs => hs.modGroup

/-! ## Counters, trials and the debug core -/

theorem State.MemOk.pmcapStartSlot {w h} (hs : s.MemOk) : (pmcapStartSlot w h s).MemOk := by
  unfold Machine.pmcapStartSlot
  extract_lets
  split
  · exact trivial
  · split
    · exact hs.setFlag
    · exact hs.tick.modGroup.setFlag

theorem State.MemOk.execPmcapStart {w} (hs : s.MemOk) : OutcomeMemOk (execPmcapStart w s) :=
  hs.runSlot fun _ _ hs => hs.pmcapStartSlot

theorem State.MemOk.pmcapStopSlot {w h} (hs : s.MemOk) : (pmcapStopSlot w h s).MemOk := by
  unfold Machine.pmcapStopSlot
  split
  · exact hs.setFlag
  · extract_lets _ _ _ _ f1
    have hf1 : ∀ s, s.MemOk → (f1 s).MemOk := fun _ hs => hs.modGroup.setFlag
    split
    · split
      · exact trivial
      · exact hs
    · split
      · split
        · exact trivial
        next s2 he2 =>
          exact hf1 _ (hs.tick.sideAdd _ he2)
      · exact hf1 _ hs.tick.vwrite.noteLostLanes

theorem State.MemOk.execPmcapStop {w} (hs : s.MemOk) : OutcomeMemOk (execPmcapStop w s) :=
  hs.runSlot fun _ _ hs => hs.pmcapStopSlot

theorem State.MemOk.execCounterEventConfig {counter code} (hs : s.MemOk) :
    OutcomeMemOk (execCounterEventConfig counter code s) := by
  unfold Machine.execCounterEventConfig
  split
  · exact hs
  · exact hs.update

theorem State.MemOk.setDebts {cx x} (hs : s.MemOk) : (s.setDebts cx x).MemOk := hs.update

theorem State.MemOk.execTrialStart {ctx desc} (hs : s.MemOk) : OutcomeMemOk (execTrialStart ctx desc s) := by
  unfold Machine.execTrialStart
  split
  · exact hs
  · split
    · exact hs.modCtx
    · exact hs.modCtx.setDebts

theorem State.MemOk.execTrialEpochEnd {ctx ns} (hs : s.MemOk) : OutcomeMemOk (execTrialEpochEnd ctx ns s) := by
  unfold Machine.execTrialEpochEnd
  split
  · exact hs
  · split
    · exact hs
    · extract_lets
      split
      · exact hs
      · split
        · exact hs.setDebts.modCtx
        · exact hs.setDebts.vwrite.vwrite.modCtx

theorem State.MemOk.dbgAnswer {hart cmderr data} (hs : s.MemOk) : (s.dbgAnswer hart cmderr data).MemOk := by
  unfold State.dbgAnswer
  exact hs.ite hs.update

theorem State.MemOk.execHaltreq {hart} (hs : s.MemOk) : OutcomeMemOk (execHaltreq hart s) := by
  unfold Machine.execHaltreq
  split
  · exact hs
  · exact hs.modGroup.modCtx

theorem State.MemOk.execResumereq {hart} (hs : s.MemOk) : OutcomeMemOk (execResumereq hart s) := by
  unfold Machine.execResumereq
  split
  · exact hs
  · exact hs.modGroup

theorem State.MemOk.dbgWrite {gid fid r x} (hs : s.MemOk) : (s.dbgWrite gid fid r x).MemOk := by
  unfold State.dbgWrite
  extract_lets _ s2
  have h2 : s2.MemOk := by
    unfold s2
    split
    · exact hs.forgetLatches.modGroup
    · exact hs.forgetLatches
  split
  · exact hs.forgetLatches.modGroup
  · exact hs.forgetLatches.modGroup
  · exact hs.forgetLatches.modGroup
  · exact hs.forgetLatches.withdraw.modFrag
  · exact hs.forgetLatches.modGroup
  · exact h2.modFrag
  · exact hs.forgetLatches.modGroup
  · exact hs.forgetLatches.modGroup

theorem State.MemOk.execAccessRegister {hart cmd} (hs : s.MemOk) : OutcomeMemOk (execAccessRegister hart cmd s) := by
  unfold Machine.execAccessRegister
  split
  · exact hs
  · extract_lets _ _ r1
    clear_value r1
    split
    · split
      · exact hs.dbgAnswer
      · split
        · exact hs.dbgAnswer.dbgWrite
        · exact hs.dbgAnswer.dbgAnswer
    · exact hs.dbgAnswer

theorem State.MemOk.execAccessMemory {hart cmd} (hs : s.MemOk) : OutcomeMemOk (execAccessMemory hart cmd s) := by
  unfold Machine.execAccessMemory
  split
  · exact hs
  · extract_lets
    split
    · exact hs.dbgAnswer
    · split
      · exact hs.dbgAnswer
      · split
        · split <;> exact hs.dbgAnswer
        · split
          · split
            · split
              · exact hs.dbgAnswer
              · exact hs.vstore.dbgAnswer
            · split
              · exact hs.dbgAnswer
              · exact hs.touch.dbgAnswer
          · exact hs.dbgAnswer

theorem State.MemOk.execDebugBreakpointSet {ctx n at_} (hs : s.MemOk) : OutcomeMemOk (execDebugBreakpointSet ctx n at_ s) :=
  hs.modCtx

/-! ## Fault records, pre-emption, save and resumption -/

theorem State.MemOk.execFaultRecordPost {ctx} (hs : s.MemOk) : OutcomeMemOk (execFaultRecordPost ctx s) := by
  unfold Machine.execFaultRecordPost
  split
  · exact hs
  · split
    · exact hs
    · split
      · exact hs.consumeRecord
      · exact hs.modCtx.enterRing

theorem State.MemOk.execXlateService {frag map} (hs : s.MemOk) : OutcomeMemOk (execXlateService frag map s) := by
  unfold Machine.execXlateService
  split
  · exact hs
  · split
    · split
      · exact hs
      · split
        · exact hs.applyMap.consumeRecord.resume
        · exact hs.postBits.consumeRecord.modFrag
    · exact hs

theorem State.MemOk.releaseHalt {tid} (hs : s.MemOk) :
    (s.releaseHalt tid).MemOk := hs.modTeam.foldl fun _ _ hs => hs.modFrag

theorem State.MemOk.execTrapResume {frag edits} (hs : s.MemOk) : OutcomeMemOk (execTrapResume frag edits s) := by
  unfold Machine.execTrapResume
  split
  · exact hs
  · split
    · exact hs
    · extract_lets s1
      have h1 : s1.MemOk := hs.modGroup.modFrag.consumeRecord
      split
      · exact (h1.ite h1.forgetLatches).releaseHalt
      · exact (h1.ite h1.forgetLatches).resume

theorem State.MemOk.execTrapSkip {frag} (hs : s.MemOk) : OutcomeMemOk (execTrapSkip frag s) := by
  unfold Machine.execTrapSkip
  split
  · exact hs
  · split
    · exact hs
    · extract_lets
      split
      · exact hs.consumeRecord.releaseHalt
      · exact hs.consumeRecord.modFrag
      · exact hs.consumeRecord.resume

theorem State.MemOk.killAny {tid} (hs : s.MemOk) : (s.killAny tid).MemOk := hs.killTeam.update.modTeam

theorem State.MemOk.execTrapKill {frag} (hs : s.MemOk) : OutcomeMemOk (execTrapKill frag s) := by
  unfold Machine.execTrapKill
  split
  · exact hs
  · split
    · exact hs.consumeRecord.killAny
    · exact hs

theorem State.MemOk.landXfer {core id} (hs : s.MemOk) : (s.landXfer core id).MemOk := by
  have h := hs.execCplLineLand (core := core) (id := id)
  unfold State.landXfer
  split
  next he => rwa [he] at h
  · exact hs

theorem State.MemOk.dropTlb {asid lo hi} (hs : s.MemOk) : (s.dropTlb asid lo hi).MemOk := hs.update

theorem State.MemOk.execTlbInvalidate {asid lo hi} (hs : s.MemOk) : OutcomeMemOk (execTlbInvalidate asid lo hi s) := by
  unfold Machine.execTlbInvalidate
  extract_lets f1
  have hf1 : ∀ s, s.MemOk → (f1 s).MemOk := fun _ hs => hs.foldl fun _ _ hs => hs.landXfer
  exact (hf1 _ (hf1 _ hs)).dropTlb

theorem State.MemOk.preempt {tid} (hs : s.MemOk) : (s.preempt tid).MemOk := by
  unfold State.preempt
  split
  · exact hs
  · split
    · exact hs
    · exact ((hs.modTeam.foldl fun _ _ hs => hs.modGroup).foldl fun _ _ hs => hs.modFrag).modCore.foldl
        fun _ _ hs => hs.penLaunch

theorem State.MemOk.execComputePreempt {who} (hs : s.MemOk) : OutcomeMemOk (execComputePreempt who s) := by
  unfold Machine.execComputePreempt
  split
  · exact hs.foldl fun _ _ hs => hs.preempt
  · split
    · exact (hs.foldl fun _ _ hs => hs.preempt).modCtx
    · exact hs

theorem State.MemOk.renameFrag {tid core old new} (hs : s.MemOk) : (s.renameFrag tid core old new).MemOk := by
  unfold State.renameFrag
  split
  · exact hs
  · extract_lets r s1
    have h1 : s1.MemOk := hs.update
    exact h1.putAcc.modTeam.modGroup.modCore

theorem State.MemOk.saveEngines {tid core} (hs : s.MemOk) : (s.saveEngines tid core).MemOk := by
  unfold State.saveEngines
  extract_lets _ _ _ _ _ _ _ s1 s2 s3
  have h1 : s1.MemOk := State.MemOk.haspDrop hs.update
  have h2 : s2.MemOk := h1.foldl fun _ _ hs => hs.haspDrop
  have h3 : s3.MemOk := h2.update
  exact h3.modCore

theorem State.MemOk.saveCapture {core gid} (hs : s.MemOk) : (s.saveCapture core gid).MemOk := hs.modGroup

theorem State.MemOk.dropPenSlots {cx core} (hs : s.MemOk) : (s.dropPenSlots cx core).MemOk :=
  hs.foldl fun _ _ hs => hs.modCore.penRelease

theorem State.MemOk.saveCtx {cx} (hs : s.MemOk) : (s.saveCtx cx).MemOk := by
  unfold State.saveCtx
  extract_lets _ s1 s2
  have h2 : s2.MemOk := State.MemOk.modCtx (hs.foldl fun _ _ hs => hs.dropPenSlots)
  exact hs.ite h2.update

theorem State.MemOk.saveTeam {team} (hs : s.MemOk) : OutcomeMemOk (State.saveTeam team s) := by
  unfold State.saveTeam
  split
  · exact hs
  · split
    · exact hs
    · extract_lets _ _ _ _ _ _ _ s6
      have h6 : s6.MemOk := ((hs.update.spillRays.foldl fun _ _ hs => hs.modFrag.renameFrag).tick.foldl
        fun _ _ hs => hs.saveCapture.modGroup).saveEngines.modTeam.syncArenas.dropPenSlots
      exact (h6.settleOpp.ite h6).saveCtx

theorem State.MemOk.execContextSave {who} (hs : s.MemOk) : OutcomeMemOk (execContextSave who s) := by
  unfold Machine.execContextSave
  split
  · exact hs.saveTeam
  · exact hs.saveCtx

theorem State.MemOk.relock {core} (hs : s.MemOk) : (s.relock core).MemOk := by
  refine State.MemOk.foldl (State.MemOk.foldl (hs.foldl fun _ _ hs => ?_) fun _ _ hs => ?_)
    fun _ _ hs => hs.foldl fun _ _ hs => ?_
  all_goals split
  next he => exact (hs.haspAdd _ he).modCore
  · exact hs
  next he => exact (hs.haspAdd _ he).modCore
  · exact hs
  next he => exact (hs.haspAdd _ he).modTileEng
  · exact hs

theorem State.MemOk.loadEngines {tid core} (hs : s.MemOk) : (s.loadEngines tid core).MemOk := by
  unfold State.loadEngines
  extract_lets _ _ _ _ s1 s2 _ s3
  have h2 : s2.MemOk := State.MemOk.relock (State.MemOk.update (s := s1) hs.modCore)
  have h3 : s3.MemOk := h2.update
  exact h3.modTeam

theorem State.MemOk.loadRays {tid} (hs : s.MemOk) : (s.loadRays tid).MemOk := by
  unfold State.loadRays
  refine hs.foldl fun _ _ hs => ?_
  split
  · exact hs
  · extract_lets
    split
    · exact hs.update.freezeGroup
    · split
      · exact hs
      next _ _ _ s1 he1 =>
        exact (hs.reloadAt _ he1).ite ((hs.reloadAt _ he1).modCore)

theorem State.MemOk.restore {tid core} (hs : s.MemOk) : (s.restore tid core).MemOk := by
  unfold State.restore
  split
  · exact hs
  · extract_lets _ _ s2 s3 s4 _ _ s7
    have h3 : s3.MemOk := (hs.modTeam.loadEngines.foldl fun _ _ hs => hs.modGroup).foldl fun _ _ hs => hs.modGroup
    have h4 : s4.MemOk := h3.foldl fun _ _ hs => by
      split
      · exact hs.renameFrag.modFrag
      · exact hs
    have h7 : s7.MemOk := (h4.loadRays.foldl fun _ _ hs => hs.modGroup).syncArenas.wakeAbsent
    exact (((h7.settleOpp.ite h7).wakeRing).wakeRing).settleLost

theorem State.MemOk.moveSubs {old new p} (hs : s.MemOk) : (s.moveSubs old new p).MemOk := hs.ite hs.modTileEng.modTileEng

theorem State.MemOk.moveLaunch {ln l ox oy} (hs : s.MemOk) : OptionMemOk id (s.moveLaunch ln l ox oy) := by
  unfold State.moveLaunch
  extract_lets mv s'
  have h' : OptionMemOk id s' := (OptionMemOk.some hs).foldlBind fun _ _ hs => by
    extract_lets
    exact OptionMemOk.map fun _ _ => hs.update
  refine OptionMemOk.map fun _ he => ?_
  have hs := h' _ he
  exact State.MemOk.foldl hs.modLaunch fun _ _ hs => hs.foldl fun _ _ hs => hs.moveSubs

theorem State.MemOk.relocate {ln l ox oy} (hs : s.MemOk) : (s.relocate ln l ox oy).MemOk := by
  unfold State.relocate
  split
  · exact trivial
  · split
    · exact hs
    · split
      next s1 he1 =>
        exact hs.moveLaunch _ he1
      · exact trivial

theorem State.MemOk.resumeCtx {cx} (hs : s.MemOk) : (s.resumeCtx cx).MemOk := by
  unfold State.resumeCtx
  extract_lets
  split
  · exact hs.modCtx.ite (hs.update.foldl fun _ _ hs => hs.settleTilenx)
  · exact hs.modCtx.ite (hs.update.foldl fun _ _ hs => hs.settleTilenx)
  · exact hs

theorem State.MemOk.endHold {cx} (hs : s.MemOk) : (s.endHold cx).MemOk := hs.update

theorem State.MemOk.keepSaved {cx ln} (hs : s.MemOk) : (s.keepSaved cx ln).MemOk := by
  unfold State.keepSaved
  extract_lets
  split
  · exact (hs.postAsync.foldl fun _ _ hs => hs.preempt).modCtx
  · exact hs.postAsync

theorem State.MemOk.resumeTeam {team core t} (hs : s.MemOk) : (s.resumeTeam team core t).MemOk := by
  unfold State.resumeTeam
  split
  · extract_lets _ _ f1
    have hf1 : ∀ s', s'.MemOk → (f1 s').MemOk := by
      intro s' hs'
      unfold f1
      split
      · exact hs.keepSaved
      · exact ((hs'.foldl fun _ _ hs => hs.restore).endHold).resumeCtx
    split
    · extract_lets
      split
      · exact hf1 _ hs
      · split
        · split
          next s1 he1 =>
            exact hf1 _ (hs.relocate.stays he1)
          · exact hs.keepSaved
          · exact hs
        · exact (hf1 _ hs).ite hs
  · exact hs

theorem State.MemOk.resumeIdle {cx core} (hs : s.MemOk) : (s.resumeIdle cx core).MemOk := by
  unfold State.resumeIdle
  extract_lets _ r1
  have hr1 : ExceptMemOk id r1 := ExceptMemOk.foldl (.ok hs) fun _ _ hs => by
    split
    split
    next he => exact .ok (hs.relocate.stays he)
    · exact .error
    · exact .error
  clear_value r1
  split
  · split
    · exact hs.keepSaved
    · exact State.MemOk.resumeCtx (hr1 _ rfl)
  · exact hs
  · exact hs.keepSaved

theorem State.MemOk.execContextResume {who core} (hs : s.MemOk) : OutcomeMemOk (execContextResume who core s) := by
  unfold Machine.execContextResume
  split
  · split
    · exact hs
    · split
      · exact hs
      · exact hs.resumeTeam
  · extract_lets
    split
    · exact hs.endHold
    · split
      · exact hs.endHold.resumeIdle
      · exact hs.endHold.resumeIdle
      · exact hs.endHold

theorem State.MemOk.dropCommands {cx} (hs : s.MemOk) : (s.dropCommands cx).MemOk :=
  (hs.foldl fun _ _ hs => hs.haspDrop.modCore).foldl fun _ _ hs => (hs.foldl fun _ _ hs => hs.haspDrop).modTileEng

theorem State.MemOk.abortCtx {cx} (hs : s.MemOk) : (s.abortCtx cx).MemOk := by
  unfold State.abortCtx
  split
  · exact hs
  · split
    · exact hs
    · exact ((hs.foldl fun _ _ hs => hs.killAny).dropCommands.update.update.stopConductor.foldl
        fun _ _ hs => hs.haltQueue).modCtx.dropTlb

theorem State.MemOk.execContextAbort {ctx} (hs : s.MemOk) : OutcomeMemOk (execContextAbort ctx s) := hs.abortCtx

theorem State.MemOk.execFunctionLevelReset {fn} (hs : s.MemOk) : OutcomeMemOk (execFunctionLevelReset fn s) :=
  (hs.foldl fun _ _ hs => hs.abortCtx).update

theorem State.MemOk.execContextCreate {ctx desc} (hs : s.MemOk) : OutcomeMemOk (execContextCreate ctx desc s) := by
  unfold Machine.execContextCreate
  split
  · exact hs
  · extract_lets
    split
    · exact hs
    · exact hs.update.dropTlb

/-! ## Floating point -/

theorem State.MemOk.dotSlot {w terms h} (hs : s.MemOk) : (dotSlot w terms h s).MemOk := hs.putF
theorem State.MemOk.execFadd {w} (hs : s.MemOk) : OutcomeMemOk (execFadd w s) := hs.runSlot fun _ _ hs => hs.dotSlot
theorem State.MemOk.execFsub {w} (hs : s.MemOk) : OutcomeMemOk (execFsub w s) := hs.runSlot fun _ _ hs => hs.dotSlot
theorem State.MemOk.execFmul {w} (hs : s.MemOk) : OutcomeMemOk (execFmul w s) := hs.runSlot fun _ _ hs => hs.dotSlot
theorem State.MemOk.execFfma {w} (hs : s.MemOk) : OutcomeMemOk (execFfma w s) := hs.runSlot fun _ _ hs => hs.dotSlot
theorem State.MemOk.minmaxSlot {w isMax h} (hs : s.MemOk) : (minmaxSlot w isMax h s).MemOk := hs.putF
theorem State.MemOk.execFmin {w} (hs : s.MemOk) : OutcomeMemOk (execFmin w s) := hs.runSlot fun _ _ hs => hs.minmaxSlot
theorem State.MemOk.execFmax {w} (hs : s.MemOk) : OutcomeMemOk (execFmax w s) := hs.runSlot fun _ _ hs => hs.minmaxSlot
theorem State.MemOk.execFcmp {w} (hs : s.MemOk) : OutcomeMemOk (execFcmp w s) := hs.runSlot fun _ _ hs => hs.putCmp
theorem State.MemOk.execFclass {w} (hs : s.MemOk) : OutcomeMemOk (execFclass w s) := hs.runSlot fun _ _ hs => hs.putF
theorem State.MemOk.unaryF {w g h} (hs : s.MemOk) : (unaryF w g h s).MemOk := hs.putF
theorem State.MemOk.execFrcp {w} (hs : s.MemOk) : OutcomeMemOk (execFrcp w s) := hs.runSlot fun _ _ hs => hs.unaryF
theorem State.MemOk.execFrsq {w} (hs : s.MemOk) : OutcomeMemOk (execFrsq w s) := hs.runSlot fun _ _ hs => hs.unaryF
theorem State.MemOk.execFsqrt {w} (hs : s.MemOk) : OutcomeMemOk (execFsqrt w s) := hs.runSlot fun _ _ hs => hs.unaryF
theorem State.MemOk.execFdiv {w} (hs : s.MemOk) : OutcomeMemOk (execFdiv w s) := hs.runSlot fun _ _ hs => hs.putF
theorem State.MemOk.execFexp2 {w} (hs : s.MemOk) : OutcomeMemOk (execFexp2 w s) := hs.runSlot fun _ _ hs => hs.unaryF
theorem State.MemOk.execFlog2 {w} (hs : s.MemOk) : OutcomeMemOk (execFlog2 w s) := hs.runSlot fun _ _ hs => hs.unaryF
theorem State.MemOk.execFsin {w} (hs : s.MemOk) : OutcomeMemOk (execFsin w s) := hs.runSlot fun _ _ hs => hs.unaryF
theorem State.MemOk.execFcos {w} (hs : s.MemOk) : OutcomeMemOk (execFcos w s) := hs.runSlot fun _ _ hs => hs.unaryF
theorem State.MemOk.execFrnd {w} (hs : s.MemOk) : OutcomeMemOk (execFrnd w s) := hs.runSlot fun _ _ hs => hs.unaryF
theorem State.MemOk.dpSlot {w fa fb n h} (hs : s.MemOk) : (dpSlot w fa fb n h s).MemOk := hs.putF
theorem State.MemOk.execFdp2 {w} (hs : s.MemOk) : OutcomeMemOk (execFdp2 w s) := hs.runSlot fun _ _ hs => hs.dpSlot
theorem State.MemOk.execFdp4 {w} (hs : s.MemOk) : OutcomeMemOk (execFdp4 w s) := hs.runSlot fun _ _ hs => hs.dpSlot
theorem State.MemOk.execFcopys {w} (hs : s.MemOk) : OutcomeMemOk (execFcopys w s) := hs.runSlot fun _ _ hs => hs.putF
theorem State.MemOk.execFldexp {w} (hs : s.MemOk) : OutcomeMemOk (execFldexp w s) := hs.runSlot fun _ _ hs => hs.putF
theorem State.MemOk.execFfrexp {w} (hs : s.MemOk) : OutcomeMemOk (execFfrexp w s) := hs.runSlot fun _ _ hs => hs.putF

/-! ## Conversions -/

theorem State.MemOk.execCvt {w} (hs : s.MemOk) : OutcomeMemOk (execCvt w s) := hs.runSlot fun _ _ hs => hs.putF
theorem State.MemOk.execCvti {w} (hs : s.MemOk) : OutcomeMemOk (execCvti w s) := hs.runSlot fun _ _ hs => hs.putF
theorem State.MemOk.execCvtf {w} (hs : s.MemOk) : OutcomeMemOk (execCvtf w s) := hs.runSlot fun _ _ hs => hs.putF

theorem State.MemOk.execQpack {w} (hs : s.MemOk) : OutcomeMemOk (execQpack w s) := by
  unfold Machine.execQpack
  refine hs.runSlot fun _ _ hs => ?_
  extract_lets
  split
  · exact hs.writeVec
  · exact hs.writeVec.raise

theorem State.MemOk.execQunpk {w} (hs : s.MemOk) : OutcomeMemOk (execQunpk w s) := hs.runSlot fun _ _ hs => hs.putF
theorem State.MemOk.execRng {w} (hs : s.MemOk) : OutcomeMemOk (execRng w s) := hs.runSlot fun _ _ hs => hs.putF
theorem State.MemOk.execRngf {w} (hs : s.MemOk) : OutcomeMemOk (execRngf w s) := hs.runSlot fun _ _ hs => hs.putF

/-! ## Errors, scrubs, energy and boot -/

theorem State.MemOk.unwait {tid gid fid} (hs : s.MemOk) : (s.unwait tid gid fid).MemOk := by
  unfold State.unwait
  extract_lets _ s2
  have h2 : s2.MemOk := by
    unfold s2
    split
    · exact hs.withdraw.putAcc.ite hs.withdraw
    · exact hs.withdraw
  exact h2.modTeam

theorem State.MemOk.restart {gid} (hs : s.MemOk) : (s.restart gid).MemOk := by
  unfold State.restart
  split
  · exact hs
  · exact ((hs.foldl fun _ _ hs => hs.unwait).modGroup).foldl fun _ _ hs => hs.modFrag

theorem State.MemOk.thaw {gid e} (hs : s.MemOk) : (s.thaw gid e).MemOk := by
  unfold State.thaw
  extract_lets _ _ s1
  have h1 : s1.MemOk := hs.update
  refine h1.foldl fun _ _ hs => ?_
  split
  · exact hs.ite hs.logEvent.raiseMsix
  · exact hs

theorem State.MemOk.execShepherdDecision {gid} (hs : s.MemOk) : OutcomeMemOk (execShepherdDecision gid s) := by
  unfold Machine.execShepherdDecision
  split
  · exact hs
  · split
    · exact hs
    · split
      · exact hs
      · extract_lets _ _ _ _ f1 f2
        have hf1 : ∀ d s, s.MemOk → (f1 d s).MemOk := fun _ _ hs => hs.logEvent.raiseMsix
        have hf2 : ∀ s, s.MemOk → (f2 s).MemOk := fun _ hs => hs.modGroup
        split
        · exact ((hf2 _ (hf1 _ _ hs)).abortCtx).thaw
        · split
          · exact ((hf1 _ _ hs).restart).thaw
          · exact ((hf2 _ (hf1 _ _ hs)).killAny).thaw

/-- A reset empties the module's own memory. -/
theorem State.MemOk.cold (hs : s.MemOk) : s.cold.MemOk := by
  obtain ⟨-, hhost, hdom⟩ := hs
  exact ⟨rfl, hhost, hdom⟩

theorem State.MemOk.powerOff (hs : s.MemOk) : s.powerOff.MemOk := hs.cold.update
theorem State.MemOk.moduleReset (hs : s.MemOk) : s.moduleReset.MemOk := hs.cold.update
theorem State.MemOk.retireCore {core array} (hs : s.MemOk) : (s.retireCore core array).MemOk := hs.ite hs.update
theorem State.MemOk.rowFails {pa} (hs : s.MemOk) : (s.rowFails pa).MemOk := hs.update

theorem State.MemOk.softRow {pa} (hs : s.MemOk) : (s.softRow pa).MemOk := by
  unfold State.softRow
  exact hs.update.rowFails.ite hs.update

theorem State.MemOk.logCorrected {array core pa} (hs : s.MemOk) : (s.logCorrected array core pa).MemOk := by
  unfold State.logCorrected
  extract_lets _ _ _ _ s2
  have h2 : s2.MemOk := (hs.softRow.ite hs).logEvent
  exact ((hs.softRow.ite hs).update).ite (h2.retireCore.ite h2)

theorem State.MemOk.newPoison {array pa n} (hs : s.MemOk) : (s.newPoison array pa n).MemOk := hs.markPoison.logEvent
theorem State.MemOk.blockLost {b} (hs : s.MemOk) : (s.blockLost b).MemOk := hs.newPoison.rowFails
theorem State.MemOk.llcDrop {pa} (hs : s.MemOk) : (s.llcDrop pa).MemOk := hs.update

theorem State.MemOk.strike {u} (hs : s.MemOk) : (s.strike u).MemOk := by
  unfold State.strike
  split
  · exact hs
  · split
    · exact hs.logCorrected
    · exact hs.modGroup
    · exact hs.modGroup
    · exact hs.update
    · exact hs.update
    · exact hs.modCore
    · exact hs.freezeGroup
    · split
      · exact hs
      · exact hs.newPoison
      · exact hs.llcDrop
    · exact hs.ite hs.blockLost
    · exact hs.update.logEvent
    · exact hs.penDiscard
    · exact hs.modPenTile
    · exact hs.freezeGroup
    · exact hs.modCore
    · exact hs.update
    · exact hs
    · split
      · exact hs
      · exact hs.logEvent.raiseMsix.abortCtx
    · exact hs.moduleReset
    · exact hs.retireCore.ite hs
    · exact hs.modFun.ite hs

theorem State.MemOk.execHbmScrub {block correctable} (hs : s.MemOk) : OutcomeMemOk (execHbmScrub block correctable s) := by
  unfold Machine.execHbmScrub
  split
  · exact hs
  · split
    · exact hs.logCorrected
    · exact hs.blockLost

theorem SMap.wfD_filterE {α : Type} [DecidableEq α] {m : SMap α} {d : α} {p : Nat → α → Bool} (h : m.wfD d = true) :
    (m.filterE p).wfD d = true := by
  obtain ⟨hw, hd⟩ := SMap.wfD_iff.mp h
  refine SMap.wfD_iff.mpr ⟨?_, fun e he => hd e (List.mem_of_mem_filter he)⟩
  clear h hd
  unfold SMap.filterE
  induction m with
  | nil => rfl
  | cons x t ih =>
    obtain ⟨hlt, ht⟩ := SMap.wf_cons.mp hw
    rw [List.filter_cons]
    split
    · exact SMap.wf_cons.mpr ⟨fun e he => hlt e (List.mem_of_mem_filter he), ih ht⟩
    · exact ih ht

theorem SMap.wfD_set {α : Type} [DecidableEq α] {m : SMap α} {k : Nat} {v d : α} (h : m.wfD d = true) (hv : v ≠ d) :
    (m.set k v).wfD d = true := by
  obtain ⟨hw, hd⟩ := SMap.wfD_iff.mp h
  refine SMap.wfD_iff.mpr ⟨SMap.wf_set k v hw, fun e he => ?_⟩
  rcases SMap.mem_set he with rfl | he
  · exact hv
  · exact hd e he

/-- The bytes that move are listed ones, so none has the value of an unlisted byte. -/
theorem moveKeys_wfD {α : Type} [DecidableEq α] {m : SMap α} {lo dst n : Nat} {d : α} (h : m.wfD d = true) :
    (moveKeys m lo dst n).wfD d = true := by
  obtain ⟨-, hd⟩ := SMap.wfD_iff.mp h
  refine List.foldlRecOn (motive := fun m => SMap.wfD m d = true) _ _ (SMap.wfD_filterE h) fun _ hm e he => ?_
  exact SMap.wfD_set hm (hd e (List.mem_of_mem_filter he))

theorem State.MemOk.execPageRetire {page target ptes} (hs : s.MemOk) :
    OutcomeMemOk (execPageRetire page target ptes s) := by
  unfold Machine.execPageRetire
  extract_lets _ _ pass s1 s2 s3 _ _ _ s4
  have hpass : ∀ s, s.MemOk → (pass s).MemOk := fun _ hs => hs.foldl fun _ _ hs => hs.landXfer
  obtain ⟨hmem, hhost, hdom⟩ := hpass _ (hpass _ hs)
  have h2 : s2.MemOk := ⟨moveKeys_wfD hmem, hhost, hdom⟩
  have h3 : s3.MemOk := h2.applyMap
  have h4 : s4.MemOk := h3.update
  split
  · exact hs
  · exact h4.logEvent

theorem State.MemOk.lowerBy {core n} (hs : s.MemOk) : (s.lowerBy core n).MemOk := hs.update.settleOpp

theorem State.MemOk.planFun {fn} (hs : s.MemOk) : (s.planFun fn).MemOk := by
  unfold State.planFun
  extract_lets _ _ _ _ s1
  have h1 : s1.MemOk := by
    unfold s1
    split
    · exact hs
    · exact hs.foldl fun _ _ hs => hs.lowerBy
  split
  · exact hs.modFun
  · split
    · exact h1.modFun
    · split
      · exact hs.modFun.foldl fun _ _ hs => hs.lowerBy
      · exact hs.modFun

theorem State.MemOk.execEnergyWindow {cycles} (hs : s.MemOk) : OutcomeMemOk (execEnergyWindow cycles s) := by
  unfold Machine.execEnergyWindow
  extract_lets _ _ s1 s2 s3
  have h1 : s1.MemOk := hs.update
  have h3 : s3.MemOk := (h1.foldl fun _ _ hs => hs.modFun).foldl fun _ _ hs => hs.planFun
  split
  · exact hs
  · exact h3.update

theorem State.MemOk.execEnergyBudgetSet {fn watts} (hs : s.MemOk) : OutcomeMemOk (execEnergyBudgetSet fn watts s) := by
  unfold Machine.execEnergyBudgetSet
  split
  · exact hs.modFun
  · exact hs

theorem State.MemOk.execModuleSleep (hs : s.MemOk) : OutcomeMemOk (execModuleSleep s) := hs.powerOff
theorem State.MemOk.execPowerLoss (hs : s.MemOk) : OutcomeMemOk (execPowerLoss s) := hs.powerOff

theorem State.MemOk.execColdBoot {img} (hs : s.MemOk) : OutcomeMemOk (execColdBoot img s) := by
  unfold Machine.execColdBoot
  extract_lets
  split
  · exact hs.cold.update
  · split <;> exact hs.cold.update

theorem State.MemOk.execAttestationExtend {n m} (hs : s.MemOk) : OutcomeMemOk (execAttestationExtend n m s) := by
  unfold Machine.execAttestationExtend
  split
  · exact hs
  · exact hs.update

theorem State.MemOk.execAttestationReport {nonce} (hs : s.MemOk) : OutcomeMemOk (execAttestationReport nonce s) := by
  unfold Machine.execAttestationReport
  extract_lets
  split
  · exact hs
  · exact hs.update

/-! ## Dispatch -/

/-- Every instruction and every event keeps the canonical form. -/
theorem State.MemOk.exec {i} (hs : s.MemOk) : OutcomeMemOk (exec i s) := by
  cases i with
  | nop => exact hs.execNop
  | udf => exact hs.execUdf
  | iadd _ => exact hs.execIadd
  | isub _ => exact hs.execIsub
  | imul _ => exact hs.execImul
  | imad _ => exact hs.execImad
  | idiv _ => exact hs.execIdiv
  | irem _ => exact hs.execIrem
  | imin _ => exact hs.execImin
  | imax _ => exact hs.execImax
  | iabs _ => exact hs.execIabs
  | ineg _ => exact hs.execIneg
  | andI _ => exact hs.execAndI
  | orI _ => exact hs.execOrI
  | xorI _ => exact hs.execXorI
  | andn _ => exact hs.execAndn
  | shl _ => exact hs.execShl
  | shr _ => exact hs.execShr
  | rot _ => exact hs.execRot
  | bfx _ => exact hs.execBfx
  | bfi _ => exact hs.execBfi
  | popc _ => exact hs.execPopc
  | clz _ => exact hs.execClz
  | brev _ => exact hs.execBrev
  | perm _ => exact hs.execPerm
  | icmp _ => exact hs.execIcmp
  | sel _ => exact hs.execSel
  | lea _ => exact hs.execLea
  | mov _ => exact hs.execMov
  | dp4i _ => exact hs.execDp4i
  | sad _ => exact hs.execSad
  | srd _ => exact hs.execSrd
  | swr _ => exact hs.execSwr
  | fadd _ => exact hs.execFadd
  | fsub _ => exact hs.execFsub
  | fmul _ => exact hs.execFmul
  | ffma _ => exact hs.execFfma
  | fmin _ => exact hs.execFmin
  | fmax _ => exact hs.execFmax
  | fcmp _ => exact hs.execFcmp
  | fclass _ => exact hs.execFclass
  | frcp _ => exact hs.execFrcp
  | frsq _ => exact hs.execFrsq
  | fsqrt _ => exact hs.execFsqrt
  | fdiv _ => exact hs.execFdiv
  | fexp2 _ => exact hs.execFexp2
  | flog2 _ => exact hs.execFlog2
  | fsin _ => exact hs.execFsin
  | fcos _ => exact hs.execFcos
  | frnd _ => exact hs.execFrnd
  | fdp2 _ => exact hs.execFdp2
  | fdp4 _ => exact hs.execFdp4
  | fcopys _ => exact hs.execFcopys
  | fldexp _ => exact hs.execFldexp
  | ffrexp _ => exact hs.execFfrexp
  | cvt _ => exact hs.execCvt
  | cvti _ => exact hs.execCvti
  | cvtf _ => exact hs.execCvtf
  | qpack _ => exact hs.execQpack
  | qunpk _ => exact hs.execQunpk
  | rng _ => exact hs.execRng
  | rngf _ => exact hs.execRngf
  | kop _ => exact hs.execKop
  | kpop _ => exact hs.execKpop
  | kffs _ => exact hs.execKffs
  | vote _ => exact hs.execVote
  | shfl _ => exact hs.execShfl
  | rdlane _ => exact hs.execRdlane
  | wrlane _ => exact hs.execWrlane
  | gred _ => exact hs.execGred
  | gscan _ => exact hs.execGscan
  | matchI _ => exact hs.execMatchI
  | br _ => exact hs.execBr
  | call _ => exact hs.execCall
  | split _ => exact hs.execSplit
  | ret _ => exact hs.execRet
  | jmpi _ => exact hs.execJmpi
  | fuse _ => exact hs.execFuse
  | exit _ => exact hs.execExit
  | yield _ => exact hs.execYield
  | trapi _ => exact hs.execTrapi
  | brk _ => exact hs.execBrk
  | rgn _ => exact hs.execRgn
  | rgnClose _ => exact hs.execRgnClose
  | sigchk _ => exact hs.execSigchk
  | tbar _ => exact hs.execTbar
  | cjoin _ => exact hs.execCjoin
  | cleave _ => exact hs.execCleave
  | cbar _ => exact hs.execCbar
  | rbsur _ => exact hs.execRbsur
  | rbclm _ => exact hs.execRbclm
  | mwait _ => exact hs.execMwait
  | mwaitReevaluate _ => exact hs.execMwaitReevaluate
  | mwaitTimeout _ => exact hs.execMwaitTimeout
  | sobjBar _ => exact hs.execSobjBar
  | sobjSem _ => exact hs.execSobjSem
  | sobjCell _ => exact hs.execSobjCell
  | sobjInv _ => exact hs.execSobjInv
  | sarv _ => exact hs.execSarv
  | sarvPost _ => exact hs.execSarvPost
  | swait _ => exact hs.execSwait
  | swaitTake _ => exact hs.execSwaitTake
  | swaitTry _ => exact hs.execSwaitTry
  | syncRequestRetry _ => exact hs.execSyncRequestRetry
  | cntaSig _ => exact hs.execCntaSig
  | cntaArm _ => exact hs.execCntaArm
  | fenceAcq _ => exact hs.execFenceAcq
  | fenceRel _ => exact hs.execFenceRel
  | fenceAr _ => exact hs.execFenceAr
  | rsig _ => exact hs.execRsig
  | rwait _ => exact hs.execRwait
  | ld _ => exact hs.execLd
  | st _ => exact hs.execSt
  | lds _ => exact hs.execLds
  | sts _ => exact hs.execSts
  | ldc _ => exact hs.execLdc
  | stc _ => exact hs.execStc
  | pref _ => exact hs.execPref
  | ldsc _ => exact hs.execLdsc
  | stsc _ => exact hs.execStsc
  | cctlClean _ => exact hs.execCctlClean
  | cctlInval _ => exact hs.execCctlInval
  | cctlCinv _ => exact hs.execCctlCinv
  | atom _ => exact hs.execAtom
  | atoms _ => exact hs.execAtoms
  | bins _ => exact hs.execBins
  | bffcs _ => exact hs.execBffcs
  | bpls _ => exact hs.execBpls
  | red _ => exact hs.execRed
  | sideLogPerform _ _ => exact hs.execSideLogPerform
  | longLatencyWriteLand _ _ => exact hs.execLongLatencyWriteLand
  | cplIn _ => exact hs.execCplIn
  | cplOut _ => exact hs.execCplOut
  | cplLineLand _ _ => exact hs.execCplLineLand
  | cpseal _ => exact hs.execCpseal
  | cpsealStampWrite _ _ => exact hs.execCpsealStampWrite
  | seprog _ => exact hs.execSeprog
  | sectlStart _ => exact hs.execSectlStart
  | sectlStop _ => exact hs.execSectlStop
  | sectlQuery _ => exact hs.execSectlQuery
  | streamSlotTake _ _ => exact hs.execStreamSlotTake
  | streamTileComplete _ _ => exact hs.execStreamTileComplete
  | streamStopComplete _ _ => exact hs.execStreamStopComplete
  | transferXlateService _ _ _ => exact hs.execTransferXlateService
  | bcpy _ => exact hs.execBcpy
  | bcpyComplete _ _ => exact hs.execBcpyComplete
  | hingeCopyExpire _ _ => exact hs.execHingeCopyExpire
  | mma _ => exact hs.execMma
  | mloop _ => exact hs.execMloop
  | mloopm _ => exact hs.execMloopm
  | mqb _ => exact hs.execMqb
  | matrixStep _ _ => exact hs.execMatrixStep
  | mfence _ => exact hs.execMfence
  | mbwait _ => exact hs.execMbwait
  | batchComplete _ => exact hs.execBatchComplete
  | accnew _ => exact hs.execAccnew
  | accld _ => exact hs.execAccld
  | accst _ => exact hs.execAccst
  | accrd _ => exact hs.execAccrd
  | accwr _ => exact hs.execAccwr
  | neval _ => exact hs.execNeval
  | penWindowExpire _ _ => exact hs.execPenWindowExpire
  | penSlotFill _ _ => exact hs.execPenSlotFill
  | penTileScatter _ _ => exact hs.execPenTileScatter
  | nhldPre _ => exact hs.execNhldPre
  | nhldDrop _ => exact hs.execNhldDrop
  | nstat _ => exact hs.execNstat
  | vapp _ => exact hs.execVapp
  | vconn _ => exact hs.execVconn
  | vmerge _ => exact hs.execVmerge
  | vrwgt _ => exact hs.execVrwgt
  | vld _ => exact hs.execVld
  | vgenOpen _ => exact hs.execVgenOpen
  | vgenClose _ => exact hs.execVgenClose
  | vgenOpenInit _ => exact hs.execVgenOpenInit
  | vgenCloseFree _ => exact hs.execVgenCloseFree
  | foldInitTimeout _ => exact hs.execFoldInitTimeout
  | vpinPin _ => exact hs.execVpinPin
  | vpinUnpin _ => exact hs.execVpinUnpin
  | trace _ => exact hs.execTrace
  | rayWalk _ _ => exact hs.execRayWalk
  | rayDeliver _ _ => exact hs.execRayDeliver
  | raySpillTimeout _ _ => exact hs.execRaySpillTimeout
  | rayFetchXlateService _ _ _ => exact hs.execRayFetchXlateService
  | trresAccept _ => exact hs.execTrresAccept
  | trresReject _ => exact hs.execTrresReject
  | trresCommit _ => exact hs.execTrresCommit
  | tqry _ => exact hs.execTqry
  | queryResultsReady _ _ => exact hs.execQueryResultsReady
  | tqnext _ => exact hs.execTqnext
  | trstat _ => exact hs.execTrstat
  | texs _ => exact hs.execTexs
  | texl _ => exact hs.execTexl
  | texq _ => exact hs.execTexq
  | tlsub _ => exact hs.execTlsub
  | tlflush _ => exact hs.execTlflush
  | spsub _ => exact hs.execSpsub
  | fout _ => exact hs.execFout
  | tileRasterise _ => exact hs.execTileRasterise
  | fragmentGroupDispatch _ _ => exact hs.execFragmentGroupDispatch
  | pixelBlend _ => exact hs.execPixelBlend
  | tileEngineXlateService _ _ => exact hs.execTileEngineXlateService
  | submissionComplete _ => exact hs.execSubmissionComplete
  | splatRender _ => exact hs.execSplatRender
  | drawPreempt _ => exact hs.execDrawPreempt
  | launch _ => exact hs.execLaunch
  | taskpub _ => exact hs.execTaskpub
  | recalloc _ => exact hs.execRecalloc
  | recemit _ => exact hs.execRecemit
  | workgraphBatchTimeout _ _ => exact hs.execWorkgraphBatchTimeout
  | syscallNodeCreate _ => exact hs.execSyscallNodeCreate
  | syscallNodeFlush _ => exact hs.execSyscallNodeFlush
  | syscallNodeDelete _ => exact hs.execSyscallNodeDelete
  | syscallWake _ => exact hs.execSyscallWake
  | syscallUnassigned _ => exact hs.execSyscallUnassigned
  | syscallAnswer _ => exact hs.execSyscallAnswer
  | tilenx _ => exact hs.execTilenx
  | tilenxExit _ => exact hs.execTilenxExit
  | prog _ => exact hs.execProg
  | halt _ => exact hs.execHalt
  | pmcapStart _ => exact hs.execPmcapStart
  | pmcapStop _ => exact hs.execPmcapStop
  | faultRecordPost _ => exact hs.execFaultRecordPost
  | xlateService _ _ => exact hs.execXlateService
  | trapResume _ _ => exact hs.execTrapResume
  | trapSkip _ => exact hs.execTrapSkip
  | trapKill _ => exact hs.execTrapKill
  | splitRequest _ _ => exact hs.execSplitRequest
  | droverDispatch _ => exact hs.execDroverDispatch
  | teamRetire _ => exact hs.execTeamRetire
  | tileDone _ _ => exact hs.execTileDone
  | launchBegin _ _ _ => exact hs.execLaunchBegin
  | oppStable _ _ => exact hs.execOppStable
  | launchComplete _ => exact hs.execLaunchComplete
  | kickWrite _ _ _ => exact hs.execKickWrite
  | hostPacketNop _ _ => exact hs.execHostPacketNop
  | hostPacketStart _ _ => exact hs.execHostPacketStart
  | hostPacketWake _ _ => exact hs.execHostPacketWake
  | hostPacketStop _ _ => exact hs.execHostPacketStop
  | hostPacketWait _ _ => exact hs.execHostPacketWait
  | queueWaitSatisfied _ _ => exact hs.execQueueWaitSatisfied
  | hostPacketStamp _ _ => exact hs.execHostPacketStamp
  | queueReset _ _ => exact hs.execQueueReset
  | portReserve _ _ _ => exact hs.execPortReserve
  | portReserveRefused _ => exact hs.execPortReserveRefused
  | portNop _ => exact hs.execPortNop
  | portLaunch _ => exact hs.execPortLaunch
  | portTask _ => exact hs.execPortTask
  | portStamp _ => exact hs.execPortStamp
  | portStampWrite _ => exact hs.execPortStampWrite
  | conductorCounterSignal _ _ _ => exact hs.execConductorCounterSignal
  | conductorWait _ => exact hs.execConductorWait
  | collAllReduce _ => exact hs.execCollAllReduce
  | collReduceScatter _ => exact hs.execCollReduceScatter
  | collAllGather _ => exact hs.execCollAllGather
  | collBroadcast _ => exact hs.execCollBroadcast
  | collStart _ _ _ => exact hs.execCollStart
  | collComplete _ _ => exact hs.execCollComplete
  | remoteStoreFail _ => exact hs.execRemoteStoreFail
  | tlbInvalidate _ _ _ => exact hs.execTlbInvalidate
  | computePreempt _ => exact hs.execComputePreempt
  | contextSave _ => exact hs.execContextSave
  | contextResume _ _ => exact hs.execContextResume
  | contextAbort _ => exact hs.execContextAbort
  | functionLevelReset _ => exact hs.execFunctionLevelReset
  | haltreq _ => exact hs.execHaltreq
  | resumereq _ => exact hs.execResumereq
  | accessRegister _ _ => exact hs.execAccessRegister
  | accessMemory _ _ => exact hs.execAccessMemory
  | debugBreakpointSet _ _ _ => exact hs.execDebugBreakpointSet
  | counterEventConfig _ _ => exact hs.execCounterEventConfig
  | trialStart _ _ => exact hs.execTrialStart
  | trialEpochEnd _ _ => exact hs.execTrialEpochEnd
  | shepherdDecision _ => exact hs.execShepherdDecision
  | hbmScrub _ _ => exact hs.execHbmScrub
  | pageRetire _ _ _ => exact hs.execPageRetire
  | energyWindow _ => exact hs.execEnergyWindow
  | energyBudgetSet _ _ => exact hs.execEnergyBudgetSet
  | splatTminWrite _ _ => exact hs.execSplatTminWrite
  | registerWrite _ _ => exact hs.execRegisterWrite
  | moduleSleep => exact hs.execModuleSleep
  | coldBoot _ => exact hs.execColdBoot
  | attestationExtend _ _ => exact hs.execAttestationExtend
  | attestationReport _ => exact hs.execAttestationReport
  | packetRefetch _ _ => exact hs.execPacketRefetch
  | queueCreate _ _ _ _ _ _ => exact hs.execQueueCreate
  | contextCreate _ _ => exact hs.execContextCreate
  | domainConfigure _ _ => exact hs.execDomainConfigure
  | domainMemberLeave _ => exact hs.execDomainMemberLeave
  | powerLoss => exact hs.execPowerLoss

/-! ## The issue of slots -/

theorem State.MemOk.fetchLine {h} (hs : s.MemOk) : (s.fetchLine h).MemOk := by
  unfold State.fetchLine
  extract_lets
  split
  · exact trivial
  · split
    · extract_lets
      split
      · exact trivial
      · split
        · exact trivial
        · exact hs.touch.modCore
    · exact trivial

theorem State.MemOk.ageOthers {fid may} (hs : s.MemOk) : (s.ageOthers fid may).MemOk := hs.update

theorem State.MemOk.enterLine {h may} (hs : s.MemOk) : (s.enterLine h may).1.MemOk := by
  unfold State.enterLine
  split
  · exact hs.freeze
  · exact hs.takeTrap
  next _ s1 he1 =>
    extract_lets s2
    have h2 : s2.MemOk := (hs.fetchLine.ok he1).modFrag
    split
    · exact h2.takeTrap
    · split
      · exact h2.takeTrap
      · split
        · exact h2.modFrag
        · exact h2.update.countEv.ageOthers.modFrag.modFrag

theorem State.MemOk.payDebts {cx ns t} (hs : s.MemOk) : (s.payDebts cx ns t).MemOk := hs.update

theorem State.MemOk.trialTime {h} (hs : s.MemOk) : (s.trialTime h).MemOk := by
  unfold State.trialTime
  split
  · exact hs
  · split
    next he =>
      have hs := hs.takeFree.snd he
      extract_lets
      refine hs.foldl fun _ _ hs => ?_
      split
      · exact hs
      · exact hs.ite (hs.payDebts.modCtx.modGroup.ite hs.payDebts)

theorem State.MemOk.unstall (hs : s.MemOk) : s.unstall.MemOk := hs.update

theorem State.MemOk.afterSlot {core fid} (hs : s.MemOk) : (s.afterSlot core fid).MemOk := by
  unfold State.afterSlot
  split
  · exact hs.ite hs.modFrag.countEv.unstall
  · exact hs.countEv.unstall

theorem State.MemOk.issueSlot {fid} (hs : s.MemOk) : OutcomeMemOk (s.issueSlot fid) := by
  unfold State.issueSlot
  extract_lets s0 s1
  have h0 : s0.MemOk := hs.modFrag
  have h1 : s1.MemOk := h0.update
  split
  · exact h1
  · extract_lets brk
    clear_value brk
    split
    · split
      · exact h1.modFrag.haltNow
      · exact h1.modFrag.takeTrap
    · split
      · exact h1.takeTrap.afterSlot
      · split
        next he => exact (h1.exec.next he).trialTime.afterSlot
        · exact h1.exec

theorem State.MemOk.issue {fid} (hs : s.MemOk) : OutcomeMemOk (s.issue fid) := by
  unfold State.issue
  extract_lets
  split
  · exact hs.modFrag
  · split
    · exact hs.modFrag.issueSlot
    · split
      next s2 he2 =>
        exact (hs.update.enterLine.fst he2).issueSlot
      next s3 he3 =>
        exact hs.update.enterLine.fst he3

theorem State.MemOk.runHeld {fid} (hs : s.MemOk) : OutcomeMemOk (s.runHeld fid) := by
  unfold State.runHeld
  split
  · exact hs
  · extract_lets due s0
    clear_value due
    have h0 : s0.MemOk := hs.modFrag
    split
    next i _ =>
      have h : OutcomeMemOk (Machine.exec i { s0 with cur := some fid }) := State.MemOk.exec h0.update
      split
      next he => exact (h.next he).update
      · exact h
    · exact hs

/-! ## Events that are due -/

/-! ### The units' events -/

/-- An event keeps the canonical form. -/
def EventMemOk (f : Event) : Prop := ∀ {s : State}, s.MemOk → OutcomeMemOk (f s)

/-- Every event of a list does. -/
def EventsMemOk (l : List Event) : Prop := ∀ f ∈ l, EventMemOk f

theorem EventsMemOk.nil : EventsMemOk [] := nofun

theorem EventsMemOk.cons {f : Event} {l : List Event} (hf : EventMemOk f) (hl : EventsMemOk l) : EventsMemOk (f :: l) :=
  List.forall_mem_cons.mpr ⟨hf, hl⟩

theorem EventsMemOk.single {f : Event} (hf : EventMemOk f) : EventsMemOk [f] := .cons hf .nil

theorem EventsMemOk.append {l m : List Event} (hl : EventsMemOk l) (hm : EventsMemOk m) : EventsMemOk (l ++ m) := by
  intro f hf
  rcases List.mem_append.mp hf with hf | hf
  · exact hl f hf
  · exact hm f hf

theorem EventsMemOk.flatMap {α : Type} {l : List α} {f : α → List Event} (hf : ∀ x, EventsMemOk (f x)) :
    EventsMemOk (l.flatMap f) := by
  intro e he
  obtain ⟨x, -, hx⟩ := List.mem_flatMap.mp he
  exact hf x e hx

theorem EventsMemOk.map {α : Type} {l : List α} {f : α → Event} (hf : ∀ x, EventMemOk (f x)) : EventsMemOk (l.map f) := by
  intro e he
  obtain ⟨x, -, rfl⟩ := List.mem_map.mp he
  exact hf x

theorem EventsMemOk.ite {c : Prop} [Decidable c] {l m : List Event} (hl : EventsMemOk l) (hm : EventsMemOk m) :
    EventsMemOk (if c then l else m) := by
  split
  · exact hl
  · exact hm

theorem EventsMemOk.onKeys {α : Type} {m : SMap α} {f : Nat → List Event} (hf : ∀ k, EventsMemOk (f k)) :
    EventsMemOk (onKeys m f) := .flatMap fun _ => hf _

theorem State.MemOk.firstChange {l} (hs : s.MemOk) (hl : EventsMemOk l) :
    ∀ o, firstChange s l = some o → OutcomeMemOk o := by
  induction l with
  | nil => nofun
  | cons f rest ih =>
    obtain ⟨hf, hrest⟩ := List.forall_mem_cons.mp hl
    have h := hf hs
    intro o ho
    unfold Machine.firstChange at ho
    split at ho
    next he =>
      split at ho
      · exact ih hrest o ho
      · rwa [he, Option.some.inj ho] at h
    · rwa [Option.some.inj ho] at h

theorem coreMemEvents_memOk {k c} : EventsMemOk (coreMemEvents k c) :=
  (((((((EventsMemOk.ite .nil (.single State.MemOk.execSideLogPerform)).append
    (.onKeys fun _ => .single State.MemOk.execCplLineLand)).append
    (.onKeys fun _ => .single State.MemOk.execCpsealStampWrite)).append
    (.onKeys fun _ => .cons State.MemOk.execStreamSlotTake
      (.cons State.MemOk.execStreamTileComplete (.single State.MemOk.execStreamStopComplete)))).append
    (.onKeys fun _ => .single State.MemOk.execBcpyComplete)).append
    (.onKeys fun _ => .cons State.MemOk.execCollStart (.single State.MemOk.execCollComplete))).append
    (.ite (.single State.MemOk.relock) .nil))

theorem coreUnitEvents_memOk {k c} : EventsMemOk (coreUnitEvents k c) :=
  (((EventsMemOk.onKeys fun _ => .single State.MemOk.execMatrixStep).append
    (.ite .nil (.single State.MemOk.penExpire))).append
    (.onKeys fun _ => .cons State.MemOk.execPenSlotFill (.single State.MemOk.execPenTileScatter))).append
    (.onKeys fun _ => .cons State.MemOk.execRayDeliver
      (.cons State.MemOk.execQueryResultsReady (.single State.MemOk.execRayWalk)))

theorem groupEvents_memOk {gid g} : EventsMemOk (groupEvents gid g) :=
  (((EventsMemOk.onKeys fun _ => .single State.MemOk.execLongLatencyWriteLand).append
    (.ite .nil (.single State.MemOk.execBatchComplete))).append
    (.ite (.single State.MemOk.execRemoteStoreFail) .nil)).append
    (.ite (.single State.MemOk.execShepherdDecision) .nil)

theorem State.MemOk.boundSpill {fid} (hs : s.MemOk) : OutcomeMemOk (boundSpill fid s) := by
  unfold Machine.boundSpill
  split
  · exact hs
  · split
    · exact hs
    · exact hs.spillRays

theorem fragEvents_memOk {fid : Nat} {f : Frag} : EventsMemOk (fragEvents fid f) := by
  unfold fragEvents
  cases f.st with
  | parked c =>
    cases c with
    | foldInit => exact .single State.MemOk.runHeld
    | syscall _ => exact .single State.MemOk.execSyscallAnswer
    | bound => exact .single State.MemOk.boundSpill
    | _ => exact .nil
  | ready => exact .ite (.single State.MemOk.runHeld) .nil
  | issuing => exact .ite (.single State.MemOk.execSyncRequestRetry) .nil
  | _ => exact .nil

theorem dieEvents_memOk {s d e} : EventsMemOk (dieEvents s d e) :=
  .ite .nil ((((EventsMemOk.single State.MemOk.execPixelBlend).append
    (.ite .nil (.map fun _ => State.MemOk.execFragmentGroupDispatch))).append
    (.cons State.MemOk.execTileRasterise
      (.cons State.MemOk.execSplatRender (.single State.MemOk.execSubmissionComplete)))).append
    (.map fun _ => State.MemOk.relock))

theorem gridEvents_memOk {s} : EventsMemOk (gridEvents s) :=
  (((((EventsMemOk.flatMap fun _ => (EventsMemOk.map fun _ => State.MemOk.execSplitRequest).append
      (.ite (.map fun _ => State.MemOk.execSplitRequest) .nil)).append
    (.onKeys fun _ => .cons State.MemOk.execDroverDispatch (.map fun _ => State.MemOk.execTileDone))).append
    (.onKeys fun _ => .cons State.MemOk.execTeamRetire (.single State.MemOk.execContextSave))).append
    (.onKeys fun _ => .single State.MemOk.execContextSave)).append
    (.map fun _ => State.MemOk.loadRays)).append
    (.onKeys fun _ => .cons State.MemOk.execLaunchComplete (.single State.MemOk.execLaunchBegin))

theorem portEvents_memOk {cx} : EventsMemOk (portEvents cx) :=
  .cons State.MemOk.execPortStampWrite <| .cons State.MemOk.execPortNop <| .cons State.MemOk.execPortLaunch <|
    .cons State.MemOk.execPortTask <| .single State.MemOk.execPortStamp

theorem queueEvents_memOk {k} : EventsMemOk (queueEvents k) :=
  .cons State.MemOk.execQueueWaitSatisfied <| .cons State.MemOk.execHostPacketNop <|
    .cons State.MemOk.execHostPacketStart <| .cons State.MemOk.execHostPacketWake <|
    .cons State.MemOk.execHostPacketStop <| .cons State.MemOk.execHostPacketWait <|
    .single State.MemOk.execHostPacketStamp

theorem State.MemOk.oppEvent {l} (hs : s.MemOk) : OutcomeMemOk (oppEvent l s) := hs.takeFree.execOppStable

/-- The time that a context's trial holds back is paid. -/
theorem payTrial_memOk {cx} : EventMemOk fun s =>
    match (s.ctxs.get? cx).bind Ctx.trial with
    | some t => .next (s.payDebts cx t.gd t)
    | none => .next s := by
  intro s hs
  dsimp only
  split
  · exact hs.payDebts
  · exact hs

theorem timeEvents_memOk {s} : EventsMemOk (timeEvents s) :=
  ((((((EventsMemOk.flatMap fun _ => .map fun _ => State.MemOk.execPenWindowExpire).append
    (.onKeys fun _ => .cons State.MemOk.execMwaitTimeout (.single State.MemOk.execMwaitReevaluate))).append
    (.onKeys fun _ => .single State.MemOk.oppEvent)).append
    (.flatMap fun _ => .onKeys fun _ => .single State.MemOk.execRaySpillTimeout)).append
    (.flatMap fun _ => .onKeys fun _ => .single State.MemOk.execWorkgraphBatchTimeout)).append
    (.onKeys fun _ => .single State.MemOk.execPacketRefetch)).append
    (.onKeys fun _ => .single payTrial_memOk)

/-- An optional outcome keeps the canonical form. -/
def DueMemOk (o : Option (Host.Outcome State Fault Refusal)) : Prop := ∀ x, o = some x → OutcomeMemOk x

theorem DueMemOk.map {α : Type} {o : Option α} {f : α → Host.Outcome State Fault Refusal}
    (hf : ∀ x, o = some x → OutcomeMemOk (f x)) : DueMemOk (o.map f) := by
  intro y hy
  obtain ⟨x, hx, rfl⟩ := Option.map_eq_some_iff.mp hy
  exact hf x hx

theorem DueMemOk.orElse {o p : Option (Host.Outcome State Fault Refusal)} (ho : DueMemOk o) (hp : DueMemOk p) :
    DueMemOk (o.orElse fun _ => p) := by
  cases o with
  | none => exact hp
  | some x => exact ho

theorem State.MemOk.due (hs : s.MemOk) : DueMemOk s.due :=
  hs.firstChange (.append (.append (.append (.append (.append (.append (.append (.append
    (.flatMap fun _ => coreMemEvents_memOk) (.flatMap fun _ => groupEvents_memOk))
    (.flatMap fun _ => coreUnitEvents_memOk)) (.flatMap fun _ => fragEvents_memOk))
    (.flatMap fun _ => dieEvents_memOk)) gridEvents_memOk) (.onKeys fun _ => portEvents_memOk))
    (.onKeys fun _ => queueEvents_memOk)) timeEvents_memOk)

theorem State.MemOk.mwaitDue (hs : s.MemOk) : DueMemOk s.mwaitDue := .map fun _ _ => hs.execMwaitReevaluate

/-! ## A step -/

theorem afterEvent_memOk {o} (ho : OutcomeMemOk o) : OutcomeMemOk (afterEvent o) := by
  cases o with
  | next s => exact State.MemOk.unstall ho
  | fault _ => trivial
  | refused _ => trivial

theorem State.MemOk.issueNext (hs : s.MemOk) : DueMemOk s.issueNext := .map fun _ _ => State.MemOk.issue hs.update

theorem State.MemOk.unitNext (hs : s.MemOk) : DueMemOk s.unitNext :=
  .map fun _ he => afterEvent_memOk (State.MemOk.due hs.update _ he)

theorem State.MemOk.move (hs : s.MemOk) : OutcomeMemOk s.move := by
  unfold State.move
  split
  · exact afterEvent_memOk (State.MemOk.exec hs.update)
  · split
    next he => exact afterEvent_memOk (hs.mwaitDue _ he)
    · split
      next he =>
        split at he
        · exact hs.unitNext.orElse hs.issueNext _ he
        · exact hs.issueNext.orElse hs.unitNext _ he
      · split
        · exact hs.issue
        · exact hs

/-- One step of the module keeps every memory in canonical form. -/
theorem State.MemOk.step (hs : s.MemOk) : OutcomeMemOk (step s) := by
  unfold Machine.step
  split
  · exact afterEvent_memOk (State.MemOk.strike hs.update)
  · exact hs.move

end Sys2Proof.Machine

/-- Settles O6: a step is a strike, an instruction, an event or a move of a unit, and each keeps the canonical form. -/
theorem stepKeepsMemory : Obligations.StepKeepsMemory := by
  unfold Obligations.StepKeepsMemory
  intro s t hs ht
  exact hs.step.next ht

end

section
/-! Decode and encode agree: the word and its fields, the codes of the fields, then one section for each format. -/

set_option Elab.async false

namespace Sys2Proof

/-! ## The word and its fields -/

theorem Fields.ofWord_word (f : Fields) : Fields.ofWord f.word = f := by
  have unreduced (start len : Nat) : f.word.extractLsb' start len =
      (f.op ++ f.fmt ++ f.g ++ f.gn ++ f.dst ++ f.ws ++ f.a ++ f.b ++ f.c ++ f.fn ++ f.imm).extractLsb' start len := rfl
  simp (disch := decide) only [ofWord, unreduced, BitVec.extractLsb'_append_eq_of_le, BitVec.extractLsb'_append_eq_right,
    BitVec.extractLsb'_eq_self, Nat.reduceSub]

theorem Fields.word_ofWord (w : IWord) : (Fields.ofWord w).word = w := by
  simp (disch := decide) only [ofWord, word, BitVec.extractLsb'_append_extractLsb'_eq_extractLsb']
  exact BitVec.extractLsb'_eq_self

theorem decode_word (f : Fields) : decode f.word = readFields true f := by
  rw [decode, decodeFields, Fields.ofWord_word]

/-! ## One bit -/

@[simp] theorem bitB_bv1 (x : Bool) : bitB (bv1 x) = x := by cases x <;> rfl

@[simp] theorem bv1_bitB (x : BitVec 1) : bv1 (bitB x) = x := by revert x; decide

/-- A single bit as a field of one bit. -/
theorem getLsbD_eq_bitB {n : Nat} (x : BitVec n) (k : Nat) : x.getLsbD k = bitB (x.extractLsb' k 1) := by
  have bit (y : BitVec 1) : bitB y = y.getLsbD 0 := by revert y; decide
  simp [bit]

@[simp] theorem bv1_getLsbD {n : Nat} (x : BitVec n) (k : Nat) : bv1 (x.getLsbD k) = x.extractLsb' k 1 := by
  rw [getLsbD_eq_bitB, bv1_bitB]

/-! ## Operand codes -/

@[simp] theorem Opnd.ofCode_code (o : Opnd) : Opnd.ofCode o.code = some o := by
  have read (n : Nat) (hn : n < 1024) : (BitVec.ofNat 10 n).toNat = n := by simp; omega
  unfold Opnd.ofCode Opnd.code
  cases o with
  | v n => rw [read _ (by omega)]; simp
  | s n => rw [read _ (by omega)]; simp [show 256 + n.val < 320 by omega]
  | k n => rw [read _ (by omega)]; simp [show 320 + n.val < 336 by omega, show ¬ 320 + n.val < 256 by omega]
  | c n => rw [read _ (by omega)]; simp [show 336 + n.val < 344 by omega, show ¬ 336 + n.val < 256 by omega, show ¬ 336 + n.val < 320 by omega]
  | b n => rw [read _ (by omega)]; simp [show 344 + n.val < 348 by omega, show ¬ 344 + n.val < 256 by omega, show ¬ 344 + n.val < 320 by omega,
      show ¬ 344 + n.val < 336 by omega]
  | zr => rfl
  | imm => rfl

theorem Opnd.code_of_ofCode {x : BitVec 10} {o : Opnd} (h : Opnd.ofCode x = some o) : o.code = x := by
  unfold Opnd.ofCode at h
  dsimp only at h
  apply BitVec.eq_of_toNat_eq
  split_ifs at h with _ _ _ _ _ hz hi
  case pos | pos | pos | pos | pos =>
    cases h
    simp only [Opnd.code, Fin.ofNat, BitVec.toNat_ofNat]
    omega
  · cases h; exact (beq_iff_eq.mp hz).symm
  · cases h; exact (beq_iff_eq.mp hi).symm

/-! ## The codes of the other fields -/

@[simp] theorem Ty.ofCode_code (t : Ty) : Ty.ofCode t.code = t := by cases t <;> rfl
@[simp] theorem Ty.code_ofCode (x : BitVec 4) : (Ty.ofCode x).code = x := by revert x; decide

@[simp] theorem Rm.ofCode_code (r : Rm) : Rm.ofCode r.code = some r := by cases r <;> rfl
theorem Rm.code_of_ofCode {x : BitVec 3} {r : Rm} : Rm.ofCode x = some r → r.code = x := by revert x r; decide

@[simp] theorem Width.ofCode_code (w : Width) : Width.ofCode w.code = some w := by cases w <;> rfl
theorem Width.code_of_ofCode {x : BitVec 3} {w : Width} : Width.ofCode x = some w → w.code = x := by revert x w; decide

@[simp] theorem Order.ofCode_code (o : Order) : Order.ofCode o.code = o := by cases o <;> rfl
@[simp] theorem Order.code_ofCode (x : BitVec 2) : (Order.ofCode x).code = x := by revert x; decide

@[simp] theorem Scope.ofCode_code (s : Scope) : Scope.ofCode s.code = some s := by cases s <;> rfl
theorem Scope.code_of_ofCode {x : BitVec 3} {s : Scope} : Scope.ofCode x = some s → s.code = x := by revert x s; decide

@[simp] theorem scaleOfCode_code (k : Fin 5) : scaleOfCode (BitVec.ofNat 3 k.val) = some k := by revert k; decide
theorem code_of_scaleOfCode {x : BitVec 3} {k : Fin 5} : scaleOfCode x = some k → BitVec.ofNat 3 k.val = x := by
  revert x k; decide

@[simp] theorem AtomOp.ofCode_code (o : AtomOp) : AtomOp.ofCode o.code = some o := by cases o <;> rfl
theorem AtomOp.code_of_ofCode {x : BitVec 4} {o : AtomOp} : AtomOp.ofCode x = some o → o.code = x := by revert x o; decide

@[simp] theorem AtomKind.ofCode_code (k : AtomKind) : AtomKind.ofCode k.code = some k := by cases k <;> rfl
theorem AtomKind.code_of_ofCode {x : BitVec 2} {k : AtomKind} : AtomKind.ofCode x = some k → k.code = x := by
  revert x k; decide

@[simp] theorem Cond.ofCode_code (c : Cond) : Cond.ofCode c.code = some c := by cases c <;> rfl
theorem Cond.code_of_ofCode {x : BitVec 3} {c : Cond} : Cond.ofCode x = some c → c.code = x := by revert x c; decide

/-! ## Words of several fields -/

/-- The short modifier of format I (spec/03 R42). -/
def shortMod (ty : BitVec 4) (rm : BitVec 3) (sat : BitVec 1) : BitVec 10 := ty ++ rm ++ sat ++ (0 : BitVec 2)

/-- The modifier word of format R (spec/03 R41). -/
def longMod (ty : BitVec 4) (rm : BitVec 3) (sat : BitVec 1) (t2 : BitVec 4) (na aa nb ab nc ac : BitVec 1) (xm : BitVec 12) :
    BitVec 32 :=
  ty ++ rm ++ sat ++ t2 ++ na ++ aa ++ nb ++ ab ++ nc ++ ac ++ (0 : BitVec 2) ++ xm

theorem shortMod_fields (ty : BitVec 4) (rm : BitVec 3) (sat : BitVec 1) :
    (shortMod ty rm sat).extractLsb' 6 4 = ty ∧ (shortMod ty rm sat).extractLsb' 3 3 = rm ∧
      (shortMod ty rm sat).extractLsb' 2 1 = sat ∧ (shortMod ty rm sat).extractLsb' 0 2 = 0 := by
  have unreduced (start len : Nat) :
      (shortMod ty rm sat).extractLsb' start len = (ty ++ rm ++ sat ++ (0 : BitVec 2)).extractLsb' start len := rfl
  simp (disch := decide) only [unreduced, BitVec.extractLsb'_append_eq_of_le, BitVec.extractLsb'_append_eq_right,
    BitVec.extractLsb'_eq_self, Nat.reduceSub, and_self]

theorem shortMod_of_fields {x : BitVec 10} (h : x.extractLsb' 0 2 = 0) :
    shortMod (x.extractLsb' 6 4) (x.extractLsb' 3 3) (x.extractLsb' 2 1) = x := by
  rw [shortMod, ← h]
  simp (disch := decide) only [BitVec.extractLsb'_append_extractLsb'_eq_extractLsb']
  exact BitVec.extractLsb'_eq_self

theorem longMod_fields (ty : BitVec 4) (rm : BitVec 3) (sat : BitVec 1) (t2 : BitVec 4) (na aa nb ab nc ac : BitVec 1)
    (xm : BitVec 12) :
    let m := longMod ty rm sat t2 na aa nb ab nc ac xm
    m.extractLsb' 28 4 = ty ∧ m.extractLsb' 25 3 = rm ∧ m.extractLsb' 24 1 = sat ∧ m.extractLsb' 20 4 = t2 ∧
      m.extractLsb' 19 1 = na ∧ m.extractLsb' 18 1 = aa ∧ m.extractLsb' 17 1 = nb ∧ m.extractLsb' 16 1 = ab ∧
      m.extractLsb' 15 1 = nc ∧ m.extractLsb' 14 1 = ac ∧ m.extractLsb' 12 2 = 0 ∧ m.extractLsb' 0 12 = xm := by
  have unreduced (start len : Nat) : (longMod ty rm sat t2 na aa nb ab nc ac xm).extractLsb' start len =
      (ty ++ rm ++ sat ++ t2 ++ na ++ aa ++ nb ++ ab ++ nc ++ ac ++ (0 : BitVec 2) ++ xm).extractLsb' start len := rfl
  simp (disch := decide) only [unreduced, BitVec.extractLsb'_append_eq_of_le, BitVec.extractLsb'_append_eq_right,
    BitVec.extractLsb'_eq_self, Nat.reduceSub, and_self]

theorem longMod_of_fields {m : BitVec 32} (h : m.extractLsb' 12 2 = 0) :
    longMod (m.extractLsb' 28 4) (m.extractLsb' 25 3) (m.extractLsb' 24 1) (m.extractLsb' 20 4) (m.extractLsb' 19 1)
      (m.extractLsb' 18 1) (m.extractLsb' 17 1) (m.extractLsb' 16 1) (m.extractLsb' 15 1) (m.extractLsb' 14 1)
      (m.extractLsb' 0 12) = m := by
  rw [longMod, ← h]
  simp (disch := decide) only [BitVec.extractLsb'_append_extractLsb'_eq_extractLsb']
  exact BitVec.extractLsb'_eq_self

@[simp] theorem controlOf_control (s : Scope) (k : Fin 5) : controlOf (control s k) = some (s, k) := by
  cases s <;> revert k <;> decide

theorem control_of_controlOf {x : BitVec 10} {s : Scope} {k : Fin 5} (h : controlOf x = some (s, k)) : control s k = x := by
  unfold controlOf at h
  split at h
  next s' k' hs hk =>
    split at h
    next hz =>
      cases h
      rw [control, Scope.code_of_ofCode hs, code_of_scaleOfCode hk, ← hz]
      simp (disch := decide) only [BitVec.extractLsb'_append_extractLsb'_eq_extractLsb']
      exact BitVec.extractLsb'_eq_self
    next => cases h
  next => cases h

@[simp] theorem atopOf_atop (s : Scope) (o : AtomOp) (k : AtomKind) : atopOf (atop s o k) = some (s, o, k) := by
  cases s <;> cases o <;> cases k <;> rfl

theorem atop_of_atopOf {x : BitVec 10} {s : Scope} {o : AtomOp} {k : AtomKind} (h : atopOf x = some (s, o, k)) :
    atop s o k = x := by
  unfold atopOf at h
  split at h
  next s' o' k' hs ho hk =>
    split at h
    next => cases h
    next hz =>
      cases h
      have hz : (0 : BitVec 1) = x.extractLsb' 0 1 := by rw [← bv1_getLsbD, Bool.eq_false_of_not_eq_true hz]; rfl
      rw [atop, Scope.code_of_ofCode hs, AtomOp.code_of_ofCode ho, AtomKind.code_of_ofCode hk, hz]
      simp (disch := decide) only [BitVec.extractLsb'_append_extractLsb'_eq_extractLsb']
      exact BitVec.extractLsb'_eq_self
  next => cases h

/-- The other fields with a number of their own. -/
@[simp] theorem guard_ofNat_val (g : Fin 16) : Fin.ofNat 16 (BitVec.ofNat 4 g.val).toNat = g := by revert g; decide
@[simp] theorem ofNat_guard (x : BitVec 4) : BitVec.ofNat 4 (x.toNat % 16) = x := by revert x; decide

/-! ## The end of a decode -/

theorem finishDecode_of_check {i : Instr} (hc : i.check = none) : finishDecode true i true = .ok i := by
  simp [finishDecode, hc]

theorem finishDecode_eq_ok {i j : Instr} {fieldsOk : Bool} (h : finishDecode true i fieldsOk = .ok j) :
    i = j ∧ fieldsOk = true ∧ i.check = none := by
  unfold finishDecode at h
  cases hc : i.check with
  | none => cases fieldsOk <;> simp_all
  | some d => cases d <;> cases fieldsOk <;> simp_all

/-! ## Formats R and I -/

theorem encodeAlu_eq (m : Nat) (w : AluW) : encodeAlu m w =
    { op := BitVec.ofNat 8 m, fmt := if w.fmtI then 1 else 0, g := BitVec.ofNat 4 w.g.val, gn := bv1 w.gn, dst := w.dst.code,
      ws := bv1 w.ws, a := w.a.code, b := w.b.code
      c := if w.fmtI && !aluThreeSrc m then shortMod w.ty.code w.rm.code (bv1 w.sat) else w.c.code
      fn := BitVec.ofNat 7 w.fn.val
      imm := if w.fmtI then w.imm else longMod w.ty.code w.rm.code (bv1 w.sat) w.t2.code (bv1 w.na) (bv1 w.aa) (bv1 w.nb)
        (bv1 w.ab) (bv1 w.nc) (bv1 w.ac) w.xm } := rfl

theorem decodeAlu_encodeAlu {m : Nat} {w : AluW} (hm : m < 256) (hc : aluCanonical m w = true)
    (hsrc : w.fmtI = true → aluThreeSrc m = false → w.c = .zr) (mk : AluW → Instr) :
    decodeAlu true (encodeAlu m w) mk = finishDecode true (mk w) true := by
  have hop : m % 256 = m := Nat.mod_eq_of_lt hm
  obtain ⟨fmtI, g, gn, ws, dst, a, b, c, fn, ty, rm, sat, t2, na, aa, nb, ab, nc, ac, xm, imm⟩ := w
  have hfn : (BitVec.ofNat 7 fn.val).toNat = fn.val := by simp; omega
  cases fmtI with
  | false =>
    obtain ⟨h1, h2⟩ : fn.val < aluFns m ∧ imm = 0 := by simpa [aluCanonical] using hc
    have hl := longMod_fields ty.code rm.code (bv1 sat) t2.code (bv1 na) (bv1 aa) (bv1 nb) (bv1 ab) (bv1 nc) (bv1 ac) xm
    dsimp only at hl
    simp [-BitVec.getLsbD_eq_getElem, decodeAlu, encodeAlu_eq, hop, hfn, h1, h2, getLsbD_eq_bitB, hl]
  | true =>
    cases h3 : aluThreeSrc m with
    | false =>
      have hs := shortMod_fields ty.code rm.code (bv1 sat)
      have hz : c = .zr := hsrc rfl h3
      simp [aluCanonical, h3] at hc
      simp [-BitVec.getLsbD_eq_getElem, decodeAlu, encodeAlu_eq, hop, hfn, getLsbD_eq_bitB, h3, hc, hs, hz]
    | true =>
      simp [aluCanonical, h3] at hc
      simp [decodeAlu, encodeAlu_eq, hop, hfn, h3, hc]

theorem aluFns_le (m : Nat) : aluFns m ≤ 8 := by
  unfold aluFns
  split_ifs <;> omega

theorem decodeAlu_ok {f : Fields} {mk : AluW → Instr} {i : Instr}
    (hfmt : f.fmt = 0 ∨ f.fmt = 1 ∧ aluFormatROnly f.op.toNat = false) (h : decodeAlu true f mk = .ok i) :
    ∃ w, i = mk w ∧ encodeAlu f.op.toNat w = f ∧ aluCanonical f.op.toNat w = true ∧ (mk w).check = none := by
  obtain ⟨op, fmt, g, gn, dst, ws, a, b, c, fn, imm⟩ := f
  unfold decodeAlu at h
  dsimp only at h hfmt
  split at h
  · cases h
  next hlt =>
  have hfn : fn.toNat < aluFns op.toNat := by simpa using hlt
  have hfn8 : fn.toNat % 8 = fn.toNat := Nat.mod_eq_of_lt (Nat.lt_of_lt_of_le hfn (aluFns_le _))
  clear hlt
  split at h
  next dst' a' b' c' hd ha hb hc =>
    have hcodes := And.intro (Opnd.code_of_ofCode hd) (And.intro (Opnd.code_of_ofCode ha) (Opnd.code_of_ofCode hb))
    rcases hfmt with rfl | ⟨rfl, hR⟩
    · simp only [show ((0 : BitVec 3) == 1) = false from rfl, Bool.false_and, Bool.false_eq_true, if_false] at h hc
      obtain ⟨rfl, hok, hcheck⟩ := finishDecode_eq_ok h
      obtain ⟨hrm, hz⟩ : (Rm.ofCode (imm.extractLsb' 25 3)).isSome = true ∧ imm.extractLsb' 12 2 = 0 := by simpa using hok
      obtain ⟨r, hr⟩ := Option.isSome_iff_exists.mp hrm
      refine ⟨_, rfl, ?_, by simp [aluCanonical, hfn8, hfn], hcheck⟩
      simp [-BitVec.getLsbD_eq_getElem, encodeAlu_eq, hfn8, hcodes, Opnd.code_of_ofCode hc, hr, Rm.code_of_ofCode hr,
        longMod_of_fields hz]
    · simp only [show ((1 : BitVec 3) == 1) = true from rfl, Bool.true_and, if_true] at h hc
      obtain ⟨rfl, hok, hcheck⟩ := finishDecode_eq_ok h
      refine ⟨_, rfl, ?_, ?_, hcheck⟩
      · cases h3 : aluThreeSrc op.toNat with
        | false =>
          obtain ⟨hrm, hz⟩ : (Rm.ofCode (c.extractLsb' 3 3)).isSome = true ∧ c.extractLsb' 0 2 = 0 := by simpa [h3] using hok
          obtain ⟨r, hr⟩ := Option.isSome_iff_exists.mp hrm
          simp [-BitVec.getLsbD_eq_getElem, encodeAlu_eq, hfn8, hcodes, h3, hr, Rm.code_of_ofCode hr, shortMod_of_fields hz]
        | true =>
          have hc : Opnd.ofCode c = some c' := by simpa [h3] using hc
          simp [encodeAlu_eq, hfn8, hcodes, h3, Opnd.code_of_ofCode hc]
      · cases h3 : aluThreeSrc op.toNat <;> simp [aluCanonical, hfn8, hfn, hR, h3]
  · cases h

/-! ## Format M -/

/-- FN of format M: width, order, and hint or sub-operation (spec/03 R43). -/
def memFn (width : BitVec 3) (order sub : BitVec 2) : BitVec 7 := width ++ order ++ sub

theorem memFn_fields (width : BitVec 3) (order sub : BitVec 2) :
    (memFn width order sub).extractLsb' 4 3 = width ∧ (memFn width order sub).extractLsb' 2 2 = order ∧
      (memFn width order sub).extractLsb' 0 2 = sub := by
  have unreduced (start len : Nat) :
      (memFn width order sub).extractLsb' start len = (width ++ order ++ sub).extractLsb' start len := rfl
  simp (disch := decide) only [unreduced, BitVec.extractLsb'_append_eq_of_le, BitVec.extractLsb'_append_eq_right,
    BitVec.extractLsb'_eq_self, Nat.reduceSub, and_self]

theorem memFn_of_fields (x : BitVec 7) : memFn (x.extractLsb' 4 3) (x.extractLsb' 2 2) (x.extractLsb' 0 2) = x := by
  rw [memFn]
  simp (disch := decide) only [BitVec.extractLsb'_append_extractLsb'_eq_extractLsb']
  exact BitVec.extractLsb'_eq_self

/-- What a word of a layout does not carry stands at its default. -/
def MemLay.carries (lay : MemLay) (w : MemW) : Bool :=
  match lay with
  | .ctlC => w.c.isZr && w.opc == .add && w.kind == .unsigned
  | .ctlD => w.dst.isZr && w.opc == .add && w.kind == .unsigned
  | .atop => w.b.isZr && w.scale == 0
  | .red => w.b.isZr && w.dst.isZr

theorem Opnd.isZr_iff (o : Opnd) : o.isZr = true ↔ o = .zr := by cases o <;> simp [Opnd.isZr]

theorem encodeMem_eq (m : Nat) (w : MemW) : encodeMem m w =
    { op := BitVec.ofNat 8 m, fmt := 2, g := BitVec.ofNat 4 w.g.val, gn := bv1 w.gn,
      dst := match memLay m with | .ctlD | .red => control w.scope w.scale | _ => w.dst.code
      ws := bv1 w.ws, a := w.a.code,
      b := match memLay m with | .atop => atop w.scope w.opc w.kind | .red => atop .grp w.opc w.kind | _ => w.b.code
      c := match memLay m with | .ctlC => control w.scope w.scale | _ => w.c.code
      fn := memFn w.width.code w.order.code (BitVec.ofNat 2 w.sub.val), imm := w.off } := rfl

@[simp] theorem sub_ofNat (x : BitVec 2) : BitVec.ofNat 2 (x.toNat % 4) = x := by revert x; decide

theorem decodeMem_encodeMem {m : Nat} {w : MemW} {mk : MemW → Instr} (hm : m < 256) (hmk : memCtor m w.sub.val = some mk)
    (hsub : memSubOk m w.sub.val = true) (hc : (memLay m).carries w = true) :
    decodeMem true (encodeMem m w) = finishDecode true (mk w) true := by
  have hop : m % 256 = m := Nat.mod_eq_of_lt hm
  obtain ⟨g, gn, ws, dst, a, b, c, width, order, sub, scope, scale, opc, kind, off⟩ := w
  obtain ⟨hw, ho, hs⟩ := memFn_fields width.code order.code (BitVec.ofNat 2 sub.val)
  have hs : ((memFn width.code order.code (BitVec.ofNat 2 sub.val)).extractLsb' 0 2).toNat = sub.val := by rw [hs]; simp
  rw [encodeMem_eq]
  dsimp only at hmk hsub ⊢
  generalize memFn width.code order.code (BitVec.ofNat 2 sub.val) = fn at hw ho hs
  cases hl : memLay m with
  | ctlC | ctlD | atop | red =>
    simp [MemLay.carries, hl, Opnd.isZr_iff] at hc
    simp [-BitVec.extractLsb'_toNat, decodeMem, hop, hl, hw, ho, hs, hmk, hsub, hc]

/-- The two parts of an ATOP field as `decodeMem` reads them. -/
theorem atop_of_parts {x : BitVec 10} {s : Scope} {k : Fin 5} {o : AtomOp × AtomKind}
    (hs : (atopOf x).map (fun y => (y.1, (0 : Fin 5))) = some (s, k)) (ho : (atopOf x).map (·.2) = some o) :
    k = 0 ∧ atop s o.1 o.2 = x := by
  cases hx : atopOf x with
  | none => simp [hx] at hs
  | some y =>
    simp only [hx, Option.map_some, Option.some.injEq, Prod.mk.injEq] at hs ho
    obtain ⟨⟨rfl, rfl⟩, rfl⟩ := And.intro hs ho
    exact ⟨rfl, atop_of_atopOf hx⟩

/-- The ATOP field of a RED names no scope. -/
theorem atop_of_grp {x : BitVec 10} {o : AtomOp × AtomKind}
    (h : ((atopOf x).bind fun y => if y.1 = .grp then some y.2 else none) = some o) : atop .grp o.1 o.2 = x := by
  cases hx : atopOf x with
  | none => simp [hx] at h
  | some y =>
    simp only [hx, Option.bind_some, Option.ite_none_right_eq_some, Option.some.injEq] at h
    obtain ⟨hg, rfl⟩ := h
    exact atop_of_atopOf (by rw [hx, ← hg])

theorem decodeMem_ok {f : Fields} {i : Instr} (hfmt : f.fmt = 2) (h : decodeMem true f = .ok i) :
    ∃ mk w, memCtor f.op.toNat w.sub.val = some mk ∧ memSubOk f.op.toNat w.sub.val = true ∧
      (memLay f.op.toNat).carries w = true ∧ i = mk w ∧ encodeMem f.op.toNat w = f ∧ (mk w).check = none := by
  obtain ⟨op, fmt, g, gn, dst, ws, a, b, c, fn, imm⟩ := f
  cases hfmt
  unfold decodeMem at h
  dsimp only at h ⊢
  have hsub4 : (fn.extractLsb' 0 2).toNat % 4 = (fn.extractLsb' 0 2).toNat := by omega
  split at h
  next mk dst' a' b' c' hmk hd ha hb hc =>
    obtain ⟨rfl, hok, hcheck⟩ := finishDecode_eq_ok h
    simp only [Bool.and_eq_true] at hok
    obtain ⟨⟨⟨hwidth, hctl⟩, hat⟩, hsub⟩ := hok
    obtain ⟨width, hw⟩ := Option.isSome_iff_exists.mp hwidth
    obtain ⟨⟨scope, scale⟩, hctl⟩ := Option.isSome_iff_exists.mp hctl
    obtain ⟨⟨opc, kind⟩, hat⟩ := Option.isSome_iff_exists.mp hat
    simp only [hw, hctl, hat] at hcheck ⊢
    refine ⟨mk, _, by simpa [-BitVec.extractLsb'_toNat, hsub4] using hmk,
      by simpa [-BitVec.extractLsb'_toNat, hsub4] using hsub, ?_, rfl, ?_, hcheck⟩
    · unfold MemLay.carries
      cases hl : memLay op.toNat with
      | ctlC =>
        simp only [hl, Option.some.injEq, Prod.mk.injEq] at hc hat
        simp [Opnd.isZr_iff, ← hc, ← hat.1, ← hat.2]
      | ctlD =>
        simp only [hl, Option.some.injEq, Prod.mk.injEq] at hd hat
        simp [Opnd.isZr_iff, ← hd, ← hat.1, ← hat.2]
      | atop =>
        simp only [hl, Option.some.injEq] at hb hctl hat
        simp [Opnd.isZr_iff, ← hb, (atop_of_parts hctl hat).1]
      | red =>
        simp only [hl, Option.some.injEq] at hd hb
        simp [Opnd.isZr_iff, ← hd, ← hb]
    · have hfn := memFn_of_fields fn
      cases hl : memLay op.toNat with
      | ctlC =>
        simp only [hl] at hd hb hctl
        simp [-BitVec.extractLsb'_toNat, encodeMem_eq, hl, Opnd.code_of_ofCode ha, Width.code_of_ofCode hw,
          Opnd.code_of_ofCode hd, Opnd.code_of_ofCode hb, control_of_controlOf hctl, hfn]
      | ctlD =>
        simp only [hl] at hb hc hctl
        simp [-BitVec.extractLsb'_toNat, encodeMem_eq, hl, Opnd.code_of_ofCode ha, Width.code_of_ofCode hw,
          Opnd.code_of_ofCode hb, Opnd.code_of_ofCode hc, control_of_controlOf hctl, hfn]
      | atop =>
        simp only [hl] at hd hc hctl hat
        simp [-BitVec.extractLsb'_toNat, encodeMem_eq, hl, Opnd.code_of_ofCode ha, Width.code_of_ofCode hw,
          Opnd.code_of_ofCode hd, Opnd.code_of_ofCode hc, (atop_of_parts hctl hat).2, hfn]
      | red =>
        simp only [hl] at hc hctl hat
        simp [-BitVec.extractLsb'_toNat, encodeMem_eq, hl, Opnd.code_of_ofCode ha, Width.code_of_ofCode hw,
          Opnd.code_of_ofCode hc, control_of_controlOf hctl, atop_of_grp hat, hfn]
  · cases h

/-! ## Formats E and S -/

theorem decodeEng_encodeEng {sg : EngSig} {w : EngW} {mk : EngW → Instr} (hop : sg.op < 256) (hfn : sg.fn < 128)
    (hany : (engCtor sg.op sg.fn .zr 0).isSome = true) (hmk : engCtor sg.op sg.fn w.dst w.imm = some mk) :
    decodeEng true (encodeEng sg w) = finishDecode true (mk w) true := by
  obtain ⟨mk0, h0 : engCtor sg.op sg.fn .zr 0#32 = some mk0⟩ := Option.isSome_iff_exists.mp hany
  simp [decodeEng, encodeEng, Nat.mod_eq_of_lt hop, Nat.mod_eq_of_lt hfn, h0, hmk]

theorem decodeEng_ok {f : Fields} {i : Instr} (h : decodeEng true f = .ok i) :
    ∃ mk w, engCtor f.op.toNat f.fn.toNat w.dst w.imm = some mk ∧ i = mk w ∧ (mk w).check = none ∧
      f = { f with g := BitVec.ofNat 4 w.g.val, gn := bv1 w.gn, dst := w.dst.code, ws := bv1 w.ws, a := w.a.code,
                   b := w.b.code, c := w.c.code, imm := w.imm } := by
  obtain ⟨op, fmt, g, gn, dst, ws, a, b, c, fn, imm⟩ := f
  unfold decodeEng at h
  dsimp only at h
  split at h
  · cases h
  split at h
  next dst' a' b' c' hd ha hb hc =>
    split at h
    · cases h
    next mk hmk =>
      obtain ⟨rfl, -, hcheck⟩ := finishDecode_eq_ok h
      refine ⟨mk, _, hmk, rfl, hcheck, ?_⟩
      simp [Opnd.code_of_ofCode hd, Opnd.code_of_ofCode ha, Opnd.code_of_ofCode hb, Opnd.code_of_ofCode hc]
  · cases h

/-! ## Format B -/

/-- FN of format B: the condition (spec/03 R44). -/
def brFn (cond : BitVec 3) : BitVec 7 := cond ++ (0 : BitVec 4)

/-- IMM of format B: line offset and slot (spec/03 R44). -/
def brImm (lineOff : BitVec 29) (slot : BitVec 3) : BitVec 32 := lineOff ++ slot

theorem brFn_fields (cond : BitVec 3) : (brFn cond).extractLsb' 4 3 = cond ∧ (brFn cond).extractLsb' 0 4 = 0 :=
  ⟨BitVec.extractLsb'_append_eq_left, BitVec.extractLsb'_append_eq_right⟩

theorem brFn_of_fields {x : BitVec 7} (h : x.extractLsb' 0 4 = 0) : brFn (x.extractLsb' 4 3) = x := by
  rw [brFn, ← h]
  exact BitVec.extractLsb'_append_extractLsb'

theorem brImm_fields (lineOff : BitVec 29) (slot : BitVec 3) :
    (brImm lineOff slot).extractLsb' 3 29 = lineOff ∧ (brImm lineOff slot).extractLsb' 0 3 = slot :=
  ⟨BitVec.extractLsb'_append_eq_left, BitVec.extractLsb'_append_eq_right⟩

theorem brImm_of_fields (x : BitVec 32) : brImm (x.extractLsb' 3 29) (x.extractLsb' 0 3) = x :=
  BitVec.extractLsb'_append_extractLsb'

theorem encodeBr_eq (m : Nat) (w : BrW) : encodeBr m w =
    { op := BitVec.ofNat 8 m, fmt := 4, g := BitVec.ofNat 4 w.g.val, gn := bv1 w.gn, dst := w.dst.code, ws := bv1 w.ws,
      a := w.a.code, b := w.b.code, c := if m == 0x64 then w.foff else 348
      fn := brFn w.cond.code, imm := brImm w.lineOff (BitVec.ofNat 3 w.slot.val) } := rfl

theorem decodeBr_encodeBr {m : Nat} {w : BrW} (hm : m < 256) (hc : (m == 0x64 || w.foff == 0) = true) (mk : BrW → Instr) :
    decodeBr true (encodeBr m w) mk = finishDecode true (mk w) true := by
  obtain ⟨g, gn, ws, dst, a, b, foff, cond, lineOff, slot⟩ := w
  obtain ⟨hcond, hzero⟩ := brFn_fields cond.code
  obtain ⟨hline, hslot⟩ := brImm_fields lineOff (BitVec.ofNat 3 slot.val)
  have hslot : ((brImm lineOff (BitVec.ofNat 3 slot.val)).extractLsb' 0 3).toNat = slot.val := by rw [hslot]; simp; omega
  have hzr : Opnd.ofCode 348#10 = some .zr := rfl
  rw [encodeBr_eq]
  generalize brImm lineOff (BitVec.ofNat 3 slot.val) = imm at hline hslot
  by_cases hs : m = 0x64
  · simp [-BitVec.extractLsb'_toNat, decodeBr, hs, hcond, hzero, hline, hslot, Opnd.isZr]
  · have hsplit : ¬ BitVec.ofNat 8 m = 100#8 := fun h => hs (by simpa [Nat.mod_eq_of_lt hm] using congrArg BitVec.toNat h)
    simp [hs] at hc
    simp [-BitVec.extractLsb'_toNat, decodeBr, hs, hcond, hzero, hline, hslot, hsplit, Opnd.isZr, hzr, hc]

theorem decodeBr_ok {f : Fields} {mk : BrW → Instr} {i : Instr} (hfmt : f.fmt = 4) (h : decodeBr true f mk = .ok i) :
    ∃ w, i = mk w ∧ encodeBr f.op.toNat w = f ∧ (f.op.toNat == 0x64 || w.foff == 0) = true ∧ (mk w).check = none := by
  obtain ⟨op, fmt, g, gn, dst, ws, a, b, c, fn, imm⟩ := f
  cases hfmt
  unfold decodeBr at h
  dsimp only at h
  split at h
  next dst' a' b' c' hd ha hb hc =>
    split at h
    · cases h
    next hz =>
      obtain ⟨rfl, hok, hcheck⟩ := finishDecode_eq_ok h
      simp only [Bool.and_eq_true, decide_eq_true_eq, beq_iff_eq] at hok
      obtain ⟨⟨hcond, hzero⟩, hslot⟩ := hok
      obtain ⟨cond, hcond⟩ := Option.isSome_iff_exists.mp hcond
      have hslot5 : (imm.extractLsb' 0 3).toNat % 5 = (imm.extractLsb' 0 3).toNat := Nat.mod_eq_of_lt hslot
      have himm := brImm_of_fields imm
      have hfn := brFn_of_fields hzero
      have hzr : c' = .zr := by simpa [Opnd.isZr_iff] using hz
      refine ⟨_, rfl, ?_, ?_, hcheck⟩
      · by_cases hs : op = 100#8
        · simp [-BitVec.extractLsb'_toNat, encodeBr_eq, hs, hcond, Cond.code_of_ofCode hcond, hslot5, himm, hfn,
            Opnd.code_of_ofCode hd, Opnd.code_of_ofCode ha, Opnd.code_of_ofCode hb]
        · have hsn : ¬ op.toNat = 0x64 := fun h => hs (BitVec.eq_of_toNat_eq h)
          have hc : Opnd.code .zr = c := Opnd.code_of_ofCode (by simpa [hs, hzr] using hc)
          simp [-BitVec.extractLsb'_toNat, encodeBr_eq, hsn, hcond, Cond.code_of_ofCode hcond, hslot5, himm, hfn,
            Opnd.code_of_ofCode hd, Opnd.code_of_ofCode ha, Opnd.code_of_ofCode hb, ← hc]
          rfl
      · by_cases hs : op = 100#8 <;> simp [hs]
  · cases h

end Sys2Proof
end

section
/-! The rows of the formats: no major belongs to two of them, and a major's constructor and the row it stands in say the same. -/

set_option Elab.async false
namespace Sys2Proof

/-! ## Majors of the formats: none belongs to two of them -/

theorem aluCtor_major {m : Nat} {mk : AluW → Instr} (h : aluCtor m = some mk) : m ≠ 0 ∧ m < 0xFF := by
  unfold aluCtor at h
  split at h <;> cases h <;> decide

theorem memCtor_major {m sub : Nat} {mk : MemW → Instr} (h : memCtor m sub = some mk) :
    m ≠ 0 ∧ m < 0xFF ∧ aluCtor m = none ∧ brCtor m = none ∧ (memCtor m 0).isSome = true := by
  unfold memCtor at h
  split at h <;> cases h <;> exact ⟨by decide, by decide, rfl, rfl, rfl⟩

theorem brCtor_major {m : Nat} {mk : BrW → Instr} (h : brCtor m = some mk) :
    m ≠ 0 ∧ m < 0xFF ∧ aluCtor m = none ∧ memCtor m 0 = none ∧ isEMajor m = false := by
  unfold brCtor at h
  split at h <;> cases h <;> exact ⟨by decide, by decide, rfl, rfl, rfl⟩

theorem eng_major {m : Nat} (h : (isEMajor m || isSMajor m) = true) :
    m ≠ 0 ∧ m < 0xFF ∧ aluCtor m = none ∧ brCtor m = none ∧ memCtor m 0 = none := by
  simp only [isEMajor, isSMajor, List.contains_cons, List.contains_nil, Bool.or_eq_true, beq_iff_eq, Bool.or_false,
    or_assoc] at h
  casesm* _ ∨ _ <;> subst m <;> exact ⟨by decide, by decide, rfl, rfl, rfl⟩

/-! ## Rows -/

theorem aluMajor_only {i : Instr} {x : Nat × AluW} (h : i.aluMajor = some x) :
    i.memRow = none ∧ i.engRow = none ∧ i.brRow = none := by
  unfold Instr.aluMajor at h
  split at h <;> cases h <;> exact ⟨rfl, rfl, rfl⟩

theorem memRow_only {i : Instr} {x : Nat × Option (Fin 4) × MemLay × MemW} (h : i.memRow = some x) :
    i.aluMajor = none ∧ i.engRow = none ∧ i.brRow = none := by
  unfold Instr.memRow at h
  split at h <;> cases h <;> exact ⟨rfl, rfl, rfl⟩

theorem engRow_only {i : Instr} {x : EngSig × EngW} (h : i.engRow = some x) :
    i.aluMajor = none ∧ i.memRow = none ∧ i.brRow = none := by
  unfold Instr.engRow at h
  split at h <;> cases h <;> exact ⟨rfl, rfl, rfl⟩

theorem brRow_only {i : Instr} {x : Nat × BrW} (h : i.brRow = some x) :
    i.aluMajor = none ∧ i.memRow = none ∧ i.engRow = none := by
  unfold Instr.brRow at h
  split at h <;> cases h <;> exact ⟨rfl, rfl, rfl⟩

theorem aluCtor_row {m : Nat} {mk : AluW → Instr} (h : aluCtor m = some mk) (w : AluW) : (mk w).aluMajor = some (m, w) := by
  unfold aluCtor at h
  split at h <;> cases h <;> rfl

theorem aluCtor_of_row {i : Instr} {m : Nat} {w : AluW} (h : i.aluMajor = some (m, w)) :
    ∃ mk, aluCtor m = some mk ∧ mk w = i := by
  unfold Instr.aluMajor at h
  split at h <;> cases h <;> exact ⟨_, rfl, rfl⟩

/-- The row of a sub-operation: where the row fixes one, it is the word's own, since an unassigned one is refused. -/
theorem memCtor_row {m : Nat} {w : MemW} {mk : MemW → Instr} (h : memCtor m w.sub.val = some mk)
    (hok : memSubOk m w.sub.val = true) :
    ∃ fixed, (mk w).memRow = some (m, fixed, memLay m, w) ∧ fixed.getD w.sub = w.sub := by
  generalize hk : w.sub = k at h hok
  unfold memCtor at h
  split at h
  case h_2 => fin_cases k <;> cases h <;> exact ⟨_, rfl, rfl⟩
  case h_3 | h_5 =>
    fin_cases k
    · cases h; exact ⟨_, rfl, rfl⟩
    · cases h; exact ⟨_, rfl, rfl⟩
    · exact absurd hok (by decide)
    · exact absurd hok (by decide)
  case h_4 =>
    fin_cases k
    · cases h; exact ⟨_, rfl, rfl⟩
    · cases h; exact ⟨_, rfl, rfl⟩
    · cases h; exact ⟨_, rfl, rfl⟩
    · exact absurd hok (by decide)
  all_goals cases h <;> exact ⟨none, rfl, rfl⟩

theorem memCtor_of_row {i : Instr} {m : Nat} {fixed : Option (Fin 4)} {lay : MemLay} {w : MemW}
    (h : i.memRow = some (m, fixed, lay, w)) (hf : fixed.getD w.sub = w.sub) :
    ∃ mk, memCtor m w.sub.val = some mk ∧ mk w = i ∧ memSubOk m w.sub.val = true ∧ memLay m = lay := by
  unfold Instr.memRow at h
  split at h <;> cases h <;> (refine ⟨_, ?_, rfl, ?_, rfl⟩ <;> rw [← hf] <;> rfl)

theorem engCtor_row {op fn : Nat} {w : EngW} {mk : EngW → Instr} (hop : (isEMajor op || isSMajor op) = true)
    (h : engCtor op fn w.dst w.imm = some mk) :
    ∃ sg, (mk w).engRow = some (sg, w) ∧ sg.op = op ∧ sg.fn = fn ∧ sg.fmtE = isEMajor op := by
  simp only [isEMajor, isSMajor, List.contains_cons, List.contains_nil, Bool.or_eq_true, beq_iff_eq, Bool.or_false,
    or_assoc] at hop
  casesm* _ ∨ _ <;> subst op <;> rcases fn with _ | _ | _ | _ | fn <;> cases h
  any_goals exact ⟨_, rfl, rfl, rfl, rfl⟩
  all_goals split_ifs <;> exact ⟨_, rfl, rfl, rfl, rfl⟩

theorem engRow_major {i : Instr} {sg : EngSig} {w : EngW} (h : i.engRow = some (sg, w)) :
    isEMajor sg.op = sg.fmtE ∧ (isEMajor sg.op || isSMajor sg.op) = true ∧ sg.fn < 128 ∧
      (engCtor sg.op sg.fn .zr 0).isSome = true := by
  unfold Instr.engRow at h
  split at h <;> cases h <;> exact ⟨rfl, rfl, of_decide_eq_true rfl, rfl⟩

theorem isZr_of_fits_c {o : Opnd} (h : fitsAny [.c] o = true) : o.isZr = false := by cases o <;> trivial

theorem isZr_of_fits_z {o : Opnd} (h : fitsAny [.z] o = true) : o.isZr = true := by cases o <;> trivial

/-- Rows that share a major and a function code differ in IMM, which their modifier check tells apart, or in DST. -/
theorem engCtor_of_row {i : Instr} {sg : EngSig} {w : EngW} (h : i.engRow = some (sg, w))
    (hd : fitsAny sg.dst w.dst = true) (hx : sg.extra = true) :
    ∃ mk, engCtor sg.op sg.fn w.dst w.imm = some mk ∧ mk w = i := by
  unfold Instr.engRow at h
  split at h <;> cases h
  any_goals exact ⟨_, rfl, rfl⟩
  all_goals refine ⟨_, rfl, ?_⟩
  all_goals simp only [Bool.and_eq_true, Bool.not_eq_true', beq_iff_eq, decide_eq_true_eq] at hx
  case h_29 => simp [isZr_of_fits_c hd]
  case h_30 => simp [isZr_of_fits_z hd]
  case h_35 =>
    have h4 (k : Nat) (hk : k < 4) : ¬ w.imm = BitVec.ofNat 32 k := fun he => by simp [he] at hx; omega
    simp [h4 0, h4 1, h4 2, h4 3]
  all_goals simp [-BitVec.getLsbD_eq_getElem, hx]

theorem brCtor_row {m : Nat} {mk : BrW → Instr} (h : brCtor m = some mk) (w : BrW) : (mk w).brRow = some (m, w) := by
  unfold brCtor at h
  split at h <;> cases h <;> rfl

theorem brCtor_of_row {i : Instr} {m : Nat} {w : BrW} (h : i.brRow = some (m, w)) : ∃ mk, brCtor m = some mk ∧ mk w = i := by
  unfold Instr.brRow at h
  split at h <;> cases h <;> exact ⟨_, rfl, rfl⟩

end Sys2Proof
end

section
/-! `readFields`, `Instr.check`, `Instr.canonical` and `fieldsOf`, format by format. -/

set_option Elab.async false
namespace Sys2Proof

/-! ## Reading the fields -/

theorem readFields_alu {checked : Bool} {f : Fields} {mk : AluW → Instr} (h : aluCtor f.op.toNat = some mk)
    (hfmt : f.fmt = 0 ∨ f.fmt = 1 ∧ aluFormatROnly f.op.toNat = false ∧ f.b = 349) :
    readFields checked f = decodeAlu checked f mk := by
  obtain ⟨h0, hFF⟩ := aluCtor_major h
  have hFF : ¬ f.op.toNat = 0xFF := by omega
  rcases hfmt with hf | ⟨hf, hR, hb⟩
  · simp [readFields, hFF, h0, hf, majorAssigned, formatOk, h]
  · simp [readFields, hFF, h0, hf, hR, hb, majorAssigned, formatOk, h]

theorem readFields_br {checked : Bool} {f : Fields} {mk : BrW → Instr} (h : brCtor f.op.toNat = some mk) (hfmt : f.fmt = 4) :
    readFields checked f = decodeBr checked f mk := by
  obtain ⟨h0, hFF, ha, hm, hE⟩ := brCtor_major h
  have hFF : ¬ f.op.toNat = 0xFF := by omega
  simp [readFields, hFF, h0, hfmt, majorAssigned, formatOk, ha, hm, hE, h]

theorem readFields_mem {checked : Bool} {f : Fields} (h : (memCtor f.op.toNat 0).isSome = true) (hfmt : f.fmt = 2) :
    readFields checked f = decodeMem checked f := by
  obtain ⟨mk, hmk⟩ := Option.isSome_iff_exists.mp h
  obtain ⟨h0, hFF, ha, hb, -⟩ := memCtor_major hmk
  have hFF : ¬ f.op.toNat = 0xFF := by omega
  simp [readFields, hFF, h0, hfmt, majorAssigned, formatOk, ha, hb, h]

theorem readFields_eng {checked : Bool} {f : Fields} (h : (isEMajor f.op.toNat || isSMajor f.op.toNat) = true)
    (hfmt : f.fmt = if isEMajor f.op.toNat then 3 else 5) : readFields checked f = decodeEng checked f := by
  obtain ⟨h0, hFF, ha, hb, hm⟩ := eng_major h
  have hFF : ¬ f.op.toNat = 0xFF := by omega
  cases hE : isEMajor f.op.toNat <;> simp [hE] at h hfmt <;>
    simp [readFields, hFF, h0, hfmt, majorAssigned, formatOk, ha, hb, hm, hE, h]

/-- What `readFields` accepts, format by format. -/
theorem readFields_ok {checked : Bool} {f : Fields} {i : Instr} (h : readFields checked f = .ok i) :
    i = .udf ∨ (i = .nop ∧ f = fieldsOf .nop) ∨
    (∃ mk, aluCtor f.op.toNat = some mk ∧ (f.fmt = 0 ∨ f.fmt = 1 ∧ aluFormatROnly f.op.toNat = false) ∧
      decodeAlu checked f mk = .ok i) ∨
    (∃ mk, brCtor f.op.toNat = some mk ∧ f.fmt = 4 ∧ decodeBr checked f mk = .ok i) ∨
    (f.fmt = 2 ∧ decodeMem checked f = .ok i) ∨
    ((isEMajor f.op.toNat || isSMajor f.op.toNat) = true ∧ f.fmt = (if isEMajor f.op.toNat then 3 else 5) ∧
      decodeEng checked f = .ok i) := by
  have hfmt {k : BitVec 3} (hk : f.fmt.toNat = k.toNat) : f.fmt = k := BitVec.eq_of_toNat_eq hk
  unfold readFields at h
  dsimp only at h
  split at h
  · cases h; exact .inl rfl
  split at h
  · cases h
  split at h
  next h0 =>
    split at h
    · cases h
    next hf =>
      split at h
      next hz =>
        cases h
        have hop : f.op = 0 := BitVec.eq_of_toNat_eq (by simpa using h0)
        have hf : f.fmt = 0 := hfmt (by simpa using hf)
        simp only [Bool.and_eq_true, beq_iff_eq] at hz
        refine .inr (.inl ⟨rfl, ?_⟩)
        obtain ⟨op, fmt, g, gn, dst, ws, a, b, c, fn, imm⟩ := f
        simp_all [fieldsOf, Instr.aluMajor, Instr.memRow, Instr.engRow, Instr.brRow]
      · cases h
  split at h
  · cases h
  next hma =>
  split at h
  · cases h
  next hform =>
  have hform : formatOk f.op.toNat f.fmt.toNat = true := by
    simp only [Bool.or_eq_true, Bool.not_eq_true', not_or, Bool.not_eq_false] at hform
    exact hform.1
  refine .inr (.inr ?_)
  split at h
  next mk hmk =>
    refine .inl ⟨mk, hmk, ?_, h⟩
    simp only [formatOk, hmk, Option.isSome_some, if_true, Bool.or_eq_true, Bool.and_eq_true, beq_iff_eq,
      Bool.not_eq_true'] at hform
    exact hform.imp (hfmt (k := 0)) (And.imp_left (hfmt (k := 1)))
  next ha =>
    split at h
    next mk hmk =>
      obtain ⟨-, -, -, hm, hE⟩ := brCtor_major hmk
      refine .inr (.inl ⟨mk, hmk, hfmt (k := 4) ?_, h⟩)
      simpa [formatOk, ha, hm, hE, hmk] using hform
    next hb =>
      split at h
      next hm =>
        refine .inr (.inr (.inl ⟨hfmt (k := 2) ?_, h⟩))
        simpa [formatOk, ha, hm] using hform
      next hm =>
        have hm : (memCtor f.op.toNat 0).isSome = false := by simpa using hm
        have hES : (isEMajor f.op.toNat || isSMajor f.op.toNat) = true := by
          simpa only [majorAssigned, ha, hb, hm, Option.isSome_none, Bool.false_or, Bool.not_eq_true', Bool.not_eq_false] using hma
        refine .inr (.inr (.inr ⟨hES, ?_, h⟩))
        cases hE : isEMajor f.op.toNat
        · exact hfmt (k := 5) (by simpa [formatOk, ha, hb, hm, hE] using hform)
        · exact hfmt (k := 3) (by simpa [formatOk, ha, hb, hm, hE] using hform)

/-! ## The check of a row and its canonical form, by format -/

theorem check_alu {i : Instr} {m : Nat} {w : AluW} (h : i.aluMajor = some (m, w)) (hc : i.check = none) :
    aluOperands m w = none := by
  unfold Instr.check at hc
  simp only [h] at hc
  cases ho : aluOperands m w <;> simp_all

theorem check_eng {i : Instr} {sg : EngSig} {w : EngW} (h : i.engRow = some (sg, w)) (hc : i.check = none) :
    engOperands sg w = none ∧ engMods sg w = true := by
  obtain ⟨ha, hm, -⟩ := engRow_only h
  unfold Instr.check at hc
  simp only [h, ha, hm] at hc
  cases ho : engOperands sg w with
  | some d => simp [ho] at hc
  | none =>
    cases hm : engMods sg w with
    | false => simp [ho, hm] at hc
    | true => exact ⟨rfl, rfl⟩

theorem canonical_alu {i : Instr} {m : Nat} {w : AluW} (h : i.aluMajor = some (m, w)) : i.canonical = aluCanonical m w := by
  obtain ⟨hm, -, hb⟩ := aluMajor_only h
  simp [Instr.canonical, h, hm, hb]

theorem canonical_mem {i : Instr} {m : Nat} {fixed : Option (Fin 4)} {lay : MemLay} {w : MemW}
    (h : i.memRow = some (m, fixed, lay, w)) :
    i.canonical = true ↔ fixed.getD w.sub = w.sub ∧ lay.carries w = true := by
  obtain ⟨ha, -, hb⟩ := memRow_only h
  cases fixed <;> cases lay <;> simp [Instr.canonical, h, ha, hb, MemLay.carries, eq_comm (a := w.sub)]

theorem canonical_eng {i : Instr} {x : EngSig × EngW} (h : i.engRow = some x) : i.canonical = true := by
  obtain ⟨ha, hm, hb⟩ := engRow_only h
  simp [Instr.canonical, ha, hm, hb]

theorem canonical_br {i : Instr} {m : Nat} {w : BrW} (h : i.brRow = some (m, w)) : i.canonical = (m == 0x64 || w.foff == 0) := by
  obtain ⟨ha, hm, -⟩ := brRow_only h
  simp [Instr.canonical, h, ha, hm]

theorem Opnd.isImm_iff (o : Opnd) : o.isImm = true ↔ o = .imm := by cases o <;> simp [Opnd.isImm]

/-- Format I: SRCB is the immediate, and SRCC, which carries the short modifier of a major without a third source, is no operand. -/
theorem aluOperands_fmtI {m : Nat} {w : AluW} (ho : aluOperands m w = none) (hI : w.fmtI = true) :
    w.b = .imm ∧ (aluThreeSrc m = false → w.c = .zr) := by
  unfold aluOperands at ho
  extract_lets w64 imm unary kinds immPlace random at ho
  split at ho
  · cases ho
  next hk =>
  have hk : (kinds = true ∧ immPlace = true) ∧ random = true := by simpa using hk
  obtain ⟨⟨hkinds, himm⟩, -⟩ := hk
  refine ⟨(Opnd.isImm_iff _).mp (by simpa [immPlace, hI] using himm), fun h3 => (Opnd.isZr_iff _).mp ?_⟩
  have ne {k : Nat} (hk : aluThreeSrc k = true) : (m == k) = false := by
    rw [beq_eq_false_iff_ne]
    rintro rfl
    rw [h3] at hk
    cases hk
  simp only [kinds, ne (k := 0x19) rfl, ne (k := 0x13) rfl, ne (k := 0x44) rfl, h3, Bool.false_eq_true, if_false] at hkinds
  cases hz : w.c.isZr with
  | true => rfl
  | false => simp only [hz, Bool.and_false, Bool.false_and, ite_self, Bool.false_eq_true] at hkinds

theorem fieldsOf_alu {i : Instr} {m : Nat} {w : AluW} (h : i.aluMajor = some (m, w)) : fieldsOf i = encodeAlu m w := by
  unfold fieldsOf
  split
  · cases h
  · simp [h]

theorem fieldsOf_mem {i : Instr} {m : Nat} {fixed : Option (Fin 4)} {lay : MemLay} {w : MemW}
    (h : i.memRow = some (m, fixed, lay, w)) : fieldsOf i = encodeMem m w := by
  obtain ⟨ha, -⟩ := memRow_only h
  unfold fieldsOf
  split
  · cases h
  · simp [h, ha]

theorem fieldsOf_eng {i : Instr} {sg : EngSig} {w : EngW} (h : i.engRow = some (sg, w)) : fieldsOf i = encodeEng sg w := by
  obtain ⟨ha, hm, -⟩ := engRow_only h
  unfold fieldsOf
  split
  · cases h
  · simp [h, ha, hm]

theorem fieldsOf_br {i : Instr} {m : Nat} {w : BrW} (h : i.brRow = some (m, w)) : fieldsOf i = encodeBr m w := by
  obtain ⟨ha, hm, he⟩ := brRow_only h
  unfold fieldsOf
  split
  · cases h
  · simp [h, ha, hm, he]

end Sys2Proof
end

section
/-! The round trips between words and instructions, and the first checks of a decode. -/

set_option Elab.async false
namespace Sys2Proof

/-! ## Decoding what is encoded, by format -/

theorem decode_encode (i : Instr) : decode (encode i) = readFields true (fieldsOf i) := decode_word _

theorem toNat_op {m : Nat} (h : m < 0xFF) : (BitVec.ofNat 8 m).toNat = m := by
  rw [BitVec.toNat_ofNat]
  omega

theorem fmtI_of_aluCanonical {m : Nat} {w : AluW} (h : aluCanonical m w = true) (hI : w.fmtI = true) : aluFormatROnly m = false := by
  cases hR : aluFormatROnly m with
  | false => rfl
  | true => simp [aluCanonical, hI, hR] at h

theorem decode_encode_alu {i : Instr} {m : Nat} {w : AluW} (h : i.aluMajor = some (m, w)) (hcan : i.canonical = true)
    (hc : i.check = none) : decode (encode i) = .ok i := by
  obtain ⟨mk, hmk, rfl⟩ := aluCtor_of_row h
  obtain ⟨-, hm⟩ := aluCtor_major hmk
  have hop : (encodeAlu m w).op.toNat = m := toNat_op hm
  have hcan : aluCanonical m w = true := canonical_alu h ▸ hcan
  have hI := aluOperands_fmtI (check_alu h hc)
  rw [decode_encode, fieldsOf_alu h, readFields_alu (mk := mk) (hop.symm ▸ hmk), decodeAlu_encodeAlu (by omega) hcan fun hf => (hI hf).2,
    finishDecode_of_check hc]
  rw [hop]
  cases hf : w.fmtI with
  | false => exact .inl (by simp [encodeAlu_eq, hf])
  | true =>
    refine .inr ⟨by simp [encodeAlu_eq, hf], ?_, ?_⟩
    · exact fmtI_of_aluCanonical hcan hf
    · simp [encodeAlu_eq, (hI hf).1, Opnd.code]

theorem decode_encode_mem {i : Instr} {m : Nat} {fixed : Option (Fin 4)} {lay : MemLay} {w : MemW}
    (h : i.memRow = some (m, fixed, lay, w)) (hcan : i.canonical = true) (hc : i.check = none) : decode (encode i) = .ok i := by
  obtain ⟨hfixed, hlay⟩ := (canonical_mem h).mp hcan
  obtain ⟨mk, hmk, rfl, hsub, rfl⟩ := memCtor_of_row h hfixed
  obtain ⟨-, hm, -, -, hany⟩ := memCtor_major hmk
  have hop : (encodeMem m w).op.toNat = m := toNat_op hm
  rw [decode_encode, fieldsOf_mem h, readFields_mem (hop.symm ▸ hany) rfl, decodeMem_encodeMem (by omega) hmk hsub hlay,
    finishDecode_of_check hc]

theorem decode_encode_eng {i : Instr} {sg : EngSig} {w : EngW} (h : i.engRow = some (sg, w)) (hc : i.check = none) :
    decode (encode i) = .ok i := by
  obtain ⟨hops, hmods⟩ := check_eng h hc
  obtain ⟨hE, hES, hfn, hany⟩ := engRow_major h
  obtain ⟨-, hm, -⟩ := eng_major hES
  have hdst : fitsAny sg.dst w.dst = true := by
    unfold engOperands at hops
    cases hd : fitsAny sg.dst w.dst with
    | true => rfl
    | false => simp [hd] at hops
  have hextra : sg.extra = true := by
    simp only [engMods, Bool.and_eq_true] at hmods
    exact hmods.1
  obtain ⟨mk, hmk, rfl⟩ := engCtor_of_row h hdst hextra
  have hop : (encodeEng sg w).op.toNat = sg.op := toNat_op hm
  rw [decode_encode, fieldsOf_eng h, readFields_eng (hop.symm ▸ hES) (by rw [hop, hE]; rfl),
    decodeEng_encodeEng (by omega) hfn hany hmk, finishDecode_of_check hc]

theorem decode_encode_br {i : Instr} {m : Nat} {w : BrW} (h : i.brRow = some (m, w)) (hcan : i.canonical = true)
    (hc : i.check = none) : decode (encode i) = .ok i := by
  obtain ⟨mk, hmk, rfl⟩ := brCtor_of_row h
  obtain ⟨-, hm, -⟩ := brCtor_major hmk
  have hop : (encodeBr m w).op.toNat = m := toNat_op hm
  rw [decode_encode, fieldsOf_br h, readFields_br (mk := mk) (hop.symm ▸ hmk) rfl,
    decodeBr_encodeBr (by omega) (canonical_br h ▸ hcan) mk, finishDecode_of_check hc]

/-! ## Encoding what is decoded, by format -/

/-- The fields `f` stand for the well-formed instruction `i` and nothing else. -/
def Reads (f : Fields) (i : Instr) : Prop := WellFormed i ∧ fieldsOf i = f

theorem reads_alu {f : Fields} {mk : AluW → Instr} {i : Instr} (hmk : aluCtor f.op.toNat = some mk)
    (hfmt : f.fmt = 0 ∨ f.fmt = 1 ∧ aluFormatROnly f.op.toNat = false) (h : decodeAlu true f mk = .ok i) : Reads f i := by
  obtain ⟨w, rfl, henc, hcan, hc⟩ := decodeAlu_ok hfmt h
  have hrow := aluCtor_row hmk w
  exact ⟨⟨by simp [Instr.isWord, hrow], (canonical_alu hrow).trans hcan, hc⟩, (fieldsOf_alu hrow).trans henc⟩

theorem reads_br {f : Fields} {mk : BrW → Instr} {i : Instr} (hmk : brCtor f.op.toNat = some mk) (hfmt : f.fmt = 4)
    (h : decodeBr true f mk = .ok i) : Reads f i := by
  obtain ⟨w, rfl, henc, hcan, hc⟩ := decodeBr_ok hfmt h
  have hrow := brCtor_row hmk w
  exact ⟨⟨by simp [Instr.isWord, hrow], (canonical_br hrow).trans hcan, hc⟩, (fieldsOf_br hrow).trans henc⟩

theorem reads_mem {f : Fields} {i : Instr} (hfmt : f.fmt = 2) (h : decodeMem true f = .ok i) : Reads f i := by
  obtain ⟨mk, w, hmk, hsub, hlay, rfl, henc, hc⟩ := decodeMem_ok hfmt h
  obtain ⟨fixed, hrow, hfixed⟩ := memCtor_row hmk hsub
  exact ⟨⟨by simp [Instr.isWord, hrow], (canonical_mem hrow).mpr ⟨hfixed, hlay⟩, hc⟩, (fieldsOf_mem hrow).trans henc⟩

theorem reads_eng {f : Fields} {i : Instr} (hES : (isEMajor f.op.toNat || isSMajor f.op.toNat) = true)
    (hfmt : f.fmt = if isEMajor f.op.toNat then 3 else 5) (h : decodeEng true f = .ok i) : Reads f i := by
  obtain ⟨mk, w, hmk, rfl, hc, hf⟩ := decodeEng_ok h
  obtain ⟨sg, hrow, hop, hfn, hE⟩ := engCtor_row hES hmk
  refine ⟨⟨by simp [Instr.isWord, hrow], canonical_eng hrow, hc⟩, ?_⟩
  rw [fieldsOf_eng hrow, encodeEng, hf, hop, hfn, hE, hfmt]
  simp

theorem reads_nop : Reads (fieldsOf .nop) .nop := ⟨⟨rfl, rfl, rfl⟩, rfl⟩

theorem readFields_reads {f : Fields} {i : Instr} (h : readFields true f = .ok i) : i = .udf ∨ Reads f i := by
  rcases readFields_ok h with hu | ⟨rfl, rfl⟩ | ⟨mk, hmk, hfmt, h⟩ | ⟨mk, hmk, hfmt, h⟩ | ⟨hfmt, h⟩ | ⟨hES, hfmt, h⟩
  · exact .inl hu
  · exact .inr reads_nop
  · exact .inr (reads_alu hmk hfmt h)
  · exact .inr (reads_br hmk hfmt h)
  · exact .inr (reads_mem hfmt h)
  · exact .inr (reads_eng hES hfmt h)

/-! ## The first two checks of a decode (spec/03 R51) -/

theorem readFields_major {f : Fields} (hF : f.op ≠ 0xFF) (h0 : f.op ≠ 0)
    (h : 6 ≤ f.fmt.toNat ∨ majorAssigned f.op.toNat = false) : readFields true f = .error .major := by
  have hF : ¬ f.op.toNat = 0xFF := fun h => hF (BitVec.eq_of_toNat_eq h)
  have h0 : ¬ f.op.toNat = 0 := fun h => h0 (BitVec.eq_of_toNat_eq h)
  by_cases h6 : 6 ≤ f.fmt.toNat
  · simp [readFields, hF, h0, h6]
  · simp [readFields, hF, h0, h6, h.resolve_left h6]

theorem readFields_format_nop {f : Fields} (h0 : f.op = 0) (h : f.fmt ≠ 0) : readFields true f = .error .format := by
  have h : ¬ f.fmt.toNat = 0 := fun h' => h (BitVec.eq_of_toNat_eq h')
  simp [readFields, h0, h]

theorem readFields_format {f : Fields} (hF : f.op ≠ 0xFF) (h6 : f.fmt.toNat < 6) (h0 : f.op ≠ 0)
    (hm : majorAssigned f.op.toNat = true) (h : formatOk f.op.toNat f.fmt.toNat = false) : readFields true f = .error .format := by
  have hF : ¬ f.op.toNat = 0xFF := fun h => hF (BitVec.eq_of_toNat_eq h)
  have h0 : ¬ f.op.toNat = 0 := fun h => h0 (BitVec.eq_of_toNat_eq h)
  simp [readFields, hF, h0, Nat.not_le.mpr h6, hm, h]

end Sys2Proof

open Sys2Proof

/-- Settles O1: an instruction has one row, and the round trip is proved format by format; NOP and UDF have no row and are evaluated. -/
theorem decodeOfEncode : Obligations.DecodeOfEncode := by
  unfold Obligations.DecodeOfEncode
  rintro i ⟨hword, hcan, hc⟩
  simp only [Instr.isWord, Bool.or_eq_true, beq_iff_eq, Option.isSome_iff_exists] at hword
  obtain ((((rfl | rfl) | ⟨_, h⟩) | ⟨_, h⟩) | ⟨_, h⟩) | ⟨_, h⟩ := hword
  · rfl
  · rfl
  · exact decode_encode_alu h hcan hc
  · exact decode_encode_mem h hcan hc
  · exact decode_encode_eng h hc
  · exact decode_encode_br h hcan hc

/-- Settles O2: what a decode reads, format by format, has its row and its fields back. -/
theorem encodeOfDecode : Obligations.EncodeOfDecode := by
  unfold Obligations.EncodeOfDecode
  intro w i h
  refine (readFields_reads (f := Fields.ofWord w) h).imp_right fun ⟨hwf, henc⟩ => ⟨hwf, ?_⟩
  rw [encode, henc, Fields.word_ofWord]

/-- Settles O3: the words are evaluated; the checks of R51 come before anything a format reads. -/
theorem wordsDecode : Obligations.WordsDecode := by
  unfold Obligations.WordsDecode
  refine ⟨⟨rfl, rfl, rfl, rfl, rfl, rfl, rfl, rfl⟩, fun f hF => ?_⟩
  rw [decode_word]
  exact ⟨readFields_major hF, readFields_format_nop, readFields_format hF⟩

end

section
/-! What the traffic of memory and of the fault rings leaves as it was: the fragments, the groups, the teams, and each core's side log. -/

set_option Elab.async false

namespace Sys2Proof.Machine

variable {s t u : State}

theorem core_modCore (s : State) (k j : Nat) (f : Core → Core) : (s.modCore k f).core j = if j = k then f (s.core k) else s.core j :=
  SMap.getD_setD s.cores {} k j (f (s.core k))

/-! ## Fragments, groups and teams -/

/-- The fragments, the groups and the teams are as they were. -/
structure SameUnits (s t : State) : Prop where
  frags : t.frags = s.frags
  groups : t.groups = s.groups
  teams : t.teams = s.teams

theorem SameUnits.rfl : SameUnits s s := ⟨Eq.refl _, Eq.refl _, Eq.refl _⟩

theorem SameUnits.trans (h : SameUnits s t) (h' : SameUnits t u) : SameUnits s u :=
  ⟨h'.frags.trans h.frags, h'.groups.trans h.groups, h'.teams.trans h.teams⟩

/-- Every core's side log is as it was. -/
def SameSides (s t : State) : Prop := ∀ k, (t.core k).side = (s.core k).side

theorem SameSides.trans (h : SameSides s t) (h' : SameSides t u) : SameSides s u := fun k => (h' k).trans (h k)

theorem SameSides.modCore {k : Nat} {f : Core → Core} (hf : (f (s.core k)).side = (s.core k).side) : SameSides s (s.modCore k f) := by
  intro j
  rw [core_modCore]
  split
  next hj => rw [hj, hf]
  · rfl

/-- What an access to memory leaves as it was. -/
structure Traffic (s t : State) : Prop extends SameUnits s t where
  ctxs : t.ctxs = s.ctxs
  launches : t.launches = s.launches
  sides : SameSides s t

namespace Traffic

theorem rfl : Traffic s s := ⟨.rfl, Eq.refl _, Eq.refl _, fun _ => Eq.refl _⟩

theorem trans (h : Traffic s t) (h' : Traffic t u) : Traffic s u :=
  ⟨h.toSameUnits.trans h'.toSameUnits, h'.ctxs.trans h.ctxs, h'.launches.trans h.launches, h.sides.trans h'.sides⟩

theorem foldl {α : Type} {f : State → α → State} (hf : ∀ s x, Traffic s (f s x)) (l : List α) (s : State) :
    Traffic s (l.foldl f s) := by
  induction l generalizing s with
  | nil => exact rfl
  | cons x l ih => exact (hf s x).trans (ih (f s x))

theorem modCore {k : Nat} {f : Core → Core} (hf : (f (s.core k)).side = (s.core k).side) : Traffic s (s.modCore k f) :=
  ⟨⟨Eq.refl _, Eq.refl _, Eq.refl _⟩, Eq.refl _, Eq.refl _, .modCore hf⟩

/-- A change of the memories, the caches or the second-level TLBs. -/
theorem update {mem hostMem domMem : SMap Byte} {poison : SMap Bool} {llc : SMap (List (Nat × Bool))} {tlb2 : SMap (List TlbEntry)} :
    Traffic s { s with mem := mem, hostMem := hostMem, domMem := domMem, poison := poison, llc := llc, tlb2 := tlb2 } :=
  ⟨⟨Eq.refl _, Eq.refl _, Eq.refl _⟩, Eq.refl _, Eq.refl _, fun _ => Eq.refl _⟩

theorem countEv (core code n : Nat) : Traffic s (s.countEv core code n) := modCore (Eq.refl _)

theorem llcWrite (pa n : Nat) : Traffic s (s.llcWrite pa n) := by
  unfold State.llcWrite
  split
  · exact rfl
  · exact update

theorem place (core hint mt pa : Nat) : Traffic s (s.place core hint mt pa) := by
  unfold State.place
  split
  · exact rfl
  · have hold : Traffic s (s.llcHold pa (hint == 1)) := update
    extract_lets s'
    split
    · exact hold
    · exact hold.trans (modCore (Eq.refl _))

theorem physWrite (mt pa n x : Nat) : Traffic s (s.physWrite mt pa n x) := by
  unfold State.physWrite
  split
  · extract_lets s'
    have hs' : Traffic s s' := by
      unfold s'
      split
      · exact llcWrite pa n
      · exact rfl
    exact hs'.trans update
  · split
    · exact update
    · split
      · exact rfl
      · split
        · exact (llcWrite _ _).trans update
        · exact update

theorem touch (core : Nat) (cx : Ctx) (va : Nat) (w : Bool) (hint : Nat) : Traffic s (s.touch core cx va w hint) := by
  unfold State.touch
  split
  · exact rfl
  next e _ =>
    refine (place core hint (bitsN e.pte.toNat 7 6) (bitsN e.pte.toNat 51 18 * 2 ^ 18 + (va - e.va))).trans ?_
    extract_lets p old new s' add s''
    have hs' : Traffic p s' := update
    split
    · exact hs'
    · have hs'' : Traffic s' s'' := modCore (Eq.refl _)
      exact (hs'.trans hs'').trans update

theorem vstore (core : Nat) (cx : Ctx) (va n x hint : Nat) : Traffic s (s.vstore core cx va n x hint) := by
  unfold State.vstore
  split
  · exact (touch _ _ _ _ _).trans (physWrite _ _ _ _)
  · exact rfl

theorem vwriteGo (core : Nat) (cx : Ctx) (fuel : Nat) :
    ∀ (va n x : Nat) (s : State), Traffic s (State.vwriteGo core cx fuel va n x s) := by
  induction fuel with
  | zero => exact fun _ _ _ _ => rfl
  | succ fuel ih =>
    intro va n x s
    unfold State.vwriteGo
    split
    · exact rfl
    · refine Traffic.trans ?_ (ih _ _ _ _)
      split
      · exact (touch _ _ _ _ _).trans (physWrite _ _ _ _)
      · exact rfl

theorem vwrite (core : Nat) (cx : Ctx) (va n x : Nat) : Traffic s (s.vwrite core cx va n x) := vwriteGo core cx n va n x s

theorem putBytes (core : Nat) (cx : Ctx) (bs : List (Nat × Byte)) : Traffic s (s.putBytes core cx bs) := by
  refine foldl (fun s w => ?_) _ s
  split
  · exact vstore _ _ _ _ _ _
  · exact foldl (fun s b => vstore _ _ _ _ _ _) _ s

theorem applyMap (m : List (Nat × BitVec 64)) : Traffic s (s.applyMap m) := by
  refine foldl (fun s e => ?_) _ s
  split
  · exact rfl
  · exact physWrite _ _ _ _

theorem clearSpill (gid lane : Nat) : Traffic s (s.clearSpill gid lane) := by
  unfold State.clearSpill
  split
  · exact vwrite _ _ _ _ _
  · exact rfl

theorem spillHeader (gid lane : Nat) (r : Ray) : Traffic s (s.spillHeader gid lane r) := by
  unfold State.spillHeader
  split
  · exact rfl
  split
  · exact rfl
  split
  · exact rfl
  have hfree : Traffic s { s with free := s.free + 1 } := ⟨⟨Eq.refl _, Eq.refl _, Eq.refl _⟩, Eq.refl _, Eq.refl _, fun _ => Eq.refl _⟩
  exact (hfree.trans (vwrite _ _ _ _ _)).trans (vwrite _ _ _ _ _)

end Traffic

/-! ## The fault rings -/

namespace SameUnits

theorem modCtx {k : Nat} {f : Ctx → Ctx} : SameUnits s (s.modCtx k f) := ⟨Eq.refl _, Eq.refl _, Eq.refl _⟩

theorem enterRing (cx : Nat) (c : Ctx) (r : BitVec 512) : SameUnits s (s.enterRing cx c r) :=
  (Traffic.physWrite _ _ _ _).toSameUnits.trans modCtx

theorem postBits (cx : Nat) (r : BitVec 512) : SameUnits s (s.postBits cx r) := by
  unfold State.postBits
  split
  · exact rfl
  · split
    · exact modCtx
    · exact enterRing _ _ _

theorem consumeRecord (cx : Nat) : SameUnits s (s.consumeRecord cx) := by
  unfold State.consumeRecord
  split
  · exact rfl
  · split
    · exact rfl
    · extract_lets c' s'
      split
      · exact modCtx
      · exact (modCtx.trans modCtx).trans (enterRing _ _ _)

end SameUnits

end Sys2Proof.Machine
end

section
/-! A step issues the slot of the chosen fragment, inside its line or after it has entered it. -/

set_option Elab.async false

namespace Sys2Proof.Machine

variable {s : State} {h : Here} {fid : Nat}

/-- What the view of a fragment is made of. -/
theorem hereOf_eq_some : s.hereOf fid = some h ↔
    fid = h.fid ∧ h.gid = h.f.group ∧ h.tid = h.g.team ∧ s.frags.get? fid = some h.f ∧ s.groups.get? h.gid = some h.g ∧
      s.teams.get? h.tid = some h.t ∧ s.ctxs.get? h.t.ctx = some h.cx := by
  constructor
  · intro hh
    unfold State.hereOf at hh
    split at hh
    · cases hh
    split at hh
    · cases hh
    split at hh
    · cases hh
    split at hh
    · cases hh
    cases hh
    simp_all
  · rintro ⟨rfl, hg, ht, h1, h2, h3, h4⟩
    obtain ⟨fid, gid, tid, f, g, t, cx⟩ := h
    dsimp only at *
    subst hg ht
    simp [State.hereOf, h1, h2, h3, h4]

/-- The view of a fragment that has been changed, its group kept. -/
theorem hereOf_modFrag {φ : Frag → Frag} (hh : s.hereOf fid = some h) (hφ : (φ h.f).group = h.f.group) :
    (s.modFrag fid φ).hereOf fid = some { h with f := φ h.f } := by
  obtain ⟨hfid, hg, ht, h1, h2, h3, h4⟩ := hereOf_eq_some.mp hh
  exact hereOf_eq_some.mpr ⟨hfid, hg.trans hφ.symm, ht, by simp [SMap.get?_modify, h1], h2, h3, h4⟩

/-! ## The slot that issues -/

theorem issueSlot_ok {i : Instr} (hh : (s.issuing fid).hereOf fid = some h)
    (hbrk : h.f.noBrk = true ∨ h.cx.brks.all (fun e => e.2 != codePtr h.f.line h.f.slot) = true)
    (hi : slotDecode h.f.buf h.f.slot.val = .ok i) :
    s.issueSlot fid = match exec i (s.issuing fid) with
      | .next t => .next ((t.trialTime h).afterSlot h.core fid)
      | o => o := by
  have hno : (if h.f.noBrk then none else h.cx.brks.find? fun e => e.2 == codePtr h.f.line h.f.slot) = none := by
    rcases hbrk with hb | hb
    · simp [hb]
    · simp [List.all_eq_true] at hb
      simp only [ite_eq_left_iff, List.find?_eq_none, beq_iff_eq]
      exact fun _ e he => hb e.1 e.2 he
  unfold State.issueSlot
  change (match (s.issuing fid).hereOf fid with | none => _ | some h => _) = _
  rw [hh]
  simp only [hno, hi]
  rfl

/-- With no error, no event and no waiting MWAIT, a step after a move of the units issues the chosen fragment. -/
theorem step_eq_issue (hu : s.upsets = []) (ha : s.agenda = []) (hm : s.mwaitDue = none) (hn : s.units = false)
    (hp : s.pick false = some fid) : step s = s.turned.issue fid := by
  simp [step, State.move, State.issueNext, hu, ha, hm, hn, hp, State.turned]

/-- What the issue of a fragment does to it first. -/
def Frag.tried (f : Frag) : Frag := { f with stall := false, paired := f.paired && f.st == .issuing }

/-- The state in which fragment `fid` enters its line. -/
def State.entering (s : State) (fid : Nat) : State := { s.modFrag fid Frag.tried with cur := some fid }

theorem issue_eq (s : State) (fid : Nat) : s.issue fid =
    match (s.modFrag fid Frag.tried).hereOf fid with
    | none => .next (s.modFrag fid Frag.tried)
    | some h =>
      if h.f.st == .issuing then (s.modFrag fid Frag.tried).issueSlot fid
      else
        match (s.entering fid).enterLine h (s.modFrag fid Frag.tried).mayIssue with
        | (t, true) => t.issueSlot fid
        | (t, false) => .next t := rfl

theorem issue_issuing (hh : s.hereOf fid = some h) (hst : h.f.st = .issuing) :
    s.issue fid = (s.modFrag fid Frag.tried).issueSlot fid := by
  rw [issue_eq, hereOf_modFrag (φ := Frag.tried) hh rfl]
  simp [Frag.tried, hst]

theorem issue_entered {t : State} (hh : s.hereOf fid = some h) (hst : h.f.st = .ready)
    (he : (s.entering fid).enterLine { h with f := h.f.tried } (s.modFrag fid Frag.tried).mayIssue = (t, true)) :
    s.issue fid = t.issueSlot fid := by
  have hready : (h.f.tried.st == .issuing) = false := by simp [Frag.tried, hst]
  rw [issue_eq, hereOf_modFrag (φ := Frag.tried) hh rfl]
  simp only [hready, Bool.false_eq_true, if_false, he]

/-! ## Entering the line -/

/-- The state with other bookkeeping of the issue: what a translation and a fetch do not look at. -/
def State.withIssue (s : State) (turns : List Nat) (units : Bool) (cur : Option Nat) (frags : SMap Frag) : State :=
  { s with turns := turns, units := units, cur := cur, frags := frags }

theorem entering_turned (s : State) (fid : Nat) :
    s.turned.entering fid = s.withIssue (s.turns.drop 1) true (some fid) (s.frags.modify fid Frag.tried) := rfl

section
variable (s : State) (turns : List Nat) (units : Bool) (cur : Option Nat) (frags : SMap Frag)

theorem place_withIssue (core hint mt pa : Nat) : (s.withIssue turns units cur frags).place core hint mt pa =
    (s.place core hint mt pa).withIssue turns units cur frags := by
  unfold State.place
  split
  · rfl
  · dsimp only
    split <;> rfl

theorem touch_withIssue (core : Nat) (cx : Ctx) (va : Nat) (w : Bool) (hint : Nat) :
    (s.withIssue turns units cur frags).touch core cx va w hint = (s.touch core cx va w hint).withIssue turns units cur frags := by
  have hleaf : (s.withIssue turns units cur frags).leafFor core cx va = s.leafFor core cx va := rfl
  unfold State.touch
  rw [hleaf]
  cases s.leafFor core cx va with
  | error _ => rfl
  | ok e =>
    dsimp only
    rw [place_withIssue]
    split <;> rfl

end

/-- The state after a line has been fetched. -/
def State.fetched (s : State) (core pa : Nat) : State :=
  s.modCore core fun c => { c with icache := allocate icacheLines (· == pa / 64) (pa / 64) false c.icache }

theorem fetchLine_ok {pa mt : Nat} {buf : BitVec 512} {u : State} (hap : inAperture h.f.line.toNat = false)
    (hx : s.xl h.core h.cx h.f.line.toNat .fetch = .ok pa mt) (hu : s.touch h.core h.cx h.f.line.toNat false = u)
    (hxu : u.xl h.core h.cx h.f.line.toNat .fetch = .ok pa mt) (hp : u.poisoned mt pa 64 = false)
    (hbuf : BitVec.ofNat 512 (u.physRead mt pa 64) = buf) (hpar : parityOf buf = lineWord buf % 256) :
    s.fetchLine h = .ok buf (u.fetched h.core pa) := by
  have hp' : (u.fetched h.core pa).poisoned mt pa 64 = false := hp
  have hbuf' : BitVec.ofNat 512 ((u.fetched h.core pa).physRead mt pa 64) = buf := hbuf
  unfold State.fetchLine State.fetchTrap
  simp only [hap, Bool.false_eq_true, if_false, hx, hu, hxu]
  change (if (u.fetched h.core pa).poisoned mt pa 64 = true then _ else
    if (parityOf (BitVec.ofNat 512 ((u.fetched h.core pa).physRead mt pa 64)) !=
      lineWord (BitVec.ofNat 512 ((u.fetched h.core pa).physRead mt pa 64)) % 256) = true then _ else
    Fetch.ok (BitVec.ofNat 512 ((u.fetched h.core pa).physRead mt pa 64)) (u.fetched h.core pa)) = _
  rw [hbuf', hp', hpar]
  simp

/-- The fragment keeps its line and slot, whatever else the issue of another one does to it. -/
theorem ageOthers_frags (s : State) (fid : Nat) (may : Nat → Frag → Bool) :
    (s.ageOthers fid may).frags.get? fid = s.frags.get? fid := by
  simp [State.ageOthers, SMap.get?_mapV]

theorem enterLine_ok {may : Nat → Frag → Bool} {buf : BitVec 512} {u : State} (hf : s.fetchLine h = .ok buf u)
    (hfrag : u.frags.get? h.fid = some h.f) (htm : h.f.checkTm = true → lineTM buf h.f.slot.val = true) (hline : lineCheck buf = none)
    (hregs : (lineRegs buf h.g h.f.mask h.f.slot.val).any (h.g.outside h.f) = false) :
    ∃ t, s.enterLine h may = (t, true) ∧ t.groups = u.groups ∧
      ∃ f, t.frags.get? h.fid = some f ∧ f.buf = buf ∧ f.slot = h.f.slot ∧ f.line = h.f.line ∧ f.st = .issuing := by
  have htm : (h.f.checkTm && !lineTM buf h.f.slot.val) = false := by cases hc : h.f.checkTm <;> simp_all
  unfold State.enterLine
  simp only [hf, htm, hline, hregs, Bool.false_eq_true, if_false]
  refine ⟨_, rfl, ?_, ?_⟩
  · simp [State.ageOthers, State.countEv]
  · simp [SMap.get?_modify, ageOthers_frags, State.countEv, hfrag]

theorem step_ready {pa mt : Nat} {buf : BitVec 512} {u : State} (hstep : step s = s.turned.issue fid)
    (hh : s.turned.hereOf fid = some h) (hst : h.f.st = .ready) (hap : inAperture h.f.line.toNat = false)
    (hx : s.xl h.core h.cx h.f.line.toNat .fetch = .ok pa mt) (hu : s.touch h.core h.cx h.f.line.toNat false = u)
    (hxu : u.xl h.core h.cx h.f.line.toNat .fetch = .ok pa mt) (hp : u.poisoned mt pa 64 = false)
    (hbuf : BitVec.ofNat 512 (u.physRead mt pa 64) = buf) (hpar : parityOf buf = lineWord buf % 256)
    (htm : h.f.checkTm = true → lineTM buf h.f.slot.val = true) (hline : lineCheck buf = none)
    (hregs : (lineRegs buf h.g h.f.mask h.f.slot.val).any (h.g.outside h.f) = false) :
    ∃ t : State, step s = t.issueSlot fid ∧ t.groups = u.groups ∧
      ∃ f, t.frags.get? fid = some f ∧ f.buf = buf ∧ f.slot = h.f.slot ∧ f.line = h.f.line ∧ f.st = .issuing := by
  obtain ⟨rfl, -, -, hfrag, -⟩ := hereOf_eq_some.mp hh
  have hfetch : (s.turned.entering h.fid).fetchLine { h with f := h.f.tried } = .ok buf
      ((u.withIssue (s.turns.drop 1) true (some h.fid) (s.frags.modify h.fid Frag.tried)).fetched h.core pa) :=
    fetchLine_ok (h := { h with f := h.f.tried }) hap hx (by
      rw [entering_turned, touch_withIssue]
      exact congrArg (State.withIssue · (s.turns.drop 1) true (some h.fid) (s.frags.modify h.fid Frag.tried)) hu) hxu hp hbuf hpar
  have hfrag' : (s.frags.modify h.fid Frag.tried).get? h.fid = some h.f.tried := by
    have hfrag : s.frags.get? h.fid = some h.f := hfrag
    simp [SMap.get?_modify, hfrag]
  obtain ⟨t, hent, hgroups, hf⟩ := enterLine_ok (h := { h with f := h.f.tried })
    (may := (s.turned.modFrag h.fid Frag.tried).mayIssue) hfetch hfrag' htm hline hregs
  exact ⟨t, hstep.trans (issue_entered hh hst hent), hgroups, hf⟩

end Sys2Proof.Machine

open Sys2Proof.Machine

/-- Settles O4: the first clause is `issueSlot` without its breakpoint; in the second the issue is followed through its line. -/
theorem stepRunsDecoded : Obligations.StepRunsDecoded := by
  unfold Obligations.StepRunsDecoded
  refine ⟨fun s fid h i hh hbrk hi => issueSlot_ok hh hbrk hi, fun s fid h hu ha hm hn hp hh => ?_⟩
  intro u
  have hstep := step_eq_issue hu ha hm hn hp
  refine ⟨fun hst => hstep.trans (issue_issuing hh hst), fun pa mt hst hap hx hxu hpo => ?_⟩
  intro buf hpar htm hline hregs
  obtain ⟨t, ht, hgroups, hf⟩ := step_ready hstep hh hst hap hx rfl hxu hpo rfl hpar htm hline hregs
  exact ⟨t, ht, hgroups.trans (Traffic.touch _ _ _ _ _).groups, hf⟩

end

section
/-! Taking a precise trap: the fragment is parked, its waiting rays are spilled, and its record goes to the fault ring. -/

set_option Elab.async false

namespace Sys2Proof.Machine

variable {s t u : State} {h : Here} {r : RecInfo}

/-! ## The record of a trap -/

theorem Cause.code_lt (c : Cause) : c.code < 2 ^ 8 := by cases c <;> decide

/-- A record has room for its SEQ: bits [63:32] are clear. -/
theorem RecInfo.bits_add_seq_lt (r : RecInfo) (seq : W32) : r.bits.toNat + seq.toNat * 2 ^ 32 < 256 ^ 64 := by
  have hseq := seq.isLt
  have hcause := r.cause.code_lt
  have hmod : r.bits.toNat ≤ r.cause.code + r.slot % 8 * 2 ^ 8 + (if r.paired then 2 ^ 11 else 0) + r.detail % 256 * 2 ^ 16 +
      r.line % 2 ^ 56 * 2 ^ 64 + r.lanes % 2 ^ 32 * 2 ^ 128 + r.active % 2 ^ 32 * 2 ^ 160 + r.addr % 2 ^ 56 * 2 ^ 192 +
      r.namePc % 2 ^ 64 * 2 ^ 256 + r.nameSeq % 2 ^ 32 * 2 ^ 320 + r.teamId % 2 ^ 32 * 2 ^ 352 + r.groupId % 32 * 2 ^ 384 +
      r.frag % 64 * 2 ^ 389 + r.info % 2 ^ 64 * 2 ^ 448 := by
    rw [RecInfo.bits, BitVec.toNat_ofNat]
    exact Nat.mod_le _ _
  have hpaired : (if r.paired then 2 ^ 11 else 0) ≤ 2 ^ 11 := by split <;> omega
  omega

/-! ## Spilling rays -/

theorem SameRegs.rfl {g : Group} {p : Reg → Bool} : SameRegs g g p :=
  ⟨fun _ _ _ _ => Eq.refl _, fun _ _ => Eq.refl _, fun _ _ => Eq.refl _, fun _ _ => Eq.refl _, fun _ => Eq.refl _, Eq.refl _, Eq.refl _⟩

/-- What spilling a core's rays leaves as it was: a group's counters of its rays are no registers. -/
structure SpilledOnly (s t : State) : Prop where
  frags : t.frags = s.frags
  ctxs : t.ctxs = s.ctxs
  launches : t.launches = s.launches
  groups : ∀ k g, s.groups.get? k = some g → ∃ ctr, t.groups.get? k = some { g with travCtr := ctr }

theorem SpilledOnly.rfl : SpilledOnly s s := ⟨Eq.refl _, Eq.refl _, Eq.refl _, fun _ g hg => ⟨g.travCtr, hg⟩⟩

theorem SpilledOnly.trans (h : SpilledOnly s t) (h' : SpilledOnly t u) : SpilledOnly s u where
  frags := h'.frags.trans h.frags
  ctxs := h'.ctxs.trans h.ctxs
  launches := h'.launches.trans h.launches
  groups k g hg := by
    obtain ⟨ctr, hg'⟩ := h.groups k g hg
    obtain ⟨ctr', hg''⟩ := h'.groups k _ hg'
    exact ⟨ctr', hg''⟩

theorem Traffic.spilledOnly (h : Traffic s t) : SpilledOnly s t :=
  ⟨h.frags, h.ctxs, h.launches, fun _ g hg => ⟨g.travCtr, h.groups ▸ hg⟩⟩

theorem SpilledOnly.modGroup {k : Nat} (ctr : Group → SMap W64) :
    SpilledOnly s (s.modGroup k fun g => { g with travCtr := ctr g }) where
  frags := Eq.refl _
  ctxs := Eq.refl _
  launches := Eq.refl _
  groups j g hg := by
    rw [State.modGroup_groups, SMap.get?_modify]
    split
    next hj =>
      subst hj
      exact ⟨ctr g, by rw [hg]; exact Eq.refl _⟩
    · exact ⟨g.travCtr, hg⟩

theorem spillRays_only (core : Nat) (p : Ray → Bool) : SpilledOnly s (s.spillRays core p) := by
  unfold State.spillRays
  generalize (s.core core).rays.filter _ = l
  induction l generalizing s with
  | nil => exact .rfl
  | cons e l ih =>
    refine SpilledOnly.trans ?_ ih
    have hcore : SpilledOnly s (s.modCore core fun c => { c with rays := c.rays.erase e.1 }) := (Traffic.modCore rfl).spilledOnly
    have hray {s : State} : SpilledOnly s { s with spilled := s.spilled.set (32 * e.2.group + e.2.lane) e.2 } :=
      ⟨rfl, rfl, rfl, fun _ g hg => ⟨g.travCtr, hg⟩⟩
    exact ((hcore.trans hray).trans (.modGroup _)).trans (Traffic.spillHeader _ _ _).spilledOnly

/-! ## The trap -/

/-- What a precise trap makes of its fragment. -/
def Frag.trapped (f : Frag) (w : Wait) : Frag :=
  { f.shed with st := .parked w, wait := 0, woken := f.woken || w == .absent, held := none }

/-- The state in which a trap posts its record. -/
def State.trapping (s : State) (h : Here) (r : RecInfo) : State :=
  let parked := (s.park h.fid (.trap (s.recOf h r).bits (h.f.st != .ready && h.f.st != .blocked))).modFrag h.fid
    fun f => { f with held := none }
  let spilled := parked.spillRays h.core fun x => x.group == h.gid && x.phase != 0 && h.f.mask.getLsbD x.lane
  if r.cause == .hasp then spilled.countEv h.core 7 1 else spilled

theorem trapping_spilled (s : State) (h : Here) (r : RecInfo) :
    SpilledOnly ((s.park h.fid (.trap (s.recOf h r).bits (h.f.st != .ready && h.f.st != .blocked))).modFrag h.fid
      fun f => { f with held := none }) (s.trapping h r) := by
  unfold State.trapping
  extract_lets parked spilled
  have hspilled : SpilledOnly parked spilled := spillRays_only _ _
  split
  · exact hspilled.trans (Traffic.countEv _ _ _).spilledOnly
  · exact hspilled

/-- Spilling rays leaves the launch's name, so the record that is posted is the one the fragment is parked under. -/
theorem takeTrap_eq (s : State) (h : Here) (r : RecInfo) :
    s.takeTrap h r = (s.trapping h r).postBits h.t.ctx (s.recOf h r).bits := by
  have hrec : (s.trapping h r).recOf h r = s.recOf h r := by
    simp only [State.recOf, State.launchName, (trapping_spilled s h r).launches]
    rfl
  rw [← hrec]
  rfl

theorem trapping_frag (hf : s.frags.get? h.fid = some h.f) : (s.trapping h r).frags.get? h.fid =
    some (h.f.trapped (.trap (s.recOf h r).bits (h.f.st != .ready && h.f.st != .blocked))) := by
  rw [(trapping_spilled s h r).frags]
  simp [State.park, SMap.get?_modify, hf, Frag.trapped]

theorem takeTrap_regs (s : State) (h : Here) (r : RecInfo) : RegFrame h s (s.takeTrap h r) noReg := by
  intro k g hg
  rw [takeTrap_eq, (SameUnits.postBits _ _).groups]
  obtain ⟨ctr, hg'⟩ := (trapping_spilled s h r).groups k g hg
  exact ⟨_, hg', SameRegs.rfl (g := g)⟩

theorem postBits_held {cx : Nat} {c : Ctx} {b : BitVec 512} (hc : s.ctxs.get? cx = some c) (hfull : c.ringFull = true ∨ c.held ≠ []) :
    (s.postBits cx b).ctxs.get? cx = some { c with held := c.held ++ [b] } := by
  have hfull : (c.ringFull || !c.held.isEmpty) = true := by simpa using hfull
  simp [State.postBits, hc, hfull, SMap.get?_modify]

theorem enterRing_ctx {cx : Nat} {c : Ctx} (c' : Ctx) (b : BitVec 512) (hc : s.ctxs.get? cx = some c) :
    (s.enterRing cx c' b).ctxs.get? cx = some { c with ftail := c'.ftail + 1 } := by
  simp [State.enterRing, SMap.get?_modify, (Traffic.physWrite _ _ _ _).ctxs, hc]

theorem enterRing_readLE (s : State) (cx : Nat) (c : Ctx) (b : BitVec 512) :
    readLE (s.enterRing cx c b).mem (c.fring + 64 * (c.ftail.toNat % 2 ^ c.frsz)) 64 =
      (b.toNat + (c.ftail + 1).toNat * 2 ^ 32) % 256 ^ 64 := by
  exact readLE_writeLE _ _ _ _

theorem postBits_space {cx : Nat} {c : Ctx} (b : BitVec 512) (hc : s.ctxs.get? cx = some c) (hfull : c.ringFull = false)
    (hheld : c.held = []) :
    s.postBits cx b = s.enterRing cx c b := by
  simp [State.postBits, hc, hfull, hheld]

end Sys2Proof.Machine

open Sys2Proof.Machine

/-- Settles O21: the ring is written last, after the rays have been spilled. -/
theorem trapEntry : Obligations.TrapEntry := by
  unfold Obligations.TrapEntry
  intro s h r hh rec_ t seq
  have ht : t = (s.trapping h r).postBits h.t.ctx rec_ := takeTrap_eq s h r
  obtain ⟨hf, -, -, -, -, hcx, -⟩ := here_spec hh
  have hctx : (s.trapping h r).ctxs.get? h.t.ctx = some h.cx := by rw [(trapping_spilled s h r).ctxs]; exact hcx
  refine ⟨⟨h.f.trapped (.trap rec_ _), _, ?_, rfl, rfl, rfl, rfl, rfl, rfl, rfl, rfl, rfl, rfl⟩, takeTrap_regs s h r,
    fun hfull hheld => ?_, ?_⟩
  · rw [ht, (SameUnits.postBits _ _).frags]
    exact trapping_frag hf
  · rw [ht, postBits_space rec_ hctx hfull hheld, enterRing_readLE, Nat.mod_eq_of_lt (RecInfo.bits_add_seq_lt _ _)]
    exact ⟨enterRing_ctx h.cx rec_ hctx, rfl⟩
  · rw [ht]
    exact postBits_held hctx

end

section
/-! Long-latency results that land, and the entries of the side log that perform or are reported. -/

set_option Elab.async false

namespace Sys2Proof

/-- A fold keeps what its steps keep. -/
theorem foldl_keeps {α β γ : Type} (π : β → γ) {f : β → α → β} (hf : ∀ b a, π (f b a) = π b) (l : List α) (b : β) :
    π (l.foldl f b) = π b := by
  induction l generalizing b with
  | nil => rfl
  | cons a l ih => exact (ih (f b a)).trans (hf b a)

namespace SMap

theorem mem_of_get? {α : Type} {m : SMap α} {k : Nat} {v : α} (h : m.get? k = some v) : (k, v) ∈ m := by
  induction m with
  | nil => cases h
  | cons e m ih =>
    obtain ⟨k', v'⟩ := e
    rw [get?_cons] at h
    split at h
    next hk =>
      cases h
      exact hk ▸ List.mem_cons_self
    · exact List.mem_cons_of_mem _ (ih h)

theorem mem_modify {α : Type} {m : SMap α} {k : Nat} {f : α → α} {e : Nat × α} (h : e ∈ m.modify k f) :
    e ∈ m ∨ ∃ v, (k, v) ∈ m ∧ e = (k, f v) := by
  unfold modify at h
  split at h
  next v hv =>
    rcases mem_set h with he | he
    · exact .inr ⟨v, mem_of_get? hv, he⟩
    · exact .inl he
  · exact .inl h

/-- Of several values written to a key the last is read. -/
theorem getD_foldl_setD {α : Type} [DecidableEq α] (d : α) (l : List (Nat × α)) (m : SMap α) (k : Nat) :
    (l.foldl (fun m e => m.setD d e.1 e.2) m).getD d k =
      ((l.reverse.find? fun e => e.1 == k).map (·.2)).getD (m.getD d k) := by
  induction l generalizing m with
  | nil => rfl
  | cons e l ih =>
    rw [List.foldl_cons, ih, List.reverse_cons, List.find?_append, getD_setD]
    cases l.reverse.find? fun e => e.1 == k with
    | some x => rfl
    | none => by_cases hk : k = e.1 <;> simp [hk, Ne.symm]

end SMap

namespace Machine

variable {s t u : State}

/-! ## Changing several fragments -/

theorem foldl_modFrag (φ : Frag → Frag) (l : List Nat) (s : State) :
    l.foldl (fun s k => s.modFrag k φ) s = { s with frags := l.foldl (fun m k => m.modify k φ) s.frags } := by
  induction l generalizing s with
  | nil => rfl
  | cons k l ih => exact ih (s.modFrag k φ)

/-- Every fragment is as it was or has been changed, possibly more than once. -/
theorem get?_foldl_modify {R : Frag → Frag → Prop} {φ : Frag → Frag} (hrefl : ∀ f, R f f) (htrans : ∀ f g k, R f g → R g k → R f k)
    (hφ : ∀ f, R f (φ f)) (l : List Nat) (m : SMap Frag) {k : Nat} {f : Frag} (hf : m.get? k = some f) :
    ∃ f', (l.foldl (fun m k => m.modify k φ) m).get? k = some f' ∧ R f f' := by
  induction l generalizing m f with
  | nil => exact ⟨f, hf, hrefl f⟩
  | cons j l ih =>
    by_cases hj : k = j
    · obtain ⟨f', hf', hR⟩ := ih (m.modify j φ) (f := φ f) (by rw [SMap.get?_modify, if_pos hj, ← hj, hf]; rfl)
      exact ⟨f', hf', htrans _ _ _ (hφ f) hR⟩
    · exact ih (m.modify j φ) (by rw [SMap.get?_modify, if_neg hj, hf])

/-! ## Landing -/

/-- What the landing of a group's outstanding write does to a fragment: one that is blocked looks at its registers again. -/
structure Woken (f f' : Frag) : Prop where
  line : f'.line = f.line
  slot : f'.slot = f.slot
  mask : f'.mask = f.mask
  st : f'.st = f.st ∨ f.st = .blocked ∧ f'.st = .ready

theorem Woken.refl (f : Frag) : Woken f f := ⟨rfl, rfl, rfl, .inl rfl⟩

theorem Woken.trans (f g k : Frag) (h : Woken f g) (h' : Woken g k) : Woken f k where
  line := h'.line.trans h.line
  slot := h'.slot.trans h.slot
  mask := h'.mask.trans h.mask
  st := by
    rcases h.st with hs | ⟨hb, hr⟩ <;> rcases h'.st with hs' | ⟨hb', hr'⟩
    · exact .inl (hs'.trans hs)
    · exact .inr ⟨hs ▸ hb', hr'⟩
    · exact .inr ⟨hb, hs'.trans hr⟩
    · rw [hr] at hb'; cases hb'

def Frag.unblocked (f : Frag) : Frag := if f.st == .blocked then { f with st := .ready } else f

theorem Frag.unblocked_woken (f : Frag) : Woken f f.unblocked := by
  unfold Frag.unblocked
  split
  next hb => exact ⟨rfl, rfl, rfl, .inr ⟨by simpa using hb, rfl⟩⟩
  · exact .refl f

theorem unblock_eq (s : State) (gid : Nat) :
    s.unblock gid = { s with frags := (s.fragsOf gid).foldl (fun m k => m.modify k Frag.unblocked) s.frags } :=
  foldl_modFrag Frag.unblocked _ s

/-- The writes of the mask and condition registers keep every field that `π` reads. -/
theorem landVals_keeps {γ : Type} (π : Group → γ) (hk : ∀ g r x, π (Group.setK g r x) = π g) (hc : ∀ g r x, π (Group.setC g r x) = π g)
    (g : Group) (p : Pend) : π (g.landVals p) = π { g with
      v := p.vs.foldl (fun m e => m.setD 0 e.1 e.2) g.v, s := p.ss.foldl (fun m e => m.setD 0 e.1 e.2) g.s
      badV := p.vs.foldl (fun m e => m.erase e.1) g.badV
      badR := g.badR.filter fun r => !p.ss.any fun e => r == .s e.1 } :=
  (foldl_keeps (f := fun g (e : Nat × Bool) => Group.setC g e.1 e.2) π (fun g e => hc g e.1 e.2) p.cs _).trans
    (foldl_keeps (f := fun g (e : Nat × W32) => Group.setK g e.1 e.2) π (fun g e => hk g e.1 e.2) p.ks _)

theorem landVals_v (g : Group) (p : Pend) : (g.landVals p).v = p.vs.foldl (fun m e => m.setD 0 e.1 e.2) g.v :=
  landVals_keeps Group.v (fun _ _ _ => by unfold Group.setK; split <;> rfl) (fun _ _ _ => rfl) g p

theorem landVals_s (g : Group) (p : Pend) : (g.landVals p).s = p.ss.foldl (fun m e => m.setD 0 e.1 e.2) g.s :=
  landVals_keeps Group.s (fun _ _ _ => by unfold Group.setK; split <;> rfl) (fun _ _ _ => rfl) g p

theorem landVals_k (g : Group) {p : Pend} (h : p.ks = []) : (g.landVals p).k = g.k := by
  unfold Group.landVals
  rw [h]
  exact foldl_keeps (f := fun g (e : Nat × Bool) => Group.setC g e.1 e.2) Group.k (fun _ _ => rfl) _ _

theorem landVals_c (g : Group) {p : Pend} (h : p.cs = []) : (g.landVals p).c = g.c := by
  unfold Group.landVals
  rw [h]
  exact foldl_keeps (f := fun g (e : Nat × W32) => Group.setK g e.1 e.2) Group.c (fun g e => by unfold Group.setK; split <;> rfl) _ _

section
variable {gid id : Nat} {g : Group} {p : Pend} (hg : s.groups.get? gid = some g) (hp : g.pend.get? id = some p) (hpeer : p.peer = none)
include hg hp hpeer

theorem land_get : ((s.groups.get? gid).bind fun g => g.pend.get? id) = some p ∧ s.peerRead gid id p = s :=
  ⟨by rw [hg]; exact hp, by simp [State.peerRead, hpeer]⟩

theorem exec_land_waits (h : p.ready = false ∨ p.parts ≠ 0) : exec (.longLatencyWriteLand gid id) s = .next s := by
  obtain ⟨hget, hsame⟩ := land_get hg hp hpeer
  have h : (!p.ready || p.parts != 0) = true := by simpa using h
  change execLongLatencyWriteLand gid id s = _
  unfold execLongLatencyWriteLand
  simp only [hget, hsame, h, if_true]

theorem exec_land_bad (hr : p.ready = true) (h0 : p.parts = 0) (hb : p.bad = true) : exec (.longLatencyWriteLand gid id) s =
    .next ((s.modGroup gid fun g => { g with pend := g.pend.erase id }).freezeGroup gid 3) := by
  obtain ⟨hget, hsame⟩ := land_get hg hp hpeer
  change execLongLatencyWriteLand gid id s = _
  unfold execLongLatencyWriteLand
  simp [hget, hsame, hr, h0, hb]

theorem exec_land_ready (hr : p.ready = true) (h0 : p.parts = 0) (hb : p.bad = false) (hrep : p.report = none) :
    exec (.longLatencyWriteLand gid id) s =
      .next ((s.modGroup gid fun g => { g.landVals p with pend := g.pend.erase id }).unblock gid) := by
  obtain ⟨hget, hsame⟩ := land_get hg hp hpeer
  change execLongLatencyWriteLand gid id s = _
  unfold execLongLatencyWriteLand
  simp [hget, hsame, hr, h0, hb, hrep]

end

/-! ## The side log -/

namespace SameSides

theorem rfl : SameSides s s := fun _ => Eq.refl _

theorem foldl {α : Type} {f : State → α → State} (hf : ∀ s x, SameSides s (f s x)) (l : List α) (s : State) :
    SameSides s (l.foldl f s) :=
  fun k => foldl_keeps (fun s => (s.core k).side) (fun s x => hf s x k) l s

theorem atomWrite (core : Nat) (cx : Ctx) (va n x : Nat) : SameSides s (s.atomWrite core cx va n x) := by
  unfold State.atomWrite
  split
  · exact rfl
  · split
    · exact (Traffic.physWrite _ _ _ _).sides
    · exact rfl

theorem dropCopies (tid : Nat) (lines : List Nat) : SameSides s (s.dropCopies tid lines) := by
  unfold State.dropCopies
  split <;> exact rfl

theorem atomApply (core : Nat) (cx : Ctx) (tid m : Nat) (w : MemW) (a : Nat) (x : AtomArgs) :
    SameSides s (s.atomApply core cx tid m w a x).2 := by
  unfold State.atomApply
  extract_lets -lift n
  split
  · split
    · exact rfl
    · extract_lets -lift r
      split
      next y _ => exact (dropCopies tid [a / 128]).trans rfl
      · exact rfl
  next s' r _ =>
    have hs' : SameSides s s' := by
      unfold s'
      split
      · exact rfl
      · exact (Traffic.touch _ _ _ _ _).sides
    split
    · exact hs'.trans (atomWrite _ _ _ _ _)
    · exact hs'

theorem atomLanes (core : Nat) (cx : Ctx) (tid m : Nat) (w : MemW) (ops : List (Nat × Nat × AtomArgs)) :
    SameSides s (s.atomLanes core cx tid m w ops).2 :=
  fun k => foldl_keeps (fun acc : List (Nat × Nat) × State => (acc.2.core k).side) (fun _ _ => atomApply _ _ _ _ _ _ _ k) ops ([], s)

theorem logValues (gid : Nat) (w : MemW) (pend : Option Nat) (vals : List (Nat × Nat)) : SameSides s (s.logValues gid w pend vals) := by
  unfold State.logValues
  split <;> exact rfl

/-- An entry that performs leaves the side logs as they are. -/
theorem sidePerform (e : SideLog) : SameSides s (s.sidePerform e) := by
  unfold State.sidePerform
  split
  · exact rfl
  next t cx _ =>
    extract_lets report s'
    have hs' : SameSides s s' := by
      unfold s'
      split <;> exact rfl
    refine hs'.trans ?_
    split
    · exact (Traffic.putBytes _ _ _).sides
    · exact foldl (fun s x => (Traffic.touch _ _ _ _ _).sides.trans (atomWrite _ _ _ _ _)) _ _
    · exact (dropCopies _ _).trans rfl
    · exact (atomLanes _ _ _ _ _ _).trans (logValues _ _ _ _)

end SameSides

theorem sideHeads_lt {l : List SideLog} {i : Nat} {e : SideLog} (h : (i, e) ∈ sideHeads l) : i < l.length := by
  obtain ⟨x, hx, hxe⟩ := List.mem_map.mp h
  cases hxe
  have hmem : (x.1, x.2) ∈ l.zipIdx := (List.mem_filter.mp hx).1
  simpa using (List.mem_zipIdx hmem).2.1

section
variable {core i : Nat} {e : SideLog}

theorem exec_sideLogPerform (h : ((sideHeads (s.core core).side).find? fun e => (s.sideFault e.2).isNone) = some (i, e))
    (hbad : s.sideBad e = none) : exec (.sideLogPerform core true) s =
      .next ((s.modCore core fun c => { c with side := c.side.eraseIdx i }).sidePerform e) := by
  change execSideLogPerform core true s = _
  unfold execSideLogPerform
  simp only [if_true, h, hbad]

theorem exec_sideLogPerform_bad (h : ((sideHeads (s.core core).side).find? fun e => (s.sideFault e.2).isNone) = some (i, e)) {arr : Nat}
    (hbad : s.sideBad e = some arr) : exec (.sideLogPerform core true) s =
      .next (((s.modCore core fun c => { c with side := c.side.eraseIdx i }).sideVoid e).freezeGroup e.group (s.sidePa e arr).1
        (s.sidePa e arr).2) := by
  change execSideLogPerform core true s = _
  unfold execSideLogPerform
  simp only [if_true, h, hbad]

theorem exec_sideLogPerform_unmapped {d l a : Nat}
    (h : ((sideHeads (s.core core).side).findSome? fun e => (s.sideFault e.2).map fun f => (e, f)) = some ((i, e), (d, l, a))) :
    exec (.sideLogPerform core false) s =
      .next ((((s.modCore core fun c => { c with side := c.side.eraseIdx i }).sideDiscard e).postReport e.group e.frag
        { e.report with detail := d, addr := a, info := 2 ^ 63 + l + 4 }).stopGroup e.group) := by
  change execSideLogPerform core false s = _
  unfold execSideLogPerform
  simp only [Bool.false_eq_true, if_false, h]

/-- Performing an entry takes it out of its core's log. -/
theorem sidePerform_length (h : (i, e) ∈ sideHeads (s.core core).side) :
    (((s.modCore core fun c => { c with side := c.side.eraseIdx i }).sidePerform e).core core).side.length + 1 =
      (s.core core).side.length := by
  have hi := sideHeads_lt h
  rw [SameSides.sidePerform e core, core_modCore, if_pos rfl]
  dsimp only
  rw [List.length_eraseIdx_of_lt hi]
  omega

end

theorem sideVoid_mem (s : State) (e : SideLog) : (s.sideVoid e).mem = s.mem := by
  unfold State.sideVoid
  split <;> rfl

/-! ## Translations and poison do not look at a core's other units -/

section
variable {k : Nat} {f : Core → Core} (hf : ∀ c, (f c).tlb = c.tlb)
include hf

theorem xl_modCore (core : Nat) (cx : Ctx) (va : Nat) (a : AccKind) : (s.modCore k f).xl core cx va a = s.xl core cx va a := by
  have htlb : ((s.modCore k f).core core).tlb = (s.core core).tlb := by
    rw [core_modCore]
    split
    next hk => rw [hf, hk]
    · rfl
  unfold State.xl State.leafFor
  rw [htlb]
  rfl

theorem poisonAt_modCore (core : Nat) (cx : Ctx) (va n : Nat) (a : AccKind) :
    (s.modCore k f).poisonAt core cx va n a = s.poisonAt core cx va n a := by
  unfold State.poisonAt
  rw [xl_modCore hf]
  rfl

theorem atomPoison_modCore (core : Nat) (cx : Ctx) (va n : Nat) : (s.modCore k f).atomPoison core cx va n = s.atomPoison core cx va n := by
  unfold State.atomPoison State.vPoison
  rw [xl_modCore hf]
  rfl

theorem sidePa_modCore (e : SideLog) (arr : Nat) : (s.modCore k f).sidePa e arr = s.sidePa e arr := by
  unfold State.sidePa
  simp only [atomPoison_modCore hf, poisonAt_modCore hf]
  rfl

end

/-! ## Stopping a group -/

/-- The fragment stops at its next line boundary, or has stopped. -/
def Frag.Stops (f : Frag) : Prop := f.stopAt = true ∨ f.st = .parked .bound

/-- What `stopFrag` makes of a fragment. -/
def Frag.stopped (f : Frag) : Frag :=
  match f.st with
  | .ready | .blocked => if f.done == 0 then { f with st := .parked .bound, stopAt := false } else { f with stopAt := true }
  | .gone => f
  | _ => { f with stopAt := true }

theorem Frag.stopped_stops {f : Frag} (h : f.st ≠ .gone) : f.stopped.Stops := by
  unfold Frag.stopped
  split
  · split
    · exact .inr rfl
    · exact .inl rfl
  · split
    · exact .inr rfl
    · exact .inl rfl
  next hg => exact absurd hg h
  · exact .inl rfl

theorem Frag.Stops.stopped {f : Frag} (h : f.Stops) : f.stopped.Stops := by
  by_cases hg : f.st = .gone
  · unfold Frag.stopped
    rw [hg]
    exact h
  · exact stopped_stops hg

theorem stopGroup_frags (s : State) (gid : Nat) :
    (s.stopGroup gid).frags = (s.fragsOf gid).foldl (fun m k => m.modify k Frag.stopped) s.frags :=
  congrArg State.frags (foldl_modFrag Frag.stopped _ s)

theorem get?_foldl_stopped {l : List Nat} {m : SMap Frag} {k : Nat} {f : Frag} (hk : k ∈ l) (hf : m.get? k = some f)
    (hg : f.st ≠ .gone) : ∃ f', (l.foldl (fun m k => m.modify k Frag.stopped) m).get? k = some f' ∧ f'.Stops := by
  induction l generalizing m with
  | nil => cases hk
  | cons j l ih =>
    by_cases hj : k = j
    · have hstep : (m.modify j Frag.stopped).get? k = some f.stopped := by rw [SMap.get?_modify, if_pos hj, ← hj, hf]; rfl
      obtain ⟨f', hf', hs⟩ := get?_foldl_modify (R := fun f f' => f.Stops → f'.Stops) (fun _ => id) (fun _ _ _ h h' => h' ∘ h)
        (fun _ => Frag.Stops.stopped) l _ hstep
      exact ⟨f', hf', hs (Frag.stopped_stops hg)⟩
    · exact ih ((List.mem_cons.mp hk).resolve_left hj) (by rw [SMap.get?_modify, if_neg hj, hf])

/-- Every fragment of a stopped group that has not ended stops. -/
theorem stopGroup_stops {gid k : Nat} {f : Frag} (hf : s.frags.get? k = some f) (hgroup : f.group = gid) (hg : f.st ≠ .gone) :
    ∃ f', (s.stopGroup gid).frags.get? k = some f' ∧ f'.Stops := by
  have hk : k ∈ s.fragsOf gid := by
    refine List.mem_map.mpr ⟨(k, f), List.mem_filter.mpr ⟨SMap.mem_of_get? hf, ?_⟩, rfl⟩
    simp [hgroup, hg]
  rw [stopGroup_frags]
  exact get?_foldl_stopped hk hf hg

theorem postReport_frags (s : State) (gid fid : Nat) (r : Report) : (s.postReport gid fid r).frags = s.frags := by
  unfold State.postReport
  split
  · rfl
  split
  · rfl
  exact (SameUnits.postBits _ _).frags

theorem sideDiscard_frags (s : State) (e : SideLog) : (s.sideDiscard e).frags = s.frags := by
  unfold State.sideDiscard State.logValues
  split
  · dsimp only
    split <;> rfl
  · rfl

/-! ## What a landing writes -/

def Group.land (g : Group) (id : Nat) (p : Pend) : Group := { g.landVals p with pend := g.pend.erase id }

theorem landing {gid id : Nat} {g : Group} {p : Pend} (hg : s.groups.get? gid = some g) :
    ∃ t, (s.modGroup gid fun g => g.land id p).unblock gid = t ∧ SameMem s t ∧ t.groups.get? gid = some (g.land id p) ∧
      (∀ k, k ≠ gid → t.groups.get? k = s.groups.get? k) ∧
      ∀ k f, s.frags.get? k = some f → ∃ f', t.frags.get? k = some f' ∧ Woken f f' := by
  refine ⟨_, unblock_eq _ _, ⟨fun _ => rfl, fun _ => rfl, fun _ => rfl, rfl⟩, ?_, fun k hk => ?_, fun k f hf => ?_⟩
  · simp [SMap.get?_modify, hg]
  · simp [SMap.get?_modify, hk]
  · exact get?_foldl_modify Woken.refl Woken.trans Frag.unblocked_woken _ _ hf

end Machine
end Sys2Proof

open Sys2Proof Sys2Proof.Machine

/-- Settles O29: a landing rewrites one group, an entry that performs touches no side log, and a fold stops the group's fragments. -/
theorem landingAndSideLog : Obligations.LandingAndSideLog := by
  unfold Obligations.LandingAndSideLog
  refine ⟨fun s gid id g p hg hp hpeer => ⟨fun hr h0 hb hrep => ?_, exec_land_bad hg hp hpeer, exec_land_waits hg hp hpeer⟩, ?_, ?_⟩
  · obtain ⟨t, ht, hmem, hgroup, hother, hfrags⟩ := landing (id := id) (p := p) hg
    refine ⟨t, g.land id p, (exec_land_ready hg hp hpeer hr h0 hb hrep).trans (congrArg _ ht), hmem, hgroup, rfl, hother,
      fun k => ?_, fun k => ?_, landVals_k g, landVals_c g, fun k f hf => ?_⟩
    · exact (congrArg (SMap.getD · 0 k) (landVals_v g p)).trans (SMap.getD_foldl_setD 0 p.vs g.v k)
    · exact (congrArg (SMap.getD · 0 k) (landVals_s g p)).trans (SMap.getD_foldl_setD 0 p.ss g.s k)
    · obtain ⟨f', hf', hline, hslot, hmask, hst⟩ := hfrags k f hf
      exact ⟨f', hf', hline, hslot, hmask, hst⟩
  · intro s core i e u h
    refine ⟨fun hbad => ⟨exec_sideLogPerform h hbad, sidePerform_length (List.mem_of_find?_eq_some h)⟩,
      fun arr hbad => ?_, sideVoid_mem u e⟩
    have hpa : u.sidePa e arr = s.sidePa e arr :=
      sidePa_modCore (k := core) (f := fun c => { c with side := c.side.eraseIdx i }) (fun _ => rfl) e arr
    rw [hpa]
    exact exec_sideLogPerform_bad h hbad
  · intro s core i d l a e h
    refine ⟨_, exec_sideLogPerform_unmapped h, rfl, fun k f hf hgroup hgone => stopGroup_stops (f := f) ?_ hgroup hgone⟩
    rw [postReport_frags, sideDiscard_frags]
    exact hf

end

section
/-! What becomes of a trapped group: records that enter the ring, Shento's service, and the handler's Resume, Skip and Kill. -/

set_option Elab.async false

namespace Sys2Proof.Machine

variable {s t u : State} {h : Here} {fid : Nat}

/-! ## Records -/

/-- The bytes of HBM that a write changes are those of its range. -/
theorem physWrite_stored (s : State) (pa n x : Nat) : Stored s (s.physWrite 0 pa n x) (s.physBytes 0 pa n) := by
  have hmem : (s.physWrite 0 pa n x).mem = writeLE s.mem pa n x ∧ (s.physWrite 0 pa n x).hostMem = s.hostMem ∧
      (s.physWrite 0 pa n x).domMem = s.domMem := by
    by_cases hl : s.llc.isEmpty = true <;> simp [State.physWrite, State.llcWrite, hl]
  obtain ⟨hmem, hhost, hdom⟩ := hmem
  refine ⟨fun a ha => ?_, fun a _ => by rw [hhost], fun a _ => by rw [hdom]⟩
  have hout : ¬ (pa ≤ a ∧ a < pa + n) := by
    rintro ⟨h1, h2⟩
    refine ha (List.mem_map.mpr ⟨a - pa, List.mem_range.mpr (by omega), ?_⟩)
    rw [Nat.add_sub_cancel' h1]
  rw [hmem, memByte_writeLE, if_neg hout]

theorem Stored.modCtx {bs : List (Nat × Nat)} {k : Nat} {f : Ctx → Ctx} (h : Stored s t bs) : Stored s (t.modCtx k f) bs := by
  obtain ⟨hmem, hhost, hdom⟩ := h
  exact ⟨hmem, hhost, hdom⟩

theorem enterRing_stored (s : State) (cx : Nat) (c : Ctx) (b : BitVec 512) :
    Stored s (s.enterRing cx c b) (s.physBytes 0 (c.fring + 64 * (c.ftail.toNat % 2 ^ c.frsz)) 64) := by
  unfold State.enterRing
  exact (physWrite_stored _ _ _ _).modCtx

theorem consumeRecord_mem {cx : Nat} {c : Ctx} (hc : s.ctxs.get? cx = some c) (hheld : c.held = []) :
    (s.consumeRecord cx).mem = s.mem := by
  unfold State.consumeRecord
  simp only [hc, hheld]
  split <;> rfl

theorem exec_faultRecordPost {cx : Nat} {c : Ctx} {r : BitVec 512} {rest : List (BitVec 512)} (hc : s.ctxs.get? cx = some c)
    (hheld : c.held = r :: rest) (hfull : c.ringFull = false) : exec (.faultRecordPost cx) s =
      .next ((s.modCtx cx fun c => { c with held := rest }).enterRing cx { c with held := rest } r) := by
  change execFaultRecordPost cx s = _
  unfold execFaultRecordPost
  simp only [hc, hheld, hfull, Bool.false_eq_true, if_false]

/-! ## The fields of a record -/

theorem bitsN_mod {n hi : Nat} (x lo : Nat) (h : hi < n) : bitsN (x % 2 ^ n) hi lo = bitsN x hi lo := by
  refine Nat.eq_of_testBit_eq fun i => ?_
  simp only [bitsN, Nat.testBit_mod_two_pow, Nat.testBit_div_two_pow]
  by_cases hi : i < hi + 1 - lo
  · have hlt : i + lo < n := by omega
    simp [hlt]
  · simp [hi]

theorem bitsN_ofNat {n hi : Nat} (x lo : Nat) (h : hi < n) : bitsN (BitVec.ofNat n x).toNat hi lo = bitsN x hi lo := by
  rw [BitVec.toNat_ofNat, bitsN_mod x lo h]

/-- The field [hi:lo] is replaced, between what stands above and below it. -/
theorem putBits_eq {hi lo : Nat} (x v : Nat) (h : lo ≤ hi) :
    putBits x hi lo v = x / 2 ^ (hi + 1) * 2 ^ (hi + 1) + v % 2 ^ (hi + 1 - lo) * 2 ^ lo + x % 2 ^ lo := by
  have hpow : 2 ^ (hi + 1) = 2 ^ lo * 2 ^ (hi + 1 - lo) := by rw [← Nat.pow_add]; congr 1; omega
  unfold putBits bitsN
  rw [hpow, ← Nat.div_div_eq_div_mul]
  generalize 2 ^ lo = P, 2 ^ (hi + 1 - lo) = W
  have hx : x = x / P / W * (P * W) + x / P % W * P + x % P := by
    calc x = P * (x / P) + x % P := (Nat.div_add_mod x P).symm
      _ = P * (W * (x / P / W) + x / P % W) + x % P := by rw [Nat.div_add_mod (x / P) W]
      _ = x / P / W * (P * W) + x / P % W * P + x % P := by ring
  omega

theorem bitsN_putBits_self {hi lo : Nat} (x v : Nat) (h : lo ≤ hi) : bitsN (putBits x hi lo v) hi lo = v % 2 ^ (hi + 1 - lo) := by
  have hpow : 2 ^ (hi + 1) = 2 ^ (hi + 1 - lo) * 2 ^ lo := by rw [← Nat.pow_add]; congr 1; omega
  have hlow : x % 2 ^ lo < 2 ^ lo := Nat.mod_lt _ (Nat.two_pow_pos lo)
  rw [putBits_eq x v h, hpow, ← Nat.mul_assoc, ← Nat.add_mul, bitsN, Nat.add_comm, Nat.add_mul_div_right _ _ (Nat.two_pow_pos lo),
    Nat.div_eq_of_lt hlow, Nat.zero_add, Nat.mul_add_mod_self_right, Nat.mod_mod]

theorem bitsN_putBits_below {hi lo hi' : Nat} (x v lo' : Nat) (h : lo ≤ hi) (hb : hi' < lo) :
    bitsN (putBits x hi lo v) hi' lo' = bitsN x hi' lo' := by
  have hpow : 2 ^ (hi + 1) = 2 ^ (hi + 1 - lo) * 2 ^ lo := by rw [← Nat.pow_add]; congr 1; omega
  rw [← bitsN_mod (putBits x hi lo v) lo' hb, ← bitsN_mod x lo' hb, putBits_eq x v h, hpow, ← Nat.mul_assoc, ← Nat.add_mul,
    Nat.mul_add_mod_self_right, Nat.mod_mod]

theorem bitsN_putBits_above {hi lo lo' : Nat} (x v hi' : Nat) (h : lo ≤ hi) (hb : hi < lo') :
    bitsN (putBits x hi lo v) hi' lo' = bitsN x hi' lo' := by
  have hpow : 2 ^ (hi + 1) = 2 ^ (hi + 1 - lo) * 2 ^ lo := by rw [← Nat.pow_add]; congr 1; omega
  have hsplit : 2 ^ lo' = 2 ^ (hi + 1) * 2 ^ (lo' - (hi + 1)) := by rw [← Nat.pow_add]; congr 1; omega
  have hlow : x % 2 ^ lo < 2 ^ lo := Nat.mod_lt _ (Nat.two_pow_pos lo)
  have hfield : v % 2 ^ (hi + 1 - lo) + 1 ≤ 2 ^ (hi + 1 - lo) := Nat.mod_lt _ (Nat.two_pow_pos _)
  have hrest : v % 2 ^ (hi + 1 - lo) * 2 ^ lo + x % 2 ^ lo < 2 ^ (hi + 1) := by
    rw [hpow]
    have := Nat.mul_le_mul_right (2 ^ lo) hfield
    rw [Nat.add_mul] at this
    omega
  have hdiv : putBits x hi lo v / 2 ^ (hi + 1) = x / 2 ^ (hi + 1) := by
    rw [putBits_eq x v h, Nat.add_assoc, Nat.add_comm, Nat.add_mul_div_right _ _ (Nat.two_pow_pos _), Nat.div_eq_of_lt hrest,
      Nat.zero_add]
  rw [bitsN, bitsN, hsplit, ← Nat.div_div_eq_div_mul, ← Nat.div_div_eq_div_mul, hdiv]

/-- What Shento's second record keeps and changes of the first. -/
theorem protRecord_fields (r : BitVec 512) : bitsN (protRecord r).toNat 5 0 = Cause.prot.code ∧ bitsN (protRecord r).toNat 23 16 = 0 ∧
    bitsN (protRecord r).toNat 247 192 = bitsN r.toNat 247 192 := by
  unfold protRecord
  extract_lets info info'
  refine ⟨?_, ?_, ?_⟩
  · rw [bitsN_ofNat _ _ (by omega), bitsN_putBits_below _ _ _ (by omega) (by omega), bitsN_putBits_below _ _ _ (by omega) (by omega),
      bitsN_putBits_self _ _ (by omega)]
    rfl
  · rw [bitsN_ofNat _ _ (by omega), bitsN_putBits_below _ _ _ (by omega) (by omega), bitsN_putBits_self _ _ (by omega), Nat.zero_mod]
  · rw [bitsN_ofNat _ _ (by omega), bitsN_putBits_below _ _ _ (by omega) (by omega), bitsN_putBits_above _ _ _ (by omega) (by omega),
      bitsN_putBits_above _ _ _ (by omega) (by omega)]

/-! ## Shento's service -/

/-- What a resumption makes of a fragment. -/
def Frag.resumed (f : Frag) : Frag := { f.release with replay := true, stall := false, checkTm := false }

theorem resume_eq (s : State) (fid : Nat) : s.resume fid = s.modFrag fid Frag.resumed := rfl

theorem exec_xlateService_map {r : BitVec 512} {inLine : Bool} {map : List (Nat × BitVec 64)} (hh : s.hereOf fid = some h)
    (hst : h.f.st = .parked (.trap r inLine)) (hheld : r ∉ h.cx.held) (hcause : bitsN r.toNat 5 0 = Cause.xlate.code)
    (hdetail : bitsN r.toNat 23 16 = 0) (hmap : map ≠ []) :
    exec (.xlateService fid map) s = .next (((s.applyMap map).consumeRecord h.t.ctx).resume fid) := by
  change execXlateService fid map s = _
  unfold execXlateService
  simp [hh, hst, hheld, hcause, hdetail, hmap]

theorem exec_xlateService_prot {r : BitVec 512} {inLine : Bool} {map : List (Nat × BitVec 64)} (hh : s.hereOf fid = some h)
    (hst : h.f.st = .parked (.trap r inLine)) (hheld : r ∉ h.cx.held) (hcause : bitsN r.toNat 5 0 = Cause.xlate.code)
    (hno : bitsN r.toNat 23 16 ≠ 0 ∨ map = []) : exec (.xlateService fid map) s =
      .next (((s.postBits h.t.ctx (protRecord r)).consumeRecord h.t.ctx).modFrag fid
        fun f => { f with st := .parked (.trap (protRecord r) inLine) }) := by
  have hno : (bitsN r.toNat 23 16 == 0 && !map.isEmpty) = false := by
    rcases hno with hd | rfl
    · simp [hd]
    · simp
  change execXlateService fid map s = _
  unfold execXlateService
  simp [hh, hst, hheld, hcause, hno]

/-- A fragment's change after the rings and the memory have changed. -/
theorem get?_modFrag_of_sameUnits {φ : Frag → Frag} (hu : SameUnits s u) (hf : s.frags.get? fid = some h.f) :
    (u.modFrag fid φ).groups = s.groups ∧ (u.modFrag fid φ).frags.get? fid = some (φ h.f) := by
  rw [State.modFrag_groups, State.modFrag_frags, SMap.get?_modify, hu.frags, hu.groups, if_pos rfl, hf]
  exact ⟨rfl, rfl⟩

/-! ## Resume -/

theorem forgetLatches_eq (s : State) (gid : Nat) : s.forgetLatches gid =
    { s with frags := (s.fragsOf gid).foldl (fun m k => m.modify k fun f => { f with lost := [] }) s.frags } :=
  foldl_modFrag _ _ s

/-- The same fragment, but for its lost latches. -/
def SameButLost (f f' : Frag) : Prop := ∃ lost, f' = { f with lost := lost }

theorem SameButLost.refl (f : Frag) : SameButLost f f := ⟨f.lost, rfl⟩

theorem SameButLost.trans (f g k : Frag) (h : SameButLost f g) (h' : SameButLost g k) : SameButLost f k := by
  obtain ⟨l, rfl⟩ := h
  obtain ⟨l', rfl⟩ := h'
  exact ⟨l', rfl⟩

/-- The edits of a parked fragment change its signature alone. -/
theorem foldl_edit (edits : List RegEdit) (f : Frag) : ∃ sig, edits.foldl Frag.edit f = { f with sig := sig } := by
  induction edits generalizing f with
  | nil => exact ⟨f.sig, rfl⟩
  | cons e edits ih =>
    obtain ⟨sig, hsig⟩ := ih (f.edit e)
    refine ⟨sig, hsig.trans ?_⟩
    cases e <;> rfl

/-- The state in which a Resume lets its fragment or its team go on. -/
def State.edited (s : State) (h : Here) (fid : Nat) (edits : List RegEdit) : State :=
  let s := ((s.modGroup h.gid fun g => edits.foldl (Group.edit h.f.uid) g).modFrag fid fun f => edits.foldl Frag.edit f).consumeRecord h.t.ctx
  if edits.isEmpty then s else s.forgetLatches h.gid

theorem exec_trapResume {edits : List RegEdit} (hh : s.hereOf fid = some h) (hw : h.withHandler = true) :
    exec (.trapResume fid edits) s = .next
      (if h.f.st = .parked .halt then (s.edited h fid edits).releaseHalt h.tid else (s.edited h fid edits).resume fid) := by
  change execTrapResume fid edits s = _
  unfold execTrapResume
  simp only [hh, hw, Bool.not_true, Bool.false_eq_true, if_false]
  split
  next hst => rw [if_pos hst]; rfl
  next hst => rw [if_neg hst]; rfl

theorem edited_groups {edits : List RegEdit} (hh : s.hereOf fid = some h) :
    (s.edited h fid edits).groups.get? h.gid = some (edits.foldl (Group.edit h.f.uid) h.g) := by
  obtain ⟨-, -, -, -, hg, -⟩ := hereOf_eq_some.mp hh
  have hconsumed := (SameUnits.consumeRecord (s := (s.modGroup h.gid fun g => edits.foldl (Group.edit h.f.uid) g).modFrag fid
    fun f => edits.foldl Frag.edit f) h.t.ctx).groups
  unfold State.edited
  extract_lets u
  have hu : u.groups.get? h.gid = some (edits.foldl (Group.edit h.f.uid) h.g) := by
    rw [hconsumed]
    simp [SMap.get?_modify, hg]
  split
  · exact hu
  · rw [forgetLatches_eq]
    exact hu

theorem edited_frags {edits : List RegEdit} (hh : s.hereOf fid = some h) :
    ∃ f, (s.edited h fid edits).frags.get? fid = some f ∧ SameButLost (edits.foldl Frag.edit h.f) f := by
  obtain ⟨-, -, -, hf, -⟩ := hereOf_eq_some.mp hh
  have hconsumed := (SameUnits.consumeRecord (s := (s.modGroup h.gid fun g => edits.foldl (Group.edit h.f.uid) g).modFrag fid
    fun f => edits.foldl Frag.edit f) h.t.ctx).frags
  unfold State.edited
  extract_lets u
  have hu : u.frags.get? fid = some (edits.foldl Frag.edit h.f) := by
    rw [hconsumed]
    simp [SMap.get?_modify, hf]
  split
  · exact ⟨_, hu, .refl _⟩
  · rw [forgetLatches_eq]
    exact get?_foldl_modify SameButLost.refl SameButLost.trans (fun f => ⟨[], rfl⟩) _ _ hu

theorem edited_teams {edits : List RegEdit} : (s.edited h fid edits).teams = s.teams := by
  unfold State.edited
  extract_lets u
  have hu : u.teams = s.teams := (SameUnits.consumeRecord _).teams
  split
  · exact hu
  · rw [forgetLatches_eq]
    exact hu

/-- What a released HALT does to a fragment of its team. -/
def Frag.unhalted (f : Frag) : Frag :=
  match f.st with
  | .parked .halt => f.release
  | _ => f

theorem releaseHalt_team {tid : Nat} {x : Team} (hx : s.teams.get? tid = some x) :
    (s.releaseHalt tid).teams.get? tid = some { x with haltedBy := none } := by
  have hteams : (s.releaseHalt tid).teams = (s.modTeam tid fun t => { t with haltedBy := none }).teams :=
    foldl_keeps State.teams (f := fun s k => s.modFrag k Frag.unhalted) (fun _ _ => rfl) _ _
  rw [hteams]
  simp [SMap.get?_modify, hx]

theorem releaseHalt_groups (s : State) (tid : Nat) : (s.releaseHalt tid).groups = s.groups :=
  foldl_keeps State.groups (f := fun s k => s.modFrag k Frag.unhalted) (fun _ _ => rfl) _ _

/-! ## Skip -/

/-- What a Skip makes of its fragment, the skipped word being `w` where it is known. -/
def Frag.skipped (w : Option Fields) (f : Frag) : Frag :=
  Frag.skipSlot (match w with
    | some w => if noSig w.op.toNat then f else { f with sig := sigUpdate f.sig w }
    | none => f)

theorem exec_trapSkip {r : BitVec 512} {inLine : Bool} (hh : s.hereOf fid = some h) (hw : h.withHandler = true)
    (hst : h.f.st = .parked (.trap r inLine)) : exec (.trapSkip fid) s =
      .next ((s.consumeRecord h.t.ctx).modFrag fid (Frag.skipped ((s.consumeRecord h.t.ctx).slotWord h inLine))) := by
  change execTrapSkip fid s = _
  unfold execTrapSkip
  simp only [hh, hw, Bool.not_true, Bool.false_eq_true, if_false, hst]
  rfl

theorem Frag.skipSlot_spec (f : Frag) : f.skipSlot.mask = f.mask ∧
    f.skipSlot.st = (if f.slot.val < 4 ∨ (f.stopAt = false ∧ f.hold = false) then .ready else .parked .bound) ∧
    f.skipSlot.line = (if f.slot.val < 4 then f.line else f.line + 64) ∧
    f.skipSlot.slot.val = (if f.slot.val < 4 then f.slot.val + 1 else 0) ∧ f.skipSlot.sig = f.sig := by
  unfold Frag.skipSlot
  by_cases hlt : f.slot.val < 4
  · have hnext : (f.slot + 1).val = f.slot.val + 1 := by
      rw [Fin.val_add]
      exact Nat.mod_eq_of_lt (by simp; omega)
    simp [hlt, hnext]
  · cases hs : f.stopAt <;> cases hh : f.hold <;> simp [hlt, Frag.leave, hs, hh]

theorem Frag.skipped_spec (w : Option Fields) (f : Frag) : (f.skipped w).mask = f.mask ∧
    (f.skipped w).st = (if f.slot.val < 4 ∨ (f.stopAt = false ∧ f.hold = false) then .ready else .parked .bound) ∧
    (f.skipped w).line = (if f.slot.val < 4 then f.line else f.line + 64) ∧
    (f.skipped w).slot.val = (if f.slot.val < 4 then f.slot.val + 1 else 0) ∧
    (f.skipped w).sig = match w with
      | some w => if noSig w.op.toNat then f.sig else sigUpdate f.sig w
      | none => f.sig := by
  unfold Frag.skipped
  cases w with
  | none => exact f.skipSlot_spec
  | some w =>
    dsimp only
    split
    · exact f.skipSlot_spec
    · exact Frag.skipSlot_spec { f with sig := sigUpdate f.sig w }

/-! ## Kill -/

/-- Every fragment is of a group that had one, and every group of the team it was of. -/
structure NoNewMembers (s t : State) : Prop where
  frags : ∀ e ∈ t.frags, ∃ e' ∈ s.frags, e'.2.group = e.2.group
  groups : ∀ e ∈ t.groups, ∃ e' ∈ s.groups, e'.1 = e.1 ∧ e'.2.team = e.2.team

namespace NoNewMembers

theorem of_eq (hf : t.frags = s.frags) (hg : t.groups = s.groups) : NoNewMembers s t :=
  ⟨fun e he => ⟨e, hf ▸ he, rfl⟩, fun e he => ⟨e, hg ▸ he, rfl, rfl⟩⟩

theorem refl : NoNewMembers s s := of_eq rfl rfl

theorem of_sameUnits (h : SameUnits s t) : NoNewMembers s t := of_eq h.frags h.groups

theorem trans (h : NoNewMembers s t) (h' : NoNewMembers t u) : NoNewMembers s u where
  frags e he := by
    obtain ⟨e', he', hg'⟩ := h'.frags e he
    obtain ⟨e'', he'', hg''⟩ := h.frags e' he'
    exact ⟨e'', he'', hg''.trans hg'⟩
  groups e he := by
    obtain ⟨e', he', hk', ht'⟩ := h'.groups e he
    obtain ⟨e'', he'', hk'', ht''⟩ := h.groups e' he'
    exact ⟨e'', he'', hk''.trans hk', ht''.trans ht'⟩

theorem foldl {α : Type} {f : State → α → State} (hf : ∀ s x, NoNewMembers s (f s x)) (l : List α) (s : State) :
    NoNewMembers s (l.foldl f s) := by
  induction l generalizing s with
  | nil => exact refl
  | cons x l ih => exact (hf s x).trans (ih (f s x))

theorem modFrag {k : Nat} {φ : Frag → Frag} (hφ : ∀ f, (φ f).group = f.group) : NoNewMembers s (s.modFrag k φ) where
  frags e he := by
    rcases SMap.mem_modify he with he | ⟨f, hf, rfl⟩
    · exact ⟨e, he, rfl⟩
    · exact ⟨(k, f), hf, (hφ f).symm⟩
  groups e he := ⟨e, he, rfl, rfl⟩

theorem modGroup {k : Nat} {φ : Group → Group} (hφ : ∀ g, (φ g).team = g.team) : NoNewMembers s (s.modGroup k φ) where
  frags e he := ⟨e, he, rfl⟩
  groups e he := by
    rcases SMap.mem_modify he with he | ⟨g, hg, rfl⟩
    · exact ⟨e, he, rfl, rfl⟩
    · exact ⟨(k, g), hg, rfl, (hφ g).symm⟩

theorem account (fid gid : Nat) (f : Fields) : NoNewMembers s (s.account fid gid f) := by
  unfold State.account
  extract_lets op u
  have hu : NoNewMembers s u := by
    unfold u
    split
    · exact refl
    · exact modFrag fun _ => rfl
  split
  · exact hu.trans (modGroup fun _ => rfl)
  · exact hu

theorem advance_group (f : Frag) : f.mark.advance.group = f.group := (Frag.advance_spec f.mark).1

theorem finishParked (fid : Nat) : NoNewMembers s (s.finishParked fid) := by
  unfold State.finishParked
  split
  · exact refl
  · refine (account _ _ _).trans (modFrag fun f => ?_)
    dsimp only
    split <;> exact advance_group f

theorem setFlag (gid : Nat) (dst : Opnd) (x : Bool) : NoNewMembers s (s.setFlag gid dst x) := by
  unfold State.setFlag
  split
  · exact modGroup fun _ => rfl
  · exact refl

theorem answer (fid : Nat) (x : Bool) : NoNewMembers s (s.answer fid x) := by
  unfold State.answer
  split
  · exact refl
  · exact (setFlag _ _ _).trans (finishParked _)

theorem serve (key : Nat) : NoNewMembers s (s.serve key) := by
  unfold State.serve
  split
  · exact refl
  · split
    · extract_lets r u
      have hu : NoNewMembers s u := of_eq rfl rfl
      exact hu.trans (foldl (fun _ _ => answer _ _) _ _)
    · exact refl

theorem withdraw (fid : Nat) : NoNewMembers s (s.withdraw fid) := by
  have hobjs {objs : SMap Obj} : NoNewMembers s { s with objs := objs } := of_eq rfl rfl
  unfold State.withdraw
  split
  · exact hobjs.trans (serve _)
  · exact hobjs.trans (serve _)
  · exact refl

theorem settleOnce (key : Nat) : NoNewMembers s (s.settleOnce key) := by
  unfold State.settleOnce
  extract_lets c counted groups late
  split
  next u _ =>
    have hu : NoNewMembers s u := of_eq rfl rfl
    exact hu.trans (foldl (fun _ _ => finishParked _) _ _)
  · exact refl

theorem leaveCluster (tid : Nat) : NoNewMembers s (s.leaveCluster tid) := by
  have hteams {f : Team → Team} : NoNewMembers s (s.modTeam tid f) := of_eq rfl rfl
  unfold State.leaveCluster
  split
  · exact refl
  · split
    · exact refl
    · exact (hteams.trans (settleOnce _)).trans (settleOnce _)

end NoNewMembers

/-- A team to be killed after its waits are withdrawn and its spill records cleared. -/
def State.withdrawTeam (s : State) (tid : Nat) : State :=
  let gs := s.groupsOf tid
  let s := ((s.frags.filter fun e => gs.contains e.2.group).map (·.1)).foldl (fun s k => s.withdraw k) s
  (s.spilled.filter fun e => gs.contains (e.1 / 32)).foldl (fun s e => s.clearSpill (e.1 / 32) (e.1 % 32)) s

/-- The fragments of groups `gs` end. -/
def State.endFrags (s : State) (gs : List Nat) : State :=
  { s with
    frags := s.frags.filterE fun _ f => !gs.contains f.group
    spilled := s.spilled.filterE fun k _ => !gs.contains (k / 32)
    savedRays := s.savedRays.filter fun k => !gs.contains (k / 32) }

/-- What groups `gs` of a team on a core have outstanding is dropped. -/
def State.dropWork (s : State) (gs : List Nat) (core tid : Nat) : State :=
  ((gs.foldl (fun s g => s.modGroup g fun x => { x with pend := [], fps := [] }) s).modCore core fun c =>
    { c with
      rays := c.rays.filterE fun _ r => !gs.contains r.group
      travCmds := c.travCmds.filterE fun _ r => !gs.contains r.group
      nevals := c.nevals.filterE fun _ r => !gs.contains r.group }).modTeam tid fun t => { t with claims := [], haltedBy := none }

theorem killTeam_eq {tid : Nat} {x : Team} (hx : s.teams.get? tid = some x) : s.killTeam tid =
    (((s.withdrawTeam tid).endFrags (s.groupsOf tid)).dropWork (s.groupsOf tid) x.core tid).leaveCluster tid := by
  unfold State.killTeam
  rw [hx]
  rfl

theorem withdrawTeam_members (s : State) (tid : Nat) : NoNewMembers s (s.withdrawTeam tid) := by
  unfold State.withdrawTeam
  exact (NoNewMembers.foldl (fun _ _ => .withdraw _) _ _).trans
    (.foldl (fun _ _ => .of_sameUnits (Traffic.clearSpill _ _).toSameUnits) _ _)

theorem endFrags_members (s : State) (gs : List Nat) : NoNewMembers s (s.endFrags gs) :=
  ⟨fun e he => ⟨e, (List.mem_filter.mp he).1, rfl⟩, fun e he => ⟨e, he, rfl, rfl⟩⟩

theorem dropWork_members (s : State) (gs : List Nat) (core tid : Nat) : NoNewMembers s (s.dropWork gs core tid) := by
  have hgroups : NoNewMembers s (gs.foldl (fun s g => s.modGroup g fun x => { x with pend := [], fps := [] }) s) :=
    .foldl (f := fun s g => s.modGroup g fun x => { x with pend := [], fps := [] }) (fun _ _ => .modGroup fun _ => rfl) gs s
  exact hgroups.trans (.of_eq rfl rfl)

/-- A killed team has no fragment left. -/
theorem killTeam_members {tid : Nat} {x : Team} (hx : s.teams.get? tid = some x) : NoNewMembers s (s.killTeam tid) ∧
    ∀ e ∈ (s.killTeam tid).frags, e.2.group ∉ s.groupsOf tid := by
  rw [killTeam_eq hx]
  have hrest := (dropWork_members ((s.withdrawTeam tid).endFrags (s.groupsOf tid)) (s.groupsOf tid) x.core tid).trans (.leaveCluster tid)
  refine ⟨((withdrawTeam_members s tid).trans (endFrags_members _ _)).trans hrest, fun e he hmem => ?_⟩
  obtain ⟨e', he', hgroup⟩ := hrest.frags e he
  have hout := (List.mem_filter.mp he').2
  simp [hgroup, hmem] at hout

theorem killAny_members {tid : Nat} {x : Team} (hx : s.teams.get? tid = some x) : NoNewMembers s (s.killAny tid) ∧
    ∀ e ∈ (s.killAny tid).frags, e.2.group ∉ s.groupsOf tid := by
  obtain ⟨hno, hout⟩ := killTeam_members hx
  exact ⟨hno.trans (.of_eq rfl rfl), hout⟩

theorem mem_groupsOf {tid k : Nat} : k ∈ s.groupsOf tid ↔ ∃ e ∈ s.groups, e.1 = k ∧ e.2.team = tid := by
  simp only [State.groupsOf, List.mem_map, List.mem_filter, beq_iff_eq]
  exact ⟨fun ⟨e, ⟨he, ht⟩, hk⟩ => ⟨e, he, hk, ht⟩, fun ⟨e, he, hk, ht⟩ => ⟨e, ⟨he, ht⟩, hk⟩⟩

theorem not_live_of_no_frag {k : Nat} (h : ∀ e ∈ s.frags, e.2.group ≠ k) : s.live k = false := by
  have hnil : s.fragsOf k = [] := by
    refine List.map_eq_nil_iff.mpr (List.filter_eq_nil_iff.mpr fun e he => ?_)
    simp [h e he]
  simp [State.live, hnil]

/-- After a kill no group of the team is live. -/
theorem killAny_liveGroups {tid : Nat} {x : Team} (hx : s.teams.get? tid = some x) : (s.killAny tid).liveGroups tid = [] := by
  obtain ⟨hno, hout⟩ := killAny_members hx
  refine List.filter_eq_nil_iff.mpr fun k hk => ?_
  obtain ⟨e, he, hkey, hteam⟩ := mem_groupsOf.mp hk
  obtain ⟨e', he', hkey', hteam'⟩ := hno.groups e he
  have hmem : k ∈ s.groupsOf tid := mem_groupsOf.mpr ⟨e', he', hkey'.trans hkey, hteam'.trans hteam⟩
  rw [not_live_of_no_frag fun e he hg => hout e he (hg ▸ hmem)]
  exact Bool.false_ne_true

theorem exec_trapKill (hh : s.hereOf fid = some h) (hw : h.withHandler = true) :
    exec (.trapKill fid) s = .next ((s.consumeRecord h.t.ctx).killAny h.tid) := by
  change execTrapKill fid s = _
  unfold execTrapKill
  simp only [hh, hw, if_true]

end Sys2Proof.Machine

open Sys2Proof Sys2Proof.Machine

/-- Settles O52: the rings leave fragments, groups and teams; a kill leaves no fragment of the team, and none appears. -/
theorem trapHandling : Obligations.TrapHandling := by
  unfold Obligations.TrapHandling
  refine ⟨?_, ?_, ?_⟩
  · intro s ctx c r rest hc hheld hfull
    have hunits : SameUnits s ((s.modCtx ctx fun c => { c with held := rest }).enterRing ctx { c with held := rest } r) :=
      SameUnits.modCtx.trans (.enterRing _ _ _)
    have hctx : (s.modCtx ctx fun c => { c with held := rest }).ctxs.get? ctx = some { c with held := rest } := by
      simp [SMap.get?_modify, hc]
    exact ⟨_, exec_faultRecordPost hc hheld hfull, hunits.groups, hunits.frags, enterRing_ctx { c with held := rest } r hctx,
      enterRing_readLE _ ctx { c with held := rest } r,
      enterRing_stored (s.modCtx ctx fun c => { c with held := rest }) ctx { c with held := rest } r⟩
  · intro s fid h r inLine map hh hst hheld hcause kept
    obtain ⟨-, -, -, hf, -, -, hcx⟩ := hereOf_eq_some.mp hh
    refine ⟨fun hdetail hmap => ?_, fun hno => ?_⟩
    · have hmapped : Traffic s (s.applyMap map) := .applyMap map
      obtain ⟨hgroups, hfrag⟩ := get?_modFrag_of_sameUnits (φ := Frag.resumed) (hmapped.toSameUnits.trans (.consumeRecord h.t.ctx)) hf
      exact ⟨_, ⟨exec_xlateService_map hh hst hheld hcause hdetail hmap, hgroups, _, hfrag, rfl, rfl, rfl, rfl⟩,
        fun hno => consumeRecord_mem (hmapped.ctxs ▸ hcx) hno⟩
    · obtain ⟨hprot, hzero, haddr⟩ := protRecord_fields r
      obtain ⟨hgroups, hfrag⟩ := get?_modFrag_of_sameUnits (φ := fun f => { f with st := .parked (.trap (protRecord r) inLine) })
        ((SameUnits.postBits h.t.ctx (protRecord r)).trans (.consumeRecord h.t.ctx)) hf
      exact ⟨_, protRecord r, ⟨exec_xlateService_prot hh hst hheld hcause hno, hgroups, _, hfrag, rfl, rfl, rfl, rfl⟩,
        hprot, hzero, haddr⟩
  · intro s fid h edits hh hw
    obtain ⟨-, -, -, hf, -, ht, -⟩ := hereOf_eq_some.mp hh
    refine ⟨?_, fun r inLine hst => ?_, ?_⟩
    · obtain ⟨f, hfrag, lost, rfl⟩ := edited_frags (edits := edits) hh
      obtain ⟨sig, hsig⟩ := foldl_edit edits h.f
      refine ⟨_, _, exec_trapResume hh hw, ?_, rfl, fun hst => ?_, fun hst => ?_⟩
      · split
        · rw [releaseHalt_groups]
          exact edited_groups hh
        · exact edited_groups hh
      · rw [if_neg hst, resume_eq, State.modFrag_frags, SMap.get?_modify, if_pos rfl, hfrag, hsig]
        exact ⟨_, rfl, rfl, rfl, rfl, rfl, rfl, rfl⟩
      · rw [if_pos hst]
        exact ⟨_, releaseHalt_team (edited_teams ▸ ht), rfl⟩
    · obtain ⟨hgroups, hfrag⟩ := get?_modFrag_of_sameUnits
        (φ := Frag.skipped ((s.consumeRecord h.t.ctx).slotWord h inLine)) (SameUnits.consumeRecord h.t.ctx) hf
      exact ⟨_, _, exec_trapSkip hh hw hst, hgroups, hfrag, Frag.skipped_spec _ h.f⟩
    · have hconsumed : SameUnits s (s.consumeRecord h.t.ctx) := .consumeRecord _
      have hteam : (s.consumeRecord h.t.ctx).teams.get? h.tid = some h.t := hconsumed.teams ▸ ht
      refine ⟨_, exec_trapKill hh hw, fun e he hteam' => ?_, killAny_liveGroups hteam⟩
      obtain ⟨g, hg, hgt⟩ := Option.map_eq_some_iff.mp hteam'
      refine (killAny_members hteam).2 e he (mem_groupsOf.mpr ⟨(e.2.group, g), ?_, rfl, hgt⟩)
      rw [hconsumed.groups]
      exact SMap.mem_of_get? hg

end

section
/-! What a float or conversion row writes (spec/06 R110): its results under the guard, or once into a scalar register, and its flags. -/

set_option Elab.async false

namespace Sys2Proof.Machine

variable {i : Instr} {h : Here} {s : State} {w : AluW} {m : Nat}

/-- No row of formats R and I closes a region (spec/26 R418). -/
theorem closesRegion_alu (hi : i.aluMajor = some (m, w)) : closesRegion (fieldsOf i).op.toNat = false := by
  obtain ⟨mk, hmk, -⟩ := aluCtor_of_row hi
  have hop : (fieldsOf i).op.toNat = m := by rw [fieldsOf_alu hi, encodeAlu_eq, toNat_op (aluCtor_major hmk).2]
  rw [hop]
  unfold aluCtor at hmk
  split at hmk <;> cases hmk <;> rfl

/-! ## Float results -/

/-- The row, when it runs, writes the results `r` of a float entry and raises their flags. -/
def PutsFloat (i : Instr) (h : Here) (s : State) (w : AluW) (r : Nat → Nat × Nat) : Prop :=
  Runs i h s → Writes i h s (floatResult h w r) (floatFlags h w r)

/-- The row's own effect gives the results, `r` of the fragment that runs it. A use is elaborated on its own, `(putsFloat i rfl rfl :)`:
the second `rfl` runs the row, and the results found are then compared with those of the clause. -/
theorem putsFloat (i : Instr) {r : Here → Nat → Nat × Nat} (hi : i.aluMajor = some (m, w))
    (he : exec i s = runSlot i (fun h s => .done (s.putF h w (r h))) s) : PutsFloat i h s w (r h) :=
  fun hr => writes_putF hr he rfl (closesRegion_alu hi)

theorem PutsFloat.congr {r r' : Nat → Nat × Nat} (hp : PutsFloat i h s w r) (h' : ∀ l, r l = r' l) : PutsFloat i h s w r' :=
  funext h' ▸ hp

/-! ## Comparisons -/

theorem State.putCmp_flag {d : Fin 8} (hd : w.dst = .c d) (r : Nat → Bool × Nat) :
    s.putCmp h w r = (s.writeC h w.dst w.ws (r 0).1).raise h.gid (r 0).2 := by
  simp only [State.putCmp, hd]

theorem State.putCmp_mask (hd : ∀ d, w.dst ≠ .c d) (r : Nat → Bool × Nat) : s.putCmp h w r =
    (s.writeK h w.dst w.ws (h.active w.g w.gn) (maskOf fun l => (h.active w.g w.gn).getLsbD l && (r l).1)).raise h.gid
      (foldLanes (h.active w.g w.gn) 0 fun a l => a ||| (r l).2) := by
  unfold State.putCmp
  split
  case h_1 d h' => exact absurd h' (hd d)
  case h_2 => rfl

theorem cmpResult_flag {d : Fin 8} (hd : w.dst = .c d) (r : Nat → Bool) : cmpResult h w r = .flag w.dst w.ws (r 0) := by
  simp only [cmpResult, hd]

theorem cmpResult_mask (hd : ∀ d, w.dst ≠ .c d) (r : Nat → Bool) : cmpResult h w r =
    .mask w.dst w.ws (h.active w.g w.gn) (maskOf fun l => (h.active w.g w.gn).getLsbD l && r l) := by
  unfold cmpResult
  split
  case h_1 d h' => exact absurd h' (hd d)
  case h_2 => rfl

theorem cmpFlags_flag {d : Fin 8} (hd : w.dst = .c d) (r : Nat → Bool × Nat) : cmpFlags h w r = (r 0).2 := by
  simp only [cmpFlags, hd]

theorem cmpFlags_mask (hd : ∀ d, w.dst ≠ .c d) (r : Nat → Bool × Nat) : cmpFlags h w r =
    foldLanes (h.active w.g w.gn) 0 fun a l => a ||| (r l).2 := by
  unfold cmpFlags
  split
  case h_1 d h' => exact absurd h' (hd d)
  case h_2 => rfl

/-- A comparison and its flags: a flag register takes the one result, any other destination the mask bits (spec/05 R94). -/
theorem State.putCmp_landed (hh : s.here = some h) (w : AluW) (r : Nat → Bool × Nat) :
    ∃ g, Landed h s (s.putCmp h w r) g ∧ Holds h (cmpResult h w fun l => (r l).1) (cmpFlags h w r) g := by
  by_cases hd : ∃ d, w.dst = .c d
  · obtain ⟨d, hd⟩ := hd
    rw [State.putCmp_flag hd, cmpResult_flag hd, cmpFlags_flag hd]
    obtain ⟨g, hl, hg⟩ := State.writeC_landed hh w.dst w.ws (r 0).1
    exact State.raise_landed hl hg _
  · have hd := not_exists.mp hd
    rw [State.putCmp_mask hd, cmpResult_mask hd, cmpFlags_mask hd]
    obtain ⟨g, hl, hg⟩ := State.writeK_landed hh w.dst w.ws (h.active w.g w.gn)
      (maskOf fun l => (h.active w.g w.gn).getLsbD l && (r l).1)
    exact State.raise_landed hl hg _

theorem writes_putCmp (i : Instr) {r : Here → Nat → Bool × Nat} (hi : i.aluMajor = some (m, w))
    (he : exec i s = runSlot i (fun h s => .done (s.putCmp h w (r h))) s) (hr : Runs i h s) :
    Writes i h s (cmpResult h w fun l => (r h l).1) (cmpFlags h w (r h)) :=
  let ⟨_, hl, hg⟩ := State.putCmp_landed hr.here w (r h)
  writes_of hr he rfl hl hg (closesRegion_alu hi)

/-! ## The special values of the quotients and roots (R120) -/

variable (f : Fmt) (md : Mode) (sat ftz n n' : Bool) {k : Nat} (e e' : Int)

theorem Fmt.div_zero (hk : k ≠ 0) : f.div md sat ftz (.fin n k e) (.fin n' 0 e') = (f.inf (n != n'), flDZ) :=
  if_neg (by simpa using hk)

theorem Fmt.zero_div_zero : f.div md sat ftz (.fin n 0 e) (.fin n' 0 e') = (f.nan, flNV) := rfl

theorem Fmt.inf_div_inf : f.div md sat ftz (.inf n) (.inf n') = (f.nan, flNV) := rfl

theorem Fmt.sqrt_neg (hk : k ≠ 0) : f.sqrt md sat ftz (.fin true k e) = (f.nan, flNV) := by
  simp [Fmt.sqrt, hk]

theorem Fmt.sqrt_zero : f.sqrt md sat ftz (.fin n 0 e) = (f.signBit n, 0) := rfl

theorem Fmt.rsqrt_zero : f.rsqrt md sat ftz (.fin n 0 e) = (f.inf n, flDZ) := rfl

theorem Fmt.rsqrt_neg (hk : k ≠ 0) : f.rsqrt md sat ftz (.fin true k e) = (f.nan, flNV) := by
  simp [Fmt.rsqrt, hk]

end Sys2Proof.Machine

open Sys2Proof Sys2Proof.Machine

/-- Settles O14: each row's effect is one write of float results or of a comparison, and the special values are branches of the
quotient and the roots. -/
theorem floatArithmetic : Obligations.FloatArithmetic := by
  unfold Obligations.FloatArithmetic
  refine ⟨fun s h w => ?sums, fun s h w => ?others, fun s h w => ?quotients, fun f md sat ftz n n' k e e' hk => ?special⟩
  case sums =>
    exact ⟨(putsFloat (.fadd w) rfl rfl :), (putsFloat (.fsub w) rfl rfl :), (putsFloat (.fmul w) rfl rfl :),
      (putsFloat (.ffma w) rfl rfl :), (putsFloat (.fdp2 w) rfl rfl :), (putsFloat (.fdp4 w) rfl rfl :)⟩
  case others =>
    refine ⟨(putsFloat (.fmin w) rfl rfl :), (putsFloat (.fmax w) rfl rfl :), (writes_putCmp (.fcmp w) rfl rfl :),
      (putsFloat (.fclass w) rfl rfl :), (putsFloat (.frnd w) rfl rfl :), (putsFloat (.fcopys w) rfl rfl :),
      (putsFloat (.fldexp w) rfl rfl :), fun hexp => ?_, fun hfrac => ?_⟩
    · exact (putsFloat (.ffrexp w) rfl rfl).congr fun l => if_pos hexp
    · refine (putsFloat (.ffrexp w) rfl rfl).congr fun l => (if_neg (Bool.eq_false_iff.mp hfrac)).trans ?_
      cases h.fb w l <;> rfl
  case quotients =>
    exact ⟨(putsFloat (.frcp w) rfl rfl :), (putsFloat (.fdiv w) rfl rfl :), (putsFloat (.fsqrt w) rfl rfl :),
      (putsFloat (.frsq w) rfl rfl :), (putsFloat (.fexp2 w) rfl rfl :), (putsFloat (.flog2 w) rfl rfl :),
      (putsFloat (.fsin w) rfl rfl :), (putsFloat (.fcos w) rfl rfl :)⟩
  case special =>
    exact ⟨f.div_zero md sat ftz n n' e e' hk, f.zero_div_zero md sat ftz n n' e e', f.inf_div_inf md sat ftz n n',
      f.sqrt_neg md sat ftz e hk, f.sqrt_zero md sat ftz n e, f.rsqrt_zero md sat ftz n e, f.rsqrt_neg md sat ftz e hk⟩

end

section
/-! Conversions, block quantisation and random words (spec/06 R125 to R134): QPACK writes a whole block whatever its guard, the other
rows write float results. -/

set_option Elab.async false

namespace Sys2Proof.Machine

variable {h : Here} {s : State} {w : AluW}

/-- The block that QPACK forms from the lanes of SRCA: an active lane gives its element, an inactive one +0 (R130). -/
def Here.packed (h : Here) (w : AluW) : E2Block :=
  qpackBlock
    ((List.range 32).map fun l =>
      if (h.active w.g w.gn).getLsbD l then Fmt.f32.dec (fsrFtz h.g.fsr) (h.src32 w.a 0 l) else .fin false 0 0)
    (w.xm.toNat / 256 % 4) (h.src64 w.b 0 0 % 256) (h.md w)

/-- With an active lane QPACK writes every lane of its destination, and raises the block's flags. -/
theorem writes_qpack (hr : Runs (.qpack w) h s) (hact : h.active w.g w.gn ≠ 0) :
    Writes (.qpack w) h s (.vec w.dst w.ws false 0xFFFFFFFF (h.packed w).lane) (h.packed w).flags := by
  obtain ⟨g, hl, hg⟩ := State.writeVec_landed hr.here w.dst w.ws false 0xFFFFFFFF (h.packed w).lane
  obtain ⟨g', hl', hg'⟩ := State.raise_landed hl hg (h.packed w).flags
  have hrow : exec (.qpack w) s = execQpack w s := rfl
  exact writes_of hr hrow (if_neg (by simpa using hact)) hl' hg' (closesRegion_alu rfl)

/-- Without one it writes nothing. -/
theorem writes_qpack_idle (hr : Runs (.qpack w) h s) (hact : h.active w.g w.gn = 0) :
    Writes (.qpack w) h s (.vec w.dst w.ws false 0 fun _ => 0) := by
  obtain ⟨g, hl, hg⟩ := State.writeVec_landed hr.here w.dst w.ws false 0 fun _ => 0
  have hrow : exec (.qpack w) s = execQpack w s := rfl
  exact writes_of hr hrow (if_pos (by simpa using hact)) hl hg (closesRegion_alu rfl)

end Sys2Proof.Machine

open Sys2Proof Sys2Proof.Machine

/-- Settles O15: QPACK by whether a lane is active, the other rows as writes of float results. What a block's elements are at the open
points is the model's reading (log 40), which `qpackBlock` and `e2m1Val` carry. -/
theorem conversions : Obligations.Conversions := by
  unfold Obligations.Conversions
  intro s h w
  exact ⟨(putsFloat (.cvt w) rfl rfl :), (putsFloat (.cvti w) rfl rfl :), (putsFloat (.cvtf w) rfl rfl :), writes_qpack, writes_qpack_idle,
    (putsFloat (.qunpk w) rfl rfl :), (putsFloat (.rng w) rfl rfl :), (putsFloat (.rngf w) rfl rfl :)⟩

end

section
/-! What a frame is made of: changes that store nothing and leave the registers, and instruction rows run by how their slot ends. -/

set_option Elab.async false

namespace Sys2Proof

namespace SMap

variable {α : Type} {m : SMap α} {k : Nat}

theorem get?_filterE_of_keep {p : Nat → α → Bool} {v : α} (h : m.get? k = some v) (hp : p k v = true) :
    (m.filterE p).get? k = some v := by
  induction m with
  | nil => cases h
  | cons e m ih =>
    obtain ⟨k', v'⟩ := e
    rw [get?_cons] at h
    by_cases hk : k = k'
    · subst hk
      obtain rfl : v' = v := by simpa using h
      simp [filterE, hp, get?_cons]
    · rw [if_neg hk] at h
      have ih := ih h
      simp only [filterE, List.filter_cons] at ih ⊢
      split
      · rw [get?_cons, if_neg hk, ih]
      · exact ih

theorem get?_filterE_of_none {p : Nat → α → Bool} (h : m.get? k = none) : (m.filterE p).get? k = none := by
  induction m with
  | nil => rfl
  | cons e m ih =>
    obtain ⟨k', v'⟩ := e
    rw [get?_cons] at h
    have hk : k ≠ k' := by rintro rfl; simp at h
    have ih := ih (by simpa [hk] using h)
    simp only [filterE, List.filter_cons] at ih ⊢
    split
    · rw [get?_cons, if_neg hk, ih]
    · exact ih

/-- Entries kept by their keys alone: a kept key reads as before. -/
theorem getD_filterE_key {q : Nat → Bool} (d : α) (hq : q k = true) : (m.filterE fun k _ => q k).getD d k = m.getD d k := by
  unfold getD
  cases h : m.get? k with
  | none => rw [get?_filterE_of_none h]
  | some v => rw [get?_filterE_of_keep h hq]

theorem mem_set_of_ne {v : α} {e : Nat × α} (he : e ∈ m) (hk : e.1 ≠ k) : e ∈ m.set k v := by
  induction m with
  | nil => cases he
  | cons x m ih =>
    obtain ⟨k', v'⟩ := x
    unfold set
    split
    · exact List.mem_cons_of_mem _ he
    · rcases List.mem_cons.mp he with rfl | he
      · rw [if_neg (Ne.symm hk)]
        exact List.mem_cons_self
      · split
        · exact List.mem_cons_of_mem _ he
        · exact List.mem_cons_of_mem _ (ih he)

theorem mem_modify_of_ne {f : α → α} {e : Nat × α} (he : e ∈ m) (hk : e.1 ≠ k) : e ∈ m.modify k f := by
  unfold modify
  split
  · exact mem_set_of_ne he hk
  · exact he

end SMap

namespace Machine

variable {s t u : State} {h : Here} {p : Reg → Bool}

/-! ## Frames -/

theorem SameRegs.trans {g g' g'' : Group} (h : SameRegs g g' p) (h' : SameRegs g' g'' p) : SameRegs g g'' p := by
  obtain ⟨hv, hs, hk, hc, hf, hw, hp⟩ := h
  obtain ⟨hv', hs', hk', hc', hf', hw', hp'⟩ := h'
  exact ⟨fun n l hl hn => (hv' n l hl hn).trans (hv n l hl hn), fun n hn => (hs' n hn).trans (hs n hn),
    fun n hn => (hk' n hn).trans (hk n hn), fun n hn => (hc' n hn).trans (hc n hn), fun hn => (hf' hn).trans (hf hn),
    hw'.trans hw, hp'.trans hp⟩

/-- A group that keeps every register keeps those that any `p` does not name. -/
theorem SameRegs.of_noReg {g g' : Group} (h : SameRegs g g' noReg) : SameRegs g g' p := by
  obtain ⟨hv, hs, hk, hc, hf, hw, hp⟩ := h
  exact ⟨fun n l hl _ => hv n l hl (Eq.refl _), fun n _ => hs n (Eq.refl _), fun n _ => hk n (Eq.refl _), fun n _ => hc n (Eq.refl _),
    fun _ => hf (Eq.refl _), hw, hp⟩

/-- A change of what is neither memory, accumulator nor context, that leaves the groups. -/
theorem Frame.of_eq (hm : SameMem s t) (hg : t.groups = s.groups) (ha : t.accs = s.accs) (hc : t.ctxs = s.ctxs) : Frame h s t p where
  mem := hm
  regs _ g hk := ⟨g, hg ▸ hk, .rfl⟩
  accs := ha
  ctxs := hc

theorem SameMem.rfl : SameMem s s := ⟨fun _ => Eq.refl _, fun _ => Eq.refl _, fun _ => Eq.refl _, Eq.refl _⟩

theorem Frame.rfl : Frame h s s p := .of_eq .rfl (Eq.refl _) (Eq.refl _) (Eq.refl _)

theorem Frame.trans (h₁ : Frame h s t p) (h₂ : Frame h t u p) : Frame h s u p where
  mem := by
    obtain ⟨hm, hh, hd, hp⟩ := h₁.mem
    obtain ⟨hm', hh', hd', hp'⟩ := h₂.mem
    exact ⟨fun a => (hm' a).trans (hm a), fun a => (hh' a).trans (hh a), fun a => (hd' a).trans (hd a), hp'.trans hp⟩
  regs k g hk := by
    obtain ⟨g', hg', hr⟩ := h₁.regs k g hk
    obtain ⟨g'', hg'', hr'⟩ := h₂.regs k g' hg'
    exact ⟨g'', hg'', hr.trans hr'⟩
  accs := h₂.accs.trans h₁.accs
  ctxs := h₂.ctxs.trans h₁.ctxs

theorem Frame.foldl {α : Type} {f : State → α → State} (hf : ∀ s x, Frame h s (f s x) p) (l : List α) (s : State) :
    Frame h s (l.foldl f s) p := by
  induction l generalizing s with
  | nil => exact .rfl
  | cons x l ih => exact (hf s x).trans (ih (f s x))

theorem Frame.modFrag {k : Nat} {φ : Frag → Frag} : Frame h s (s.modFrag k φ) p :=
  .of_eq .rfl (Eq.refl _) (Eq.refl _) (Eq.refl _)

theorem Frame.modTeam {k : Nat} {φ : Team → Team} : Frame h s (s.modTeam k φ) p :=
  .of_eq .rfl (Eq.refl _) (Eq.refl _) (Eq.refl _)

theorem Frame.setFrags {fs : SMap Frag} : Frame h s { s with frags := fs } p :=
  .of_eq .rfl (Eq.refl _) (Eq.refl _) (Eq.refl _)

/-- A change of one group that keeps the registers which the frame asks of it. -/
theorem Frame.modGroup_of {k : Nat} {φ : Group → Group} (hφ : ∀ g, SameRegs g (φ g) (if k = h.gid then p else fun _ => false)) :
    Frame h s (s.modGroup k φ) p where
  mem := .rfl
  regs j g hj := by
    rw [State.modGroup_groups, SMap.get?_modify]
    split
    next hjk =>
      subst hjk
      exact ⟨φ g, by rw [hj]; exact Eq.refl _, hφ g⟩
    · exact ⟨g, hj, .rfl⟩
  accs := Eq.refl _
  ctxs := Eq.refl _

theorem Frame.modGroup {k : Nat} {φ : Group → Group} (hφ : ∀ g, SameRegs g (φ g) noReg) : Frame h s (s.modGroup k φ) p :=
  .modGroup_of fun g => (hφ g).of_noReg

/-- A change of the executing group's registers that `p` names. -/
theorem Frame.modOwn {φ : Group → Group} (hφ : ∀ g, SameRegs g (φ g) p) : Frame h s (s.modGroup h.gid φ) p :=
  .modGroup_of fun g => by rw [if_pos (Eq.refl _)]; exact hφ g

theorem Frame.account (fid gid : Nat) (f : Fields) : Frame h s (s.account fid gid f) p := by
  unfold State.account
  extract_lets op u
  have hu : Frame h s u p := by
    unfold u
    split
    · exact .rfl
    · exact .modFrag
  split
  · exact hu.trans (.modGroup fun _ => .rfl)
  · exact hu

theorem Frame.finish (i : Instr) : Frame h s (s.finish h i) p := (Frame.account _ _ _).trans .modFrag

theorem Frame.finishParked (k : Nat) : Frame h s (s.finishParked k) p := by
  unfold State.finishParked
  split
  · exact .rfl
  · exact (Frame.account _ _ _).trans .modFrag

/-- A flag is a register of its destination. -/
theorem Frame.setFlag (dst : Opnd) (x : Bool) : Frame h s (s.setFlag h.gid dst x) (dstRegs dst false) := by
  unfold State.setFlag
  split
  next r =>
    refine .modOwn fun g => ⟨fun _ _ _ _ => Eq.refl _, fun _ _ => Eq.refl _, fun _ _ => Eq.refl _, fun n hn => ?_, fun _ => Eq.refl _,
      Eq.refl _, Eq.refl _⟩
    have hne : n ≠ r.val := by
      rintro rfl
      simp [dstRegs, opRegs] at hn
    by_cases h8 : n < 8
    · rw [Group.setC_get g r.val n x h8, if_neg hne]
    · rw [BitVec.getLsbD_of_ge _ _ (by omega), BitVec.getLsbD_of_ge _ _ (by omega)]
  · exact .rfl

/-! ## Reading a change back -/

theorem modFrag_frag {k : Nat} {φ : Frag → Frag} {f : Frag} (hf : s.frags.get? k = some f) :
    (s.modFrag k φ).frags.get? k = some (φ f) := by
  rw [State.modFrag_frags, SMap.get?_modify, if_pos rfl, hf]
  rfl

theorem modFrag_frag_ne {k j : Nat} {φ : Frag → Frag} (hj : j ≠ k) : (s.modFrag k φ).frags.get? j = s.frags.get? j := by
  rw [State.modFrag_frags, SMap.get?_modify, if_neg hj]

theorem modGroup_group {k : Nat} {φ : Group → Group} {g : Group} (hg : s.groups.get? k = some g) :
    (s.modGroup k φ).groups.get? k = some (φ g) := by
  rw [State.modGroup_groups, SMap.get?_modify, if_pos rfl, hg]
  rfl

theorem modTeam_team {k : Nat} {φ : Team → Team} {x : Team} (hx : s.teams.get? k = some x) :
    (s.modTeam k φ).teams.get? k = some (φ x) := by
  rw [State.modTeam_teams, SMap.get?_modify, if_pos rfl, hx]
  rfl

/-! ## How a row's slot ends -/

section
variable {i : Instr} {act : Here → State → SlotResult} (hr : Runs i h s) (he : exec i s = runSlot i act s)
include hr he

theorem Runs.exec_eq {res : SlotResult} (ha : act h s = res) : exec i s = .next (s.conclude h i res) := by
  rw [he, runSlot_next hr, ha]

theorem Runs.completes (ha : act h s = .done u) : Completes i h s u := hr.exec_eq he ha

theorem Runs.completesQuiet (ha : act h s = .done u) (hf : Frame h s u p) : CompletesQuiet i h s u p :=
  ⟨hr.exec_eq he ha, hf.trans (.finish i)⟩

theorem Runs.moved (ha : act h s = .moved u) : exec i s = .next (u.account h.fid h.gid (fieldsOf i)) := hr.exec_eq he ha

theorem Runs.traps {r : RecInfo} (ha : act h s = .trap r) : Traps i h s r := hr.exec_eq he ha

theorem Runs.stalls (ha : act h s = .stall) : Stalls i h s := hr.exec_eq he ha

theorem Runs.freezes (ha : act h s = .freeze .signat) : exec i s = .next (s.freeze h .signat) := hr.exec_eq he ha

end

/-! ## What accounting for a word leaves of a group and a fragment -/

/-- An instruction that neither moves the signature nor closes a region is accounted for by nothing. -/
theorem account_self {fid gid : Nat} {f : Fields} (hn : noSig f.op.toNat = true) (hc : closesRegion f.op.toNat = false) :
    s.account fid gid f = s := by
  unfold State.account
  simp [hn, hc]

/-- The region aside, a group is as it was. -/
theorem account_keeps {γ : Type} (π : Group → γ) (hπ : ∀ (g : Group) r, π { g with rgnpc := 0, events := 0, badR := r } = π g)
    (fid gid : Nat) (f : Fields) (k : Nat) : ((s.account fid gid f).groups.get? k).map π = (s.groups.get? k).map π := by
  unfold State.account
  extract_lets op u
  have hu : u.groups = s.groups := by
    unfold u
    split <;> rfl
  split
  · rw [State.modGroup_groups, SMap.get?_modify, hu]
    split
    next hk =>
      subst hk
      cases s.groups.get? k with
      | none => rfl
      | some g => exact congrArg some (hπ g _)
    · rfl
  · rw [hu]

theorem finishParked_keeps {γ : Type} (π : Group → γ) (hπ : ∀ (g : Group) r, π { g with rgnpc := 0, events := 0, badR := r } = π g)
    (x k : Nat) : ((s.finishParked x).groups.get? k).map π = (s.groups.get? k).map π := by
  unfold State.finishParked
  split
  · rfl
  · exact account_keeps π hπ _ _ _ k

theorem account_teams (s : State) (fid gid : Nat) (f : Fields) : (s.account fid gid f).teams = s.teams := by
  rw [State.account_rest]
  rfl

theorem finishParked_teams (s : State) (x : Nat) : (s.finishParked x).teams = s.teams := by
  unfold State.finishParked
  split
  · rfl
  · exact account_teams _ _ _ _

/-- After `finish` the fragment stands at the next slot, whatever the instruction has made of its mask, points and signature. -/
theorem finish_frag {i : Instr} {f : Frag} (hf : s.frags.get? h.fid = some f) :
    ∃ f', (s.finish h i).frags.get? h.fid = some f' ∧ f'.mask = f.mask ∧ f'.chain = f.chain ∧
      f'.sig = (if noSig (fieldsOf i).op.toNat then f.sig else sigUpdate f.sig (fieldsOf i)) ∧
      f'.line = (if f.slot.val < 4 then f.line else f.line + 64) ∧ f'.slot.val = (if f.slot.val < 4 then f.slot.val + 1 else 0) := by
  have hget : (s.finish h i).frags.get? h.fid =
      some (Frag.mark { f with sig := if noSig (fieldsOf i).op.toNat then f.sig else sigUpdate f.sig (fieldsOf i) }).advance := by
    simp [State.finish, SMap.get?_modify, State.account_frags, hf]
  obtain ⟨-, hmask, hchain, hsig, hline, hslot⟩ := Frag.advance_spec
    (Frag.mark { f with sig := if noSig (fieldsOf i).op.toNat then f.sig else sigUpdate f.sig (fieldsOf i) })
  exact ⟨_, hget, hmask, hchain, hsig, hline, hslot⟩

theorem finish_keeps {γ : Type} (π : Group → γ) (hπ : ∀ (g : Group) r, π { g with rgnpc := 0, events := 0, badR := r } = π g)
    (i : Instr) (k : Nat) : ((s.finish h i).groups.get? k).map π = (s.groups.get? k).map π :=
  account_keeps π hπ _ _ _ k

/-! ## Changes of the executing fragment and group alone -/

theorem OnlyHere.rfl : OnlyHere h s s := ⟨Eq.refl _, fun _ _ => Eq.refl _, fun _ _ => Eq.refl _⟩

theorem OnlyHere.modFrag {φ : Frag → Frag} (hu : OnlyHere h s u) : OnlyHere h s (u.modFrag h.fid φ) := by
  obtain ⟨hrest, hgroups, hfrags⟩ := hu
  refine ⟨?_, hgroups, fun k hk => ?_⟩
  · rw [hrest]
    rfl
  · rw [State.modFrag_frags, SMap.get?_modify, if_neg hk, hfrags k hk]

theorem OnlyHere.finish {i : Instr} (hu : OnlyHere h s u) : OnlyHere h s (u.finish h i) := by
  obtain ⟨hrest, hgroups, hfrags⟩ := hu
  refine ⟨?_, fun k hk => (State.finish_groups_ne hk).trans (hgroups k hk), fun k hk => (State.finish_frags_ne hk).trans (hfrags k hk)⟩
  conv_lhs => rw [State.finish_rest, hrest]
  rw [State.withHere_withHere, ← hrest]

theorem Landed.onlyHere {g : Group} (hl : Landed h s u g) : OnlyHere h s u := by
  obtain ⟨l, hfrags⟩ := hl.frags
  exact ⟨hl.rest, fun k hk => by rw [hl.groups, if_neg hk], fun k hk => by rw [hfrags, if_neg hk]⟩

end Machine
end Sys2Proof

end

section
/-! Transfers of control (spec/07 R155 to R157, spec/03 R33): landing, the fetch of a line that could not be read, and the rows that
transfer. -/

set_option Elab.async false

namespace Sys2Proof.Machine

variable {s u : State} {h : Here} {line : VA} {slot : Fin 5}

/-! ## Landing -/

/-- A line that could not be read when control landed on it cannot be fetched either: the fetch has a trap. -/
theorem fetchTrap_of_unread {h' : Here} {n : Nat} (hl : s.landing h line n = some true) (hline : h'.f.line = line)
    (hcore : h'.core = h.core) (hcx : h'.cx = h.cx) : ∃ r, s.fetchTrap h' = some r := by
  unfold State.landing at hl
  unfold State.fetchTrap
  rw [hline, hcore, hcx]
  extract_lets va r
  split at hl
  · split at hl <;> cases hl
  split at hl
  next hap => exact ⟨r, if_pos hap⟩
  next hap =>
    rw [if_neg hap]
    split at hl
    · split at hl <;> cases hl
    next hx =>
      split
      · exact ⟨_, rfl⟩
      · exact ⟨_, rfl⟩
      next pa mt hok => exact absurd hok (hx pa mt)

theorem withHere_teams_ctxs {gs : SMap Group} {fs : SMap Frag} (hu : u = s.withHere gs fs) : u.teams = s.teams ∧ u.ctxs = s.ctxs := by
  subst hu
  exact ⟨rfl, rfl⟩

/-- The view of a fragment that has been moved by a transfer. -/
theorem hereOf_goto {g : Group} {l : SMap Latch} (hh : s.here = some h) (hrest : u = s.withHere u.groups u.frags)
    (hg : u.groups.get? h.gid = some g) (hteam : g.team = h.g.team) (hf : u.frags.get? h.fid = some { h.f with latches := l }) :
    ∃ h', (u.goto h line slot).hereOf h.fid = some h' ∧ h'.f = { h.f with latches := l }.leave line slot ∧
      h'.core = h.core ∧ h'.cx = h.cx := by
  obtain ⟨-, hgid, -, htid, ht, hcx, -⟩ := here_spec hh
  obtain ⟨hteams, hctxs⟩ := withHere_teams_ctxs hrest
  refine ⟨{ h with g := g, f := { h.f with latches := l }.leave line slot },
    hereOf_eq_some.mpr ⟨rfl, hgid.symm, htid.symm.trans hteam.symm, ?_, hg, hteams ▸ ht, hctxs ▸ hcx⟩, rfl, rfl, rfl⟩
  simp [State.goto, SMap.get?_modify, hf]

theorem land_unread_of_ready {h' : Here} {r : RecInfo} (hh : (u.goto h line slot).hereOf h.fid = some h') (hst : h'.f.st = .ready)
    (hr : (u.goto h line slot).fetchTrap h' = some r) : u.land h line slot true = (u.goto h line slot).takeTrap h' r := by
  unfold State.land
  simp only [hh, hst, hr]

theorem land_unread_of_bound {h' : Here} (hh : (u.goto h line slot).hereOf h.fid = some h') (hst : h'.f.st = .parked .bound) :
    u.land h line slot true = u.goto h line slot := by
  unfold State.land
  simp only [hh, hst]

/-! ## Transfers -/

/-- A row that lands where its target may be entered, `u` being its effect so far, and else traps, transfers. -/
theorem Runs.transfers {i : Instr} {act : Here → State → SlotResult} {g : Group} (hr : Runs i h s) (he : exec i s = runSlot i act s)
    (hno : s.landing h line slot.val = none → act h s = .trap (h.targetTrap slot.val))
    (hyes : ∀ c, s.landing h line slot.val = some c → act h s = .moved (u.land h line slot c))
    (hl : Landed h s u g) (hteam : g.team = h.g.team) : Transfers i h s u line slot := by
  obtain ⟨hfrag, hgid, -⟩ := here_spec hr.here
  obtain ⟨l, hfrags⟩ := hl.frags
  have hf : u.frags.get? h.fid = some { h.f with latches := l h.fid h.f } := by rw [hfrags, if_pos rfl, hfrag]; rfl
  have hg : u.groups.get? h.gid = some g := by rw [hl.groups, if_pos rfl]
  obtain ⟨h', hview, hf', hcore, hcx⟩ := hereOf_goto (line := line) (slot := slot) hr.here hl.rest hg hteam hf
  obtain ⟨hgroup, hmask, hchain, hsig, hline, hslot⟩ := Frag.leave_spec { h.f with latches := l h.fid h.f } line slot
  have hplaced : PlacedAt h (u.goto h line slot) line slot := by
    obtain ⟨-, -, -, hget, -⟩ := hereOf_eq_some.mp hview
    exact ⟨_, hget.trans (congrArg some hf'), hgroup.trans hgid, hmask, hchain, hsig, hline, hslot⟩
  refine ⟨fun hn => hr.traps he (hno hn), fun hs => ?_, fun hs hstop hhold => ?_, fun hs hstop => ?_⟩
  · exact ⟨hr.moved he (hyes _ hs), hplaced, rfl, hl.onlyHere.modFrag⟩
  · have hsame : u.goto h line slot = s.withHere u.groups (u.goto h line slot).frags := by
      conv_lhs => rw [hl.rest]
      rfl
    obtain ⟨r, hfetch⟩ := fetchTrap_of_unread hs ((congrArg Frag.line hf').trans hline) hcore hcx
    have hfetch : (u.goto h line slot).fetchTrap h' = some r := by
      rw [hsame]
      exact hfetch
    have hready : h'.f.st = .ready := by simp [hf', Frag.leave, hstop, hhold]
    refine ⟨h', r, hview, hfetch, ?_⟩
    rw [← land_unread_of_ready hview hready hfetch]
    exact hr.moved he (hyes _ hs)
  · have hbound : h'.f.st = .parked .bound := by simp [hf', Frag.leave, hstop]
    refine ⟨?_, hplaced⟩
    rw [← land_unread_of_bound hview hbound]
    exact hr.moved he (hyes _ hs)

theorem transfer_none (hl : s.landing h line slot.val = none) : s.transfer h line slot = .trap (h.targetTrap slot.val) := by
  simp only [State.transfer, hl]

theorem transfer_some {c : Bool} (hl : s.landing h line slot.val = some c) :
    s.transfer h line slot = .moved (s.land h line slot c) := by
  simp only [State.transfer, hl]

/-- A row that is a transfer and nothing else. -/
theorem Runs.transfers_only {i : Instr} {act : Here → State → SlotResult} (hr : Runs i h s) (he : exec i s = runSlot i act s)
    (ha : act h s = s.transfer h line slot) : Transfers i h s s line slot :=
  hr.transfers he (fun hl => ha.trans (transfer_none hl)) (fun _ hl => ha.trans (transfer_some hl)) (.same hr.here) rfl

/-! ## CALL's link -/

/-- A write of a scalar register changes that register alone. -/
theorem writeS_group (hh : s.here = some h) (dst : Opnd) (ws : Bool) (x : W64) :
    ∃ g, Landed h s (s.writeS h dst ws x) g ∧ g = { h.g with s := g.s, badR := g.badR } ∧
      ∀ n, g.s.getD 0 n = (Result.scal dst ws x).sAt h n := by
  obtain ⟨g, hl, hholds⟩ := State.writeS_landed hh dst ws x
  refine ⟨g, hl, ?_, hholds.s⟩
  have hg : (s.writeS h dst ws x).groups.get? h.gid = some g := by rw [hl.groups, if_pos rfl]
  obtain ⟨-, -, hgroup, -⟩ := here_spec hh
  have hlatch : (s.latch h (.sc x)).groups.get? h.gid = some h.g := by rw [State.latch_groups, hgroup]
  unfold State.writeS at hg
  extract_lets v at hg
  split at hg
  · split at hg
    · obtain rfl := Option.some.inj (hlatch.symm.trans hg)
      rfl
    · rw [State.modGroup_groups, SMap.get?_modify, if_pos rfl, hlatch] at hg
      obtain rfl := Option.some.inj hg
      rfl
  · obtain rfl := Option.some.inj (hlatch.symm.trans hg)
    rfl

theorem call_transfers {w : BrW} (hr : Runs (.call w) h s) : ∃ u g, Transfers (.call w) h s u (h.target w) w.slot ∧ OnlyHere h s u ∧
    u.groups.get? h.gid = some g ∧ g = { h.g with s := g.s, badR := g.badR } ∧
    ∀ n, g.s.getD 0 n = (Result.scal w.dst w.ws h.nextPtr).sAt h n := by
  obtain ⟨g, hl, hg, hs⟩ := writeS_group hr.here w.dst w.ws h.nextPtr
  have hrow : exec (.call w) s = execCall w s := rfl
  refine ⟨_, g, ?_, hl.onlyHere, by rw [hl.groups, if_pos rfl], hg, hs⟩
  exact hr.transfers hrow (fun hno => by simp only [hno]) (fun c hc => by simp only [hc]) hl (by rw [hg])

/-! ## RET and JMPI -/

/-- The rows that jump to a code pointer in a register. -/
theorem exec_jump {i : Instr} {w : EngW} (hi : i = .ret w ∨ i = .jmpi w) : exec i s = runSlot i (jumpSlot w) s := by
  rcases hi with rfl | rfl <;> rfl

theorem jumpSlot_malformed {w : EngW}
    (hp : 2 ^ 56 ≤ (h.srcS w.a).toNat ∨ bitsN (h.srcS w.a).toNat 5 3 ≠ 0 ∨ 5 ≤ (h.srcS w.a).toNat % 8) :
    jumpSlot w h s = .trap { cause := .align, lanes := h.f.mask.toNat, addr := (h.srcS w.a).toNat % 2 ^ 56 } := by
  unfold jumpSlot
  exact if_pos (by simpa [or_assoc] using hp)

theorem jumpSlot_pointer {w : EngW} {j : Fin 5} (hp : (h.srcS w.a).toNat < 2 ^ 56) (hz : bitsN (h.srcS w.a).toNat 5 3 = 0)
    (hj : (h.srcS w.a).toNat % 8 = j.val) :
    jumpSlot w h s = s.transfer h (BitVec.ofNat 56 ((h.srcS w.a).toNat / 64 * 64)) j := by
  have hlt := j.isLt
  have hfin : Fin.ofNat 5 ((h.srcS w.a).toNat % 8) = j := by
    rw [hj]
    exact Fin.ext (Nat.mod_eq_of_lt hlt)
  unfold jumpSlot
  extract_lets q
  have hq : ¬ (decide (2 ^ 56 ≤ q) || bitsN q 5 3 != 0 || decide (5 ≤ q % 8)) = true := by
    simp [q, hz]
    omega
  rw [if_neg hq, hfin]

end Sys2Proof.Machine

end

section
/-! EXIT and YIELD (spec/07 R159, R160): the lanes that end, the points and split entries that are freed, and what goes on. -/

set_option Elab.async false

namespace Sys2Proof.Machine

variable {s t u : State} {h : Here} {w : EngW} {out : W32}

/-! ## Abandoning lanes -/

/-- What abandoning lanes leaves as it was: the fragments, and of each group all but the state of its outstanding writes. -/
structure PendsOnly (s t : State) : Prop where
  frags : t.frags = s.frags
  groups : ∀ k g, s.groups.get? k = some g → ∃ pend, t.groups.get? k = some { g with pend := pend }

namespace PendsOnly

theorem of_sameUnits (h : SameUnits s t) : PendsOnly s t := ⟨h.frags, fun _ g hg => ⟨g.pend, h.groups ▸ hg⟩⟩

theorem trans (h : PendsOnly s t) (h' : PendsOnly t u) : PendsOnly s u where
  frags := h'.frags.trans h.frags
  groups k g hg := by
    obtain ⟨pend, hg'⟩ := h.groups k g hg
    obtain ⟨pend', hg''⟩ := h'.groups k _ hg'
    exact ⟨pend', hg''⟩

theorem foldl {α : Type} {f : State → α → State} (hf : ∀ s x, PendsOnly s (f s x)) (l : List α) (s : State) :
    PendsOnly s (l.foldl f s) := by
  induction l generalizing s with
  | nil => exact of_sameUnits .rfl
  | cons x l ih => exact (hf s x).trans (ih (f s x))

theorem modGroup {k : Nat} (pend : Group → SMap Pend) : PendsOnly s (s.modGroup k fun g => { g with pend := pend g }) where
  frags := rfl
  groups j g hg := by
    rw [State.modGroup_groups, SMap.get?_modify]
    split
    next hj =>
      subst hj
      exact ⟨pend g, by rw [hg]; rfl⟩
    · exact ⟨g.pend, hg⟩

theorem modCore {k : Nat} {f : Core → Core} : PendsOnly s (s.modCore k f) := of_sameUnits ⟨rfl, rfl, rfl⟩

theorem travFinish (core id : Nat) : PendsOnly s (s.travFinish core id) := by
  unfold State.travFinish
  split
  · exact of_sameUnits .rfl
  · split
    · exact of_sameUnits .rfl
    · exact (modGroup _).trans modCore

theorem abandon (gid : Nat) (lanes : W32) : PendsOnly s (s.abandon gid lanes) := by
  have hrays {s : State} {spilled : SMap Ray} {saved : List Nat} : PendsOnly s { s with spilled := spilled, savedRays := saved } :=
    of_sameUnits ⟨rfl, rfl, rfl⟩
  unfold State.abandon
  split
  · exact of_sameUnits .rfl
  · exact ((modCore.trans (foldl (fun _ _ => of_sameUnits (Traffic.clearSpill _ _).toSameUnits) _ _)).trans hrays).trans
      (foldl (fun _ _ => modCore.trans (travFinish _ _)) _ _)

theorem noteExit (lanes : W32) : PendsOnly s (s.noteExit h lanes) := by
  unfold State.noteExit
  split
  · exact of_sameUnits .rfl
  · exact of_sameUnits ⟨rfl, rfl, rfl⟩

end PendsOnly

/-! ## The lanes of an EXIT end -/

/-- A pending fusion point of which lanes have exited. -/
def FusePoint.exit (p : FusePoint) (out : W32) : FusePoint := { p with exited := p.exited ||| out }

/-- The state after an EXIT has ended the lanes `out` of its fragment: every point of its chain knows of it. -/
def State.laneExit (s : State) (h : Here) (out : W32) : State :=
  (((s.noteExit h out).abandon h.gid out).modGroup h.gid fun g =>
    { g with
      exited := g.exited ||| out
      fps := g.fps.mapV fun k p => if h.f.chain.contains k then p.exit out else p }).modFrag h.fid
    fun f => { f with mask := h.f.mask &&& ~~~out }

theorem laneExit_frag (hh : s.here = some h) :
    (s.laneExit h out).frags.get? h.fid = some { h.f with mask := h.f.mask &&& ~~~out } := by
  obtain ⟨hf, -⟩ := here_spec hh
  have hfrags := ((PendsOnly.noteExit (s := s) (h := h) out).trans (.abandon h.gid out)).frags
  simp [State.laneExit, SMap.get?_modify, hfrags, hf]

theorem laneExit_group (hh : s.here = some h) : ∃ g, (s.laneExit h out).groups.get? h.gid = some g ∧
    g.exited = h.g.exited ||| out ∧
    ∀ p pt, p ∈ h.f.chain → h.g.fps.get? p = some pt → g.fps.get? p = some (pt.exit out) := by
  obtain ⟨-, -, hg, -⟩ := here_spec hh
  obtain ⟨pend, hgroup⟩ := ((PendsOnly.noteExit (s := s) (h := h) out).trans (.abandon h.gid out)).groups _ _ hg
  refine ⟨{ h.g with
    pend := pend
    exited := h.g.exited ||| out
    fps := h.g.fps.mapV fun k p => if h.f.chain.contains k then p.exit out else p }, ?_, rfl, fun p pt hp hpt => ?_⟩
  · simp [State.laneExit, SMap.get?_modify, hgroup]
  · rw [SMap.get?_mapV, hpt]
    simp [hp]

/-! ## Points and entries that are freed -/

theorem reap_frags (s : State) (gid : Nat) : ∃ keep : Nat → Frag → Bool, (s.reap gid).frags = s.frags.filterE keep ∧
    ∀ k f, f.st ≠ .gone → keep k f = true := by
  unfold State.reap
  extract_lets live u fps
  exact ⟨fun _ f => f.group != gid || f.st != .gone || f.chain.any fps.has, rfl, fun k f hst => by simp [hst]⟩

/-- A live fragment of the group holds the point. -/
def State.pointHeld (s : State) (gid p : Nat) : Bool := ((s.fragsOf gid).filterMap s.frags.get?).any fun f => f.chain.contains p

theorem reap_group {gid : Nat} {g : Group} (hg : s.groups.get? gid = some g) :
    ∃ g', (s.reap gid).groups.get? gid = some g' ∧ g'.exited = g.exited ∧ g'.fps = g.fps.filterE fun p _ => s.pointHeld gid p := by
  have hgroups : (s.reap gid).groups = s.groups.modify gid fun g => { g with fps := g.fps.filterE fun p _ => s.pointHeld gid p } := rfl
  rw [hgroups, SMap.get?_modify, if_pos rfl, hg]
  exact ⟨_, rfl, rfl, rfl⟩

/-- A fragment that is not Gone keeps its entry. -/
theorem reap_frag {gid k : Nat} {f : Frag} (hf : s.frags.get? k = some f) (hst : f.st ≠ .gone) : (s.reap gid).frags.get? k = some f := by
  obtain ⟨keep, hfrags, hkeep⟩ := reap_frags s gid
  rw [hfrags]
  exact SMap.get?_filterE_of_keep hf (hkeep k f hst)

theorem reap_frag_none {gid k : Nat} (hf : s.frags.get? k = none) : (s.reap gid).frags.get? k = none := by
  obtain ⟨keep, hfrags, -⟩ := reap_frags s gid
  rw [hfrags]
  exact SMap.get?_filterE_of_none hf

theorem mem_fragsOf {gid k : Nat} {f : Frag} (hf : s.frags.get? k = some f) (hg : f.group = gid) (hst : f.st ≠ .gone) :
    k ∈ s.fragsOf gid :=
  List.mem_map.mpr ⟨(k, f), List.mem_filter.mpr ⟨SMap.mem_of_get? hf, by simp [hg, hst]⟩, rfl⟩

/-- A point that a live fragment of the group holds is kept. -/
theorem reap_point {gid k p : Nat} {f : Frag} {g : Group} {pt : FusePoint} (hf : s.frags.get? k = some f) (hgroup : f.group = gid)
    (hst : f.st ≠ .gone) (hp : p ∈ f.chain) (hg : s.groups.get? gid = some g) (hpt : g.fps.get? p = some pt) :
    ∃ g', (s.reap gid).groups.get? gid = some g' ∧ g'.exited = g.exited ∧ g'.fps.get? p = some pt := by
  obtain ⟨g', hg', hexited, hfps⟩ := reap_group hg
  have hheld : s.pointHeld gid p = true :=
    List.any_eq_true.mpr ⟨f, List.mem_filterMap.mpr ⟨k, mem_fragsOf hf hgroup hst, hf⟩, by simpa using hp⟩
  exact ⟨g', hg', hexited, hfps ▸ SMap.get?_filterE_of_keep hpt hheld⟩

/-! ## What goes on after an EXIT -/

theorem exitSlot_idle (ho : h.active w.g w.gn = 0) : exitSlot w h s = .done s := by
  unfold exitSlot
  simp [ho]

theorem exitSlot_left (ho : h.active w.g w.gn ≠ 0) (hl : h.f.mask &&& ~~~(h.active w.g w.gn) ≠ 0) : exitSlot w h s =
    if (s.laneExit h (h.active w.g w.gn)).lanesConserved h.gid then .done (s.laneExit h (h.active w.g w.gn)) else .freeze .signat := by
  unfold exitSlot
  extract_lets out u left
  rw [if_neg (by simpa [out] using ho), if_pos (by simpa [left, out] using hl)]
  rfl

/-- The state in which the last lanes of a fragment have ended: it is Gone. -/
def State.fragGone (s : State) (h : Here) (out : W32) : State :=
  (s.laneExit h out).modFrag h.fid fun f => { f with st := .gone, stall := false, latches := [] }

theorem exitSlot_gone (ho : h.active w.g w.gn ≠ 0) (hl : h.f.mask &&& ~~~(h.active w.g w.gn) = 0) (hc : h.f.chain = []) :
    exitSlot w h s =
      let dead := s.fragGone h (h.active w.g w.gn)
      if !dead.lanesConserved h.gid then .freeze .signat
      else .moved (if (dead.reap h.gid).live h.gid then dead.reap h.gid else (dead.reap h.gid).afterGone h.tid) := by
  unfold exitSlot
  extract_lets out u left ended
  rw [if_neg (by simpa [out] using ho), if_neg (by simpa [left, out] using hl)]
  simp only [hc, pendingSerial, State.wakeChain, List.foldl_nil]
  rfl

theorem pendingSerial_head {fps : SMap FusePoint} {p : Nat} {pt : FusePoint} {chain rest : List Nat} (hc : chain = p :: rest)
    (hp : fps.get? p = some pt) (hs : pt.serial = true) (hr : pt.ran = false) : pendingSerial fps chain = some (p, pt, chain) := by
  subst hc
  simp [pendingSerial, hp, hs, hr]

/-- A fragment that has left its line, or whose parked instruction has ended, is Ready or stopped at a line boundary. -/
def Frag.Freed (f : Frag) : Prop := f.st = .ready ∨ f.st = .parked .bound

theorem Frag.leave_freed (f : Frag) (line : VA) (slot : Fin 5) : (f.leave line slot).Freed := by
  by_cases hstop : (f.stopAt || f.hold) = true
  · exact .inr (if_pos hstop)
  · exact .inl (if_neg hstop)

/-- The fragment goes on at a serialised point's target with the lanes of its complement. -/
def Frag.complement (f : Frag) (pt : FusePoint) (chain : List Nat) : Frag :=
  { f.leave pt.target pt.tslot with mask := pt.e, chain := chain, checkTm := true }

theorem Frag.complement_spec (f : Frag) (pt : FusePoint) (chain : List Nat) : (f.complement pt chain).group = f.group ∧
    (f.complement pt chain).mask = pt.e ∧ (f.complement pt chain).chain = chain ∧ (f.complement pt chain).line = pt.target ∧
    (f.complement pt chain).slot = pt.tslot ∧
    (f.complement pt chain).Freed := ⟨rfl, rfl, rfl, rfl, rfl, f.leave_freed pt.target pt.tslot⟩

theorem Frag.complement_live (f : Frag) (pt : FusePoint) (chain : List Nat) : (f.complement pt chain).st ≠ .gone := by
  obtain ⟨-, -, -, -, -, hst | hst⟩ := f.complement_spec pt chain <;> simp [hst]

/-- The state in which the complement of a serialised split goes on after the last lanes of the fragment at its point `p` have ended. -/
def State.ranAfterExit (s : State) (h : Here) (out : W32) (p : Nat) (pt : FusePoint) : State :=
  ((s.laneExit h out).modGroup h.gid fun g => { g with fps := g.fps.set p { pt.exit out with ran := true } }).modFrag h.fid
    fun f => f.complement pt h.f.chain

theorem exitSlot_serial {p : Nat} {rest : List Nat} {pt : FusePoint} (hh : s.here = some h) (ho : h.active w.g w.gn ≠ 0)
    (hl : h.f.mask &&& ~~~(h.active w.g w.gn) = 0) (hc : h.f.chain = p :: rest) (hpt : h.g.fps.get? p = some pt)
    (hs : pt.serial = true) (hr : pt.ran = false) :
    exitSlot w h s =
      if (s.ranAfterExit h (h.active w.g w.gn) p pt).lanesConserved h.gid then
        .moved ((s.ranAfterExit h (h.active w.g w.gn) p pt).reap h.gid)
      else .freeze .signat := by
  obtain ⟨g, hg, -, hpoints⟩ := laneExit_group (out := h.active w.g w.gn) hh
  have hpoint : g.fps.get? p = some (pt.exit (h.active w.g w.gn)) := hpoints p pt (by simp [hc]) hpt
  have hself : h.f.chain.filter (fun q => !h.f.chain.contains q) = [] := by simp
  unfold exitSlot
  extract_lets out u left ended exited fps
  have hfps : fps = g.fps := by
    have hg : exited.groups.get? h.gid = some g := hg
    simp only [fps, hg]
  rw [if_neg (by simpa [out] using ho), if_neg (by simpa [left, out] using hl), hfps, pendingSerial_head hc hpoint hs hr]
  simp only [hself, State.wakeChain, List.foldl_nil]
  rfl

/-- The complement goes on at the point's target, its point kept and marked as run. -/
theorem ranAfterExit_spec {p : Nat} {rest : List Nat} {pt : FusePoint} (hh : s.here = some h) (hc : h.f.chain = p :: rest) (f : Fields) :
    ∃ x g, (((s.ranAfterExit h out p pt).reap h.gid).account h.fid h.gid f).frags.get? h.fid = some x ∧
      x.mask = pt.e ∧ x.chain = h.f.chain ∧ x.line = pt.target ∧ x.slot = pt.tslot ∧ (x.st = .ready ∨ x.st = .parked .bound) ∧
      (((s.ranAfterExit h out p pt).reap h.gid).account h.fid h.gid f).groups.get? h.gid = some g ∧
      g.exited = h.g.exited ||| out ∧ g.fps.get? p = some { pt.exit out with ran := true } := by
  obtain ⟨-, hgid, -⟩ := here_spec hh
  obtain ⟨g, hg, hexited, -⟩ := laneExit_group (out := out) hh
  obtain ⟨x, hx⟩ : ∃ x, x = Frag.complement { h.f with mask := h.f.mask &&& ~~~out } pt h.f.chain := ⟨_, rfl⟩
  have hfrag : (s.ranAfterExit h out p pt).frags.get? h.fid = some x := by
    simp [State.ranAfterExit, SMap.get?_modify, laneExit_frag hh, hx]
  have hgroup : (s.ranAfterExit h out p pt).groups.get? h.gid =
      some { g with fps := g.fps.set p { pt.exit out with ran := true } } := by
    simp [State.ranAfterExit, SMap.get?_modify, hg]
  obtain ⟨hxg, hmask, hchain, hline, hslot, hst⟩ := Frag.complement_spec { h.f with mask := h.f.mask &&& ~~~out } pt h.f.chain
  have hlive : x.st ≠ .gone := by rw [hx]; exact Frag.complement_live _ _ _
  rw [← hx] at hxg hmask hchain hline hslot hst
  have hheld : p ∈ x.chain := by simp [hchain, hc]
  obtain ⟨g', hreaped, hexited', hpoint⟩ := reap_point hfrag (hxg.trans hgid) hlive hheld hgroup (SMap.get?_set_self ..)
  obtain ⟨g'', hg'', hkept⟩ := Option.map_eq_some_iff.mp
    ((account_keeps (fun g => (g.exited, g.fps)) (fun _ _ => rfl) h.fid h.gid f h.gid).trans (congrArg _ hreaped))
  obtain ⟨hex, hfps⟩ := Prod.mk.inj hkept
  have haccount := State.account_frags ((s.ranAfterExit h out p pt).reap h.gid) h.fid h.gid f h.fid
  rw [if_pos rfl, reap_frag hfrag hlive] at haccount
  exact ⟨_, g'', haccount, hmask, hchain, hline, hslot, hst, hg'', hex.trans (hexited'.trans hexited), by rw [hfps]; exact hpoint⟩

/-! ## YIELD -/

/-- What a YIELD makes of its fragment, `stamp` being the newest of its partition. -/
def Frag.yielded (f : Frag) (stamp : Nat) : Frag :=
  if f.mark.slot.val < 4 then
    { f.mark.shed with slot := f.mark.slot + 1, st := .ready, last := stamp, noBrk := false, wait := 0, woken := false }
  else { f.mark.leave (f.mark.line + 64) 0 with last := stamp }

theorem Frag.yielded_spec (f : Frag) (stamp : Nat) : (f.yielded stamp).mask = f.mask ∧ (f.yielded stamp).chain = f.chain ∧
    (f.yielded stamp).sig = f.sig ∧ (f.yielded stamp).last = stamp ∧
    (f.yielded stamp).line = (if f.slot.val < 4 then f.line else f.line + 64) ∧
    (f.yielded stamp).slot.val = (if f.slot.val < 4 then f.slot.val + 1 else 0) ∧
    (f.yielded stamp).st = if f.slot.val = 4 ∧ (f.stopAt = true ∨ f.hold = true) then .parked .bound else .ready := by
  have hslot : f.mark.slot = f.slot := rfl
  unfold yielded
  rw [hslot]
  by_cases hlt : f.slot.val < 4
  · have hnext : (f.slot + 1).val = f.slot.val + 1 := by
      rw [Fin.val_add]
      exact Nat.mod_eq_of_lt (by simp; omega)
    have hne : ¬ f.slot.val = 4 := by omega
    simp [hlt, hnext, hne, Frag.shed, Frag.mark]
  · have heq : f.slot.val = 4 := by omega
    simp [heq, Frag.leave, Frag.mark]

theorem exec_yield (hr : Runs (.yield w) h s) : exec (.yield w) s = .next (s.modFrag h.fid fun f => f.yielded s.stamp) := by
  have hrow : exec (.yield w) s = execYield w s := rfl
  rw [hr.moved hrow rfl, account_self rfl rfl]
  rfl

end Sys2Proof.Machine

open Sys2Proof Sys2Proof.Machine

/-- Settles O19: the transfers differ in what they do before they land; an EXIT ends its lanes first and then looks at what is left
of its fragment. -/
theorem branchesAndExits : Obligations.BranchesAndExits := by
  unfold Obligations.BranchesAndExits
  refine ⟨fun s h => ⟨fun w hr => ?br, fun w hr => call_transfers hr, fun w i hi hr => ?jump⟩, fun s h w => ?exits⟩
  case br =>
    have hrow : exec (.br w) s = execBr w s := rfl
    refine ⟨fun hcond => ⟨hr.completes hrow (if_neg (by simp [hcond])), OnlyHere.rfl.finish⟩,
      fun hcond => hr.transfers_only hrow (if_pos hcond)⟩
  case jump =>
    exact ⟨fun hp => hr.traps (exec_jump hi) (jumpSlot_malformed hp),
      fun j hp hz hj => hr.transfers_only (exec_jump hi) (jumpSlot_pointer hp hz hj)⟩
  case exits =>
    intro out gone left dead
    have hrow : exec (.exit w) s = runSlot (.exit w) (exitSlot w) s := rfl
    refine ⟨fun hr ho => hr.completes hrow (exitSlot_idle ho), fun hr ho hl hcons => ?_, fun hr ho hl hc hcons => ?_,
      fun hr ho hl hcons => ?_, fun hr ho hl hc hcons => ?_, fun p rest pt hr ho hl hc hpt hs hran => ?_, fun hr => ?_⟩
    · exact hr.completes hrow ((exitSlot_left ho hl).trans (if_pos hcons))
    · exact hr.moved hrow ((exitSlot_gone ho hl hc).trans (if_neg (ne_true_of_eq_false (congrArg not hcons))))
    · exact hr.freezes hrow ((exitSlot_left ho hl).trans (if_neg (Bool.eq_false_iff.mp hcons)))
    · exact hr.freezes hrow ((exitSlot_gone ho hl hc).trans (if_pos (congrArg not hcons)))
    · intro pt' on
      have hslot := exitSlot_serial hr.here ho hl hc hpt hs hran
      refine ⟨fun hcons => hr.freezes hrow (hslot.trans (if_neg (Bool.eq_false_iff.mp hcons))), fun hcons => ?_⟩
      obtain ⟨f, g, hspec⟩ := ranAfterExit_spec (out := out) (pt := pt) hr.here hc (fieldsOf (.exit w))
      exact ⟨_, f, g, hr.moved hrow (hslot.trans (if_pos hcons)), hspec⟩
    · obtain ⟨hf, -⟩ := here_spec hr.here
      exact ⟨_, _, exec_yield hr, OnlyHere.rfl.modFrag, rfl, by rw [State.modFrag_frags, SMap.get?_modify, if_pos rfl, hf]; rfl,
        h.f.yielded_spec s.stamp⟩

end

section
/-! SPLIT and FUSE (spec/07 R141, R142, R158): how each ends by its case, and what the group and its fragments then are. -/

set_option Elab.async false

namespace Sys2Proof.Machine

variable {s t u : State} {h : Here}

/-! ## SPLIT -/

section
variable {w : BrW}

/-- The lanes of a SPLIT that go on, those that go to its target, and its fusion point. -/
def Here.splitStay (h : Here) (w : BrW) : W32 := h.f.mask &&& h.srcK w.b 0
def Here.splitLeave (h : Here) (w : BrW) : W32 := h.f.mask &&& ~~~(h.srcK w.b 0)
def Here.splitPoint (h : Here) (w : BrW) : FusePoint := { line := h.fuseLine w, mask := h.f.mask }

/-- A SPLIT that makes a fragment in entry `n`. -/
def State.fork (s : State) (h : Here) (w : BrW) (c : Bool) (n : Nat) : State :=
  let s := s.pushPoint h.gid (h.splitPoint w)
  ({ s with nextFrag := s.nextFrag + 1 }.putFrag n
    { group := h.gid, line := h.target w, slot := w.slot, entry := w.slot, mask := h.splitLeave w, chain := h.g.nextFp :: h.f.chain
      last := s.stamp, uid := s.nextFrag, checkTm := c }).modFrag h.fid
    fun f => { f with mask := h.splitStay w, chain := h.g.nextFp :: h.f.chain, sig := 0xFFFFFFFF }

/-- A SPLIT whose other lanes become a record of the split spill area. -/
def State.serialise (s : State) (h : Here) (w : BrW) : State :=
  (s.pushPoint h.gid { h.splitPoint w with serial := true, target := h.target w, tslot := w.slot, e := h.splitLeave w }).modFrag h.fid
    fun f => { f with mask := h.splitStay w, chain := h.g.nextFp :: f.chain }

theorem splitSlot_all (ht : h.splitStay w ≠ 0) (he : h.splitLeave w = 0) : splitSlot w h s = .done s :=
  (if_neg (mt beq_iff_eq.mp ht)).trans (if_pos (beq_iff_eq.mpr he))

theorem splitSlot_none (ht : h.splitStay w = 0) : splitSlot w h s = s.transfer h (h.target w) w.slot := if_pos (beq_iff_eq.mpr ht)

theorem splitSlot_target (hl : s.landing h (h.target w) w.slot.val = none) (he : h.splitLeave w ≠ 0) :
    splitSlot w h s = .trap (h.targetTrap w.slot.val) := by
  by_cases ht : h.splitStay w = 0
  · exact (splitSlot_none ht).trans (transfer_none hl)
  · unfold splitSlot
    simp only [hl]
    exact (if_neg (mt beq_iff_eq.mp ht)).trans (if_neg (mt beq_iff_eq.mp he))

section
variable {c : Bool} (ht : h.splitStay w ≠ 0) (he : h.splitLeave w ≠ 0) (hl : s.landing h (h.target w) w.slot.val = some c)
include ht he hl

theorem splitSlot_fork {n : Nat} {rest : List Nat} (hn : s.freeEntries (fragPart h.fid) = n :: rest) :
    splitSlot w h s = .done (s.fork h w c n) := by
  unfold splitSlot
  simp only [hl, hn]
  exact (if_neg (mt beq_iff_eq.mp ht)).trans (if_neg (mt beq_iff_eq.mp he))

theorem splitSlot_full (hn : s.freeEntries (fragPart h.fid) = []) : splitSlot w h s =
    if !h.t.splitSpill || 16 ≤ h.g.records then .trap { cause := .split, detail := 0, lanes := h.f.mask.toNat }
    else .done (s.serialise h w) := by
  unfold splitSlot
  simp only [hl, hn]
  exact (if_neg (mt beq_iff_eq.mp ht)).trans (if_neg (mt beq_iff_eq.mp he))

end

theorem Frame.pushPoint {p : Reg → Bool} (gid : Nat) (pt : FusePoint) : Frame h s (s.pushPoint gid pt) p := .modGroup fun _ => .rfl

/-- The points of a group are as the instruction's effect has left them. -/
theorem finish_fps {i : Instr} {g : Group} (hg : u.groups.get? h.gid = some g) :
    ∃ g', (u.finish h i).groups.get? h.gid = some g' ∧ g'.fps = g.fps :=
  Option.map_eq_some_iff.mp ((finish_keeps Group.fps (fun _ _ => rfl) i h.gid).trans (congrArg _ hg))

theorem pushPoint_group {g : Group} {gid : Nat} (pt : FusePoint) (hg : s.groups.get? gid = some g) :
    (s.pushPoint gid pt).groups.get? gid = some { g with fps := g.fps.set g.nextFp pt, nextFp := g.nextFp + 1 } := by
  rw [State.pushPoint, State.modGroup_groups, SMap.get?_modify, if_pos rfl, hg]
  rfl

/-- A free entry holds no fragment. -/
theorem freeEntries_none {part n : Nat} (hn : n ∈ s.freeEntries part) : s.frags.get? n = none := by
  simpa [SMap.has] using (List.mem_filter.mp hn).2

theorem fork_spec {c : Bool} {n : Nat} (hh : s.here = some h) (hn : s.frags.get? n = none) :
    ∃ f f' g, Frame h s ((s.fork h w c n).finish h (.split w)) noReg ∧
      ((s.fork h w c n).finish h (.split w)).groups.get? h.gid = some g ∧ g.fps = h.g.fps.set h.g.nextFp (h.splitPoint w) ∧
      ((s.fork h w c n).finish h (.split w)).frags.get? h.fid = some f ∧ f.mask = h.splitStay w ∧
      f.chain = h.g.nextFp :: h.f.chain ∧ f.sig = 0xFFFFFFFF ∧
      ((s.fork h w c n).finish h (.split w)).frags.get? n = some f' ∧ f'.mask = h.splitLeave w ∧
      f'.chain = h.g.nextFp :: h.f.chain ∧ f'.sig = 0xFFFFFFFF ∧ f'.st = .ready ∧
      f'.line = h.target w ∧ f'.slot = w.slot ∧ f'.group = h.gid := by
  obtain ⟨hf, -, hg, -⟩ := here_spec hh
  have hne : n ≠ h.fid := by
    rintro rfl
    rw [hf] at hn
    cases hn
  have hframe : Frame h s (s.fork h w c n) noReg :=
    (Frame.pushPoint h.gid (h.splitPoint w)).trans (.of_eq .rfl rfl rfl rfl)
  obtain ⟨g, hgroup, hfps⟩ := finish_fps (u := s.fork h w c n) (i := .split w) (pushPoint_group (h.splitPoint w) hg)
  have hstay : (s.fork h w c n).frags.get? h.fid =
      some { h.f with mask := h.splitStay w, chain := h.g.nextFp :: h.f.chain, sig := 0xFFFFFFFF } := by
    simp [State.fork, State.putFrag, State.pushPoint, SMap.get?_modify, SMap.get?_set, hne.symm, hf]
  obtain ⟨f, hfrag, hmask, hchain, hsig, -⟩ := finish_frag (i := .split w) hstay
  have hleave : ((s.fork h w c n).finish h (.split w)).frags.get? n = some
      { group := h.gid, line := h.target w, slot := w.slot, entry := w.slot, mask := h.splitLeave w, chain := h.g.nextFp :: h.f.chain
        last := s.stamp, uid := s.nextFrag, checkTm := c } := by
    rw [State.finish_frags_ne hne]
    simp [State.fork, State.putFrag, State.pushPoint, SMap.get?_modify, hne]
  exact ⟨f, _, g, hframe.trans (.finish _), hgroup, hfps, hfrag, hmask, hchain, hsig, hleave, rfl, rfl, rfl, rfl, rfl, rfl, rfl⟩

theorem serialise_spec (hh : s.here = some h) :
    ∃ f g, Frame h s ((s.serialise h w).finish h (.split w)) noReg ∧
      ((s.serialise h w).finish h (.split w)).groups.get? h.gid = some g ∧
      g.fps = h.g.fps.set h.g.nextFp
        { h.splitPoint w with serial := true, target := h.target w, tslot := w.slot, e := h.splitLeave w } ∧
      ((s.serialise h w).finish h (.split w)).frags.get? h.fid = some f ∧ f.mask = h.splitStay w ∧
      f.chain = h.g.nextFp :: h.f.chain ∧ f.sig = h.f.sig := by
  obtain ⟨hf, -, hg, -⟩ := here_spec hh
  have hframe : Frame h s (s.serialise h w) noReg := (Frame.pushPoint h.gid _).trans .modFrag
  obtain ⟨g, hgroup, hfps⟩ := finish_fps (u := s.serialise h w) (i := .split w) (pushPoint_group _ hg)
  have hstay : (s.serialise h w).frags.get? h.fid = some { h.f with mask := h.splitStay w, chain := h.g.nextFp :: h.f.chain } := by
    simp [State.serialise, State.pushPoint, SMap.get?_modify, hf]
  obtain ⟨f, hfrag, hmask, hchain, hsig, -⟩ := finish_frag (i := .split w) hstay
  exact ⟨f, g, hframe.trans (.finish _), hgroup, hfps, hfrag, hmask, hchain, hsig⟩

end

/-! ## FUSE -/

section
variable {w : EngW} {p k : Nat} {pt : FusePoint} {rest : List Nat}

theorem fuseSlot_offLine (hs : h.f.slot ≠ 0) : fuseSlot h s = .trap (h.decodeTrap .ri 5) := if_pos (by simpa using hs)

/-- The innermost point, if there is one, is not of this line. -/
theorem fuseSlot_elsewhere (hs : h.f.slot = 0)
    (hp : ∀ p pt, h.f.chain.head? = some p → h.g.fps.get? p = some pt → pt.line ≠ h.f.line) : fuseSlot h s = .done s := by
  unfold fuseSlot
  rw [if_neg (by simp [hs])]
  cases hc : h.f.chain with
  | nil => rfl
  | cons p rest =>
    cases hget : h.g.fps.get? p with
    | none => simp only [hget]
    | some pt =>
      have hline := hp p pt (by simp [hc]) hget
      simp [hget, hline]

/-- The recorded lanes of a serialised split run. -/
def State.runRecord (s : State) (h : Here) (p : Nat) (pt : FusePoint) : State :=
  (s.modGroup h.gid fun g => { g with fps := g.fps.set p { pt with ran := true, arrivedT := h.f.mask } }).modFrag h.fid
    fun f => f.complement pt f.chain

/-- The lanes that have arrived at a point go on as one fragment, whose signature starts anew, without the point. -/
def Frag.fused (f : Frag) (mask : W32) (chain : List Nat) : Frag := { f with mask := mask, chain := chain, sig := 0xFFFFFFFF }

/-- The fragment takes in the fragment `f` of entry `k`, which waited at its point, or becomes one with it in entry `k`. -/
def State.absorb (s : State) (h : Here) (k : Nat) (f : Frag) (mask : W32) (rest : List Nat) : State :=
  { s with frags := s.frags.erase k }.modFrag h.fid fun g => { g.fused mask rest with stopAt := g.stopAt || f.stopAt }

def State.joinInto (s : State) (h : Here) (k p : Nat) (mask : W32) : State :=
  (s.fuseAt h.gid k h.fid p mask).modFrag k fun f => { f with st := .ready, latches := [], replay := true }

/-- A point is gone, and what only it held. -/
def State.dropPoint (s : State) (gid p : Nat) : State := (s.modGroup gid fun g => { g with fps := g.fps.erase p }).reap gid

section
variable (hs : h.f.slot = 0) (hc : h.f.chain = p :: rest) (hp : h.g.fps.get? p = some pt) (hline : pt.line = h.f.line)
include hs hc hp hline

theorem fuseSlot_record (hser : pt.serial = true) (hran : pt.ran = false) : fuseSlot h s = .moved (s.runRecord h p pt) := by
  unfold fuseSlot
  rw [if_neg (by simp [hs]), hc]
  simp only [hp]
  rw [if_neg (by simp [hline]), if_pos (by simp [hser, hran])]
  rfl

variable (hd : pt.serial = false ∨ pt.ran = true)
include hd

theorem fuseSlot_last (hn : s.sharing h.gid h.fid p = []) : fuseSlot h s =
    if !pt.conserved h.f.mask pt.arrivedT then .freeze .signat
    else .done ((s.modFrag h.fid fun f => f.fused (f.mask ||| pt.arrivedT) rest).dropPoint h.gid p) := by
  have hd : (pt.serial && !pt.ran) = false := by rcases hd with h | h <;> simp [h]
  unfold fuseSlot
  rw [if_neg (by simp [hs]), hc]
  simp only [hp]
  rw [if_neg (by simp [hline]), if_neg (by simp [hd])]
  simp only [hn]
  rfl

/-- The one fragment that still shares the point waits at it: the two become one, in the lower entry. -/
theorem fuseSlot_joins {f : Frag} (hn : s.sharing h.gid h.fid p = [k]) (hk : s.frags.get? k = some f) (hst : f.st = .fusing)
    (hhead : f.chain.head? = some p) (hdisj : f.mask &&& pt.arrivedT = 0)
    (hcons : pt.conserved h.f.mask (f.mask ||| pt.arrivedT) = true) : fuseSlot h s =
    if h.fid < k then .done ((s.absorb h k f (h.f.mask ||| f.mask ||| pt.arrivedT) rest).dropPoint h.gid p)
    else .moved (s.joinInto h k p (h.f.mask ||| f.mask ||| pt.arrivedT)) := by
  have hd : (pt.serial && !pt.ran) = false := by rcases hd with h | h <;> simp [h]
  unfold fuseSlot
  rw [if_neg (by simp [hs]), hc]
  simp only [hp]
  rw [if_neg (by simp [hline]), if_neg (by simp [hd])]
  simp only [hn, List.filter_cons, List.filter_nil, hk, hst, hhead, hcons, hdisj, beq_self_eq_true, Bool.and_self, if_true]
  rfl

/-- Fragments that share the point have not all arrived. -/
theorem fuseSlot_waits {f : Frag} {ks : List Nat} (hn : s.sharing h.gid h.fid p = k :: ks) (hk : s.frags.get? k = some f)
    (hmore : ks ≠ [] ∨ f.st ≠ .fusing ∨ f.chain.head? ≠ some p) :
    fuseSlot h s = .moved (s.modFrag h.fid fun f => { f with st := .fusing, latches := [], stall := false }) := by
  have hd : (pt.serial && !pt.ran) = false := by rcases hd with h | h <;> simp [h]
  unfold fuseSlot
  rw [if_neg (by simp [hs]), hc]
  simp only [hp]
  rw [if_neg (by simp [hline]), if_neg (by simp [hd])]
  cases ks with
  | cons k' ks => simp only [hn]
  | nil =>
    have hno : (f.st == .fusing && f.chain.head? == some p) = false := by
      rcases hmore with h | h | h
      · exact absurd rfl h
      · simp [h]
      · simp [h]
    simp only [hn, List.filter_cons, List.filter_nil, hk, hno, Bool.false_eq_true, if_false]

end

end

/-! ## What a fusion leaves -/

theorem Frame.reap {q : Reg → Bool} (gid : Nat) : Frame h s (s.reap gid) q := by
  unfold State.reap
  extract_lets live u fps
  have hu : Frame h s u q := .modGroup fun _ => .rfl
  exact hu.trans .setFrags

theorem Frame.dropPoint {q : Reg → Bool} (gid p : Nat) : Frame h s (s.dropPoint gid p) q := by
  have hu : Frame h s (s.modGroup gid fun g => { g with fps := g.fps.erase p }) q := .modGroup fun _ => .rfl
  exact hu.trans (.reap gid)

theorem dropPoint_frag {gid p k : Nat} {f : Frag} (hf : s.frags.get? k = some f) (hst : f.st ≠ .gone) :
    (s.dropPoint gid p).frags.get? k = some f := reap_frag hf hst

theorem dropPoint_frag_none {gid p k : Nat} (hf : s.frags.get? k = none) : (s.dropPoint gid p).frags.get? k = none := reap_frag_none hf

theorem dropPoint_group {gid p : Nat} {g : Group} (hg : s.groups.get? gid = some g) :
    ∃ g', (s.dropPoint gid p).groups.get? gid = some g' ∧ g'.fps.get? p = none := by
  obtain ⟨g', hg', -, hfps⟩ := reap_group (modGroup_group (φ := fun g => { g with fps := g.fps.erase p }) hg)
  refine ⟨g', hg', ?_⟩
  rw [hfps]
  exact SMap.get?_filterE_of_none (by rw [SMap.get?_erase, if_pos rfl])

theorem sharing_ne {gid fid p k : Nat} (hk : k ∈ s.sharing gid fid p) : k ≠ fid := by
  have hmem := (List.mem_filter.mp hk).2
  simp only [Bool.and_eq_true, bne_iff_ne] at hmem
  exact hmem.1

/-- A fragment at slot 0 of its line goes on at slot 1, and no FUSE moves a signature. -/
theorem finish_fuse {w : EngW} {f : Frag} (hf : u.frags.get? h.fid = some f) (hs : f.slot = 0) :
    ∃ f', (u.finish h (.fuse w)).frags.get? h.fid = some f' ∧ f'.mask = f.mask ∧ f'.chain = f.chain ∧ f'.sig = f.sig ∧
      f'.line = f.line ∧ f'.slot = 1 := by
  obtain ⟨f', hget, hmask, hchain, hsig, hline, hslot⟩ := finish_frag (i := .fuse w) hf
  rw [hs] at hline hslot
  exact ⟨f', hget, hmask, hchain, hsig, hline, Fin.ext hslot⟩

theorem fuseAt_spec {gid drop p k : Nat} {f : Frag} {mask : W32} (hne : k ≠ drop) (hk : s.frags.get? k = some f) (hst : f.st ≠ .gone) :
    Frame h s (s.fuseAt gid k drop p mask) noReg ∧ (s.fuseAt gid k drop p mask).frags.get? drop = none ∧
      ∃ x, (s.fuseAt gid k drop p mask).frags.get? k = some x ∧ x.mask = mask ∧ x.sig = 0xFFFFFFFF ∧ x.slot = 1 := by
  unfold State.fuseAt
  extract_lets stop u v
  have hv : v = { u with frags := u.frags.erase drop } := if_neg (by simpa using hne)
  have hnone : v.frags.get? drop = none := by rw [hv, SMap.get?_erase, if_pos rfl]
  have hframe : Frame h s v noReg := by
    rw [hv]
    exact Frame.modFrag.trans .setFrags
  obtain ⟨x, hx, hlive, hspec⟩ : ∃ x, v.frags.get? k = some x ∧ x.st ≠ .gone ∧
      x.mask = mask ∧ x.sig = 0xFFFFFFFF ∧ x.slot = 1 := by
    rw [hv, SMap.get?_erase, if_neg hne]
    exact ⟨_, modFrag_frag hk, hst, rfl, rfl, rfl⟩
  exact ⟨hframe.trans (.dropPoint gid p), dropPoint_frag_none hnone, x, dropPoint_frag hx hlive, hspec⟩

section
variable {w : EngW} {p k : Nat} {pt : FusePoint} {rest : List Nat} (hr : Runs (.fuse w) h s)
include hr

/-- FUSE neither moves a signature nor closes a region: what places its fragment is all of its effect. -/
theorem fuse_moved (ha : fuseSlot h s = .moved u) : exec (.fuse w) s = .next u := by
  have hrow : exec (.fuse w) s = execFuse w s := rfl
  rw [hr.moved hrow ha, account_self rfl rfl]

theorem runRecord_spec : ∃ f g, Frame h s (s.runRecord h p pt) noReg ∧ (s.runRecord h p pt).frags.get? h.fid = some f ∧
    f.mask = pt.e ∧ f.line = pt.target ∧ f.slot = pt.tslot ∧ f.chain = h.f.chain ∧
    (s.runRecord h p pt).groups.get? h.gid = some g ∧ g.fps.get? p = some { pt with ran := true, arrivedT := h.f.mask } := by
  obtain ⟨hf, -, hg, -⟩ := here_spec hr.here
  obtain ⟨-, hmask, hchain, hline, hslot, -⟩ := h.f.complement_spec pt h.f.chain
  have hrecord : Frame h s (s.modGroup h.gid fun g => { g with fps := g.fps.set p { pt with ran := true, arrivedT := h.f.mask } }) noReg :=
    .modGroup fun _ => .rfl
  exact ⟨_, _, hrecord.trans .modFrag, modFrag_frag hf, hmask, hline, hslot, hchain, modGroup_group hg, SMap.get?_set_self ..⟩

/-- The last arrival at a point goes on alone. -/
theorem fused_spec {mask : W32} (hs : h.f.slot = 0) :
    ∃ f g, Frame h s (((s.modFrag h.fid fun f => f.fused (f.mask ||| mask) rest).dropPoint h.gid p).finish h (.fuse w)) noReg ∧
      (((s.modFrag h.fid fun f => f.fused (f.mask ||| mask) rest).dropPoint h.gid p).finish h (.fuse w)).frags.get? h.fid = some f ∧
      f.mask = h.f.mask ||| mask ∧ f.chain = rest ∧ f.sig = 0xFFFFFFFF ∧ f.line = h.f.line ∧ f.slot = 1 ∧
      (((s.modFrag h.fid fun f => f.fused (f.mask ||| mask) rest).dropPoint h.gid p).finish h (.fuse w)).groups.get? h.gid = some g ∧
      g.fps.get? p = none := by
  obtain ⟨hf, -, hg, -⟩ := here_spec hr.here
  have hfused : (s.modFrag h.fid fun f => f.fused (f.mask ||| mask) rest).frags.get? h.fid = some (h.f.fused (h.f.mask ||| mask) rest) :=
    modFrag_frag hf
  have hlive : (h.f.fused (h.f.mask ||| mask) rest).st ≠ .gone := fun hgone => nomatch hr.st.symm.trans hgone
  obtain ⟨f, hget, hmask, hchain, hsig, hline, hslot⟩ := finish_fuse (w := w) (dropPoint_frag (gid := h.gid) (p := p) hfused hlive) hs
  obtain ⟨g, hgroup, hnone⟩ := dropPoint_group (s := s.modFrag h.fid fun f => f.fused (f.mask ||| mask) rest) (p := p) hg
  obtain ⟨g', hgroup', hfps⟩ := finish_fps (i := .fuse w) hgroup
  exact ⟨f, g', (Frame.modFrag.trans (.dropPoint _ _)).trans (.finish _), hget, hmask, hchain, hsig, hline, hslot, hgroup',
    by rw [hfps]; exact hnone⟩

/-- The fragment takes in the one that waited at its point, whose entry is free. -/
theorem absorb_spec {f : Frag} {mask : W32} (hs : h.f.slot = 0) (hne : k ≠ h.fid)
    (ha : fuseSlot h s = .done ((s.absorb h k f mask rest).dropPoint h.gid p)) :
    ∃ u x, exec (.fuse w) s = .next u ∧ Frame h s u noReg ∧ u.frags.get? h.fid = some x ∧
      x.mask = mask ∧ x.sig = 0xFFFFFFFF ∧ x.slot = 1 ∧ u.frags.get? k = none := by
  obtain ⟨hf, -⟩ := here_spec hr.here
  have hrow : exec (.fuse w) s = execFuse w s := rfl
  obtain ⟨x, hx, hlive, hslot, hmask, hsig⟩ : ∃ x, (s.absorb h k f mask rest).frags.get? h.fid = some x ∧ x.st ≠ .gone ∧
      x.slot = 0 ∧ x.mask = mask ∧ x.sig = 0xFFFFFFFF := by
    have hkept : { s with frags := s.frags.erase k }.frags.get? h.fid = some h.f := by rw [SMap.get?_erase, if_neg hne.symm, hf]
    exact ⟨_, modFrag_frag hkept, fun hgone => (nomatch hr.st.symm.trans hgone), hs, rfl, rfl⟩
  have hnone : (s.absorb h k f mask rest).frags.get? k = none := by
    rw [State.absorb, modFrag_frag_ne hne, SMap.get?_erase, if_pos rfl]
  have hframe : Frame h s (s.absorb h k f mask rest) noReg := Frame.setFrags.trans .modFrag
  obtain ⟨x', hget, hmask', -, hsig', -, hslot'⟩ := finish_fuse (w := w) (dropPoint_frag (gid := h.gid) (p := p) hx hlive) hslot
  exact ⟨_, x', hr.completes hrow ha, (hframe.trans (.dropPoint _ _)).trans (.finish _), hget, hmask'.trans hmask, hsig'.trans hsig,
    hslot', (State.finish_frags_ne hne).trans (dropPoint_frag_none hnone)⟩

/-- The fragment becomes one with the one that waited at its point, in that one's entry. -/
theorem joinInto_spec {f : Frag} {mask : W32} (hne : k ≠ h.fid) (hk : s.frags.get? k = some f) (hst : f.st ≠ .gone)
    (ha : fuseSlot h s = .moved (s.joinInto h k p mask)) :
    ∃ u x, exec (.fuse w) s = .next u ∧ Frame h s u noReg ∧ u.frags.get? k = some x ∧
      x.mask = mask ∧ x.sig = 0xFFFFFFFF ∧ x.slot = 1 ∧ u.frags.get? h.fid = none := by
  obtain ⟨hframe, hnone, x, hx, hmask, hsig, hslot⟩ := fuseAt_spec (h := h) (gid := h.gid) (p := p) (mask := mask) hne hk hst
  exact ⟨_, _, fuse_moved hr ha, hframe.trans .modFrag, modFrag_frag hx, hmask, hsig, hslot,
    (modFrag_frag_ne hne.symm).trans hnone⟩

end

end Sys2Proof.Machine

open Sys2Proof Sys2Proof.Machine

/-- Settles O20: a SPLIT ends by which of its two lane sets are empty and by the room for the other lanes; a FUSE by what of its
innermost point is still under way. -/
theorem splitAndFuse : Obligations.SplitAndFuse := by
  unfold Obligations.SplitAndFuse
  refine ⟨fun s h w hr => ?split, fun s h w hr => ?fuse⟩
  case split =>
    intro k t e land p
    have hrow : exec (.split w) s = execSplit w s := rfl
    refine ⟨fun ht he => hr.completes hrow (splitSlot_all ht he), fun ht => hr.transfers_only hrow (splitSlot_none ht),
      fun hl he => hr.traps hrow (splitSlot_target hl he), fun c n rest ht he hl hn => ?_, fun c ht he hl hn => ⟨fun hroom => ?_,
      fun hspill hroom => ?_⟩⟩
    · obtain ⟨f, f', g, hspec⟩ := fork_spec (w := w) (c := c) hr.here (freeEntries_none (hn ▸ List.mem_cons_self))
      exact ⟨_, f, f', g, hr.completes hrow (splitSlot_fork ht he hl hn), hspec⟩
    · exact hr.traps hrow ((splitSlot_full ht he hl hn).trans (if_pos (by simpa using hroom)))
    · obtain ⟨f, g, hspec⟩ := serialise_spec (w := w) hr.here
      have hslot := (splitSlot_full ht he hl hn).trans (if_neg (by simpa [hspill] using hroom))
      exact ⟨_, f, g, hr.completes hrow hslot, hspec⟩
  case fuse =>
    have hrow : exec (.fuse w) s = execFuse w s := rfl
    refine ⟨fun hs => hr.traps hrow (fuseSlot_offLine hs), fun hs hp => hr.completes hrow (fuseSlot_elsewhere hs hp),
      fun p rest pt hs hc hp hline => ⟨fun hser hran => ?_, fun hd hn hcons => ?_, fun hd hn hcons => ?_,
        fun k f' hd hn hk hst hhead hdisj hcons => ?_, fun k f' ks hd hn hk hmore => ?_⟩⟩
    · obtain ⟨f, g, hspec⟩ := runRecord_spec (p := p) (pt := pt) hr
      exact ⟨_, f, g, fuse_moved hr (fuseSlot_record hs hc hp hline hser hran), hspec⟩
    · have hslot := (fuseSlot_last hs hc hp hline hd hn).trans (if_neg (by simp [hcons]))
      obtain ⟨f, g, hspec⟩ := fused_spec (p := p) (rest := rest) (mask := pt.arrivedT) hr hs
      exact ⟨_, f, g, hr.completes hrow hslot, hspec⟩
    · exact hr.freezes hrow ((fuseSlot_last hs hc hp hline hd hn).trans (if_pos (by simp [hcons])))
    · have hne : k ≠ h.fid := sharing_ne (hn ▸ List.mem_cons_self)
      have hslot := fuseSlot_joins hs hc hp hline hd hn hk hst hhead hdisj hcons
      by_cases hlt : h.fid < k
      · rw [Nat.min_eq_left hlt.le, Nat.max_eq_right hlt.le]
        exact absorb_spec hr hs hne (hslot.trans (if_pos hlt))
      · rw [Nat.min_eq_right (not_lt.mp hlt), Nat.max_eq_left (not_lt.mp hlt)]
        exact joinInto_spec hr hne hk (by simp [hst]) (hslot.trans (if_neg hlt))
    · obtain ⟨hf, -⟩ := here_spec hr.here
      exact ⟨_, _, fuse_moved hr (fuseSlot_waits hs hc hp hline hd hn hk hmore), .modFrag, rfl, modFrag_frag hf, rfl, rfl, rfl, rfl⟩

end

section
/-! Team barriers, cluster membership and the cluster barrier (spec/07 R149 to R153). -/

set_option Elab.async false

namespace Sys2Proof.Machine

variable {s t u : State} {h : Here} {p : Reg → Bool}

/-! ## Team instructions -/

/-- A team instruction that may run is past its check of R148. -/
theorem RunsSole.past {i : Instr} {r res : SlotResult} (hr : RunsSole i h s) (ha : r = res) :
    (if !s.sole h then .trap h.splitTrap else r) = res :=
  (if_neg (ne_true_of_eq_false (congrArg not hr.sole))).trans ha

theorem live_of_mem {gid x : Nat} (hx : x ∈ s.fragsOf gid) : s.live gid = true := by
  simpa [State.live] using List.ne_nil_of_mem hx

/-- The executing group is a live one of its team. -/
theorem Runs.mem_liveGroups {i : Instr} (hr : Runs i h s) : h.gid ∈ s.liveGroups h.tid := by
  obtain ⟨hf, hgid, hg, htid, -⟩ := here_spec hr.here
  have hlive : h.fid ∈ s.fragsOf h.gid := mem_fragsOf hf hgid (by simp [hr.st])
  exact List.mem_filter.mpr ⟨mem_groupsOf.mpr ⟨(h.gid, h.g), SMap.mem_of_get? hg, rfl, htid⟩, live_of_mem hlive⟩

/-! ## Releasing parked fragments -/

/-- What the end of its parked instruction makes of a fragment. -/
def Frag.ended (f : Frag) : Frag :=
  match f.mark.advance.st with
  | .issuing => { f.mark.advance.release with replay := true }
  | _ => f.mark.advance

theorem Frag.release_freed (f : Frag) : f.release.Freed := by
  by_cases hhold : f.hold = true
  · exact .inr (if_pos hhold)
  · exact .inl (if_neg hhold)

theorem Frag.ended_freed (f : Frag) : f.ended.Freed := by
  unfold ended
  by_cases hlt : f.mark.slot.val < 4
  · have hst : f.mark.advance.st = .issuing := by rw [Frag.advance, if_pos hlt]
    simp only [hst]
    exact f.mark.advance.release_freed
  · have hadv : f.mark.advance = f.mark.leave (f.mark.line + 64) 0 := if_neg hlt
    rw [hadv]
    obtain hst | hst := f.mark.leave_freed (f.mark.line + 64) 0
    · simp only [hst]
      exact .inl hst
    · simp only [hst]
      exact .inr hst

theorem finishParked_eq {k : Nat} {f : Frag} (hf : s.frags.get? k = some f) :
    s.finishParked k = (s.account k f.group (Fields.ofWord (lineSlot f.buf f.slot.val))).modFrag k Frag.ended := by
  unfold State.finishParked
  rw [hf]
  rfl

theorem finishParked_freed {k : Nat} {f : Frag} (hf : s.frags.get? k = some f) :
    ∃ f', (s.finishParked k).frags.get? k = some f' ∧ f'.Freed := by
  have haccount := State.account_frags s k f.group (Fields.ofWord (lineSlot f.buf f.slot.val)) k
  rw [if_pos rfl, hf] at haccount
  rw [finishParked_eq hf]
  exact ⟨_, modFrag_frag haccount, Frag.ended_freed _⟩

theorem finishParked_frag_ne {j k : Nat} (hj : j ≠ k) : (s.finishParked k).frags.get? j = s.frags.get? j := by
  cases hf : s.frags.get? k with
  | none => simp [State.finishParked, hf]
  | some f => rw [finishParked_eq hf, modFrag_frag_ne hj, State.account_frags, if_neg hj]

theorem foldl_finishParked_stays {k : Nat} (l : List Nat) {s : State} {f : Frag} (hf : s.frags.get? k = some f) (hfree : f.Freed) :
    ∃ f', (l.foldl State.finishParked s).frags.get? k = some f' ∧ f'.Freed := by
  induction l generalizing s f with
  | nil => exact ⟨f, hf, hfree⟩
  | cons j l ih =>
    by_cases hj : k = j
    · obtain ⟨f', hf', hfree'⟩ := finishParked_freed (hj ▸ hf)
      exact ih (hj ▸ hf') hfree'
    · exact ih ((finishParked_frag_ne hj).trans hf) hfree

/-- Every fragment of the list is released. -/
theorem foldl_finishParked_freed {k : Nat} {l : List Nat} (hk : k ∈ l) {s : State} {f : Frag} (hf : s.frags.get? k = some f) :
    ∃ f', (l.foldl State.finishParked s).frags.get? k = some f' ∧ f'.Freed := by
  induction l generalizing s f with
  | nil => cases hk
  | cons j l ih =>
    by_cases hj : k = j
    · obtain ⟨f', hf', hfree⟩ := finishParked_freed (hj ▸ hf)
      exact foldl_finishParked_stays l (hj ▸ hf') hfree
    · exact ih ((List.mem_cons.mp hk).resolve_left hj) ((finishParked_frag_ne hj).trans hf)

/-! ## Team barriers -/

/-- The team's fragments that wait in a generation of a barrier are released. -/
def State.releaseBar (s : State) (tid id gen : Nat) : State :=
  (s.frags.filter fun e => e.2.st == .parked (.bar id gen) && ((s.groups.get? e.2.group).map Group.team) == some tid).foldl
    (fun s e => s.finishParked e.1) s

theorem Frame.releaseBar (tid id gen : Nat) : Frame h s (s.releaseBar tid id gen) p := .foldl (fun _ _ => .finishParked _) _ _

theorem releaseBar_teams (s : State) (tid id gen : Nat) : (s.releaseBar tid id gen).teams = s.teams :=
  foldl_keeps State.teams (fun _ _ => finishParked_teams _ _) _ _

theorem releaseBar_freed {tid id gen k : Nat} {f : Frag} (hf : s.frags.get? k = some f) (hst : f.st = .parked (.bar id gen))
    (hteam : (s.groups.get? f.group).map Group.team = some tid) :
    ∃ f', (s.releaseBar tid id gen).frags.get? k = some f' ∧ f'.Freed := by
  have hk : k ∈ (s.frags.filter fun e => e.2.st == .parked (.bar id gen) &&
      ((s.groups.get? e.2.group).map Group.team) == some tid).map (·.1) :=
    List.mem_map.mpr ⟨(k, f), List.mem_filter.mpr ⟨SMap.mem_of_get? hf, by simp [hst, hteam]⟩, rfl⟩
  have hfreed := foldl_finishParked_freed hk hf
  rw [List.foldl_map] at hfreed
  exact hfreed

/-- The arrivals that a barrier needs: its count of groups, 0 for all of them, but of the live ones only. -/
def Bar.need (b : Bar) (live : Nat) : Nat := if b.count = 0 then live else min b.count live

/-- The barrier after its generation has completed, and the team with it. -/
def Bar.next (b : Bar) : Bar := { b with gen := b.gen + 1, arrived := 0 }
def State.nextGen (s : State) (tid id : Nat) (b : Bar) : State :=
  s.modTeam tid fun t => { t with bars := t.bars.setD {} id b.next }

theorem settleBar_eq {tid id : Nat} {x : Team} (hx : s.teams.get? tid = some x) (ha : (x.bars.getD {} id).arrived ≠ 0)
    (hl : (s.liveGroups tid).length ≠ 0) : s.settleBar tid id =
      if (x.bars.getD {} id).need (s.liveGroups tid).length ≤ (x.bars.getD {} id).arrived then
        (s.nextGen tid id (x.bars.getD {} id)).releaseBar tid id (x.bars.getD {} id).gen
      else s := by
  unfold State.settleBar
  simp only [hx, Bar.need, beq_iff_eq, Bool.and_eq_true, bne_iff_ne, ne_eq, ha, hl, not_false_eq_true, true_and, decide_eq_true_eq]
  rfl

section
variable {w : EngW}

/-- The number of a TBAR's barrier, and that barrier with the TBAR's arrival counted. -/
def tbarId (w : EngW) : Nat := w.imm.toNat % 16
def Here.arrival (h : Here) (w : EngW) : Bar :=
  { h.t.bars.getD {} (tbarId w) with arrived := (h.t.bars.getD {} (tbarId w)).arrived + 1, count := bitsN w.imm.toNat 15 8 }

/-- The state in which a TBAR has arrived. -/
def State.arrived (s : State) (h : Here) (w : EngW) : State :=
  s.modTeam h.tid fun t => { t with bars := t.bars.setD {} (tbarId w) (h.arrival w) }

/-- The state in which a TBAR has ended its barrier's generation. -/
def State.barEnded (s : State) (h : Here) (w : EngW) : State :=
  ((s.arrived h w).nextGen h.tid (tbarId w) (h.arrival w)).releaseBar h.tid (tbarId w) (h.arrival w).gen

/-- The generation that a team's barrier is in. -/
def State.barGen (s : State) (tid id : Nat) : Nat :=
  match s.teams.get? tid with
  | some t => (t.bars.getD {} id).gen
  | none => 0

theorem barGen_eq {tid id : Nat} {x : Team} (hx : s.teams.get? tid = some x) : s.barGen tid id = (x.bars.getD {} id).gen := by
  unfold State.barGen
  rw [hx]

/-- A TBAR goes on when it only arrives or its arrival has ended the generation, and else waits. -/
theorem exec_tbar (hr : RunsSole (.tbar w) h s) (hb : s.sideBusy h = false) : exec (.tbar w) s = .next (s.conclude h (.tbar w)
    (if w.imm.toNat.testBit 4 ||
        ((s.arrived h w).settleBar h.tid (tbarId w)).barGen h.tid (tbarId w) != (h.t.bars.getD {} (tbarId w)).gen then
      .done ((s.arrived h w).settleBar h.tid (tbarId w))
    else .park (.bar (tbarId w) (h.t.bars.getD {} (tbarId w)).gen) ((s.arrived h w).settleBar h.tid (tbarId w)))) := by
  have hrow : exec (.tbar w) s = execTbar w s := rfl
  exact hr.exec_eq hrow (hr.past (if_neg (Bool.eq_false_iff.mp hb)))

section
variable (hr : RunsSole (.tbar w) h s) (hb : s.sideBusy h = false)
include hr

theorem arrived_team : ∃ x, (s.arrived h w).teams.get? h.tid = some x ∧ x.bars.getD {} (tbarId w) = h.arrival w := by
  obtain ⟨-, -, -, -, ht, -⟩ := here_spec hr.here
  exact ⟨_, modTeam_team ht, SMap.getD_setD_self ..⟩

theorem settleBar_arrived : (s.arrived h w).settleBar h.tid (tbarId w) =
    if (h.arrival w).need (s.liveGroups h.tid).length ≤ (h.arrival w).arrived then s.barEnded h w else s.arrived h w := by
  obtain ⟨x, hx, hbar⟩ := arrived_team hr
  have hlive : ((s.arrived h w).liveGroups h.tid).length ≠ 0 :=
    (List.length_pos_of_mem (a := h.gid) (l := s.liveGroups h.tid) hr.mem_liveGroups).ne'
  have heq := settleBar_eq (id := tbarId w) hx (by rw [hbar]; exact Nat.succ_ne_zero _) hlive
  rw [hbar] at heq
  exact heq

theorem barEnded_team : ∃ x, (s.barEnded h w).teams.get? h.tid = some x ∧
    x.bars.getD {} (tbarId w) = (h.arrival w).next := by
  obtain ⟨x, hx, -⟩ := arrived_team hr
  have hteams : (s.barEnded h w).teams = ((s.arrived h w).nextGen h.tid (tbarId w) (h.arrival w)).teams := releaseBar_teams _ _ _ _
  have hbar : (x.bars.setD {} (tbarId w) (h.arrival w).next).getD {} (tbarId w) = (h.arrival w).next := SMap.getD_setD_self ..
  exact ⟨_, (congrArg (SMap.get? · h.tid) hteams).trans (modTeam_team hx), hbar⟩

include hb

theorem tbar_ends (hn : (h.arrival w).need (s.liveGroups h.tid).length ≤ (h.arrival w).arrived) :
    CompletesQuiet (.tbar w) h s (s.barEnded h w) noReg := by
  obtain ⟨x, hx, hbar⟩ := barEnded_team hr
  have hgen : ((s.barEnded h w).barGen h.tid (tbarId w) != (h.t.bars.getD {} (tbarId w)).gen) = true := by
    rw [barGen_eq hx, hbar]
    exact bne_iff_ne.mpr (Nat.succ_ne_self _)
  have hframe : Frame h s (s.barEnded h w) noReg := (Frame.modTeam.trans .modTeam).trans (.releaseBar _ _ _)
  refine ⟨?_, hframe.trans (.finish _)⟩
  rw [Completes, exec_tbar hr hb, (settleBar_arrived hr).trans (if_pos hn), hgen, Bool.or_true, if_pos rfl]
  rfl

theorem tbar_early (hn : (h.arrival w).arrived < (h.arrival w).need (s.liveGroups h.tid).length) : exec (.tbar w) s = .next
    (s.conclude h (.tbar w) (if w.imm.getLsbD 4 then .done (s.arrived h w)
      else .park (.bar (tbarId w) (h.t.bars.getD {} (tbarId w)).gen) (s.arrived h w))) := by
  obtain ⟨x, hx, hbar⟩ := arrived_team hr
  have hgen : (s.arrived h w).barGen h.tid (tbarId w) = (h.t.bars.getD {} (tbarId w)).gen := by
    rw [barGen_eq hx, hbar]
    rfl
  rw [exec_tbar hr hb, (settleBar_arrived hr).trans (if_neg (not_le.mpr hn)), hgen, bne_self_eq_false, Bool.or_false]
  rfl

end

end

/-! ## Clusters -/

theorem Frame.settleOnce (key : Nat) : Frame h s (s.settleOnce key) p := by
  unfold State.settleOnce
  extract_lets c counted groups late
  split
  next u _ =>
    have hu : Frame h s u p := .of_eq .rfl (Eq.refl _) (Eq.refl _) (Eq.refl _)
    exact hu.trans (.foldl (fun _ _ => .finishParked _) _ _)
  · exact .rfl

theorem Frame.settleCluster (key : Nat) : Frame h s (s.settleCluster key) p := (Frame.settleOnce key).trans (.settleOnce key)

theorem Frame.leaveCluster (tid : Nat) : Frame h s (s.leaveCluster tid) p := by
  unfold State.leaveCluster
  split
  · exact .rfl
  · split
    · exact .rfl
    · exact Frame.modTeam.trans (.settleCluster _)

theorem settleOnce_teams (s : State) (key : Nat) : (s.settleOnce key).teams = s.teams := by
  unfold State.settleOnce
  extract_lets c counted groups late
  split
  · exact foldl_keeps State.teams (fun _ _ => finishParked_teams _ _) _ _
  · rfl

theorem settleCluster_teams (s : State) (key : Nat) : (s.settleCluster key).teams = s.teams :=
  (settleOnce_teams _ _).trans (settleOnce_teams _ _)

theorem leaveCluster_member {tid : Nat} {x : Team} (hx : s.teams.get? tid = some x) :
    ((s.leaveCluster tid).teams.get? tid).map Team.member = some false := by
  unfold State.leaveCluster
  rw [hx]
  by_cases hm : x.member = true
  · simp only [hm, Bool.not_true, Bool.false_eq_true, if_false, settleCluster_teams]
    rw [modTeam_team hx]
    rfl
  · simp [hm, hx]

section
variable {w : EngW}

/-- A member of the cluster of the fragment's team is being saved or saved. -/
def State.joinAway (s : State) (h : Here) : Bool :=
  (s.members (clusterKey h.t)).any fun t => (s.teams.get? t).any fun x => x.saved || x.saving

/-- The team may become a member of its cluster. -/
def State.mayJoin (s : State) (h : Here) : Bool :=
  ((s.launches.get? h.t.launch).any fun l => l.clw * l.clh != 1 && !h.t.fragTeam) &&
    (s.memberAt h.t.launch h.t.cluster h.t.coreslot).isNone

theorem mayJoin_false (hno : ∀ l, s.launches.get? h.t.launch = some l → l.clw * l.clh = 1 ∨ h.t.fragTeam = true ∨
    s.memberAt h.t.launch h.t.cluster h.t.coreslot ≠ none) : s.mayJoin h = false := by
  unfold State.mayJoin
  cases hl : s.launches.get? h.t.launch with
  | none => rfl
  | some l =>
    rcases hno l hl with hshape | hfrag | hslot
    · simp [hshape]
    · simp [hfrag]
    · simp [Option.isNone_eq_false_iff.mpr (Option.isSome_iff_ne_none.mpr hslot)]

/-- The team is a member, counted from the next generation on. -/
def State.joined (s : State) (h : Here) : State :=
  s.modTeam h.tid fun t => { t with member := true, joined := (s.clusters.getD {} (clusterKey h.t)).gen + 1 }

theorem exec_cjoin (hr : RunsSole (.cjoin w) h s) : exec (.cjoin w) s = .next (s.conclude h (.cjoin w)
    (if s.joinAway h then .stall else
      .done ((if (h.t.member || s.mayJoin h) && !h.t.member then s.joined h else s).setFlag h.gid w.dst (h.t.member || s.mayJoin h)))) := by
  have hrow : exec (.cjoin w) s = execCjoin w s := rfl
  refine hr.exec_eq hrow (hr.past (congrArg₂ (fun (a : Bool) (r : SlotResult) => if a then .stall else r) ?_ ?_))
  · refine congrArg (List.any _) (funext fun t => ?_)
    cases s.teams.get? t <;> rfl
  · unfold State.mayJoin
    cases s.launches.get? h.t.launch <;> rfl

theorem cjoin_waits (hr : RunsSole (.cjoin w) h s) (ha : s.joinAway h = true) : Stalls (.cjoin w) h s := by
  rw [Stalls, exec_cjoin hr, if_pos ha]
  rfl

theorem cjoin_joins (hr : RunsSole (.cjoin w) h s) (ha : s.joinAway h = false) (hm : h.t.member = false) (hj : s.mayJoin h = true) :
    CompletesQuiet (.cjoin w) h s ((s.joined h).setFlag h.gid w.dst true) (dstRegs w.dst false) := by
  refine ⟨?_, (Frame.modTeam.trans (.setFlag _ _)).trans (.finish _)⟩
  rw [Completes, exec_cjoin hr, ha, hm, hj]
  rfl

/-- Without a change of membership the flag says what the team is. -/
theorem cjoin_answers (hr : RunsSole (.cjoin w) h s) (ha : s.joinAway h = false) (hj : h.t.member = true ∨ s.mayJoin h = false) :
    CompletesQuiet (.cjoin w) h s (s.setFlag h.gid w.dst h.t.member) (dstRegs w.dst false) := by
  refine ⟨?_, (Frame.setFlag _ _).trans (.finish _)⟩
  rw [Completes, exec_cjoin hr, ha]
  cases hm : h.t.member with
  | true => rfl
  | false =>
    rw [hj.resolve_left (by simp [hm])]
    rfl

/-- A team counted only from the next generation on arrives for that one. -/
def State.cbarLate (s : State) (h : Here) : Bool := decide ((s.clusters.getD {} (clusterKey h.t)).gen < h.t.joined)

/-- The generation for which a CBAR arrives, and its cluster with the arrival. -/
def State.cbarGen (s : State) (h : Here) : Nat :=
  if s.cbarLate h then (s.clusters.getD {} (clusterKey h.t)).gen + 1 else (s.clusters.getD {} (clusterKey h.t)).gen
def State.cbarRecord (s : State) (h : Here) : Cluster :=
  let c := s.clusters.getD {} (clusterKey h.t)
  if s.cbarLate h then { c with late := (h.gid :: c.late).dedup } else { c with arrived := (h.gid :: c.arrived).dedup }

/-- The state in which a CBAR has arrived, `c` being its cluster with the arrival, and how the CBAR ends. -/
def State.cbarArrived (s : State) (h : Here) (c : Cluster) : State :=
  { s with clusters := s.clusters.setD {} (clusterKey h.t) c }.settleCluster (clusterKey h.t)
def cbarEnd (w : EngW) (h : Here) (s : State) (c : Cluster) (g : Nat) : SlotResult :=
  if w.imm.getLsbD 4 || g < ((s.cbarArrived h c).clusters.getD {} (clusterKey h.t)).gen then .done (s.cbarArrived h c)
  else .park (.cbar g) (s.cbarArrived h c)

theorem exec_cbar (hr : RunsSole (.cbar w) h s) (hm : h.t.member = true) (hb : s.sideBusy h = false) :
    exec (.cbar w) s = .next (s.conclude h (.cbar w) (cbarEnd w h s (s.cbarRecord h) (s.cbarGen h))) := by
  have hrow : exec (.cbar w) s = execCbar w s := rfl
  refine hr.exec_eq hrow (hr.past ((if_neg (by simp [hm])).trans ((if_neg (by simp [hb])).trans ?_)))
  exact congrArg₂ (cbarEnd w h s) (if_congr decide_eq_true_iff.symm rfl rfl) (if_congr decide_eq_true_iff.symm rfl rfl)

theorem Frame.cbarArrived (c : Cluster) : Frame h s (s.cbarArrived h c) p := by
  have hclusters {cs : SMap Cluster} : Frame h s { s with clusters := cs } p := .of_eq .rfl (Eq.refl _) (Eq.refl _) (Eq.refl _)
  exact hclusters.trans (.settleCluster _)

theorem cbar_ends (hr : RunsSole (.cbar w) h s) (hm : h.t.member = true) (hb : s.sideBusy h = false)
    (hend : w.imm.getLsbD 4 = true ∨ s.cbarGen h < ((s.cbarArrived h (s.cbarRecord h)).clusters.getD {} (clusterKey h.t)).gen) :
    CompletesQuiet (.cbar w) h s (s.cbarArrived h (s.cbarRecord h)) noReg := by
  refine ⟨?_, (Frame.cbarArrived _).trans (.finish _)⟩
  rw [Completes, exec_cbar hr hm hb, cbarEnd, if_pos (by simpa using hend)]
  rfl

theorem cbar_waits (hr : RunsSole (.cbar w) h s) (hm : h.t.member = true) (hb : s.sideBusy h = false) (him : w.imm.getLsbD 4 = false)
    (hgen : ((s.cbarArrived h (s.cbarRecord h)).clusters.getD {} (clusterKey h.t)).gen ≤ s.cbarGen h) :
    Parks (.cbar w) h s (s.cbarArrived h (s.cbarRecord h)) (.cbar (s.cbarGen h)) := by
  rw [Parks, exec_cbar hr hm hb, cbarEnd, him, Bool.false_or, if_neg (by simpa using hgen)]
  rfl

end

end Sys2Proof.Machine

open Sys2Proof Sys2Proof.Machine

/-- Settles O23: an arrival at a barrier is recorded first, and the generation then ends or does not; a membership changes the team's
entry alone, and what waits at the cluster barrier. -/
theorem teamAndClusterBarriers : Obligations.TeamAndClusterBarriers := by
  unfold Obligations.TeamAndClusterBarriers
  refine ⟨fun s h w hr hb => ?team, fun s h w => ?cluster⟩
  case team =>
    intro id b count live need arrived
    refine ⟨fun hn => ?_, fun hn him => ?_, fun hn him => ?_⟩
    · obtain ⟨x, hx, hbar⟩ := barEnded_team hr
      exact ⟨_, x, tbar_ends hr hb hn, hx, hbar, fun k f hf hst hteam => releaseBar_freed hf hst hteam⟩
    · refine ⟨(tbar_early hr hb hn).trans ?_, Frame.modTeam.trans (.finish _)⟩
      rw [him, if_pos rfl]
      rfl
    · refine (tbar_early hr hb hn).trans ?_
      rw [him, if_neg Bool.false_ne_true]
      rfl
  case cluster =>
    intro key c late c' u g
    refine ⟨fun i hi hr hm hb => ?stall, ?rest⟩
    case stall =>
      simp only [List.mem_cons, List.not_mem_nil, or_false] at hi
      rcases hi with rfl | rfl
      · have hrow : exec (.tbar w) s = execTbar w s := rfl
        exact hr.stalls hrow (hr.past (if_pos hb))
      · have hrow : exec (.cbar w) s = execCbar w s := rfl
        exact hr.stalls hrow (hr.past ((if_neg (by simp [hm])).trans (if_pos hb)))
    case rest =>
      intro away
      refine ⟨fun hr haway => ?_, fun l hr haway hm hl hshape hfrag hslot => ?_, fun hr haway hm => ?_, fun hr haway hm hno => ?_,
        fun hr => ?_, fun hr hm => ?_, fun hr hm hb => ⟨fun hend => ?_, fun him hgen => ?_⟩⟩
      · exact cjoin_waits hr haway
      · exact cjoin_joins hr haway hm (by simp [State.mayJoin, hl, hshape, hfrag, hslot])
      · exact hm ▸ cjoin_answers hr haway (.inl hm)
      · exact hm ▸ cjoin_answers hr haway (.inr (mayJoin_false hno))
      · obtain ⟨-, -, -, -, ht, -⟩ := here_spec hr.here
        have hrow : exec (.cleave w) s = execCleave w s := rfl
        exact ⟨hr.completesQuiet hrow (hr.past rfl) (.leaveCluster _), leaveCluster_member ht⟩
      · have hrow : exec (.cbar w) s = execCbar w s := rfl
        exact hr.traps hrow (hr.past (if_pos (by simp [hm])))
      · exact cbar_ends hr hm hb hend
      · exact cbar_waits hr hm hb him hgen

end

section
/-! Register blocks (spec/07 R146, R147, R162): what a group gives up, how the waiting claims are served, and when a claim waits. -/

set_option Elab.async false

namespace Sys2Proof.Machine

variable {s t u : State} {h : Here} {p : Reg → Bool} {w : EngW}

/-! ## Serving claims -/

theorem foldl_finishParked_teams (l : List Nat) (s : State) : (l.foldl State.finishParked s).teams = s.teams :=
  foldl_keeps State.teams finishParked_teams l s

theorem foldl_finishParked_blocks (l : List Nat) (s : State) (k : Nat) :
    ((l.foldl State.finishParked s).groups.get? k).map Group.blocks = (s.groups.get? k).map Group.blocks :=
  foldl_keeps (fun s : State => (s.groups.get? k).map Group.blocks)
    (fun _ x => finishParked_keeps Group.blocks (fun _ _ => rfl) x k) l s

/-- One claim of a team is looked at: it is served from its partition's pool, or that pool is closed to the later ones. -/
def serveClaim (tid : Nat) (acc : State × List Nat) (e : Nat × Nat) : State × List Nat :=
  let p := e.1 % 4
  let free := ((acc.1.teams.get? tid).map fun t => t.pool.getD 0 p).getD 0
  if acc.2.contains p || free < e.2 then (acc.1, p :: acc.2)
  else
    let s := acc.1.modTeam tid fun t => { t with pool := t.pool.setD 0 p (free - e.2), claims := t.claims.filter fun x => x.1 != e.1 }
    let s := s.modGroup e.1 fun g => { g with blocks := g.blocks + e.2 }
    ((s.fragsOf e.1).foldl (fun s k => s.finishParked k) s, acc.2)

theorem serveClaims_eq {tid : Nat} {x : Team} (hx : s.teams.get? tid = some x) :
    s.serveClaims tid = (x.claims.foldl (serveClaim tid) (s, [])).1 := by
  unfold State.serveClaims
  rw [hx]
  rfl

theorem Frame.serveClaim (tid : Nat) (acc : State × List Nat) (e : Nat × Nat) : Frame h acc.1 (serveClaim tid acc e).1 p := by
  unfold Machine.serveClaim
  extract_lets q free v v'
  split
  · exact .rfl
  · have hv' : Frame h v v' p := .modGroup fun _ => .rfl
    exact (Frame.modTeam.trans hv').trans (.foldl (fun _ _ => .finishParked _) _ _)

theorem Frame.serveClaims (tid : Nat) : Frame h s (s.serveClaims tid) p := by
  cases hx : s.teams.get? tid with
  | none =>
    have hself : s.serveClaims tid = s := by
      unfold State.serveClaims
      rw [hx]
    rw [hself]
    exact .rfl
  | some x =>
    have hall : ∀ (l : List (Nat × Nat)) (acc : State × List Nat), Frame h acc.1 (l.foldl (Machine.serveClaim tid) acc).1 p := by
      intro l
      induction l with
      | nil => exact fun _ => .rfl
      | cons e l ih => exact fun acc => (Frame.serveClaim tid acc e).trans (ih _)
    rw [serveClaims_eq hx]
    exact hall x.claims (s, [])

theorem serveClaims_none {tid : Nat} {x : Team} (hx : s.teams.get? tid = some x) (hc : x.claims = []) : s.serveClaims tid = s := by
  rw [serveClaims_eq hx, hc]
  rfl

/-- The only claim of a team is served: its group holds the blocks, and the pool has given them. -/
theorem serveClaims_one {tid k m : Nat} {x : Team} (hx : s.teams.get? tid = some x) (hc : x.claims = [(k, m)])
    (hm : m ≤ x.pool.getD 0 (k % 4)) :
    (s.serveClaims tid).teams.get? tid = some { x with pool := x.pool.setD 0 (k % 4) (x.pool.getD 0 (k % 4) - m), claims := [] } ∧
      ∀ j, ((s.serveClaims tid).groups.get? j).map Group.blocks =
        (s.groups.get? j).map fun g => if j = k then g.blocks + m else g.blocks := by
  have hfree : ((s.teams.get? tid).map fun t => t.pool.getD 0 (k % 4)).getD 0 = x.pool.getD 0 (k % 4) := by rw [hx]; rfl
  obtain ⟨v, hv⟩ : ∃ v, v = (s.modTeam tid fun t => { t with
    pool := t.pool.setD 0 (k % 4) (x.pool.getD 0 (k % 4) - m)
    claims := t.claims.filter fun e => e.1 != k }).modGroup k fun g => { g with blocks := g.blocks + m } := ⟨_, rfl⟩
  have heq : s.serveClaims tid = (v.fragsOf k).foldl State.finishParked v := by
    rw [serveClaims_eq hx, hc, List.foldl_cons, List.foldl_nil, serveClaim]
    simp only [hfree, List.contains_nil, Bool.false_or, decide_eq_true_eq, if_neg (not_lt.mpr hm), hv]
  rw [heq]
  refine ⟨?_, fun j => ?_⟩
  · rw [foldl_finishParked_teams, hv, State.modGroup_teams, modTeam_team hx, hc]
    simp
  · rw [foldl_finishParked_blocks, hv, State.modGroup_groups, SMap.get?_modify]
    by_cases hj : j = k
    · subst hj
      cases hg : s.groups.get? j <;> simp [hg]
    · simp [hj]

/-! ## RBSUR -/

/-- A group without its `n` highest blocks, `top` being the first register of those. -/
def Group.surrender (g : Group) (n top : Nat) : Group :=
  { g with
    blocks := g.blocks - n
    v := g.v.filterE fun k _ => decide (k < 32 * top)
    badV := g.badV.filterE fun k _ => decide (k < 32 * top) }

/-- The group has given up its `n` highest blocks, which its partition's pool has. -/
def State.surrendered (s : State) (h : Here) (n : Nat) : State :=
  (s.modGroup h.gid fun g => g.surrender n (16 * (h.g.blocks - n))).modTeam h.tid
    fun t => { t with pool := t.pool.setD 0 (h.g.idx % 4) (t.pool.getD 0 (h.g.idx % 4) + n) }

/-- The vector registers from `top` on. -/
def vectorsFrom (top : Nat) : Reg → Bool
  | .v k => decide (top ≤ k)
  | _ => false

theorem Group.surrender_regs (g : Group) (n top : Nat) : SameRegs g (g.surrender n top) (vectorsFrom top) := by
  refine ⟨fun k l hl hk => ?_, fun _ _ => rfl, fun _ _ => rfl, fun _ _ => rfl, fun _ => rfl, rfl, rfl⟩
  have hlt : k < top := by simpa [vectorsFrom] using hk
  exact SMap.getD_filterE_key (q := fun j => decide (j < 32 * top)) 0 (decide_eq_true (by omega))

theorem Frame.surrendered (n : Nat) : Frame h s (s.surrendered h n) (vectorsFrom (16 * (h.g.blocks - n))) := by
  have hgroup : Frame h s (s.modGroup h.gid fun g => g.surrender n (16 * (h.g.blocks - n))) (vectorsFrom (16 * (h.g.blocks - n))) :=
    .modOwn fun g => g.surrender_regs n _
  exact hgroup.trans .modTeam

theorem surrendered_team (hh : s.here = some h) (n : Nat) : (s.surrendered h n).teams.get? h.tid =
    some { h.t with pool := h.t.pool.setD 0 (h.g.idx % 4) (h.t.pool.getD 0 (h.g.idx % 4) + n) } := by
  obtain ⟨-, -, -, -, ht, -⟩ := here_spec hh
  exact modTeam_team ht

theorem surrendered_group (hh : s.here = some h) (n : Nat) :
    (s.surrendered h n).groups.get? h.gid = some (h.g.surrender n (16 * (h.g.blocks - n))) := by
  obtain ⟨-, -, hg, -⟩ := here_spec hh
  exact modGroup_group hg

theorem vectorsFrom_eq_true {top : Nat} {r : Reg} : vectorsFrom top r = true ↔ ∃ q, top ≤ q ∧ r = .v q := by
  cases r <;> simp [vectorsFrom]

/-- An outstanding write names a vector register from `top` on. -/
theorem any_outstanding {g : Group} {top : Nat} : (g.pend.any fun e => e.2.regs.any (vectorsFrom top)) = true ↔
    ∃ q, top ≤ q ∧ g.outstanding (.v q) = true := by
  simp only [Group.outstanding, List.any_eq_true, List.contains_iff_mem, vectorsFrom_eq_true]
  constructor
  · rintro ⟨e, he, r, hr, q, hq, rfl⟩
    exact ⟨q, hq, e, he, hr⟩
  · rintro ⟨q, hq, e, he, hr⟩
    exact ⟨e, he, .v q, hr, q, hq, rfl⟩

section
variable {n : Nat} (hr : RunsSole (.rbsur w) h s) (hw : w.imm.toNat % 16 = n) (hn : n ≠ 0)
include hr hw hn

theorem rbsur_all (hb : h.g.blocks < n + 1) : Traps (.rbsur w) h s { cause := .spad, lanes := h.f.mask.toNat, info := n } := by
  subst hw
  have hrow : exec (.rbsur w) s = execRbsur w s := rfl
  exact hr.traps hrow (hr.past ((if_neg (mt beq_iff_eq.mp hn)).trans (if_pos hb)))

theorem rbsur_waits (hb : n + 1 ≤ h.g.blocks) (hq : ∃ q, 16 * (h.g.blocks - n) ≤ q ∧ h.g.outstanding (.v q) = true) :
    Stalls (.rbsur w) h s := by
  subst hw
  have hrow : exec (.rbsur w) s = execRbsur w s := rfl
  refine hr.stalls hrow (hr.past ((if_neg (mt beq_iff_eq.mp hn)).trans ((if_neg (not_lt.mpr hb)).trans (if_pos ?_))))
  exact any_outstanding.mpr hq

theorem rbsur_gives (hb : n + 1 ≤ h.g.blocks) (hq : ∀ q, 16 * (h.g.blocks - n) ≤ q → h.g.outstanding (.v q) = false) :
    CompletesQuiet (.rbsur w) h s ((s.surrendered h n).serveClaims h.tid) (vectorsFrom (16 * (h.g.blocks - n))) := by
  subst hw
  have hrow : exec (.rbsur w) s = execRbsur w s := rfl
  refine hr.completesQuiet hrow
    (hr.past ((if_neg (mt beq_iff_eq.mp hn)).trans ((if_neg (not_lt.mpr hb)).trans (if_neg ?_))))
    ((Frame.surrendered _).trans (.serveClaims _))
  exact fun hany => let ⟨q, hle, hout⟩ := any_outstanding.mp hany; Bool.eq_false_iff.mp (hq q hle) hout

end

/-! ## RBCLM -/

/-- The blocks that the team's groups hold in the partition of the executing group. -/
def State.heldBlocks (s : State) (h : Here) : Nat :=
  ((s.groupsOf h.tid).filterMap s.groups.get?).foldl (fun a g => if g.idx % 4 == h.g.idx % 4 then a + g.blocks else a) 0

/-- A claim of `n` blocks is met from the pool, or joins the waiting ones. -/
def State.granted (s : State) (h : Here) (n : Nat) : State :=
  (s.modTeam h.tid fun t => { t with pool := t.pool.setD 0 (h.g.idx % 4) (h.t.pool.getD 0 (h.g.idx % 4) - n) }).modGroup h.gid
    fun g => { g with blocks := g.blocks + n }
def State.claiming (s : State) (h : Here) (n : Nat) : State := s.modTeam h.tid fun t => { t with claims := t.claims ++ [(h.gid, n)] }

theorem Frame.granted (n : Nat) : Frame h s (s.granted h n) p := by
  have hteam {v : State} : Frame h v (v.modGroup h.gid fun g => { g with blocks := g.blocks + n }) p := .modGroup fun _ => .rfl
  exact Frame.modTeam.trans hteam

section
variable {n : Nat} (hr : RunsSole (.rbclm w) h s) (hw : w.imm.toNat % 16 = n) (hn : n ≠ 0)
include hr hw hn

theorem rbclm_over (hb : 16 < h.g.blocks + n) : Traps (.rbclm w) h s { cause := .spad, lanes := h.f.mask.toNat, info := n } := by
  subst hw
  have hrow : exec (.rbclm w) s = execRbclm w s := rfl
  exact hr.traps hrow (hr.past ((if_neg (mt beq_iff_eq.mp hn)).trans (if_pos hb)))

variable (hb : h.g.blocks + n ≤ 16)
include hb

theorem rbclm_never (hheld : h.t.pool.getD 0 (h.g.idx % 4) + s.heldBlocks h < h.g.blocks + n) :
    Traps (.rbclm w) h s { cause := .claim, lanes := h.f.mask.toNat } := by
  subst hw
  have hrow : exec (.rbclm w) s = execRbclm w s := rfl
  exact hr.traps hrow (hr.past ((if_neg (mt beq_iff_eq.mp hn)).trans ((if_neg (not_lt.mpr hb)).trans (if_pos hheld))))

variable (hheld : h.g.blocks + n ≤ h.t.pool.getD 0 (h.g.idx % 4) + s.heldBlocks h)
include hheld

theorem rbclm_takes (hpool : n ≤ h.t.pool.getD 0 (h.g.idx % 4)) (hfirst : (h.t.claims.any fun c => c.1 % 4 == h.g.idx % 4) = false) :
    CompletesQuiet (.rbclm w) h s (s.granted h n) noReg := by
  subst hw
  have hrow : exec (.rbclm w) s = execRbclm w s := rfl
  refine hr.completesQuiet hrow (hr.past ((if_neg (mt beq_iff_eq.mp hn)).trans ((if_neg (not_lt.mpr hb)).trans
    ((if_neg (not_lt.mpr hheld)).trans (if_pos ?_))))) (.granted _)
  rw [hfirst, Bool.not_false, Bool.true_and, decide_eq_true hpool]

theorem rbclm_waits (hlater : h.t.pool.getD 0 (h.g.idx % 4) < n ∨ (h.t.claims.any fun c => c.1 % 4 == h.g.idx % 4) = true) :
    exec (.rbclm w) s = .next (((s.claiming h n).park h.fid (.claim n)).checkClaims h.tid) := by
  subst hw
  have hrow : exec (.rbclm w) s = execRbclm w s := rfl
  refine hr.exec_eq (res := .placed _) hrow (hr.past ((if_neg (mt beq_iff_eq.mp hn)).trans ((if_neg (not_lt.mpr hb)).trans
    ((if_neg (not_lt.mpr hheld)).trans (if_neg ?_)))))
  rcases hlater with hpool | hany
  · simp [hpool]
  · simp [hany]

end

/-- A fragment other than the parked one stays among its group's. -/
theorem mem_fragsOf_park {fid gid x : Nat} {v : Wait} (hx : x ∈ s.fragsOf gid) (hne : x ≠ fid) : x ∈ (s.park fid v).fragsOf gid := by
  obtain ⟨e, he, rfl⟩ := List.mem_map.mp hx
  obtain ⟨hmem, hkeep⟩ := List.mem_filter.mp he
  exact List.mem_map.mpr ⟨e, List.mem_filter.mpr ⟨SMap.mem_modify_of_ne hmem hne, hkeep⟩, rfl⟩

/-- There is no deadlock of claims while a fragment of the team does not wait in one. -/
theorem checkClaims_self {tid k x : Nat} (hk : k ∈ s.liveGroups tid) (hx : x ∈ s.fragsOf k)
    (hno : ∀ m, (s.frags.get? x).map Frag.st ≠ some (.parked (.claim m))) : s.checkClaims tid = s := by
  unfold State.checkClaims
  extract_lets waiting frs
  -- by `hno` the match takes its last case
  have hwait : waiting x = false := by simp only [waiting]
  have hmem : x ∈ frs := List.mem_flatMap.mpr ⟨k, hk, hx⟩
  refine if_neg ?_
  rw [Bool.and_eq_true, List.all_eq_true]
  rintro ⟨-, hall⟩
  exact Bool.false_ne_true (hwait.symm.trans (hall x hmem))

/-- So it is after a park, whatever fragment has parked. -/
theorem park_checkClaims_self {fid tid k x : Nat} {v : Wait} (hk : k ∈ s.liveGroups tid) (hx : x ∈ s.fragsOf k) (hne : x ≠ fid)
    (hno : ∀ m, (s.frags.get? x).map Frag.st ≠ some (.parked (.claim m))) : (s.park fid v).checkClaims tid = s.park fid v := by
  have hx' := mem_fragsOf_park (v := v) hx hne
  have hk' : k ∈ (s.park fid v).liveGroups tid := List.mem_filter.mpr ⟨(List.mem_filter.mp hk).1, live_of_mem hx'⟩
  exact checkClaims_self hk' hx' fun m => by rw [State.park, modFrag_frag_ne hne]; exact hno m

end Sys2Proof.Machine

open Sys2Proof Sys2Proof.Machine

/-- Settles O24: a surrender first gives its blocks to the pool, from which the claims are then served; a claim that cannot be met parks
first and is then looked at for the deadlock. -/
theorem registerBlocks : Obligations.RegisterBlocks := by
  unfold Obligations.RegisterBlocks
  intro s h w n q pool top held
  refine ⟨fun i hi hr hn => ?none, fun hr hn hb => rbsur_all hr rfl hn hb, fun hr hn hb hq => rbsur_waits hr rfl hn hb hq,
    fun hr hn hb hq => ?gives, fun hr hn hb => rbclm_over hr rfl hn hb, fun hr hn hb hheld => rbclm_never hr rfl hn hb hheld,
    fun hr hn hb hpool hheld hfirst => rbclm_takes hr rfl hn hb hheld hpool hfirst, fun hr hn hb hheld hlater => ?waits⟩
  case none =>
    simp only [List.mem_cons, List.not_mem_nil, or_false] at hi
    rcases hi with rfl | rfl
    · have hrow : exec (.rbsur w) s = execRbsur w s := rfl
      exact hr.completes hrow (hr.past (if_pos (beq_iff_eq.mpr hn)))
    · have hrow : exec (.rbclm w) s = execRbclm w s := rfl
      exact hr.completes hrow (hr.past (if_pos (beq_iff_eq.mpr hn)))
  case gives =>
    have hteam := surrendered_team hr.here n
    have hgroup := surrendered_group hr.here n
    obtain ⟨g, hg, -⟩ := (Frame.serveClaims (h := h) (p := noReg) (s := s.surrendered h n) h.tid).regs _ _ hgroup
    refine ⟨_, g, rbsur_gives hr rfl hn hb hq, hg, fun hc => ?_, fun k m gk hc hk hp hm hgk => ?_⟩
    · rw [serveClaims_none hteam hc] at hg ⊢
      obtain rfl := Option.some.inj (hgroup.symm.trans hg)
      rw [hteam]
      exact ⟨rfl, congrArg some (SMap.getD_setD_self ..)⟩
    · have hpool : (h.t.pool.setD 0 q (pool + n)).getD 0 (k % 4) = pool + n := by rw [hp, SMap.getD_setD_self]
      have hclaim : (s.surrendered h n).groups.get? k = some gk := by
        rw [State.surrendered, State.modTeam_groups, State.modGroup_groups, SMap.get?_modify, if_neg hk, hgk]
      obtain ⟨hserved, hblocks⟩ := serveClaims_one hteam hc (hm.trans hpool.ge)
      refine ⟨(hblocks k).trans ?_, ?_⟩
      · rw [hclaim, Option.map_some, if_pos rfl]
      · rw [hserved, Option.map_some, hp]
        exact congrArg some (Prod.ext (by rw [SMap.getD_setD_self, SMap.getD_setD_self]) rfl)
  case waits =>
    intro u
    have hexec := rbclm_waits hr rfl hn hb hheld hlater
    refine ⟨hexec, fun ⟨k, hk, x, hx, hne, hno⟩ => hexec.trans (congrArg _ (park_checkClaims_self (s := u) hk hx hne hno))⟩

end

section
/-! What accesses to memory change: ACC and DIRTY of the entries they use and the bytes they store to (spec/23 R382, R383), whatever
the caches hold. -/

set_option Elab.async false

namespace Sys2Proof.Machine

variable {s t u : State} {h : Here} {bs cs : List (Nat × Nat)}

/-! ## States alike but for what their caches hold -/

/-- The states differ in the lines of their caches alone; their TLBs hold the same. -/
structure SameButCaches (s t : State) : Prop where
  rest : t = { s with llc := t.llc, cores := t.cores }
  tlb : ∀ k, (t.core k).tlb = (s.core k).tlb

namespace SameButCaches

theorem refl : SameButCaches s s := ⟨rfl, fun _ => rfl⟩

theorem symm (h : SameButCaches s t) : SameButCaches t s :=
  ⟨(congrArg (fun x : State => { x with llc := s.llc, cores := s.cores }) h.rest).symm, fun k => (h.tlb k).symm⟩

theorem trans (h : SameButCaches s t) (h' : SameButCaches t u) : SameButCaches s u :=
  ⟨h'.rest.trans (congrArg (fun x : State => { x with llc := u.llc, cores := u.cores }) h.rest), fun k => (h'.tlb k).trans (h.tlb k)⟩

/-- What looks at neither caches nor cores sees no difference. -/
theorem keeps {γ : Type} (h : SameButCaches s t) (π : State → γ)
    (hπ : ∀ (s : State) llc cores, π { s with llc := llc, cores := cores } = π s) : π t = π s :=
  (congrArg π h.rest).trans (hπ _ _ _)

theorem mem (h : SameButCaches s t) : t.mem = s.mem := h.keeps State.mem fun _ _ _ => rfl
theorem poison (h : SameButCaches s t) : t.poison = s.poison := h.keeps State.poison fun _ _ _ => rfl
theorem tlb2 (h : SameButCaches s t) : t.tlb2 = s.tlb2 := h.keeps State.tlb2 fun _ _ _ => rfl
theorem reach (h : SameButCaches s t) (pa : Nat) : t.reach pa = s.reach pa := h.keeps (State.reach · pa) fun _ _ _ => rfl

theorem leafFor (h : SameButCaches s t) (core : Nat) (cx : Ctx) (va : Nat) : t.leafFor core cx va = s.leafFor core cx va := by
  unfold State.leafFor
  rw [h.tlb, h.tlb2, h.mem, h.poison, h.keeps State.hbmBytes fun _ _ _ => rfl]

theorem xl (h : SameButCaches s t) (core : Nat) (cx : Ctx) (va : Nat) (k : AccKind) : t.xl core cx va k = s.xl core cx va k := by
  unfold State.xl
  simp only [h.leafFor, h.reach]

theorem leafByte (h : SameButCaches s t) (core : Nat) (cx : Ctx) (va : Nat) : t.leafByte core cx va = s.leafByte core cx va := by
  unfold State.leafByte
  rw [h.leafFor]

theorem physBytes (h : SameButCaches s t) (mt pa n : Nat) : t.physBytes mt pa n = s.physBytes mt pa n :=
  h.keeps (State.physBytes · mt pa n) fun _ _ _ => rfl

theorem llc (l : SMap (List (Nat × Bool))) : SameButCaches s { s with llc := l } := ⟨rfl, fun _ => rfl⟩

theorem llcWrite (pa n : Nat) : SameButCaches s (s.llcWrite pa n) := by
  unfold State.llcWrite
  split
  · exact refl
  · exact llc _

theorem l1 (k : Nat) (f : Core → Core) (hf : ∀ c, (f c).tlb = c.tlb) : SameButCaches s (s.modCore k f) := by
  refine ⟨rfl, fun j => ?_⟩
  rw [core_modCore]
  split
  next hj => rw [hf, hj]
  · rfl

theorem place (core hint mt pa : Nat) : SameButCaches s (s.place core hint mt pa) := by
  unfold State.place
  split
  · exact refl
  · extract_lets v
    have hv : SameButCaches s v := llc _
    split
    · exact hv
    · exact hv.trans (l1 _ _ fun _ => rfl)

/-- A change that looks at neither caches nor cores leaves states alike. -/
theorem congr (h : SameButCaches s t) (φ : State → State)
    (hφ : ∀ (s : State) llc cores, φ { s with llc := llc, cores := cores } = { φ s with llc := llc, cores := cores }) :
    SameButCaches (φ s) (φ t) := by
  have hs : (φ s).cores = s.cores := (congrArg State.cores (hφ s s.llc s.cores) :)
  have ht : φ t = { φ s with llc := t.llc, cores := t.cores } := (congrArg φ h.rest).trans (hφ _ _ _)
  refine ⟨by rw [ht], fun k => ?_⟩
  unfold State.core
  rw [ht, hs]
  exact h.tlb k

theorem setTlb (h : SameButCaches s t) (k : Nat) (f : List TlbEntry → List TlbEntry) :
    SameButCaches (s.modCore k fun c => { c with tlb := f c.tlb }) (t.modCore k fun c => { c with tlb := f c.tlb }) := by
  refine ⟨congrArg (fun x : State => { x with cores := (t.modCore k fun c => { c with tlb := f c.tlb }).cores }) h.rest, fun j => ?_⟩
  rw [core_modCore, core_modCore]
  split
  · exact congrArg f (h.tlb k)
  · exact h.tlb j

end SameButCaches

/-! ## Using an entry -/

/-- What using a leaf entry leaves, the caches aside: its byte with ACC and DIRTY, and the TLBs. -/
def State.marked (s : State) (core : Nat) (cx : Ctx) (va : Nat) (e : TlbEntry) (write : Bool) : State :=
  let s := { s with mem := setByte s.mem (e.pteAddr + 1) (memByte s.mem (e.pteAddr + 1) ||| 1 ||| (if write then 2 else 0)) }
  if core == devAgent then s else
  let add (n : Nat) (l : List TlbEntry) : List TlbEntry := if (tlbFind l cx.asid va).isSome then l else (e :: l).take n
  let s := s.modCore core fun c => { c with tlb := add 256 c.tlb }
  { s with tlb2 := s.tlb2.setD [] (dieOf core) (add 4096 (s.tlb2.getD [] (dieOf core))) }

section
variable {core va : Nat} {cx : Ctx} {e : TlbEntry} {write : Bool}

theorem touch_ok {hint : Nat} (he : s.leafFor core cx va = .ok e) :
    ∃ v, SameButCaches s v ∧ s.touch core cx va write hint = v.marked core cx va e write := by
  refine ⟨_, .place core hint (bitsN e.pte.toNat 7 6) (bitsN e.pte.toNat 51 18 * 2 ^ 18 + (va - e.va)), ?_⟩
  unfold State.touch
  rw [he]
  rfl

theorem touch_error {hint : Nat} {x : Nat × Nat} (he : s.leafFor core cx va = .error x) : s.touch core cx va write hint = s := by
  unfold State.touch
  rw [he]

theorem SameButCaches.marked (h : SameButCaches s t) : SameButCaches (s.marked core cx va e write) (t.marked core cx va e write) := by
  unfold State.marked
  extract_lets v add w v' w'
  have hv : SameButCaches v v' := h.congr (fun x : State => { x with
    mem := setByte x.mem (e.pteAddr + 1) (memByte x.mem (e.pteAddr + 1) ||| 1 ||| (if write then 2 else 0)) }) fun _ _ _ => rfl
  split
  · exact hv
  · exact (hv.setTlb core (add 256)).congr (fun x : State => { x with
      tlb2 := x.tlb2.setD [] (dieOf core) (add 4096 (x.tlb2.getD [] (dieOf core))) }) fun _ _ _ => rfl

/-- An access leaves states alike, whatever hint it carries. -/
theorem SameButCaches.touch (h : SameButCaches s t) (a b : Nat) :
    SameButCaches (s.touch core cx va write a) (t.touch core cx va write b) := by
  cases he : s.leafFor core cx va with
  | error _ => rwa [touch_error he, touch_error ((h.leafFor core cx va).trans he)]
  | ok e =>
    obtain ⟨v, hv, htouch⟩ := touch_ok (write := write) (hint := a) he
    obtain ⟨v', hv', htouch'⟩ := touch_ok (write := write) (hint := b) ((h.leafFor core cx va).trans he)
    rw [htouch, htouch']
    exact ((hv.symm.trans h).trans hv').marked

/-- An access changes ACC and DIRTY in memory, caches and TLBs. -/
theorem marked_rest (s : State) : s.marked core cx va e write = { s with
    mem := (s.marked core cx va e write).mem
    tlb2 := (s.marked core cx va e write).tlb2
    cores := (s.marked core cx va e write).cores } := by
  unfold State.marked
  extract_lets v add v'
  split <;> rfl

theorem marked_mem (s : State) : (s.marked core cx va e write).mem =
    setByte s.mem (e.pteAddr + 1) (memByte s.mem (e.pteAddr + 1) ||| 1 ||| (if write then 2 else 0)) := by
  unfold State.marked
  extract_lets v add v'
  split <;> rfl

/-- What looks at neither memory 0, the TLBs nor the caches sees no access. -/
theorem touch_keeps {γ : Type} (π : State → γ) (hπ : ∀ (s : State) mem tlb2 llc cores,
    π { s with mem := mem, tlb2 := tlb2, llc := llc, cores := cores } = π s) (s : State) (core : Nat) (cx : Ctx) (va : Nat) (write : Bool)
    (hint : Nat) : π (s.touch core cx va write hint) = π s := by
  cases he : s.leafFor core cx va with
  | error _ => rw [touch_error he]
  | ok e =>
    obtain ⟨v, hv, htouch⟩ := touch_ok (write := write) (hint := hint) he
    rw [htouch, marked_rest]
    exact (hπ v _ _ v.llc _).trans (hv.keeps π fun s llc cores => hπ s s.mem s.tlb2 llc cores)

end

/-! ## Bytes stored to -/

theorem SameButCaches.setHbm {s' t' : State} (h : SameButCaches s t) (h' : SameButCaches s' t') (pa n x : Nat) :
    SameButCaches { s' with mem := writeLE s.mem pa n x, poison := clearPoison s.poison pa n }
      { t' with mem := writeLE t.mem pa n x, poison := clearPoison t.poison pa n } := by
  rw [h.mem, h.poison]
  exact h'.congr (fun y : State => { y with mem := writeLE s.mem pa n x, poison := clearPoison s.poison pa n }) fun _ _ _ => rfl

theorem SameButCaches.llcWrites (h : SameButCaches s t) (pa n : Nat) : SameButCaches (s.llcWrite pa n) (t.llcWrite pa n) :=
  ((llcWrite pa n).symm.trans h).trans (llcWrite pa n)

theorem SameButCaches.physWrite (h : SameButCaches s t) (mt pa n x : Nat) :
    SameButCaches (s.physWrite mt pa n x) (t.physWrite mt pa n x) := by
  have hown : (pa / 2 ^ 46 % 64 == t.domId.val) = (pa / 2 ^ 46 % 64 == s.domId.val) :=
    h.keeps (fun x : State => pa / 2 ^ 46 % 64 == x.domId.val) fun _ _ _ => rfl
  unfold State.physWrite
  rw [h.reach, hown]
  split
  · extract_lets v v'
    have hv : SameButCaches v v' := by
      unfold v v'
      split
      · exact h.llcWrites pa n
      · exact h
    exact hv.setHbm hv pa n x
  · split
    · exact h.congr (fun y : State => { y with hostMem := writeLE y.hostMem pa n x }) fun _ _ _ => rfl
    · split
      · exact h
      · split
        · exact h.setHbm (h.llcWrites _ _) _ _ _
        · exact h.congr (fun y : State => { y with domMem := writeLE y.domMem pa n x }) fun _ _ _ => rfl

/-- A store leaves states alike, whatever hint it carries. -/
theorem SameButCaches.vstore (h : SameButCaches s t) (core : Nat) (cx : Ctx) (va n x a b : Nat) :
    SameButCaches (s.vstore core cx va n x a) (t.vstore core cx va n x b) := by
  unfold State.vstore
  rw [h.xl]
  split
  · exact (h.touch a b).physWrite _ _ _ _
  · exact h

/-! ## The bytes that change -/

namespace Stored

theorem refl : Stored s s bs := ⟨fun _ _ => rfl, fun _ _ => rfl, fun _ _ => rfl⟩

theorem trans (h : Stored s t bs) (h' : Stored t u cs) : Stored s u (bs ++ cs) := by
  obtain ⟨hm, hh, hd⟩ := h
  obtain ⟨hm', hh', hd'⟩ := h'
  simp only [Stored, List.mem_append, not_or]
  exact ⟨fun a ha => (hm' a ha.2).trans (hm a ha.1), fun a ha => (hh' a ha.2).trans (hh a ha.1),
    fun a ha => (hd' a ha.2).trans (hd a ha.1)⟩

theorem of_sameMem (h : SameMem s t) : Stored s t bs := by
  obtain ⟨hm, hh, hd, -⟩ := h
  exact ⟨fun a _ => hm a, fun a _ => hh a, fun a _ => hd a⟩

theorem sameMem (h : Stored s t bs) (h' : SameMem t u) : Stored s u bs := by
  simpa using h.trans (of_sameMem (bs := []) h')

end Stored

/-- The bytes outside its range read after a write as before. -/
theorem memByte_writeLE_outside {m : SMap Byte} {k pa n x a : Nat} (ha : (k, a) ∉ (List.range n).map fun i => (k, pa + i)) :
    memByte (writeLE m pa n x) a = memByte m a := by
  rw [memByte_writeLE, if_neg]
  rintro ⟨h1, h2⟩
  exact ha (List.mem_map.mpr ⟨a - pa, List.mem_range.mpr (by omega), by rw [Nat.add_sub_cancel' h1]⟩)

theorem Stored.physWrite (s : State) (mt pa n x : Nat) : Stored s (s.physWrite mt pa n x) (s.physBytes mt pa n) := by
  unfold State.physWrite State.physBytes
  extract_lets v from_
  by_cases hhbm : mt < 2
  · have hv : SameButCaches s v := by
      unfold v
      split
      · exact .llcWrite pa n
      · exact .refl
    rw [if_pos hhbm, if_pos hhbm, hv.mem]
    have hh := hv.keeps State.hostMem fun _ _ _ => rfl
    have hd := hv.keeps State.domMem fun _ _ _ => rfl
    exact ⟨fun a ha => memByte_writeLE_outside ha, fun a _ => congrArg (memByte · a) hh, fun a _ => congrArg (memByte · a) hd⟩
  rw [if_neg hhbm, if_neg hhbm]
  by_cases hhost : mt = 2
  · simp only [hhost, beq_self_eq_true, if_true]
    exact ⟨fun _ _ => rfl, fun a ha => memByte_writeLE_outside ha, fun _ _ => rfl⟩
  simp only [beq_iff_eq, if_neg hhost]
  cases hreach : s.reach pa with
  | false => exact .refl
  | true =>
    simp only [Bool.not_true, Bool.false_eq_true, Bool.true_eq_false, if_false]
    split
    · have hv : SameButCaches s (s.llcWrite (pa % 2 ^ 46) n) := .llcWrite _ _
      have hh := hv.keeps State.hostMem fun _ _ _ => rfl
      have hd := hv.keeps State.domMem fun _ _ _ => rfl
      exact ⟨fun a ha => memByte_writeLE_outside ha, fun a _ => congrArg (memByte · a) hh, fun a _ => congrArg (memByte · a) hd⟩
    · exact ⟨fun _ _ => rfl, fun _ _ => rfl, fun a ha => memByte_writeLE_outside ha⟩

section
variable {core n : Nat} {cx : Ctx} {write : Bool}

theorem Stored.touch (s : State) (va hint : Nat) :
    Stored s (s.touch core cx va write hint) ((s.leafByte core cx va).map fun a => (0, a)) := by
  have hhost := touch_keeps State.hostMem (fun _ _ _ _ _ => rfl) s core cx va write hint
  have hdom := touch_keeps State.domMem (fun _ _ _ _ _ => rfl) s core cx va write hint
  refine ⟨fun a ha => ?_, fun a _ => congrArg (memByte · a) hhost, fun a _ => congrArg (memByte · a) hdom⟩
  unfold State.leafByte at ha
  cases he : s.leafFor core cx va with
  | error _ => rw [touch_error he]
  | ok e =>
    obtain ⟨v, hv, htouch⟩ := touch_ok (write := write) (hint := hint) he
    have hne : a ≠ e.pteAddr + 1 := by simpa [he] using ha
    rw [htouch, marked_mem, memByte_setByte, if_neg hne, hv.mem]

/-- Accesses in order change the bytes that `accBytes` names, whatever their hint. -/
theorem Stored.touches (h : SameButCaches s t) (hint : Nat) (vas : List Nat) :
    Stored t (vas.foldl (fun s a => s.touch core cx a write hint) t) ((s.accBytes core cx write vas).map fun a => (0, a)) := by
  induction vas generalizing s t with
  | nil => exact .refl
  | cons va vas ih =>
    rw [State.accBytes, List.map_append, List.foldl_cons, ← h.leafByte]
    exact (Stored.touch t va hint).trans (ih (h.touch 2 hint))

theorem storeBytes_cons (s : State) (va x : Nat) (es : List (Nat × Nat)) : s.storeBytes core cx n ((va, x) :: es) =
    s.storeBytes core cx n [(va, x)] ++ (s.vstore core cx va n x).storeBytes core cx n es := by
  simp only [State.storeBytes, List.append_nil]

theorem Stored.vstore (h : SameButCaches s t) (va x hint : Nat) :
    Stored t (t.vstore core cx va n x hint) (s.storeBytes core cx n [(va, x)]) := by
  unfold State.vstore State.storeBytes
  rw [h.xl]
  cases s.xl core cx va .write with
  | ok pa mt =>
    have hbytes : (t.touch core cx va true hint).physBytes mt pa n = s.physBytes mt pa n :=
      (touch_keeps (State.physBytes · mt pa n) (fun _ _ _ _ _ => rfl) t core cx va true hint).trans (h.physBytes mt pa n)
    rw [State.storeBytes, List.append_nil]
    dsimp only
    rw [← hbytes, ← h.leafByte]
    exact (Stored.touch t va hint).trans (.physWrite _ _ _ _ _)
  | fault _ _ => exact .refl
  | prot _ => exact .refl

/-- Stores of `n` bytes in order: addresses with their values. -/
def State.stores (s : State) (core : Nat) (cx : Ctx) (n hint : Nat) (es : List (Nat × Nat)) : State :=
  es.foldl (fun s e => s.vstore core cx e.1 n e.2 hint) s

theorem SameButCaches.stores (h : SameButCaches s t) (es : List (Nat × Nat)) (a b : Nat) :
    SameButCaches (s.stores core cx n a es) (t.stores core cx n b es) := by
  induction es generalizing s t with
  | nil => exact h
  | cons e es ih => exact ih (h.vstore core cx e.1 n e.2 a b)

/-- They change the bytes that `storeBytes` names, whatever their hint. -/
theorem Stored.stores (h : SameButCaches s t) (es : List (Nat × Nat)) (hint : Nat) :
    Stored t (t.stores core cx n hint es) (s.storeBytes core cx n es) := by
  induction es generalizing s t with
  | nil => exact .refl
  | cons e es ih =>
    rw [storeBytes_cons]
    exact (Stored.vstore h e.1 e.2 hint).trans (ih (h.vstore core cx e.1 n e.2 2 hint))

/-- A store of HBM reads back. -/
theorem readLE_vstore {va x pa mt hint : Nat} (hx : s.xl core cx va .write = .ok pa mt) (hmt : mt < 2) :
    readLE (s.vstore core cx va n x hint).mem pa n = x % 256 ^ n := by
  unfold State.vstore State.physWrite
  simp only [hx, if_pos hmt]
  exact readLE_writeLE _ _ _ _

theorem stores_traffic (s : State) (hint : Nat) (es : List (Nat × Nat)) : Traffic s (s.stores core cx n hint es) :=
  .foldl (fun _ _ => .vstore _ _ _ _ _ _) es s

theorem physWrite_accs (s : State) (mt pa n x : Nat) : (s.physWrite mt pa n x).accs = s.accs := by
  have hllc (pa : Nat) : (s.llcWrite pa n).accs = s.accs := (SameButCaches.llcWrite pa n).keeps State.accs fun _ _ _ => rfl
  unfold State.physWrite
  split
  · split
    · exact hllc pa
    · rfl
  · split
    · rfl
    · split
      · rfl
      · split
        · exact hllc _
        · rfl

theorem stores_accs (s : State) (hint : Nat) (es : List (Nat × Nat)) : (s.stores core cx n hint es).accs = s.accs := by
  refine foldl_keeps State.accs (fun s e => ?_) es s
  unfold State.vstore
  split
  · exact (physWrite_accs _ _ _ _ _).trans (touch_keeps State.accs (fun _ _ _ _ _ => rfl) _ _ _ _ _ _)
  · rfl

end

end Sys2Proof.Machine
end

section
/-! Loads (spec/09 R187, R188, R190, R191): the lanes' checks, and how each load's slot ends. -/

set_option Elab.async false

namespace Sys2Proof.Machine

variable {s t u : State} {h : Here} {w : MemW} {p : Reg → Bool}

/-! ## The checks of the lanes -/

theorem failing_eq_nil {act : W32} {f : Nat → Option LaneTrap} (hf : ∀ l ∈ lanesOf act, f l = none) : failing act f = [] :=
  List.filterMap_eq_nil_iff.mpr fun l hl => by rw [hf l hl]; rfl

theorem any_eq_false_of {ls : List Nat} {q : Nat → Bool} (hq : ∀ l ∈ ls, q l = false) : ls.any q = false :=
  List.any_eq_false.mpr fun l hl => Bool.eq_false_iff.mp (hq l hl)

/-- No lane fails, so nothing traps. -/
theorem pickTrap_failing_none {act : W32} {f : Nat → Option LaneTrap} (hf : ∀ l ∈ lanesOf act, f l = none) :
    pickTrap (failing act f) = none := by
  rw [failing_eq_nil hf]
  rfl

theorem lanesOf_ne_nil {act : W32} (h : act ≠ 0) : lanesOf act ≠ [] := by
  intro hnil
  refine h (BitVec.eq_of_getLsbD_eq fun l hl => ?_)
  have hno : l ∉ lanesOf act := by rw [hnil]; exact List.not_mem_nil
  rw [mem_lanesOf] at hno
  simpa [hl] using hno

/-! ## Accesses that wait at issue -/

/-- A group without accesses to wait for has none in the side log and no load at a peer. -/
theorem idle_of_sideBusy (hb : s.sideBusy h = false) : s.logBusy h = false ∧ h.peerBusy = false := by
  rw [← Bool.or_eq_false_iff]
  exact hb

/-! ## Delivering values -/

theorem Frame.addPend (x : Pend) : Frame h s (s.addPend h.gid x) p := by
  unfold State.addPend
  exact .modGroup fun _ => .rfl

theorem Frame.deliver (dst : Opnd) (wd : Width) (vals : List (Nat × Nat)) : Frame h s (s.deliver h dst wd vals) p := by
  unfold State.deliver
  split
  · exact .addPend _
  · exact .rfl

/-- What is delivered to a group depends on the fragments and the groups alone. -/
theorem deliver_groups (hu : SameUnits s u) (dst : Opnd) (wd : Width) (vals : List (Nat × Nat)) :
    (u.deliver h dst wd vals).groups = (s.deliver h dst wd vals).groups := by
  unfold State.deliver State.addPend
  rw [hu.frags]
  split
  · rw [State.modGroup_groups, State.modGroup_groups, hu.groups]
  · exact hu.groups

theorem deliver_frags (dst : Opnd) (wd : Width) (vals : List (Nat × Nat)) : (s.deliver h dst wd vals).frags = s.frags := by
  unfold State.deliver State.addPend
  split <;> rfl

/-! ## Global loads -/

/-- The row goes on after an effect that leaves the executing fragment as it was. -/
theorem Runs.wentOn {i : Instr} (hr : Runs i h s) (hf : u.frags = s.frags) : WentOn i h (u.finish h i) := by
  obtain ⟨hfrag, hgid, -⟩ := here_spec hr.here
  exact State.finish_wentOn (hf ▸ hfrag) hgid rfl rfl rfl rfl rfl

section
variable (s : State) (core : Nat) (cx : Ctx) (write : Bool) (hint : Nat) (vas : List Nat)

theorem touches_traffic : Traffic s (vas.foldl (fun s a => s.touch core cx a write hint) s) := .foldl (fun _ _ => .touch _ _ _ _ _) vas s

/-- What looks at neither memory 0, the TLBs nor the caches sees no accesses. -/
theorem touches_keeps {γ : Type} (π : State → γ) (hπ : ∀ (s : State) mem tlb2 llc cores,
    π { s with mem := mem, tlb2 := tlb2, llc := llc, cores := cores } = π s) :
    π (vas.foldl (fun s a => s.touch core cx a write hint) s) = π s :=
  foldl_keeps π (fun s a => touch_keeps π hπ s core cx a write hint) vas s

end

/-- A global load marks the entries it uses, and its values are on their way. -/
theorem Runs.loaded {i : Instr} (hr : Runs i h s) (ls vas : List Nat) (ea : Nat → Nat) :
    WentOn i h ((s.performLoad h w ls vas ea).finish h i) ∧
      Loaded h s ((s.performLoad h w ls vas ea).finish h i) w
        (ls.map fun l => (l, (vas.foldl (fun s a => s.touch h.core h.cx a false w.sub.val) s).vload h.core h.cx (ea l) w.width.bytes)) vas := by
  unfold State.performLoad
  extract_lets v
  generalize ls.map (fun l => (l, v.vload h.core h.cx (ea l) w.width.bytes)) = vals
  have hv : Traffic s v := touches_traffic s h.core h.cx false w.sub.val vas
  have hframe : Frame h v ((v.deliver h w.dst w.width vals).finish h i) noReg := (Frame.deliver _ _ _).trans (.finish i)
  refine ⟨hr.wentOn ((deliver_frags _ _ _).trans hv.frags), ?_, ?_, ?_, ?_, ?_, ?_⟩
  · exact (Stored.touches .refl w.sub.val vas).sameMem hframe.mem
  · obtain ⟨-, -, -, hpoison⟩ := hframe.mem
    exact hpoison.trans (touches_keeps s h.core h.cx false w.sub.val vas State.poison fun _ _ _ _ _ => rfl)
  · intro k g hk
    exact hframe.regs k g (hv.groups ▸ hk)
  · exact hframe.ctxs.trans hv.ctxs
  · exact hframe.accs.trans (touches_keeps s h.core h.cx false w.sub.val vas State.accs fun _ _ _ _ _ => rfl)
  · obtain ⟨-, -, hgroup, -⟩ := here_spec hr.here
    obtain ⟨g', hg', -⟩ := (Frame.deliver (h := h) (s := s) (p := noReg) w.dst w.width vals).regs _ _ hgroup
    have hpend := finish_keeps (s := v.deliver h w.dst w.width vals) (h := h) Group.pend (fun _ _ => rfl) i h.gid
    rw [deliver_groups hv.toSameUnits, hg'] at hpend
    obtain ⟨g, hg, hgp⟩ := Option.map_eq_some_iff.mp hpend
    exact ⟨g, g', hg, hg', hgp⟩

theorem ldSlot_trap {r : RecInfo} (hb : s.sideBusy h = false)
    (hp : pickTrap (failing (h.active w.g w.gn) fun l => s.laneGlobal h (h.ea w l) w.width.bytes .read) = some r) :
    ldSlot w h s = .trap r := by
  simp [ldSlot, hb, hp]

section
variable (hb : s.sideBusy h = false) (hp : ∀ l ∈ lanesOf (h.active w.g w.gn), s.laneGlobal h (h.ea w l) w.width.bytes .read = none)
include hb hp

/-- An LD whose lanes pass their checks performs, unless it would consume a poisoned word. -/
theorem ldSlot_checked : ldSlot w h s =
    if (lanesOf (h.active w.g w.gn)).any fun l => s.vPoison h.core h.cx (h.ea w l) w.width.bytes .read then
      s.eatPoison h .read ((lanesOf (h.active w.g w.gn)).map fun l => (h.ea w l, w.width.bytes))
    else .done (s.performLoad h w (lanesOf (h.active w.g w.gn)) ((lanesOf (h.active w.g w.gn)).map (h.ea w)) (h.ea w)) := by
  unfold ldSlot
  simp only [hb, pickTrap_failing_none hp, Bool.false_eq_true, if_false]

theorem ldSlot_done (hc : ∀ l ∈ lanesOf (h.active w.g w.gn), s.vPoison h.core h.cx (h.ea w l) w.width.bytes .read = false) :
    ldSlot w h s = .done (s.performLoad h w (lanesOf (h.active w.g w.gn)) ((lanesOf (h.active w.g w.gn)).map (h.ea w)) (h.ea w)) :=
  (ldSlot_checked hb hp).trans (if_neg (Bool.eq_false_iff.mp (any_eq_false_of hc)))

theorem ldSlot_poisoned (hc : ∃ l ∈ lanesOf (h.active w.g w.gn), s.vPoison h.core h.cx (h.ea w l) w.width.bytes .read = true) :
    ldSlot w h s = .freeze .uncorr none
      (((lanesOf (h.active w.g w.gn)).findSome? fun l => s.poisonAt h.core h.cx (h.ea w l) w.width.bytes .read).getD 0) := by
  rw [ldSlot_checked hb hp, if_pos (List.any_eq_true.mpr hc), State.eatPoison, List.findSome?_map]
  rfl

end

theorem ldscSlot_done (hb : s.sideBusy h = false) (hp : s.laneGlobal h (h.ea w 0) w.width.bytes .read = none)
    (hc : s.vPoison h.core h.cx (h.ea w 0) w.width.bytes .read = false) (hact : w.dst.isS = true ∨ h.active w.g w.gn ≠ 0) :
    ldscSlot w h s = .done (s.performLoad h w (if w.dst.isS then [0] else lanesOf (h.active w.g w.gn)) [h.ea w 0] fun _ => h.ea w 0) := by
  have hne : (if w.dst.isS then [0] else lanesOf (h.active w.g w.gn)) ≠ [] := by
    split
    · exact List.cons_ne_nil _ _
    next hdst => exact lanesOf_ne_nil (hact.resolve_left hdst)
  have hnone : pickTrap [] = none := rfl
  simp [ldscSlot, hb, hp, hc, hne, hnone]

theorem ldscSlot_idle (hb : s.sideBusy h = false) (hdst : w.dst.isS = false) (hact : h.active w.g w.gn = 0) : ldscSlot w h s = .done s := by
  have hnil : (lanesOf 0).isEmpty = true := by decide
  simp only [ldscSlot, hb, hdst, hact, hnil, Bool.false_eq_true, if_false, if_true]

/-! ## Loads of a scratchpad -/

section
variable {tid : Nat} {x : Team} {act : W32} {off : Nat → Nat} (hx : s.teams.get? tid = some x)
include hx

/-- A load of present lines without an error leaves copies of them at the Hinges, and its values are on their way. -/
theorem scrLoad_present (hpres : ∀ l ∈ lanesOf act, x.present (off l) w.width.bytes = true ∧ x.scrBad (off l) w.width.bytes = false) :
    s.scrLoad h w tid act off = .done ((s.keepCopies h.core tid (linesOf ((lanesOf act).map off))).deliver h w.dst w.width
      ((lanesOf act).map fun l => (l, readLE x.scr (off l) w.width.bytes))) := by
  have habs : ((lanesOf act).any fun l => !x.present (off l) w.width.bytes) = false :=
    any_eq_false_of fun l hl => by rw [(hpres l hl).1, Bool.not_true]
  have hbad : ((lanesOf act).any fun l => x.scrBad (off l) w.width.bytes) = false := any_eq_false_of fun l hl => (hpres l hl).2
  simp only [State.scrLoad, hx, habs, hbad, Bool.false_eq_true, if_false]
  rfl

variable (habs : ∃ l ∈ lanesOf act, x.present (off l) w.width.bytes = false)
include habs

theorem scrLoad_parks (hown : tid = h.tid) : s.scrLoad h w tid act off = .park .absent s := by
  have hany : ((lanesOf act).any fun l => !x.present (off l) w.width.bytes) = true := by simpa using habs
  simp only [State.scrLoad, hx, hany, beq_iff_eq.mpr hown, if_true]

/-- A load of an absent line of a peer waits there as an outstanding write. -/
theorem scrLoad_peer {r : Fin 256} (hpeer : tid ≠ h.tid) (hdst : w.dst = .v r) : s.scrLoad h w tid act off = .done (s.addPend h.gid
    { frag := h.fid, regs := dataRegs w.width w.dst, ready := false, load := true
      peer := some { team := tid, width := w.width.bytes, lanes := (lanesOf act).map fun l => (l, off l), dst := r.val } }) := by
  have hany : ((lanesOf act).any fun l => !x.present (off l) w.width.bytes) = true := by simpa using habs
  simp only [State.scrLoad, hx, hany, beq_eq_false_iff_ne.mpr hpeer, hdst, if_true, Bool.false_eq_true, if_false]

end

theorem Frame.keepCopies (core tid : Nat) (lines : List Nat) : Frame h s (s.keepCopies core tid lines) p := by
  unfold State.keepCopies
  split
  · exact .rfl
  · exact .of_eq .rfl (Eq.refl _) (Eq.refl _) (Eq.refl _)

/-- A load of the own scratchpad crosses no Hinge. -/
theorem keepCopies_own (hh : s.here = some h) (lines : List Nat) : s.keepCopies h.core h.tid lines = s := by
  obtain ⟨-, -, -, -, hteam, -⟩ := here_spec hh
  have hnone : hingesBetween (dieOf h.core) (dieOf h.t.core) = [] := by
    unfold hingesBetween
    rw [Here.core, if_pos (beq_self_eq_true _), if_pos (beq_self_eq_true _)]
    rfl
  simp [State.keepCopies, hteam, hnone]

section
variable {r : RecInfo} (hb : s.sideBusy h = false)
include hb

theorem ldsSlot_trap (hp : pickTrap (failing (h.active w.g w.gn) fun l => s.laneScr h.tid (h.off w l) w.width.bytes false 0
    (h.quiet (lanesOf (h.active w.g w.gn)) (h.off w) w.width.bytes)) = some r) : ldsSlot w h s = .trap r := by
  simp [ldsSlot, hb, hp]

theorem ldsSlot_checked (hp : ∀ l ∈ lanesOf (h.active w.g w.gn), s.laneScr h.tid (h.off w l) w.width.bytes false 0
    (h.quiet (lanesOf (h.active w.g w.gn)) (h.off w) w.width.bytes) = none) :
    ldsSlot w h s = s.scrLoad h w h.tid (h.active w.g w.gn) (h.off w) := by
  unfold ldsSlot
  simp only [hb, pickTrap_failing_none hp, Bool.false_eq_true, if_false]

theorem ldcSlot_trap (hp : pickTrap (failing (h.active w.g w.gn) fun l => s.laneWin h (h.srcS w.a).toNat (h.winOff w l) w.width.bytes false
    (h.quiet (lanesOf (h.active w.g w.gn)) (h.winOff w) w.width.bytes)) = some r) : ldcSlot w h s = .trap r := by
  simp [ldcSlot, hb, hp]

theorem ldcSlot_checked {k : Nat} (hwin : s.windowTeam h (h.srcS w.a).toNat = .ok k)
    (hp : ∀ l ∈ lanesOf (h.active w.g w.gn), s.laneWin h (h.srcS w.a).toNat (h.winOff w l) w.width.bytes false
      (h.quiet (lanesOf (h.active w.g w.gn)) (h.winOff w) w.width.bytes) = none) :
    ldcSlot w h s = s.scrLoad h w k (h.active w.g w.gn) (h.winOff w) := by
  unfold ldcSlot
  simp only [hb, pickTrap_failing_none hp, hwin, Bool.false_eq_true, if_false]

end

end Sys2Proof.Machine

open Sys2Proof Sys2Proof.Machine

/-- Settles O26: the accesses of a load mark their entries alone, whatever their hint, and each load's slot ends by its lanes' checks. -/
theorem loads : Obligations.Loads := by
  unfold Obligations.Loads
  intro s h w n act ls slot ok seen q qw
  refine ⟨fun i hi hr hb => ?stall, fun hb => ⟨fun hr hok => ?ld, fun r hr hp => hr.traps rfl (ldSlot_trap hb hp),
    fun hr hp hc => hr.exec_eq rfl (ldSlot_poisoned hb hp hc), fun hr hok hact => ?ldsc,
    fun hr hdst hact => hr.completesQuiet rfl (ldscSlot_idle hb hdst hact) .rfl, fun hr hp => ?lds,
    fun r hr hp => hr.traps rfl (ldsSlot_trap hb hp), fun r hr hp => hr.traps rfl (ldcSlot_trap hb hp),
    fun k x hr hwin hx hp => ?ldc⟩⟩
  case stall =>
    simp only [List.mem_cons, List.not_mem_nil, or_false] at hi
    obtain rfl | rfl | rfl | rfl := hi
    all_goals exact hr.stalls rfl (if_pos hb)
  case ld =>
    have hslot := ldSlot_done hb (fun l hl => (hok l hl).1) fun l hl => (hok l hl).2
    exact ⟨_, hr.completes rfl hslot, hr.loaded _ _ _⟩
  case ldsc =>
    obtain ⟨hp, hc⟩ := hok
    exact ⟨_, hr.completes rfl (ldscSlot_done hb hp hc hact), hr.loaded _ _ _⟩
  case lds =>
    obtain ⟨-, -, -, -, hteam, -⟩ := here_spec hr.here
    have hslot := ldsSlot_checked hb hp
    refine ⟨fun habs => ?_, fun hpres => ?_⟩
    · exact hr.exec_eq rfl (hslot.trans (scrLoad_parks hteam habs rfl))
    · rw [scrLoad_present hteam hpres, keepCopies_own hr.here] at hslot
      exact hr.completesQuiet rfl hslot (.deliver _ _ _)
  case ldc =>
    have hslot := ldcSlot_checked hb hwin hp
    refine ⟨fun hpres => ?_, fun r habs hpeer hdst => ?_⟩
    · rw [scrLoad_present hx hpres] at hslot
      exact hr.completesQuiet rfl hslot ((Frame.keepCopies _ _ _).trans (.deliver _ _ _))
    · exact hr.completesQuiet rfl (hslot.trans (scrLoad_peer hx habs hpeer hdst)) (.addPend _)

end

section
/-! Stores (spec/08 R181; spec/09 R187, R189 to R191): what performs at once, what enters the side log, and when a store waits. -/

set_option Elab.async false

namespace Sys2Proof.Machine

variable {s t u : State} {h : Here} {w : MemW} {p : Reg → Bool}

/-! ## Masks of lanes -/

theorem getLsbD_foldl_or (q : Nat → Bool) (l : List Nat) (m : W32) {j : Nat} (hj : j < 32) :
    (l.foldl (fun m i => if q i then m ||| BitVec.ofNat 32 (2 ^ i) else m) m).getLsbD j =
      (m.getLsbD j || l.any fun i => i == j && q i) := by
  induction l generalizing m with
  | nil => simp
  | cons i l ih =>
    have hbit : (BitVec.ofNat 32 (2 ^ i)).getLsbD j = (i == j) := by
      rw [BitVec.getLsbD_ofNat, Nat.testBit_two_pow, decide_eq_true hj, Bool.true_and]
      rfl
    rw [List.foldl_cons, ih, List.any_cons]
    cases hq : q i with
    | true => rw [if_pos rfl, BitVec.getLsbD_or, hbit, Bool.and_true, Bool.or_assoc]
    | false => rw [if_neg Bool.false_ne_true, Bool.and_false, Bool.false_or]

theorem getLsbD_maskOf {q : Nat → Bool} {l : Nat} (hl : l < 32) : (maskOf q).getLsbD l = q l := by
  rw [maskOf, getLsbD_foldl_or q _ _ hl, Bool.eq_iff_iff]
  simp [hl]

theorem mem_lanesOf_maskOf {q : Nat → Bool} {l : Nat} (hl : l ∈ lanesOf (maskOf q)) : q l = true := by
  obtain ⟨hlt, hbit⟩ := mem_lanesOf.mp hl
  rwa [getLsbD_maskOf hlt] at hbit

/-- The mask of a mask's lanes is the mask. -/
theorem maskOf_lanesOf (act : W32) : (maskOf fun l => (lanesOf act).contains l) = act := by
  refine BitVec.eq_of_getLsbD_eq fun l hl => ?_
  rw [getLsbD_maskOf hl, Bool.eq_iff_iff, List.contains_iff_mem, mem_lanesOf, and_iff_right hl]

/-! ## Stores that wait at issue -/

/-- Does a store wait at issue: for a load at a peer, or as a release for the side log too? -/
def State.storeWaits (s : State) (h : Here) (w : MemW) : Bool := (w.order == .rel && s.sideBusy h) || h.peerBusy

theorem storeWaits_iff : s.storeWaits h w = true ↔ h.peerBusy = true ∨ (w.order = .rel ∧ s.sideBusy h = true) := by
  unfold State.storeWaits
  rw [Bool.or_eq_true, Bool.and_eq_true, beq_iff_eq, or_comm]

theorem storeWaits_of_idle (hb : s.sideBusy h = false) : s.storeWaits h w = false := by
  obtain ⟨-, hpeer⟩ := idle_of_sideBusy hb
  simp [State.storeWaits, hb, hpeer]

theorem storeWaits_of_noPeer (hpeer : h.peerBusy = false) (hrel : w.order = .rel → s.logBusy h = false) : s.storeWaits h w = false := by
  rw [Bool.eq_false_iff, ne_eq, storeWaits_iff]
  rintro (hp | ⟨ho, hb⟩)
  · exact Bool.false_ne_true (hpeer.symm.trans hp)
  · rw [State.sideBusy, hrel ho, hpeer] at hb
    exact Bool.false_ne_true hb

/-! ## Global stores -/

theorem exec_st : exec (.st w) s = runSlot (.st w) (fun h s => s.storeLanes h w (lanesOf (h.active w.g w.gn)) (h.ea w) id) s := rfl

theorem exec_stsc : exec (.stsc w) s = runSlot (.stsc w) (fun h s => s.storeLanes h w [0] (h.ea w) fun _ => h.f.mask) s := rfl

theorem sideAdd_nil {info : Nat} {mk : List Nat → SideOp} {mask : W32 → W32} : s.sideAdd h [] info mk mask = some s := rfl

/-- Entering the side log changes nothing outside the cores. -/
theorem sideAdd_some {lanes : List (Nat × Nat)} {info : Nat} {mk : List Nat → SideOp} {mask : W32 → W32}
    (hu : s.sideAdd h lanes info mk mask = some u) : u = { s with cores := u.cores } := by
  unfold State.sideAdd at hu
  dsimp only at hu
  split at hu
  · cases hu
    rfl
  · split at hu
    · cases hu
    · cases hu
      rfl

theorem Frame.sideAdd {lanes : List (Nat × Nat)} {info : Nat} {mk : List Nat → SideOp} {mask : W32 → W32}
    (hu : s.sideAdd h lanes info mk mask = some u) : Frame h s u p := by
  rw [sideAdd_some hu]
  exact .of_eq .rfl (Eq.refl _) (Eq.refl _) (Eq.refl _)

/-- Stores that are lost are noted in the group. -/
theorem noteLostLanes_rest (ls : List Nat) (ea : Nat → Nat) (mask : W32 → W32) :
    s.noteLostLanes h ls ea mask = s.withHere (s.noteLostLanes h ls ea mask).groups s.frags := by
  unfold State.noteLostLanes
  dsimp only
  split <;> rfl

theorem Frame.noteLostLanes (ls : List Nat) (ea : Nat → Nat) (mask : W32 → W32) : Frame h s (s.noteLostLanes h ls ea mask) p := by
  unfold State.noteLostLanes
  dsimp only
  split
  · exact .rfl
  · exact .modGroup fun g => by split <;> exact .rfl

section
variable {ls late : List Nat} {ea : Nat → Nat} {mask : W32 → W32} {bad : List (Nat × LaneTrap)} (hw : s.storeWaits h w = false)
  (hbad : failing (maskOf fun l => ls.contains l) (fun l => s.laneGlobal h (ea l) w.width.bytes .write) = bad)
include hw hbad

theorem storeLanes_trap {r : RecInfo} (hx : onlyXlate bad = false) (hp : pickTrap bad = some r) :
    s.storeLanes h w ls ea mask = .trap { r with lanes := (mask (BitVec.ofNat 32 r.lanes)).toNat } := by
  unfold State.storeLanes
  rw [State.storeWaits] at hw
  simp only [hw, hbad, hx, hp, Bool.not_false, Bool.false_eq_true, if_false, if_true]

variable (hx : onlyXlate bad = true) (hlate : (if s.logBusy h then ls else bad.map (·.1)) = late)
  (hc : ∀ l ∈ ls.filter fun l => !late.contains l, s.vPartPoison h.core h.cx (ea l) w.width.bytes = false)
include hx hlate hc

/-- Of a store whose lanes fail translation alone, those of `late` enter the side log, if it has room, and the others perform. -/
theorem storeLanes_performs (hu : s.sideAdd h (late.map fun l => (l, ea l)) 0 (storeOp h w.c w.width.bytes ea) mask = some u) :
    s.storeLanes h w ls ea mask = .done (((ls.filter fun l => !late.contains l).foldl (fun s l =>
      s.vstore h.core h.cx (ea l) w.width.bytes (h.data w.c w.width.bytes l) w.sub.val) u).noteLostLanes h
        (ls.filter fun l => !late.contains l) ea mask) := by
  unfold State.storeLanes
  rw [State.storeWaits] at hw
  simp only [hw, hbad, hx, hlate, any_eq_false_of hc, hu, Bool.not_true, Bool.false_eq_true, if_false]

theorem storeLanes_full (hu : s.sideAdd h (late.map fun l => (l, ea l)) 0 (storeOp h w.c w.width.bytes ea) mask = none) :
    s.storeLanes h w ls ea mask = .stall := by
  unfold State.storeLanes
  rw [State.storeWaits] at hw
  simp only [hw, hbad, hx, hlate, any_eq_false_of hc, hu, Bool.not_true, Bool.false_eq_true, if_false]

end

/-- A store whose lanes all pass their checks performs them all. -/
theorem storeLanes_clean {ls : List Nat} {ea : Nat → Nat} {mask : W32 → W32} (hb : s.sideBusy h = false)
    (hok : ∀ l ∈ ls, s.laneGlobal h (ea l) w.width.bytes .write = none ∧ s.vPartPoison h.core h.cx (ea l) w.width.bytes = false) :
    s.storeLanes h w ls ea mask = .done ((s.stores h.core h.cx w.width.bytes w.sub.val
      (ls.map fun l => (ea l, h.data w.c w.width.bytes l))).noteLostLanes h ls ea mask) := by
  obtain ⟨hlog, -⟩ := idle_of_sideBusy hb
  have hbad : failing (maskOf fun l => ls.contains l) (fun l => s.laneGlobal h (ea l) w.width.bytes .write) = [] :=
    failing_eq_nil fun l hl => (hok l (List.contains_iff_mem.mp (mem_lanesOf_maskOf hl))).1
  have hnow : (ls.filter fun l => !([] : List Nat).contains l) = ls := List.filter_eq_self.mpr fun _ _ => rfl
  have hdone := storeLanes_performs (late := []) (storeWaits_of_idle hb) hbad rfl (by rw [hlog]; rfl)
    (fun l hl => (hok l (hnow ▸ hl)).2) (sideAdd_nil (mask := mask))
  rw [hnow] at hdone
  rw [hdone, State.stores, List.foldl_map]

section
variable {ls : List Nat} {ea : Nat → Nat} {mask : W32 → W32} {bad : List (Nat × LaneTrap)} (hw : s.storeWaits h w = false)
  (hlog : s.logBusy h = true) (hbad : failing (maskOf fun l => ls.contains l) (fun l => s.laneGlobal h (ea l) w.width.bytes .write) = bad)
  (hx : onlyXlate bad = true)
include hw hlog hbad hx

/-- Behind entries of its group in the side log a store enters it with all its lanes. -/
theorem storeLanes_behind (hu : s.sideAdd h (ls.map fun l => (l, ea l)) 0 (storeOp h w.c w.width.bytes ea) mask = some u) :
    s.storeLanes h w ls ea mask = .done u := by
  have hnow : (ls.filter fun l => !ls.contains l) = [] := by simp
  have hdone := storeLanes_performs hw hbad hx (if_pos hlog) (by rw [hnow]; exact fun _ hl => absurd hl List.not_mem_nil) hu
  rw [hnow] at hdone
  exact hdone

theorem storeLanes_behind_full (hu : s.sideAdd h (ls.map fun l => (l, ea l)) 0 (storeOp h w.c w.width.bytes ea) mask = none) :
    s.storeLanes h w ls ea mask = .stall := by
  have hnow : (ls.filter fun l => !ls.contains l) = [] := by simp
  exact storeLanes_full hw hbad hx (if_pos hlog) (by rw [hnow]; exact fun _ hl => absurd hl List.not_mem_nil) hu

end

/-- What has been stored, once the row has gone on. -/
theorem Runs.storedAll {i : Instr} (hr : Runs i h s) (n hint : Nat) (es : List (Nat × Nat)) (ls : List Nat) (ea : Nat → Nat)
    (mask : W32 → W32) : WentOn i h (((s.stores h.core h.cx n hint es).noteLostLanes h ls ea mask).finish h i) ∧
      StoredAll h s (((s.stores h.core h.cx n hint es).noteLostLanes h ls ea mask).finish h i) n es := by
  have hv := stores_traffic (core := h.core) (cx := h.cx) (n := n) s hint es
  have haccs := stores_accs (core := h.core) (cx := h.cx) (n := n) s hint es
  have hframe : Frame h (s.stores h.core h.cx n hint es)
      (((s.stores h.core h.cx n hint es).noteLostLanes h ls ea mask).finish h i) noReg := (Frame.noteLostLanes ls ea mask).trans (.finish i)
  have hlost := noteLostLanes_rest (s := s.stores h.core h.cx n hint es) (h := h) ls ea mask
  have hmem : (((s.stores h.core h.cx n hint es).noteLostLanes h ls ea mask).finish h i).mem = (s.stores h.core h.cx n hint es).mem := by
    rw [State.finish_rest]
    exact (congrArg State.mem hlost :)
  refine ⟨hr.wentOn ((congrArg State.frags hlost).trans hv.frags), ?_, ?_, hframe.ctxs.trans hv.ctxs, hframe.accs.trans haccs, ?_⟩
  · exact (Stored.stores .refl es hint).sameMem hframe.mem
  · exact fun k g hk => hframe.regs k g (hv.groups ▸ hk)
  · intro es' va x pa mt hes hxl hmt
    subst hes
    have hlast : s.stores h.core h.cx n hint (es' ++ [(va, x)]) = (s.stores h.core h.cx n hint es').vstore h.core h.cx va n x hint := by
      rw [State.stores, List.foldl_append]
      rfl
    have hsame : SameButCaches (s.stores h.core h.cx n 2 es') (s.stores h.core h.cx n hint es') := .stores .refl es' 2 hint
    rw [hmem, hlast]
    exact readLE_vstore ((hsame.xl _ _ _ _).trans hxl) hmt

/-! ## Stores into a scratchpad -/

/-- The scratchpad stores of the lanes, in order (spec/09 R190). -/
def Team.puts (t : Team) (h : Here) (w : MemW) (ls : List Nat) (off : Nat → Nat) : Team :=
  ls.foldl (fun t l => t.scrPut (off l) w.width.bytes (h.data w.c w.width.bytes l)) t

theorem puts_outside (ls : List Nat) (off : Nat → Nat) (x : Team) {o : Nat} (ho : ∀ l ∈ ls, o < off l ∨ off l + w.width.bytes ≤ o) :
    memByte (x.puts h w ls off).scr o = memByte x.scr o := by
  induction ls generalizing x with
  | nil => rfl
  | cons l ls ih =>
    have hout : ¬ (off l ≤ o ∧ o < off l + w.width.bytes) := by
      have := ho l List.mem_cons_self
      omega
    refine (ih _ fun l' hl' => ho l' (List.mem_cons_of_mem _ hl')).trans ?_
    exact (memByte_writeLE _ _ _ _ _).trans (if_neg hout)

section
variable {tid : Nat} {x : Team} {act : W32} {off : Nat → Nat} (hx : s.teams.get? tid = some x)
include hx

theorem scrStore_done (hlog : s.logBusy h = false)
    (hc : 4 ≤ w.width.bytes ∨ ∀ l ∈ lanesOf act, x.scrBad (off l) w.width.bytes = false) : s.scrStore h w tid act off =
      .done ((s.dropCopies tid (linesOf ((lanesOf act).map off))).putTeam tid (x.puts h w (lanesOf act) off)) := by
  have hbad : (decide (w.width.bytes < 4) && (lanesOf act).any fun l => x.scrBad (off l) w.width.bytes) = false := by
    rw [Bool.and_eq_false_iff]
    exact hc.imp (fun hn => decide_eq_false (not_lt.mpr hn)) any_eq_false_of
  simp only [State.scrStore, hx, hlog, hbad, Bool.false_eq_true, if_false]
  rfl

/-- The lanes' bytes as an entry of the side log. -/
theorem scrStore_logged (hlog : s.logBusy h = true)
    (hu : (s.sideAdd h ((lanesOf act).map fun l => (l, off l)) 0 fun ls => .scr tid (ls.flatMap fun l =>
      (List.range w.width.bytes).map fun i => (off l + i, BitVec.ofNat 8 (h.data w.c w.width.bytes l / 256 ^ i)))) = some u) :
    s.scrStore h w tid act off = .done u := by
  simp only [State.scrStore, hx, hlog, hu, if_true]

end

theorem Frame.dropCopies (tid : Nat) (lines : List Nat) : Frame h s (s.dropCopies tid lines) p := by
  unfold State.dropCopies
  split
  · exact .rfl
  · exact .of_eq .rfl (Eq.refl _) (Eq.refl _) (Eq.refl _)

theorem Frame.putTeam (tid : Nat) (x : Team) : Frame h s (s.putTeam tid x) p := .of_eq .rfl (Eq.refl _) (Eq.refl _) (Eq.refl _)

section
variable {r : RecInfo} (hw : s.storeWaits h w = false)
include hw

theorem stsSlot_trap (hp : pickTrap (failing (h.active w.g w.gn) fun l => s.laneScr h.tid (h.off w l) w.width.bytes true 0) = some r) :
    stsSlot w h s = .trap r := by
  rw [State.storeWaits] at hw
  simp only [stsSlot, hw, hp, Bool.false_eq_true, if_false]

theorem stsSlot_checked (hp : ∀ l ∈ lanesOf (h.active w.g w.gn), s.laneScr h.tid (h.off w l) w.width.bytes true 0 = none) :
    stsSlot w h s = s.scrStore h w h.tid (h.active w.g w.gn) (h.off w) := by
  rw [State.storeWaits] at hw
  simp only [stsSlot, hw, pickTrap_failing_none hp, Bool.false_eq_true, if_false]

theorem stcSlot_trap
    (hp : pickTrap (failing (h.active w.g w.gn) fun l => s.laneWin h (h.srcS w.a).toNat (h.winOff w l) w.width.bytes true) = some r) :
    stcSlot w h s = .trap r := by
  rw [State.storeWaits] at hw
  simp only [stcSlot, hw, hp, Bool.false_eq_true, if_false]

theorem stcSlot_checked {k : Nat} (hwin : s.windowTeam h (h.srcS w.a).toNat = .ok k)
    (hp : ∀ l ∈ lanesOf (h.active w.g w.gn), s.laneWin h (h.srcS w.a).toNat (h.winOff w l) w.width.bytes true = none) :
    stcSlot w h s = s.scrStore h w k (h.active w.g w.gn) (h.winOff w) := by
  rw [State.storeWaits] at hw
  simp only [stcSlot, hw, pickTrap_failing_none hp, hwin, Bool.false_eq_true, if_false]

end

end Sys2Proof.Machine

open Sys2Proof Sys2Proof.Machine

/-- Settles O27: the stores that perform change the bytes they store to and mark their entries, whatever their hint; the others enter the
side log, which one core holds. -/
theorem stores : Obligations.Stores := by
  unfold Obligations.Stores
  intro s h w n act ls slot ok put bad now logged
  have hmask : failing (maskOf fun l => ls.contains l) (fun l => s.laneGlobal h (h.ea w l) n .write) = bad := by
    rw [maskOf_lanesOf]
  refine ⟨fun i hi hr hwait => ?stall, fun hb => ⟨fun hr hok => ?st, fun hr hok => ?stsc, fun u hr hne hx hc hu => ?part,
    fun hr hp hc => ?sts, fun k x hr hwin hx hp hc => ?stc⟩, fun hpeer hrel hlog => ?behind, fun hpeer hrel => ?traps⟩
  case stall =>
    have hw := storeWaits_iff.mpr hwait
    simp only [List.mem_cons, List.not_mem_nil, or_false] at hi
    obtain rfl | rfl | rfl | rfl := hi
    exacts [hr.stalls exec_st (if_pos hw), hr.stalls exec_stsc (if_pos hw), hr.stalls rfl (if_pos hw), hr.stalls rfl (if_pos hw)]
  case st => exact ⟨_, hr.completes exec_st (storeLanes_clean hb hok), hr.storedAll _ _ _ _ _ _⟩
  case stsc =>
    have hslot := storeLanes_clean (ls := [0]) (mask := fun _ => h.f.mask) hb fun l hl => by rwa [List.mem_singleton.mp hl]
    exact ⟨_, hr.completes exec_stsc hslot, hr.storedAll _ _ _ _ _ _⟩
  case part =>
    obtain ⟨hlog, -⟩ := idle_of_sideBusy hb
    have hslot := storeLanes_performs (late := bad.map (·.1)) (mask := id) (storeWaits_of_idle hb) hmask hx (by rw [hlog]; rfl) hc
      (by rw [List.map_map]; exact hu)
    exact ⟨hr.completes exec_st hslot, by rw [sideAdd_some hu]⟩
  case sts =>
    obtain ⟨-, -, -, -, hteam, -⟩ := here_spec hr.here
    obtain ⟨hlog, -⟩ := idle_of_sideBusy hb
    have hslot := (stsSlot_checked (storeWaits_of_idle hb) hp).trans (scrStore_done hteam hlog hc)
    exact ⟨hr.completesQuiet rfl hslot ((Frame.dropCopies _ _).trans (.putTeam _ _)), fun o ho => puts_outside ls (h.off w) h.t ho⟩
  case stc =>
    obtain ⟨hlog, -⟩ := idle_of_sideBusy hb
    have hslot := (stcSlot_checked (storeWaits_of_idle hb) hwin hp).trans (scrStore_done hx hlog hc)
    exact hr.completesQuiet rfl hslot ((Frame.dropCopies _ _).trans (.putTeam _ _))
  case behind =>
    have hw := storeWaits_of_noPeer (s := s) hpeer fun ho => absurd ho hrel
    refine ⟨fun u hr hx hu => hr.completesQuiet exec_st (storeLanes_behind hw hlog hmask hx hu) (.sideAdd hu),
      fun hr hx hu => hr.stalls exec_st (storeLanes_behind_full hw hlog hmask hx hu), fun u hr hp hu => ?_,
      fun k x u hr hwin hx hp hu => ?_⟩
    · obtain ⟨-, -, -, -, hteam, -⟩ := here_spec hr.here
      exact hr.completesQuiet rfl ((stsSlot_checked hw hp).trans (scrStore_logged hteam hlog hu)) (.sideAdd hu)
    · exact hr.completesQuiet rfl ((stcSlot_checked hw hwin hp).trans (scrStore_logged hx hlog hu)) (.sideAdd hu)
  case traps =>
    have hw := storeWaits_of_noPeer hpeer hrel
    exact ⟨fun r hr hx hp => hr.traps exec_st (storeLanes_trap hw hmask hx hp), fun r hr hp => hr.traps rfl (stsSlot_trap hw hp),
      fun r hr hp => hr.traps rfl (stcSlot_trap hw hp)⟩

end

section
/-! Cache operations and fences (spec/09 R192, R193, R208): which lines the caches hold afterwards, and that nothing else changes. -/

set_option Elab.async false

namespace Sys2Proof.Machine

variable {s t u : State} {h : Here} {p : Reg → Bool}

/-! ## States alike but for cached lines -/

/-- The states differ in the lines of one core's L1 and of the LLCs alone. -/
structure LinesOnly (core : Nat) (s t : State) : Prop where
  rest : t = { s with llc := t.llc, cores := t.cores }
  cores : ∀ k, t.core k = { s.core k with l1 := (t.core k).l1 } ∧ (k ≠ core → t.core k = s.core k)

namespace LinesOnly

variable {core : Nat}

theorem refl : LinesOnly core s s := ⟨rfl, fun _ => ⟨rfl, fun _ => rfl⟩⟩

theorem trans (h : LinesOnly core s t) (h' : LinesOnly core t u) : LinesOnly core s u := by
  refine ⟨h'.rest.trans (congrArg (fun x : State => { x with llc := u.llc, cores := u.cores }) h.rest), fun k => ?_⟩
  obtain ⟨hl1, hother⟩ := h.cores k
  obtain ⟨hl1', hother'⟩ := h'.cores k
  exact ⟨hl1'.trans (congrArg (fun c : Core => { c with l1 := (u.core k).l1 }) hl1), fun hk => (hother' hk).trans (hother hk)⟩

theorem foldl {α : Type} {f : State → α → State} (hf : ∀ s x, LinesOnly core s (f s x)) (l : List α) (s : State) :
    LinesOnly core s (l.foldl f s) := by
  induction l generalizing s with
  | nil => exact refl
  | cons x l ih => exact (hf s x).trans (ih (f s x))

theorem llc (l : SMap (List (Nat × Bool))) : LinesOnly core s { s with llc := l } := ⟨rfl, fun _ => ⟨rfl, fun _ => rfl⟩⟩

theorem l1 (f : List Nat → List Nat) : LinesOnly core s (s.modCore core fun c => { c with l1 := f c.l1 }) := by
  refine ⟨rfl, fun k => ?_⟩
  rw [core_modCore]
  split
  next hk => exact ⟨by rw [hk], fun hne => absurd hk hne⟩
  · exact ⟨rfl, fun _ => rfl⟩

theorem place (hint mt pa : Nat) : LinesOnly core s (s.place core hint mt pa) := by
  unfold State.place
  split
  · exact refl
  · extract_lets v
    have hv : LinesOnly core s v := llc _
    split
    · exact hv
    · exact hv.trans (l1 _)

theorem prefLane (w : MemW) (va : Nat) : LinesOnly h.core s (s.prefLane h w va) := by
  unfold State.prefLane
  split
  · exact refl
  · split
    · exact place _ _ _
    · exact refl

theorem frame (hl : LinesOnly core s t) : Frame h s t p := by
  rw [hl.rest]
  exact .of_eq .rfl rfl rfl rfl

end LinesOnly

/-! ## CCTL -/

/-- Dirty lines of a range have been written to HBM. -/
def State.cleanLines (s : State) (h : Here) (a n : Nat) : State :=
  { s with llc := s.llc.mapV fun _ l => l.map fun e => (e.1, e.2 && !s.meetsLine h a n e.1) }

/-- The lines of a range have left the L1 of the issuing core. -/
def State.dropLines (s : State) (h : Here) (a n : Nat) : State :=
  s.modCore h.core fun c => { c with l1 := c.l1.filter fun ln => !s.meetsLine h a n ln }

/-- What a CCTL does. -/
def State.control (s : State) (h : Here) (clean inval : Bool) (a n : Nat) : State :=
  let s := if clean then s.cleanLines h a n else s
  if inval then s.dropLines h a n else s

section
variable {clean inval : Bool} {a n ln : Nat}

/-- Which lines a range meets does not depend on what the LLCs hold. -/
theorem meetsLine_cleanLines (b m : Nat) : (s.cleanLines h b m).meetsLine h a n ln = s.meetsLine h a n ln := rfl

theorem LinesOnly.control : LinesOnly h.core s (s.control h clean inval a n) := by
  unfold State.control
  extract_lets v
  have hv : LinesOnly h.core s v := by
    unfold v
    split
    · exact .llc _
    · exact .refl
  split
  · exact hv.trans (.l1 _)
  · exact hv

/-- After a clean no dirty line of the range is left in an LLC. -/
theorem control_clean {d : Nat} (hc : clean = true) (hln : (ln, true) ∈ (s.control h clean inval a n).llc.getD [] d) :
    s.meetsLine h a n ln = false := by
  have hllc : (s.control h clean inval a n).llc = (s.cleanLines h a n).llc := by
    unfold State.control
    rw [hc]
    cases inval <;> rfl
  rw [hllc, SMap.getD, State.cleanLines, SMap.get?_mapV] at hln
  cases hd : s.llc.get? d with
  | none => simp [hd] at hln
  | some l =>
    have hmem : (ln, true) ∈ l ∧ s.meetsLine h a n ln = false := by simpa [hd] using hln
    exact hmem.2

/-- After an invalidation no line of the range is left in the L1 of the issuing core. -/
theorem control_inval (hi : inval = true) (hln : ln ∈ ((s.control h clean inval a n).core h.core).l1) : s.meetsLine h a n ln = false := by
  unfold State.control State.dropLines at hln
  rw [hi, if_pos rfl, core_modCore, if_pos rfl] at hln
  have hmeets := (List.mem_filter.mp hln).2
  cases clean <;> simpa [meetsLine_cleanLines] using hmeets

end

section
variable {clean inval : Bool} {w : EngW}

/-- All but an invalidation clean, and all but a clean invalidate. -/
theorem exec_cctl {i : Instr} (hi : i ∈ [Instr.cctlClean w, .cctlInval w, .cctlCinv w]) : ∃ clean inval,
    exec i s = runSlot i (cctlSlot clean inval w) s ∧ (i ≠ .cctlInval w → clean = true) ∧ (i ≠ .cctlClean w → inval = true) := by
  simp only [List.mem_cons, List.not_mem_nil, or_false] at hi
  obtain rfl | rfl | rfl := hi
  · exact ⟨true, false, rfl, fun _ => rfl, fun hne => absurd rfl hne⟩
  · exact ⟨false, true, rfl, fun hne => absurd rfl hne, fun _ => rfl⟩
  · exact ⟨true, true, rfl, fun _ => rfl, fun _ => rfl⟩

variable (hpeer : h.peerBusy = false)
include hpeer

theorem cctlSlot_empty (hn : (h.srcS w.b).toNat = 0) : cctlSlot clean inval w h s = .done s := by
  simp [cctlSlot, hpeer, hn]

variable (hn : (h.srcS w.b).toNat ≠ 0)
include hn

theorem cctlSlot_trap (ha : apertureBase < (h.srcS w.a).toNat + (h.srcS w.b).toNat) : cctlSlot clean inval w h s =
    .trap { cause := .prot, lanes := h.f.mask.toNat, addr := max (h.srcS w.a).toNat apertureBase % 2 ^ 56 } := by
  simp [cctlSlot, hpeer, hn, ha]

theorem cctlSlot_done (ha : (h.srcS w.a).toNat + (h.srcS w.b).toNat ≤ apertureBase) : cctlSlot clean inval w h s =
    .done (s.control h clean inval (h.srcS w.a).toNat (h.srcS w.b).toNat) := by
  simp only [cctlSlot, hpeer, beq_iff_eq, hn, not_lt.mpr ha, Bool.false_eq_true, if_false]
  rfl

end

/-! ## Fences -/

/-- A fence that releases waits for the group's accesses. -/
def fenceSlot (h : Here) (s : State) : SlotResult := if s.sideBusy h then .stall else .done s

theorem exec_fence {w : EngW} {i : Instr} (hi : i ∈ [Instr.fenceRel w, .fenceAr w]) : exec i s = runSlot i fenceSlot s := by
  simp only [List.mem_cons, List.not_mem_nil, or_false] at hi
  obtain rfl | rfl := hi <;> rfl

end Sys2Proof.Machine
end

section
/-! MWAIT (spec/09 R203): how it ends as it issues and as its word is looked at again, and what the end of a parked instruction leaves. -/

set_option Elab.async false

namespace Sys2Proof.Machine

variable {s t u : State} {h : Here} {p : Reg → Bool} {fid : Nat} {x : Bool}

/-! ## The end of a parked instruction -/

/-- The end of its parked instruction places a fragment at the next slot. -/
theorem Frag.ended_spec (f : Frag) : f.ended.mask = f.mask ∧ f.ended.chain = f.chain ∧
    f.ended.line = (if f.slot.val < 4 then f.line else f.line + 64) ∧ f.ended.slot.val = (if f.slot.val < 4 then f.slot.val + 1 else 0) := by
  obtain ⟨-, hmask, hchain, -, hline, hslot⟩ := Frag.advance_spec f.mark
  unfold Frag.ended
  split
  · exact ⟨hmask, hchain, hline, hslot⟩
  · exact ⟨hmask, hchain, hline, hslot⟩

theorem setFlag_rest (gid : Nat) (dst : Opnd) : s.setFlag gid dst x = s.withHere (s.setFlag gid dst x).groups s.frags := by
  unfold State.setFlag
  split <;> rfl

theorem setFlag_frags (gid : Nat) (dst : Opnd) : (s.setFlag gid dst x).frags = s.frags := by
  rw [setFlag_rest]
  rfl

/-- A flag that has been written reads back. -/
theorem setFlag_flag {gid : Nat} {dst : Opnd} {r : Fin 8} {g : Group} (hdst : dst = .c r) (hg : s.groups.get? gid = some g) :
    ∃ g', (s.setFlag gid dst x).groups.get? gid = some g' ∧ g'.c.getLsbD r.val = x := by
  subst hdst
  exact ⟨_, modGroup_group hg, (Group.setC_get g r.val r.val x r.isLt).trans (if_pos rfl)⟩

theorem finishParked_rest (s : State) (k : Nat) : s.finishParked k = s.withHere (s.finishParked k).groups (s.finishParked k).frags := by
  cases hf : s.frags.get? k with
  | none => simp only [State.finishParked, hf, State.withHere_self]
  | some f =>
    rw [finishParked_eq hf, State.modFrag_withHere]
    conv_lhs => rw [State.account_rest]
    rfl

theorem answer_rest (s : State) (k : Nat) (x : Bool) : s.answer k x = s.withHere (s.answer k x).groups (s.answer k x).frags := by
  unfold State.answer
  split
  · rfl
  · rw [finishParked_rest, setFlag_rest]
    rfl

theorem answer_eq {f : Frag} (hf : s.frags.get? fid = some f) :
    s.answer fid x = (s.setFlag f.group (s.parkedDst fid) x).finishParked fid := by
  simp only [State.answer, hf]

theorem answer_answered {f : Frag} (hf : s.frags.get? fid = some f) : Answered s (s.answer fid x) fid x := by
  have hv : (s.setFlag f.group (s.parkedDst fid) x).frags.get? fid = some f := by rw [setFlag_frags, hf]
  refine ⟨answer_rest s fid x, f, ?_⟩
  rw [answer_eq hf, finishParked_eq hv]
  generalize hw : Fields.ofWord (lineSlot f.buf f.slot.val) = word
  have hend := State.account_frags (s.setFlag f.group (s.parkedDst fid) x) fid f.group word fid
  rw [if_pos rfl, hv] at hend
  obtain ⟨hmask, hchain, hline, hslot⟩ := Frag.ended_spec { f with sig := if noSig word.op.toNat then f.sig else sigUpdate f.sig word }
  refine ⟨_, hf, modFrag_frag hend, hmask, hchain, Frag.ended_freed _, hline, hslot, fun r g hdst hg => ?_⟩
  obtain ⟨g', hg', hflag⟩ := setFlag_flag (x := x) hdst hg
  have hkeep := account_keeps (s := s.setFlag f.group (s.parkedDst fid) x) (fun g => g.c.getLsbD r.val) (fun _ _ => rfl) fid f.group word
    f.group
  rw [hg'] at hkeep
  obtain ⟨g'', hg'', hflag'⟩ := Option.map_eq_some_iff.mp hkeep
  exact ⟨g'', hg'', hflag'.trans hflag⟩

/-! ## MWAIT as it issues -/

/-- The comparison as R203 states it. -/
theorem mwaitCmp_eq (cmp : Nat) (y v : W64) : mwaitCmp cmp y v =
    match cmp with
    | 0 => decide (y = v)
    | 1 => decide (v.toNat ≤ y.toNat)
    | _ => decide (y ≠ v) := by
  match cmp with
  | 0 => exact beq_eq_decide _ _
  | 1 => rfl
  | _ + 2 => exact (congrArg not (beq_eq_decide _ _)).trans (decide_not).symm

theorem pickTrap_single (l : Nat) (e : LaneTrap) : pickTrap [(l, e)] =
    some { cause := e.cause, detail := e.detail, info := e.info, addr := e.addr, lanes := 2 ^ l } := by
  by_cases hx : e.cause = .xlate <;> simp [pickTrap, hx]

/-- The cycles of an MWAIT's timeout stand in the register after its value. -/
def Here.mwaitCycles (h : Here) (o : Opnd) : Nat :=
  match o with
  | .s r => (h.sreg (r.val + 1)).toNat
  | _ => 0

section
variable {w : MemW} (hr : Runs (.mwait w) h s)
include hr

theorem Runs.mwait_stalls (hb : s.sideBusy h = true) : Stalls (.mwait w) h s := by
  have hrow : exec (.mwait w) s = execMwait w s := rfl
  exact hr.stalls hrow (if_pos hb)

variable (hb : s.sideBusy h = false)
include hb

theorem Runs.mwait_traps {e : LaneTrap} (he : s.mwaitTrap h (h.atomEa w 0) = some e) : Traps (.mwait w) h s
    { cause := e.cause, detail := e.detail, info := e.info, addr := e.addr, lanes := h.f.mask.toNat } := by
  have hrow : exec (.mwait w) s = execMwait w s := rfl
  exact hr.traps hrow (by simp only [hb, he, Option.map_some, Option.toList_some, pickTrap_single, Bool.false_eq_true, if_false])

variable (he : s.mwaitTrap h (h.atomEa w 0) = none) (hc : s.mwaitPoison h (h.atomEa w 0) = false) {y : W64}
  (hy : (s.mwaitTouch h (h.atomEa w 0)).mwaitWord h (h.atomEa w 0) = y)
include he hc hy

theorem Runs.mwait_met (hm : mwaitCmp w.sub.val y (h.srcS w.b) = true) :
    Completes (.mwait w) h s ((s.mwaitTouch h (h.atomEa w 0)).setFlag h.gid w.dst false) := by
  have hrow : exec (.mwait w) s = execMwait w s := rfl
  have hnone : pickTrap [] = none := rfl
  exact hr.completes hrow
    (by simp only [hb, he, hc, hy, hm, Option.map_none, Option.toList_none, hnone, Bool.false_eq_true, if_false, if_true])

theorem Runs.mwait_parks (hm : mwaitCmp w.sub.val y (h.srcS w.b) = false) : Parks (.mwait w) h s (s.mwaitTouch h (h.atomEa w 0))
    (.mwait (h.atomEa w 0) w.sub.val (h.srcS w.b) (h.mwaitCycles w.b) (w.dst.isC && h.mwaitCycles w.b != 0)) := by
  have hrow : exec (.mwait w) s = execMwait w s := rfl
  have hnone : pickTrap [] = none := rfl
  refine hr.exec_eq (res := .park _ _) hrow ?_
  simp only [hb, he, hc, hy, hm, Option.map_none, Option.toList_none, hnone, Bool.false_eq_true, if_false]
  rfl

end

/-! ## MWAIT as its word is looked at again -/

/-- An access takes no cycles. -/
theorem touch_clock (core : Nat) (cx : Ctx) (va : Nat) (write : Bool) (hint k : Nat) :
    ((s.touch core cx va write hint).core k).clock = (s.core k).clock := by
  unfold State.touch
  split
  · rfl
  next e _ =>
    have hplace := (LinesOnly.place (s := s) (core := core) hint (bitsN e.pte.toNat 7 6)
      (bitsN e.pte.toNat 51 18 * 2 ^ 18 + (va - e.va))).cores k
    extract_lets v old new v' add v''
    have hv : (v.core k).clock = (s.core k).clock := by
      unfold v
      rw [hplace.1]
    split
    · exact hv
    · refine Eq.trans ?_ hv
      change (v''.core k).clock = (v'.core k).clock
      rw [core_modCore]
      split
      next hk => rw [hk]
      · rfl

theorem mwaitTouch_traffic (va : Nat) : Traffic s (s.mwaitTouch h va) := by
  unfold State.mwaitTouch
  split
  · exact .rfl
  · exact .touch _ _ _ _ _

/-- The view of a fragment is not of memory. -/
theorem Traffic.hereOf (ht : Traffic s t) (fid : Nat) : t.hereOf fid = s.hereOf fid := by
  unfold State.hereOf
  rw [ht.frags, ht.groups, ht.teams, ht.ctxs]

theorem mwaitTouch_clock (va k : Nat) : ((s.mwaitTouch h va).core k).clock = (s.core k).clock := by
  unfold State.mwaitTouch
  split
  · rfl
  · exact touch_clock _ _ _ _ _ _

/-- Some cycles have passed for a timed wait, and on the clock of its core. -/
def State.elapse (s : State) (fid left : Nat) : State :=
  (s.takeFree.2.modFrag fid fun f =>
    match f.st with
    | .parked (.mwait va cmp v _ t) => { f with st := .parked (.mwait va cmp v (left - (Config.elapsed s.free).toNat) t) }
    | _ => f).modCore (fragCore fid) fun c => { c with clock := c.clock + BitVec.ofNat 64 (Config.elapsed s.free).toNat }

theorem elapse_spec {va cmp left n : Nat} {v : W64} {timed : Bool} {f : Frag} (hf : s.frags.get? fid = some f)
    (hst : f.st = .parked (.mwait va cmp v n timed)) : ∃ dt, SameMem s (s.elapse fid left) ∧ (s.elapse fid left).groups = s.groups ∧
      (s.elapse fid left).frags.get? fid = some { f with st := .parked (.mwait va cmp v (left - dt) timed) } ∧
      ((s.elapse fid left).core (fragCore fid)).clock = (s.core (fragCore fid)).clock + BitVec.ofNat 64 dt := by
  refine ⟨(Config.elapsed s.free).toNat, .rfl, rfl, ?_, ?_⟩
  · refine (modFrag_frag hf).trans (congrArg some ?_)
    simp only [hst]
  · unfold State.elapse
    rw [core_modCore, if_pos rfl]
    rfl

/-- What becomes of a waiting MWAIT by what it sees. -/
def State.lookAgain (s : State) (fid : Nat) : Host.Outcome State Fault Refusal :=
  match s.mwaitSees fid with
  | none => .next (s.resume fid)
  | some (true, _, _) => .next (s.answer fid false)
  | some (false, left, timed) => if !timed then .next s else .next (s.elapse fid left)

section
variable {va cmp left : Nat} {v : W64} {timed : Bool} (hh : s.hereOf fid = some h) (hsaved : h.t.saved = false)
  (hst : h.f.st = .parked (.mwait va cmp v left timed))
include hh hst

/-- What is seen carries the wait's own cycles, and whether it counts them. -/
theorem mwaitSees_timed {met timed' : Bool} {left' : Nat} (hsees : s.mwaitSees fid = some (met, left', timed')) :
    left' = left ∧ timed' = timed := by
  simp only [State.mwaitSees, hh, hst] at hsees
  split at hsees
  · cases hsees
  · cases hsees
    exact ⟨rfl, rfl⟩

/-- A word that cannot be read is not seen. -/
theorem mwaitSees_none (he : s.mwaitTrap h va ≠ none) : s.mwaitSees fid = none := by
  simp only [State.mwaitSees, hh, hst, Option.isSome_iff_ne_none.mpr he, if_true]

include hsaved

theorem atMwait_of : s.atMwait fid = true := by
  simp [State.atMwait, hh, hst, hsaved]

theorem exec_mwaitTimeout {left : Nat} {timed : Bool} :
    (s.mwaitSees fid = some (true, left, timed) → exec (.mwaitTimeout fid) s = .next (s.answer fid false)) ∧
    (s.mwaitSees fid = some (false, 0, true) → exec (.mwaitTimeout fid) s = .next (s.answer fid true)) := by
  have hrow : exec (.mwaitTimeout fid) s = execMwaitTimeout fid s := rfl
  rw [hrow, execMwaitTimeout, atMwait_of hh hsaved hst]
  exact ⟨fun hsees => by rw [hsees]; rfl, fun hsees => by rw [hsees]; rfl⟩

variable (hu : (if (s.mwaitTrap h va).isNone then s.mwaitTouch h va else s) = u)
include hu

/-- The word is looked at after its access has been made, if it can be read. -/
theorem exec_mwaitReevaluate : exec (.mwaitReevaluate fid) s = u.lookAgain fid := by
  obtain ⟨-, -, -, hf, -⟩ := hereOf_eq_some.mp hh
  change execMwaitReevaluate fid s = _
  unfold execMwaitReevaluate
  simp only [atMwait_of hh hsaved hst, hh, hf, hst, Option.map_some, hu, Bool.not_true, Bool.false_eq_true, if_false]
  rfl

end

end Sys2Proof.Machine

open Sys2Proof Sys2Proof.Machine

/-- Settles O28: cache operations change cached lines alone, and a waiting MWAIT is looked at after its access, which reads no fragment. -/
theorem cachesFencesAndWaits : Obligations.CachesFencesAndWaits := by
  unfold Obligations.CachesFencesAndWaits
  refine ⟨fun s h w m => ?caches, fun s h w => ?issue, fun s fid left va cmp h v timed hh hsaved hst => ?again⟩
  case caches =>
    intro a n cached
    have hcached {u : State} (hl : LinesOnly h.core s u) : cached u := ⟨hl.rest, hl.cores⟩
    refine ⟨fun hr => ?pref, fun i hi hr => ?cctl, fun hr => hr.completesQuiet rfl rfl .rfl, fun i hi hr => ?fence⟩
    case pref =>
      have hlines : LinesOnly h.core s ((lanesOf (h.active m.g m.gn)).foldl (fun s l => s.prefLane h m (h.ea m l)) s) :=
        .foldl (fun _ _ => .prefLane _ _) _ _
      have hrow : exec (.pref m) s = execPref m s := rfl
      exact ⟨_, hr.completesQuiet hrow rfl hlines.frame, hcached hlines⟩
    case cctl =>
      obtain ⟨clean, inval, he, hclean, hinval⟩ := exec_cctl (s := s) hi
      exact ⟨fun hpeer => hr.stalls he (if_pos hpeer), fun hpeer hn => hr.completesQuiet he (cctlSlot_empty hpeer hn) .rfl,
        fun hpeer hn ha => ⟨_, hr.completesQuiet he (cctlSlot_done hpeer hn ha) LinesOnly.control.frame, hcached .control,
          fun hne _ _ => control_clean (hclean hne), fun hne _ => control_inval (hinval hne)⟩,
        fun hpeer hn ha => hr.traps he (cctlSlot_trap hpeer hn ha)⟩
    case fence =>
      exact ⟨fun hb => hr.completesQuiet (exec_fence hi) (if_neg (Bool.eq_false_iff.mp hb)) .rfl,
        fun hb => hr.stalls (exec_fence hi) (if_pos hb)⟩
  case issue =>
    intro va u x met left hr
    have hmet : mwaitCmp w.sub.val x (h.srcS w.b) = met := by
      unfold met
      generalize x = y
      generalize w.sub.val = cmp
      exact mwaitCmp_eq cmp y _
    exact ⟨hr.mwait_stalls, fun e hb he => hr.mwait_traps hb he, fun hb he hc =>
      ⟨fun hm => hr.mwait_met hb he hc rfl (hmet.trans hm), fun hm => hr.mwait_parks hb he hc rfl (hmet.trans hm)⟩⟩
  case again =>
    obtain ⟨-, -, -, hf, -⟩ := hereOf_eq_some.mp hh
    intro u
    have hfu : u.frags.get? fid = some h.f := (congrArg (SMap.get? · fid) (mwaitTouch_traffic va).frags).trans hf
    obtain ⟨htrue, hfalse⟩ := exec_mwaitTimeout (left := left) (timed := timed) hh hsaved hst
    refine ⟨fun he => ?_, fun he => ?_, fun hsees => ⟨_, htrue hsees, answer_answered hf⟩,
      fun hsees => ⟨_, hfalse hsees, answer_answered hf⟩⟩
    · have hexec : exec (.mwaitReevaluate fid) s = u.lookAgain fid :=
        exec_mwaitReevaluate hh hsaved hst (if_pos (Option.isNone_iff_eq_none.mpr he))
      rw [hexec, State.lookAgain]
      refine ⟨fun hsees => ⟨_, by rw [hsees], answer_answered hfu⟩, fun hsees => ?_, fun hsees => by rw [hsees]; rfl⟩
      obtain ⟨-, htimed⟩ := mwaitSees_timed (((mwaitTouch_traffic va).hereOf fid).trans hh) hst hsees
      obtain ⟨dt, hmem, hgroups, hfrag, hclock⟩ := elapse_spec (left := left) hfu hst
      exact ⟨_, dt, _, by rw [hsees]; rfl, hmem, hgroups.trans (mwaitTouch_traffic va).groups, hfrag, by rw [← htimed],
        hclock.trans (congrArg (· + _) (mwaitTouch_clock va _))⟩
    · rw [exec_mwaitReevaluate hh hsaved hst (if_neg (by simpa using he)), State.lookAgain, mwaitSees_none hh hst he]

end

section
/-! Synchronisation objects (spec/09 R200 to R206): the waits that end, the objects that a trap leaves, and how each row's slot ends. -/

set_option Elab.async false

namespace Sys2Proof.Machine

variable {s t u : State} {h : Here} {p : Reg → Bool} {w : MemW} {i : Instr}

/-! ## Waits that end -/

theorem SameMem.trans (h : SameMem s t) (h' : SameMem t u) : SameMem s u := by
  obtain ⟨hm, hh, hd, hp⟩ := h
  obtain ⟨hm', hh', hd', hp'⟩ := h'
  exact ⟨fun a => (hm' a).trans (hm a), fun a => (hh' a).trans (hh a), fun a => (hd' a).trans (hd a), hp'.trans hp⟩

theorem answer_frag_ne {j k : Nat} {x : Bool} (hj : j ≠ k) : (s.answer k x).frags.get? j = s.frags.get? j := by
  unfold State.answer
  split
  · rfl
  · rw [finishParked_frag_ne hj, setFlag_frags]

theorem answer_freed {k : Nat} {x : Bool} {f : Frag} (hf : s.frags.get? k = some f) :
    ∃ f', (s.answer k x).frags.get? k = some f' ∧ f'.Freed := by
  rw [answer_eq hf]
  exact finishParked_freed (by rw [setFlag_frags, hf])

/-- The waits of the list end with success. -/
def State.answers (s : State) (l : List Nat) : State := l.foldl (fun s k => s.answer k false) s

theorem answers_rest (s : State) (l : List Nat) : s.answers l = s.withHere (s.answers l).groups (s.answers l).frags := by
  unfold State.answers
  induction l generalizing s with
  | nil => rfl
  | cons k l ih =>
    rw [List.foldl_cons, ih (s.answer k false), answer_rest]
    rfl

theorem answers_frag_of_notMem {l : List Nat} {k : Nat} (hk : k ∉ l) : (s.answers l).frags.get? k = s.frags.get? k := by
  unfold State.answers
  induction l generalizing s with
  | nil => rfl
  | cons j l ih =>
    rw [List.mem_cons, not_or] at hk
    exact (ih hk.2).trans (answer_frag_ne hk.1)

theorem answers_stays {k : Nat} (l : List Nat) {s : State} {f : Frag} (hf : s.frags.get? k = some f) (hfree : f.Freed) :
    ∃ f', (s.answers l).frags.get? k = some f' ∧ f'.Freed := by
  unfold State.answers
  induction l generalizing s f with
  | nil => exact ⟨f, hf, hfree⟩
  | cons j l ih =>
    by_cases hj : k = j
    · obtain ⟨f', hf', hfree'⟩ := answer_freed (x := false) (hj ▸ hf)
      exact ih (hj ▸ hf') hfree'
    · exact ih ((answer_frag_ne hj).trans hf) hfree

/-- Every fragment of the list goes on. -/
theorem answers_freed {k : Nat} {l : List Nat} (hk : k ∈ l) {s : State} {f : Frag} (hf : s.frags.get? k = some f) :
    ∃ f', (s.answers l).frags.get? k = some f' ∧ f'.Freed := by
  induction l generalizing s f with
  | nil => cases hk
  | cons j l ih =>
    by_cases hj : k = j
    · obtain ⟨f', hf', hfree⟩ := answer_freed (x := false) (hj ▸ hf)
      exact answers_stays l (hj ▸ hf') hfree
    · exact ih ((List.mem_cons.mp hk).resolve_left hj) ((answer_frag_ne hj).trans hf)

theorem setFlag_group_isSome (gid : Nat) (dst : Opnd) (x : Bool) (k : Nat) :
    ((s.setFlag gid dst x).groups.get? k).isSome = (s.groups.get? k).isSome := by
  unfold State.setFlag
  split
  · rw [State.modGroup_groups, SMap.get?_modify]
    split
    next hk => rw [hk, Option.isSome_map]
    · rfl
  · rfl

/-- No group goes. -/
theorem answers_group_isSome (l : List Nat) (s : State) (k : Nat) :
    ((s.answers l).groups.get? k).isSome = (s.groups.get? k).isSome := by
  refine foldl_keeps (fun s : State => (s.groups.get? k).isSome) (fun s j => ?_) l s
  unfold State.answer
  split
  · rfl
  · have hkeep {u : State} := congrArg Option.isSome (finishParked_keeps (s := u) (fun _ => ()) (fun _ _ => rfl) j k)
    simp only [Option.isSome_map] at hkeep
    exact hkeep.trans (setFlag_group_isSome _ _ _ _)

/-! ## The objects that a trap leaves -/

theorem physWrite_objs (s : State) (mt pa n x : Nat) : (s.physWrite mt pa n x).objs = s.objs := by
  have hllc (pa : Nat) : (s.llcWrite pa n).objs = s.objs := (SameButCaches.llcWrite pa n).keeps State.objs fun _ _ _ => rfl
  unfold State.physWrite
  split
  · split
    · exact hllc pa
    · rfl
  · split
    · rfl
    · split
      · rfl
      · split
        · exact hllc _
        · rfl

theorem touch_objs (s : State) (core : Nat) (cx : Ctx) (va : Nat) (write : Bool) (hint : Nat) :
    (s.touch core cx va write hint).objs = s.objs := touch_keeps State.objs (fun _ _ _ _ _ => rfl) s core cx va write hint

theorem vwriteGo_objs (core : Nat) (cx : Ctx) (fuel va n x : Nat) (s : State) : (State.vwriteGo core cx fuel va n x s).objs = s.objs := by
  induction fuel generalizing va n x s with
  | zero => rfl
  | succ fuel ih =>
    unfold State.vwriteGo
    split
    · rfl
    · refine (ih _ _ _ _).trans ?_
      split
      · exact (physWrite_objs _ _ _ _ _).trans (touch_objs _ _ _ _ _ _)
      · rfl

theorem spillHeader_objs (s : State) (gid lane : Nat) (r : Ray) : (s.spillHeader gid lane r).objs = s.objs := by
  unfold State.spillHeader
  split
  · rfl
  split
  · rfl
  split
  · rfl
  exact (vwriteGo_objs _ _ _ _ _ _ _).trans (vwriteGo_objs _ _ _ _ _ _ _)

theorem spillRays_objs (s : State) (core : Nat) (q : Ray → Bool) : (s.spillRays core q).objs = s.objs := by
  refine foldl_keeps State.objs (fun s e => ?_) _ s
  exact spillHeader_objs _ _ _ _

theorem enterRing_objs (s : State) (cx : Nat) (c : Ctx) (b : BitVec 512) : (s.enterRing cx c b).objs = s.objs := by
  unfold State.enterRing
  extract_lets seq full v
  exact (State.modCtx_objs _ _ _).trans (physWrite_objs _ _ _ _ _)

theorem postBits_objs (s : State) (cx : Nat) (b : BitVec 512) : (s.postBits cx b).objs = s.objs := by
  unfold State.postBits
  split
  · rfl
  · split
    · rfl
    · exact enterRing_objs _ _ _ _

theorem takeTrap_objs (s : State) (h : Here) (r : RecInfo) : (s.takeTrap h r).objs = s.objs := by
  rw [takeTrap_eq, postBits_objs]
  unfold State.trapping
  extract_lets parked spilled
  have hspilled : spilled.objs = s.objs := spillRays_objs _ _ _
  split
  · exact hspilled
  · exact hspilled

theorem answer_objs (s : State) (k : Nat) (x : Bool) : (s.answer k x).objs = s.objs := by
  rw [answer_rest]
  rfl

theorem lostAt_objs (s : State) (k va : Nat) : (s.lostAt k va).objs = s.objs := by
  unfold State.lostAt
  split
  · exact answer_objs _ _ _
  · split
    · rfl
    · exact takeTrap_objs _ _ _

theorem leaveLost_objs (s : State) (k : Nat) : (s.leaveLost k).objs = s.objs := by
  unfold State.leaveLost
  split
  · rfl
  · split
    · split
      · rfl
      · exact lostAt_objs _ _ _
    · split
      · rfl
      · exact lostAt_objs _ _ _
    · rfl

/-- Object `key` is `o`. -/
def State.putObj (s : State) (key : Nat) (o : Obj) : State := { s with objs := s.objs.set key o }

theorem Frame.putObj (key : Nat) (o : Obj) : Frame h s (s.putObj key o) p := .of_eq .rfl (Eq.refl _) (Eq.refl _) (Eq.refl _)

/-! ## How a row ends -/

theorem syncFail_flag {dst : Opnd} {va d : Nat} (hc : dst.isC = true) : syncFail h dst va d s = .done (s.setFlag h.gid dst true) := by
  unfold Opnd.isC at hc
  split at hc
  · rfl
  · cases hc

theorem syncFail_trap {dst : Opnd} {va d : Nat} (hc : dst.isC = false) : syncFail h dst va d s =
    .trap { cause := .syncobj, detail := d, lanes := h.f.mask.toNat, addr := va % 2 ^ 56 } := by
  unfold syncFail
  split
  · cases hc
  · rfl

section
variable (hr : Runs i h s) {act : Here → State → SlotResult} (he : exec i s = runSlot i act s) {dst : Opnd}
include hr he

theorem Runs.succeeds (ha : act h s = .done (u.setFlag h.gid dst false)) (hu : Frame h s u (dstRegs dst false)) : Succeeds i h s u dst :=
  hr.completesQuiet he ha (hu.trans (.setFlag dst false))

theorem Runs.fails {va d : Nat} (ha : act h s = syncFail h dst va d s) : Fails i h s dst va d :=
  ⟨fun hc => hr.completesQuiet he (ha.trans (syncFail_flag hc)) (.setFlag dst true), fun hc => hr.traps he (ha.trans (syncFail_trap hc))⟩

end

/-! ## The frame of SOBJ, SARV and SWAIT -/

section
variable {whole : Bool} {f : Here → Nat → Nat → State → SlotResult}

theorem syncSlot_stall (hb : s.sideBusy h = true) : syncSlot w whole f h s = .stall := if_pos hb

theorem syncSlot_trap {r : RecInfo} (hb : s.sideBusy h = false) (ht : s.syncTrap h (h.atomEa w 0) = some r) :
    syncSlot w whole f h s = .trap r := by
  simp only [syncSlot, hb, ht, Bool.false_eq_true, if_false]

theorem syncSlot_refused (hb : s.sideBusy h = false) (ht : s.syncTrap h (h.atomEa w 0) = none)
    (hq : 0 < s.syncBusy.getD 0 (bitsN (h.atomEa w 0) 39 38)) : syncSlot w whole f h s = .stall := by
  simp only [syncSlot, hb, ht, hq, Bool.false_eq_true, if_false, if_true]

/-- A request that is taken reaches its object; SOBJ does not read it, so it may be poisoned. -/
theorem syncSlot_taken (hs : SyncTaken i h s w)
    (hc : whole = true ∨ ((s.objs.get? (objKey (h.atomEa w 0))).map Obj.poisoned).getD false = false) :
    syncSlot w whole f h s = f h (h.atomEa w 0) (objKey (h.atomEa w 0)) s := by
  have hclean : (!whole && ((s.objs.get? (objKey (h.atomEa w 0))).map Obj.poisoned).getD false) = false := by
    rw [Bool.and_eq_false_iff, Bool.not_eq_false']
    exact hc
  simp only [syncSlot, hs.side, hs.addr, hs.take, hclean, Bool.false_eq_true, Nat.lt_irrefl, if_false]

theorem SyncTaken.slot (hs : SyncTaken i h s w) : syncSlot w true f h s = f h (h.atomEa w 0) (objKey (h.atomEa w 0)) s :=
  syncSlot_taken hs (.inl rfl)

theorem SyncRuns.slot (hs : SyncRuns i h s w) : syncSlot w false f h s = f h (h.atomEa w 0) (objKey (h.atomEa w 0)) s :=
  syncSlot_taken hs.toSyncTaken (.inr hs.clean)

end

/-- The rows of the synchronisation engine share their frame. -/
theorem exec_sync (hi : i ∈ [Instr.sobjBar w, .sobjSem w, .sobjCell w, .sobjInv w, .sarv w, .sarvPost w, .swait w, .swaitTake w,
    .swaitTry w]) : ∃ whole f, exec i s = runSlot i (syncSlot w whole f) s := by
  simp only [List.mem_cons, List.not_mem_nil, or_false] at hi
  obtain rfl | rfl | rfl | rfl | rfl | rfl | rfl | rfl | rfl := hi <;> exact ⟨_, _, rfl⟩

/-! ## Initialising and invalidating -/

/-- An object that SOBJ may make anew: free, or without waiters and of no engine's. -/
def Idle (o : Option Obj) : Prop :=
  o = none ∨ ∃ x, o = some x ∧ x.waiters = [] ∧ x.kind ≠ .fold ∧ ∀ c a t g sc, x.kind ≠ .counter c a t g sc

/-- A counter or a Fold object. -/
def Bound (o : Option Obj) : Prop := ∃ x, o = some x ∧ (x.kind = .fold ∨ ∃ c a t g sc, x.kind = .counter c a t g sc)


/-- Object `key` is free. -/
def State.freed (s : State) (key : Nat) : State := { s with objs := s.objs.erase key }

section
variable {k : ObjKind} {bad : Bool} {va key : Nat}

theorem sobjInit_bound (hb : Bound (s.objs.get? key)) : sobjInit w k bad h va key s = syncFail h w.dst va 2 s := by
  obtain ⟨x, ho, hk | ⟨c, a, t, g, sc, hk⟩⟩ := hb <;> simp only [sobjInit, ho, hk]

/-- An object of the engine's own kinds: EXPECT is looked at before the waiters. -/
theorem sobjInit_own {x : Obj} (ho : s.objs.get? key = some x) (hn : ¬ Bound (s.objs.get? key)) : sobjInit w k bad h va key s =
    if bad then syncFail h w.dst va 3 s else if !x.waiters.isEmpty then syncFail h w.dst va 2 s
    else .done ((s.putObj key { kind := k }).setFlag h.gid w.dst false) := by
  unfold sobjInit
  rw [ho]
  dsimp only
  split
  next hk => exact absurd ⟨x, ho, .inr ⟨_, _, _, _, _, hk⟩⟩ hn
  next hk => exact absurd ⟨x, ho, .inl hk⟩ hn
  · rfl

theorem Idle.not_bound {o : Option Obj} (hi : Idle o) : ¬ Bound o := by
  rintro ⟨x, ho, hk⟩
  rcases hi with hn | ⟨y, hy, -, hfold, hcnt⟩
  · cases hn.symm.trans ho
  · cases hy.symm.trans ho
    rcases hk with hk | ⟨c, a, t, g, sc, hk⟩
    · exact hfold hk
    · exact hcnt c a t g sc hk

theorem idle_of_not_bound {o : Option Obj} (hn : ¬ Bound o) (hw : ∀ x, o = some x → x.waiters = []) : Idle o := by
  cases o with
  | none => exact .inl rfl
  | some x => exact .inr ⟨x, rfl, hw x rfl, fun hk => hn ⟨x, rfl, .inl hk⟩, fun c a t g sc hk => hn ⟨x, rfl, .inr ⟨c, a, t, g, sc, hk⟩⟩⟩

theorem sobjInit_makes (hi : Idle (s.objs.get? key)) (hb : bad = false) :
    sobjInit w k bad h va key s = .done ((s.putObj key { kind := k }).setFlag h.gid w.dst false) := by
  rcases hi with ho | ⟨x, ho, hw, hx⟩
  · simp only [sobjInit, ho, hb, Bool.false_eq_true, if_false]
    rfl
  · rw [sobjInit_own ho (Idle.not_bound (.inr ⟨x, ho, hw, hx⟩)), hb, hw]
    rfl

theorem sobjInit_bad (hn : ¬ Bound (s.objs.get? key)) (hb : bad = true) : sobjInit w k bad h va key s = syncFail h w.dst va 3 s := by
  cases ho : s.objs.get? key with
  | none => simp only [sobjInit, ho, hb, if_true]
  | some x => rw [sobjInit_own ho hn, if_pos hb]

theorem sobjInit_busy (hi : ¬ Idle (s.objs.get? key)) (hb : Bound (s.objs.get? key) ∨ bad = false) :
    sobjInit w k bad h va key s = syncFail h w.dst va 2 s := by
  by_cases hbound : Bound (s.objs.get? key)
  · exact sobjInit_bound hbound
  cases ho : s.objs.get? key with
  | none => exact absurd (.inl ho) hi
  | some x =>
    have hw : x.waiters ≠ [] := fun hw => hi (idle_of_not_bound hbound fun y hy => by cases ho.symm.trans hy; exact hw)
    rw [sobjInit_own ho hbound, hb.resolve_left hbound, if_neg Bool.false_ne_true, if_pos (by simpa using hw)]

theorem sobjInv_free (ho : s.objs.get? key = none) : sobjInv w h va key s = .done (s.setFlag h.gid w.dst false) := by
  simp only [sobjInv, ho]

theorem sobjInv_fold {x : Obj} (ho : s.objs.get? key = some x) (hk : x.kind = .fold) :
    sobjInv w h va key s = syncFail h w.dst va 2 s := by
  simp only [sobjInv, ho, hk]

theorem sobjInv_counter {x : Obj} {c : Int} {a : Bool} {t : Option Nat} {g : W64} {sc : Nat} (ho : s.objs.get? key = some x)
    (hk : x.kind = .counter c a t g sc) : sobjInv w h va key s =
      .done ((match t with | some l => (s.freed key).dropTask l | none => s.freed key).setFlag h.gid w.dst false) := by
  simp only [sobjInv, ho, hk]
  rfl

theorem sobjInv_own {x : Obj} (ho : s.objs.get? key = some x) (hn : ¬ Bound (s.objs.get? key)) :
    sobjInv w h va key s = .done ((x.waiters.foldl State.leaveLost (s.freed key)).setFlag h.gid w.dst false) := by
  unfold sobjInv
  rw [ho]
  dsimp only
  split
  next hk => exact absurd ⟨x, ho, .inl hk⟩ hn
  next hk => exact absurd ⟨x, ho, .inr ⟨_, _, _, _, _, hk⟩⟩ hn
  · rfl

end

/-! ## Barriers -/

/-- A generation has passed a token by R205's distance. -/
theorem passed_iff {g t : W32} : passed g t = true ↔ 1 ≤ (g - t).toNat ∧ (g - t).toNat ≤ 2 ^ 31 - 1 := by
  simp only [passed, Bool.and_eq_true, decide_eq_true_eq]

theorem passed_eq_false {g t : W32} (hd : (g - t).toNat = 0 ∨ 2 ^ 31 ≤ (g - t).toNat) : passed g t = false := by
  rw [Bool.eq_false_iff, ne_eq, passed_iff]
  omega

/-- The waiters that the next generation lets through, and the barrier in it. -/
def State.through (s : State) (o : Obj) (gen : W32) : List Nat := o.waiters.filter (s.tokenPassed (gen + 1))
def State.nextBar (s : State) (o : Obj) (gen expect : W32) : Obj :=
  { o with kind := .bar (gen + 1) expect 0, waiters := o.waiters.filter fun k => !s.tokenPassed (gen + 1) k }

section
variable {key : Nat} {o : Obj} {gen expect arrived : W32}

theorem arrive_counts (ha : arrived.toNat + 1 < expect.toNat) :
    s.arrive key o gen expect arrived = s.putObj key { o with kind := .bar gen expect (arrived + 1) } := if_pos ha

theorem arrive_completes (ha : expect.toNat ≤ arrived.toNat + 1) :
    s.arrive key o gen expect arrived = (s.putObj key (s.nextBar o gen expect)).answers (s.through o gen) := by
  have hstay : (o.waiters.filter fun k => !(o.waiters.filter (s.tokenPassed (gen + 1))).contains k) =
      o.waiters.filter fun k => !s.tokenPassed (gen + 1) k :=
    List.filter_congr fun k hk => by simp [hk]
  unfold State.arrive
  rw [if_neg (not_lt.mpr ha)]
  dsimp only
  rw [hstay]
  rfl

/-- A fragment that does not wait for a token is not let through. -/
theorem notMem_through {k : Nat} {f : Frag} (hf : s.frags.get? k = some f) (hst : f.st = .issuing) : k ∉ s.through o gen := by
  intro hk
  have hpassed := (List.mem_filter.mp hk).2
  simp [State.tokenPassed, hf, hst] at hpassed

theorem exists_of_tokenPassed {k : Nat} (hk : s.tokenPassed gen k = true) : ∃ f, s.frags.get? k = some f := by
  cases hf : s.frags.get? k with
  | none => simp [State.tokenPassed, hf] at hk
  | some f => exact ⟨f, rfl⟩

end

/-! ## The generation that a SARV gives -/

theorem Frame.latch (x : Latch) : Frame h s (s.latch h x) p := by
  unfold State.latch
  split
  · exact .modFrag
  · exact .rfl

theorem Frame.writeS (dst : Opnd) (x : W64) : Frame h s (s.writeS h dst false x) (dstRegs dst false) := by
  unfold State.writeS
  split
  next r =>
    refine (Frame.latch _).trans (.modOwn fun g => ⟨fun _ _ _ _ => Eq.refl _, fun n hn => ?_, fun _ _ => Eq.refl _, fun _ _ => Eq.refl _,
      fun _ => Eq.refl _, Eq.refl _, Eq.refl _⟩)
    have hne : n ≠ r.val := by
      rintro rfl
      simp [dstRegs, opRegs] at hn
    exact (SMap.getD_setD _ _ _ _ _).trans (if_neg hne)
  · exact .latch _

theorem writeS_frag {dst : Opnd} {ws : Bool} {x : W64} {k : Nat} {f : Frag} (hf : s.frags.get? k = some f) :
    ∃ l, (s.writeS h dst ws x).frags.get? k = some { f with latches := l } := by
  have hfrags : (s.writeS h dst ws x).frags = (s.latch h (.sc x)).frags := by
    unfold State.writeS
    dsimp only
    split
    · split <;> rfl
    · rfl
  obtain ⟨l, hl⟩ := State.latch_frags s h (.sc x) k
  rw [hfrags, hl]
  split
  next hk =>
    rw [← hk, hf]
    exact ⟨_, rfl⟩
  · exact ⟨f.latches, hf⟩

theorem writeS_reg {d : Fin 64} {x : W64} (hg : (s.groups.get? h.gid).isSome = true) :
    ∃ g, (s.writeS h (.s d) false x).groups.get? h.gid = some g ∧ g.s.getD 0 d.val = x := by
  obtain ⟨g, hg⟩ := Option.isSome_iff_exists.mp hg
  exact ⟨_, modGroup_group ((congrArg (SMap.get? · h.gid) (State.latch_groups s h (.sc x))).trans hg), SMap.getD_setD_self ..⟩

theorem writeS_objs (dst : Opnd) (x : W64) : (s.writeS h dst false x).objs = s.objs := by
  have hlatch : (s.latch h (.sc x)).objs = s.objs := by
    rw [State.latch_rest]
    rfl
  unfold State.writeS
  dsimp only
  split
  · exact hlatch
  · exact hlatch

/-! ## Semaphores -/

/-- Takes are served in order while the value meets them; the first that it does not meet holds back the rest. -/
theorem serveTakes_spec (s : State) (v : Nat) (l : List Nat) : l = (serveTakes s v l).2.1 ++ (serveTakes s v l).2.2 ∧
    v = (serveTakes s v l).1 + ((serveTakes s v l).2.1.map s.takeOf).sum ∧
    ∀ f rest, (serveTakes s v l).2.2 = f :: rest → (serveTakes s v l).1 < s.takeOf f := by
  induction l generalizing v with
  | nil => exact ⟨rfl, rfl, fun _ _ hnil => nomatch hnil⟩
  | cons k l ih =>
    unfold serveTakes
    dsimp only
    split
    next hle =>
      obtain ⟨hl, hv, hrest⟩ := ih (v - s.takeOf k)
      refine ⟨congrArg (k :: ·) hl, ?_, hrest⟩
      rw [List.map_cons, List.sum_cons]
      omega
    next hgt =>
      refine ⟨rfl, rfl, fun f rest hcons => ?_⟩
      cases hcons
      exact not_le.mp hgt

/-- Who is served depends on the fragments alone. -/
theorem serveTakes_congr (ht : t.frags = s.frags) (v : Nat) (l : List Nat) : serveTakes t v l = serveTakes s v l := by
  have htake (k : Nat) : t.takeOf k = s.takeOf k := by rw [State.takeOf, State.takeOf, ht]
  induction l generalizing v with
  | nil => rfl
  | cons k l ih => simp only [serveTakes, htake, ih]

/-- A semaphore has taken the value `v` and served `r`, what `serveTakes` gives. -/
def State.posted (s : State) (key : Nat) (o : Obj) (v : W64) (r : Nat × List Nat × List Nat) : State :=
  ((s.putObj key { o with kind := .sem v }).putObj key { o with kind := .sem (BitVec.ofNat 64 r.1), waiters := r.2.2 }).answers r.2.1

theorem posted_obj {key : Nat} {o : Obj} {v : W64} {r : Nat × List Nat × List Nat} :
    (s.posted key o v r).objs.get? key = some { o with kind := .sem (BitVec.ofNat 64 r.1), waiters := r.2.2 } := by
  rw [State.posted, answers_rest]
  exact SMap.get?_set_self _ _ _

theorem posted_sameMem {key : Nat} {o : Obj} {v : W64} {r : Nat × List Nat × List Nat} : SameMem s (s.posted key o v r) := by
  rw [State.posted, answers_rest]
  exact .rfl

/-- Without takers nothing is served. -/
theorem posted_frame {key n : Nat} {o : Obj} {v : W64} (hw : o.waiters = []) :
    Frame h s (s.posted key o v (serveTakes s n o.waiters)) p := by
  rw [hw]
  exact (Frame.putObj _ _).trans (.putObj _ _)

section
variable {key : Nat} {o : Obj} {v : W64} (ho : s.objs.get? key = some o) (hk : o.kind = .sem v)
include ho hk

theorem serve_eq : s.serve key = (s.putObj key { o with
      kind := .sem (BitVec.ofNat 64 (serveTakes s v.toNat o.waiters).1), waiters := (serveTakes s v.toNat o.waiters).2.2 }).answers
    (serveTakes s v.toNat o.waiters).2.1 := by
  simp only [State.serve, ho, hk]
  rfl

end

/-! ## How the rows of barriers and semaphores end -/

/-- A kind error (R205). -/
def Here.kindRec (h : Here) (va : Nat) : RecInfo := { cause := .syncobj, detail := 1, lanes := h.f.mask.toNat, addr := va % 2 ^ 56 }

section
variable {o : Obj} {gen expect arrived : W32}

theorem SyncRuns.sarv_bar (hs : SyncRuns (.sarv w) h s w) (ho : s.objs.get? (objKey (h.atomEa w 0)) = some o)
    (hk : o.kind = .bar gen expect arrived) : Completes (.sarv w) h s
      ((s.arrive (objKey (h.atomEa w 0)) o gen expect arrived).writeS h w.dst false (gen.zeroExtend 64)) := by
  have hrow : exec (.sarv w) s = execSarv w s := rfl
  exact hs.completes hrow (hs.slot.trans (by simp only [ho, hk]))

theorem SyncRuns.sarv_kind (hs : SyncRuns (.sarv w) h s w)
    (hn : ∀ o gen expect arrived, s.objs.get? (objKey (h.atomEa w 0)) = some o → o.kind ≠ .bar gen expect arrived) :
    Traps (.sarv w) h s (h.kindRec (h.atomEa w 0)) := by
  have hrow : exec (.sarv w) s = execSarv w s := rfl
  refine hs.traps hrow (hs.slot.trans ?_)
  split
  next o ho =>
    split
    next hk => exact absurd hk (hn o _ _ _ ho)
    · rfl
  · rfl

theorem SyncRuns.swait_free (hs : SyncRuns (.swait w) h s w) (ho : s.objs.get? (objKey (h.atomEa w 0)) = none) :
    Fails (.swait w) h s w.dst (h.atomEa w 0) 0 := by
  have hrow : exec (.swait w) s = execSwait w s := rfl
  exact hs.fails hrow (hs.slot.trans (by simp only [ho]))

/-- The state in which a SARV has completed a generation. -/
def State.sarvNext (s : State) (h : Here) (w : MemW) (o : Obj) (gen expect : W32) : State :=
  ((s.putObj (objKey (h.atomEa w 0)) (s.nextBar o gen expect)).answers (s.through o gen)).writeS h w.dst false (gen.zeroExtend 64)

theorem sarvNext_sameMem : SameMem s (s.sarvNext h w o gen expect) := by
  have hgo : SameMem s ((s.putObj (objKey (h.atomEa w 0)) (s.nextBar o gen expect)).answers (s.through o gen)) := by
    rw [answers_rest]
    exact .rfl
  exact hgo.trans (Frame.writeS w.dst _).mem

theorem sarvNext_obj : (s.sarvNext h w o gen expect).objs.get? (objKey (h.atomEa w 0)) = some (s.nextBar o gen expect) := by
  rw [State.sarvNext, writeS_objs, answers_rest]
  exact SMap.get?_set_self _ _ _

theorem sarvNext_frag {k : Nat} {f : Frag} (hf : s.frags.get? k = some f) (hk : k ∉ s.through o gen) :
    ∃ l, (s.sarvNext h w o gen expect).frags.get? k = some { f with latches := l } :=
  writeS_frag ((answers_frag_of_notMem hk).trans hf)

theorem sarvNext_freed {k : Nat} {f : Frag} (hf : s.frags.get? k = some f) (hk : k ∈ s.through o gen) :
    ∃ f', (s.sarvNext h w o gen expect).frags.get? k = some f' ∧ f'.Freed := by
  obtain ⟨f', hf', hfree⟩ := answers_freed (s := s.putObj (objKey (h.atomEa w 0)) (s.nextBar o gen expect)) hk hf
  obtain ⟨l, hl⟩ := writeS_frag (h := h) (dst := w.dst) (ws := false) (x := gen.zeroExtend 64) hf'
  exact ⟨_, hl, hfree⟩

theorem sarvNext_frame (hw : o.waiters = []) : Frame h s (s.sarvNext h w o gen expect) (dstRegs w.dst false) := by
  have hnone : s.through o gen = [] := by rw [State.through, hw, List.filter_nil]
  rw [State.sarvNext, hnone]
  exact (Frame.putObj _ _).trans (.writeS _ _)

theorem sarvNext_reg {d : Fin 64} (hd : w.dst = .s d) (hg : s.groups.get? h.gid = some h.g) :
    ∃ g, (s.sarvNext h w o gen expect).groups.get? h.gid = some g ∧ g.s.getD 0 d.val = gen.zeroExtend 64 := by
  rw [State.sarvNext, hd]
  refine writeS_reg ?_
  rw [answers_group_isSome]
  exact Option.isSome_iff_exists.mpr ⟨_, hg⟩

section
variable (hs : SyncRuns (.swait w) h s w) (ho : s.objs.get? (objKey (h.atomEa w 0)) = some o)
include hs ho

theorem SyncRuns.swait_passed (hk : o.kind = .bar gen expect arrived)
    (hp : passed gen (BitVec.ofNat 32 (h.srcS w.b).toNat) = true) : Succeeds (.swait w) h s s w.dst := by
  have hrow : exec (.swait w) s = execSwait w s := rfl
  exact hs.succeeds hrow (hs.slot.trans (by simp only [ho, hk, hp, if_true])) .rfl

theorem SyncRuns.swait_parks (hk : o.kind = .bar gen expect arrived)
    (hp : passed gen (BitVec.ofNat 32 (h.srcS w.b).toNat) = false) : Parks (.swait w) h s
      (s.putObj (objKey (h.atomEa w 0)) { o with waiters := o.waiters ++ [h.fid] })
      (.token (objKey (h.atomEa w 0)) (h.atomEa w 0) (BitVec.ofNat 32 (h.srcS w.b).toNat)) := by
  have hrow : exec (.swait w) s = execSwait w s := rfl
  refine hs.exec_eq (res := .park _ _) hrow (hs.slot.trans ?_)
  simp only [ho, hk, hp, Bool.false_eq_true, if_false]
  rfl

theorem SyncRuns.swait_kind (hn : ∀ gen expect arrived, o.kind ≠ .bar gen expect arrived) :
    Traps (.swait w) h s (h.kindRec (h.atomEa w 0)) := by
  have hrow : exec (.swait w) s = execSwait w s := rfl
  refine hs.traps hrow (hs.slot.trans ?_)
  rw [ho]
  dsimp only
  split
  next hk => exact absurd hk (hn _ _ _)
  · rfl

end

end

theorem takeSlot_kind {va key : Nat} {tryOnly : Bool} (hn : ∀ o v, s.objs.get? key = some o → o.kind ≠ .sem v) :
    takeSlot w tryOnly h va key s = .trap (h.kindRec va) := by
  unfold takeSlot
  split
  next o ho =>
    split
    next hk => exact absurd hk (hn o _ ho)
    · rfl
  · rfl

theorem SyncRuns.sem_kind (hi : i ∈ [Instr.sarvPost w, .swaitTake w, .swaitTry w]) (hs : SyncRuns i h s w)
    (hn : ∀ o v, s.objs.get? (objKey (h.atomEa w 0)) = some o → o.kind ≠ .sem v) : Traps i h s (h.kindRec (h.atomEa w 0)) := by
  simp only [List.mem_cons, List.not_mem_nil, or_false] at hi
  obtain rfl | rfl | rfl := hi
  · have hrow : exec (.sarvPost w) s = execSarvPost w s := rfl
    refine hs.traps hrow (hs.slot.trans ?_)
    split
    next o ho =>
      split
      next hk => exact absurd hk (hn o _ ho)
      · rfl
    · rfl
  · have hrow : exec (.swaitTake w) s = execSwaitTake w s := rfl
    exact hs.traps hrow (hs.slot.trans (takeSlot_kind hn))
  · have hrow : exec (.swaitTry w) s = execSwaitTry w s := rfl
    exact hs.traps hrow (hs.slot.trans (takeSlot_kind hn))

section
variable {o : Obj} {v : W64} (ho : s.objs.get? (objKey (h.atomEa w 0)) = some o) (hk : o.kind = .sem v)
include ho hk

theorem SyncRuns.post_over (hs : SyncRuns (.sarvPost w) h s w) (hv : 2 ^ 64 ≤ v.toNat + (h.srcS w.b).toNat) :
    Fails (.sarvPost w) h s w.dst (h.atomEa w 0) 3 := by
  have hrow : exec (.sarvPost w) s = execSarvPost w s := rfl
  exact hs.fails hrow (hs.slot.trans (by simp only [ho, hk, if_pos hv]))

/-- A post adds, and serves the takers. -/
theorem SyncRuns.post_serves (hs : SyncRuns (.sarvPost w) h s w) (hv : v.toNat + (h.srcS w.b).toNat < 2 ^ 64) :
    Completes (.sarvPost w) h s
      ((s.posted (objKey (h.atomEa w 0)) o (v + h.srcS w.b) (serveTakes s (v.toNat + (h.srcS w.b).toNat) o.waiters)).setFlag
        h.gid w.dst false) := by
  have hrow : exec (.sarvPost w) s = execSarvPost w s := rfl
  have hsum : (v + h.srcS w.b).toNat = v.toNat + (h.srcS w.b).toNat := BitVec.toNat_add_of_lt hv
  have hserve := serve_eq (s := s.putObj (objKey (h.atomEa w 0)) { o with kind := .sem (v + h.srcS w.b) }) (SMap.get?_set_self _ _ _) rfl
  simp only [serveTakes_congr (s := s) (t := s.putObj (objKey (h.atomEa w 0)) { o with kind := .sem (v + h.srcS w.b) }) rfl, hsum] at hserve
  refine hs.completes hrow (hs.slot.trans ?_)
  simp only [ho, hk, if_neg (not_le.mpr hv), BitVec.ofNat_toNat, BitVec.setWidth_eq]
  exact congrArg (fun u : State => SlotResult.done (u.setFlag h.gid w.dst false)) hserve

/-- A take of nothing. -/
theorem takeSlot_zero {va : Nat} {tryOnly : Bool} (hn : h.srcS w.b = 0) :
    takeSlot w tryOnly h va (objKey (h.atomEa w 0)) s = .done (s.setFlag h.gid w.dst false) := by
  simp only [takeSlot, ho, hk, hn, beq_self_eq_true, if_true]

variable (hn : h.srcS w.b ≠ 0)
include hn

theorem takeSlot_met {va : Nat} {tryOnly : Bool} (hw : o.waiters = []) (hv : (h.srcS w.b).toNat ≤ v.toNat) :
    takeSlot w tryOnly h va (objKey (h.atomEa w 0)) s =
      .done ((s.putObj (objKey (h.atomEa w 0)) { o with kind := .sem (v - h.srcS w.b) }).setFlag h.gid w.dst false) := by
  have hmet : (o.waiters.isEmpty && decide ((h.srcS w.b).toNat ≤ v.toNat)) = true := by rw [hw, decide_eq_true hv, List.isEmpty_nil, Bool.and_true]
  simp only [takeSlot, ho, hk, beq_eq_false_iff_ne.mpr hn, hmet, Bool.false_eq_true, if_false, if_true]
  rfl

variable {va : Nat} (hv : o.waiters ≠ [] ∨ v.toNat < (h.srcS w.b).toNat)
include hv

theorem takeSlot_unmet {tryOnly : Bool} : takeSlot w tryOnly h va (objKey (h.atomEa w 0)) s =
    if tryOnly then syncFail h w.dst va 0 s
    else .park (.take (objKey (h.atomEa w 0)) va (h.srcS w.b))
      (s.putObj (objKey (h.atomEa w 0)) { o with waiters := o.waiters ++ [h.fid] }) := by
  have hmet : (o.waiters.isEmpty && decide ((h.srcS w.b).toNat ≤ v.toNat)) = false := by
    rw [Bool.and_eq_false_iff, decide_eq_false_iff_not, not_le]
    exact hv.imp_left fun hw => by simpa using hw
  simp only [takeSlot, ho, hk, beq_eq_false_iff_ne.mpr hn, hmet, Bool.false_eq_true, if_false]
  rfl

end

theorem exec_take (hi : i ∈ [Instr.swaitTake w, .swaitTry w]) :
    ∃ tryOnly, exec i s = runSlot i (syncSlot w false (takeSlot w tryOnly)) s := by
  simp only [List.mem_cons, List.not_mem_nil, or_false] at hi
  obtain rfl | rfl := hi
  · exact ⟨false, rfl⟩
  · exact ⟨true, rfl⟩

/-! ## Requests that are presented again -/

/-- A refused request is presented again with a ticket, and its engine refuses once less. -/
theorem exec_syncRequestRetry {fid die : Nat} (hh : s.hereOf fid = some h) (hi : s.parkedAt fid = some i)
    (hdie : s.requestDie h i = some die) (hstall : h.f.stall = true) (hbusy : 0 < s.syncBusy.getD 0 die) :
    exec (.syncRequestRetry fid) s =
      .next (State.modFrag { s with syncBusy := s.syncBusy.setD 0 die (min 32 (s.syncBusy.getD 0 die) - 1) } fid
        fun f => { f with ticket := some (min 32 (s.syncBusy.getD 0 die)) }) := by
  have hn : 0 < min 32 (s.syncBusy.getD 0 die) := by omega
  change execSyncRequestRetry fid s = _
  simp only [execSyncRequestRetry, hh, hi, hdie, hstall, hn, decide_true, Bool.and_true, if_true]

end Sys2Proof.Machine

open Sys2Proof Sys2Proof.Machine

/-- Settles O31: a row that is taken reaches its object, whose kind and waiters say how it ends; waits that end change fragments and flags alone. -/
theorem syncObjects : Obligations.SyncObjects := by
  unfold Obligations.SyncObjects
  refine ⟨fun s h w => ?init, fun s h w => ?bar, ⟨fun s v l => serveTakes_spec s v l, fun s h w o v => ?sem,
    fun s fid die h i hh hi hdie hstall hbusy => ?retry⟩⟩
  case init =>
    intro va key o n idle bound made freed
    refine ⟨fun i hi hr => ?rows, fun hs => ?initBar, fun hs => ?initSem, fun hs => ?initCell, fun hs => ?inv⟩
    case rows =>
      obtain ⟨whole, f, he⟩ := exec_sync (s := s) hi
      exact ⟨fun hb => hr.stalls he (syncSlot_stall hb), fun r hb ht => hr.traps he (syncSlot_trap hb ht),
        fun hb ht hq => hr.stalls he (syncSlot_refused hb ht hq)⟩
    case initBar =>
      have hrow : exec (.sobjBar w) s = execSobjBar w s := rfl
      have hbad : (n == 0 || decide (2 ^ 32 ≤ n)) = true ↔ n = 0 ∨ 2 ^ 32 ≤ n := by simp
      have hgood (h0 : 0 < n) (hn : n < 2 ^ 32) : (n == 0 || decide (2 ^ 32 ≤ n)) = false := by
        rw [Bool.eq_false_iff, ne_eq, hbad]
        omega
      exact ⟨fun hi h0 hn => hs.succeeds hrow (hs.slot.trans (sobjInit_makes hi (hgood h0 hn))) (.putObj _ _),
        fun hb hn => hs.fails hrow (hs.slot.trans (sobjInit_bad hb (hbad.mpr hn))),
        fun hi hn => hs.fails hrow (hs.slot.trans (sobjInit_busy hi (hn.imp_right fun hn => hgood hn.1 hn.2)))⟩
    case initSem =>
      have hrow : exec (.sobjSem w) s = execSobjSem w s := rfl
      exact ⟨fun hi => hs.succeeds hrow (hs.slot.trans (sobjInit_makes hi rfl)) (.putObj _ _),
        fun hi => hs.fails hrow (hs.slot.trans (sobjInit_busy hi (.inr rfl)))⟩
    case initCell =>
      have hrow : exec (.sobjCell w) s = execSobjCell w s := rfl
      exact ⟨fun hi => hs.succeeds hrow (hs.slot.trans (sobjInit_makes hi rfl)) (.putObj _ _),
        fun hi => hs.fails hrow (hs.slot.trans (sobjInit_busy hi (.inr rfl)))⟩
    case inv =>
      have hrow : exec (.sobjInv w) s = execSobjInv w s := rfl
      refine ⟨fun ho => hs.succeeds hrow (hs.slot.trans (sobjInv_free ho)) .rfl, fun hne hi => ?_,
        fun x ho hk => hs.fails hrow (hs.slot.trans (sobjInv_fold ho hk)),
        fun x c a t g sc ho hk => hs.completes hrow (hs.slot.trans (sobjInv_counter ho hk)),
        fun x ho hn => ⟨hs.completes hrow (hs.slot.trans (sobjInv_own ho hn)), foldl_keeps State.objs leaveLost_objs _ _⟩⟩
      rcases hi with ho | ⟨x, ho, hw, hx⟩
      · exact absurd ho hne
      · have hslot := sobjInv_own (w := w) (h := h) (va := va) ho (Idle.not_bound (.inr ⟨x, ho, hw, hx⟩))
        rw [hw] at hslot
        exact hs.succeeds hrow (hs.slot.trans hslot) (.of_eq .rfl rfl rfl rfl)
  case bar =>
    intro va key kind tok
    refine ⟨fun o gen expect arrived hs ho hk => ?_, fun hs hn => hs.sarv_kind hn, fun hs ho => hs.swait_free ho,
      fun o gen expect arrived hs ho hk => ?_, fun o hs ho hn => hs.swait_kind ho hn, fun i hi hs hn => hs.sem_kind hi hn⟩
    · have hdone := hs.sarv_bar ho hk
      refine ⟨fun ha => ?counts, fun ha => ?completes⟩
      case counts =>
        rw [arrive_counts ha] at hdone
        exact ⟨hdone, ((Frame.putObj _ _).trans (.writeS _ _)).trans (.finish _)⟩
      case completes =>
        rw [arrive_completes ha] at hdone
        obtain ⟨hf, hgid, hg, -⟩ := here_spec hs.here
        have hself : h.fid ∉ s.through o gen := notMem_through hf hs.st
        obtain ⟨l, hl⟩ := sarvNext_frag (h := h) (w := w) (expect := expect) hf hself
        have hobjs : ((s.sarvNext h w o gen expect).finish h (.sarv w)).objs = (s.sarvNext h w o gen expect).objs := by
          rw [State.finish_rest]
          rfl
        refine ⟨_, _, hdone, sarvNext_sameMem.trans (Frame.finish (p := noReg) _).mem,
          State.finish_wentOn hl hgid rfl rfl rfl rfl rfl, (congrArg (SMap.get? · key) hobjs).trans sarvNext_obj, rfl, rfl,
          fun hw => ((sarvNext_frame hw).trans (.finish _)).regs, fun d hd => ?_, fun k hk hp => ?_⟩
        · obtain ⟨g, hg', hx⟩ := sarvNext_reg (o := o) (gen := gen) (expect := expect) hd hg
          have hkeep := finish_keeps (s := s.sarvNext h w o gen expect) (h := h) (fun g => g.s.getD 0 d.val) (fun _ _ => rfl) (.sarv w) h.gid
          rw [hg'] at hkeep
          obtain ⟨g', hg'', hx'⟩ := Option.map_eq_some_iff.mp hkeep
          exact ⟨g', hg'', hx'.trans hx⟩
        · obtain ⟨f, hf'⟩ := exists_of_tokenPassed hp
          have hgo : k ∈ s.through o gen := List.mem_filter.mpr ⟨hk, hp⟩
          obtain ⟨f', hf'', hfree⟩ := sarvNext_freed (h := h) (w := w) (expect := expect) hf' hgo
          exact ⟨f', (State.finish_frags_ne fun hk => hself (hk ▸ hgo)).trans hf'', hfree⟩
    · intro d
      exact ⟨fun h1 h2 => hs.swait_passed ho hk (passed_iff.mpr ⟨h1, h2⟩), fun hd => hs.swait_parks ho hk (passed_eq_false hd)⟩
  case sem =>
    intro va key n ho hk
    refine ⟨fun hs => ⟨fun hv => hs.post_over ho hk hv, fun hv => ?post⟩, fun i hi hs => ?take, fun hn hv =>
      ⟨fun hs => ?parks, fun hs => ?fails⟩⟩
    case post =>
      intro r
      refine ⟨_, hs.post_serves ho hk hv, posted_sameMem, posted_obj, fun hw => ?_, fun k hk f hf => answers_freed hk hf⟩
      exact (posted_frame hw).regs
    case take =>
      obtain ⟨tryOnly, he⟩ := exec_take (s := s) hi
      exact ⟨fun hn => hs.succeeds he (hs.slot.trans (takeSlot_zero ho hk hn)) .rfl,
        fun hn hw hv => hs.succeeds he (hs.slot.trans (takeSlot_met ho hk hn hw hv)) (.putObj _ _)⟩
    case parks =>
      have hrow : exec (.swaitTake w) s = execSwaitTake w s := rfl
      exact hs.exec_eq (res := .park _ _) hrow (hs.slot.trans (takeSlot_unmet ho hk hn hv))
    case fails =>
      have hrow : exec (.swaitTry w) s = execSwaitTry w s := rfl
      exact hs.fails hrow (hs.slot.trans (takeSlot_unmet ho hk hn hv))
  case retry =>
    obtain ⟨-, -, -, hf, -⟩ := hereOf_eq_some.mp hh
    refine ⟨_, _, exec_syncRequestRetry hh hi hdie hstall hbusy, .rfl, rfl, rfl, ?_, modFrag_frag hf, rfl, fun k hk => modFrag_frag_ne hk⟩
    change (s.syncBusy.setD 0 die (min 32 (s.syncBusy.getD 0 die) - 1)).getD 0 die + 1 = _
    rw [SMap.getD_setD_self]
    omega

end

section
/-! Atomics (spec/09 R194 to R199): what the lanes change in order, what they return, and how each row's slot ends. -/

set_option Elab.async false

namespace Sys2Proof.Machine

variable {s t u : State} {h : Here} {w : MemW} {p : Reg → Bool} {i : Instr}

/-! ## What an atomic computes -/

/-- ATOM, ATOMS and RED share their function. -/
theorem atomEval_atom {m : Nat} (hm : m ∈ [0xA0, 0xA1, 0xA5]) (x : AtomArgs) (old : Nat) : atomEval m w x old = atomF w x old := by
  simp only [List.mem_cons, List.not_mem_nil, or_false] at hm
  obtain rfl | rfl | rfl := hm <;> rfl

/-- The new value of an integer location: MIN and MAX compare as integers. -/
def atomInt (op : AtomOp) (k : AtomKind) (n old v v2 : Nat) : Nat :=
  let lt (a b : Nat) : Bool := if k == .signed then decide (sextI (8 * n) a < sextI (8 * n) b) else decide (a < b)
  match op with
  | .add => (old + v) % 2 ^ (8 * n)
  | .min => if lt v old then v else old
  | .max => if lt old v then v else old
  | .and => old &&& v
  | .or => old ||| v
  | .xor => old ^^^ v
  | .exch => v
  | .cas => if old == v then v2 else old

/-- The new value of a float location. -/
def atomFloat (op : AtomOp) (old v v2 : Nat) : Nat :=
  match op with
  | .add => (Fmt.f32.dot .rne false false [] [Fmt.f32.dec false old, Fmt.f32.dec false v]).1
  | .min => Fmt.f32.minmax false false old v
  | .max => Fmt.f32.minmax false true old v
  | .cas => if old == v then canonF32 v2 else old
  | _ => canonF32 v

theorem atomNew_int {k : AtomKind} (hk : k ≠ .float) (op : AtomOp) (n old v v2 : Nat) : atomNew op k n old v v2 = atomInt op k n old v v2 :=
  if_neg (by simpa using hk)

theorem atomNew_float (op : AtomOp) (n old v v2 : Nat) : atomNew op .float n old v v2 = atomFloat op old v v2 := rfl

theorem atom_lt (k : AtomKind) (n a b : Nat) :
    (if k == .signed then decide (sextI (8 * n) a < sextI (8 * n) b) else decide (a < b)) =
      decide ((if k = .signed then sextI (8 * n) a else (a : Int)) < if k = .signed then sextI (8 * n) b else (b : Int)) := by
  by_cases hk : k = .signed
  · simp only [hk, beq_self_eq_true, if_true]
  · simp only [hk, beq_eq_false_iff_ne.mpr hk, Bool.false_eq_true, if_false, Int.ofNat_lt]

/-- A cas writes where it finds what it compares with. -/
theorem atomF_cas (hop : w.opc = .cas) (x : AtomArgs) (old : Nat) : atomF w x old =
    (if old = x.v then some (atomNew .cas w.kind w.width.bytes old x.v x.v2) else none, atomOld w.kind old) := by
  simp only [atomF, atomWrites, hop, bne_self_eq_false, Bool.false_or, beq_iff_eq]

/-- Any other operation writes its new value. -/
theorem atomF_writes (hop : w.opc ≠ .cas) (x : AtomArgs) (old : Nat) : atomF w x old =
    (some (atomNew w.opc w.kind w.width.bytes old x.v x.v2), atomOld w.kind old) := by
  have hwrites : atomWrites w.opc old x.v = true := by simp [atomWrites, hop]
  rw [atomF, if_pos hwrites]

theorem atomOld_int (hk : w.kind ≠ .float) (old : Nat) : atomOld w.kind old = old := if_neg (by simpa using hk)

theorem atomOld_float (hk : w.kind = .float) (old : Nat) : atomOld w.kind old = canonF32 old := if_pos (by simpa using hk)

theorem bffcsF_lowest {old j : Nat} (hj : j < 64) (hclear : old.testBit j = false) (hset : ∀ k, k < j → old.testBit k = true) :
    bffcsF old = (some (old ||| 2 ^ j), j) := by
  have hfind : ((List.range 64).find? fun k => !old.testBit k) = some j := by
    rw [List.find?_range_eq_some]
    simp only [hj, hclear, Bool.not_false, List.mem_range, true_and, Bool.not_not]
    exact hset
  rw [bffcsF, hfind]

theorem bffcsF_full {old : Nat} (hset : ∀ k, k < 64 → old.testBit k = true) : bffcsF old = (none, 2 ^ 64 - 1) := by
  have hfind : ((List.range 64).find? fun k => !old.testBit k) = none := by
    rw [List.find?_eq_none]
    intro k hk
    simp [hset k (List.mem_range.mp hk)]
  rw [bffcsF, hfind]

/-! ## Lanes in order -/

section
variable {core tid m : Nat} {cx : Ctx}

theorem foldl_atomApply (os : List (Nat × Nat × AtomArgs)) (vals : List (Nat × Nat)) (s : State) :
    os.foldl (fun acc o => (acc.1 ++ [(o.1, (acc.2.atomApply core cx tid m w o.2.1 o.2.2).1)],
      (acc.2.atomApply core cx tid m w o.2.1 o.2.2).2)) (vals, s) =
        (vals ++ (s.atomLanes core cx tid m w os).1, (s.atomLanes core cx tid m w os).2) := by
  induction os generalizing vals s with
  | nil => exact Prod.ext (List.append_nil vals).symm rfl
  | cons o os ih =>
    have htail := ih [(o.1, (s.atomApply core cx tid m w o.2.1 o.2.2).1)] (s.atomApply core cx tid m w o.2.1 o.2.2).2
    have hcons : s.atomLanes core cx tid m w (o :: os) = _ := htail
    rw [List.foldl_cons, ih, hcons, List.append_assoc]

/-- The first lane performs, then the others. -/
theorem atomLanes_cons (o : Nat × Nat × AtomArgs) (os : List (Nat × Nat × AtomArgs)) : s.atomLanes core cx tid m w (o :: os) =
    ((o.1, (s.atomApply core cx tid m w o.2.1 o.2.2).1) ::
      ((s.atomApply core cx tid m w o.2.1 o.2.2).2.atomLanes core cx tid m w os).1,
     ((s.atomApply core cx tid m w o.2.1 o.2.2).2.atomLanes core cx tid m w os).2) :=
  foldl_atomApply os _ _

theorem atomLanes_nil : s.atomLanes core cx tid m w [] = ([], s) := rfl

end

/-! ## Atomics on memory and cells -/

/-- What an atomic on memory or a cell leaves as it was. -/
structure Untouched (s t : State) : Prop extends SameUnits s t where
  ctxs : t.ctxs = s.ctxs
  accs : t.accs = s.accs

namespace Untouched

theorem rfl : Untouched s s := ⟨.rfl, Eq.refl _, Eq.refl _⟩

theorem trans (h : Untouched s t) (h' : Untouched t u) : Untouched s u :=
  ⟨h.toSameUnits.trans h'.toSameUnits, h'.ctxs.trans h.ctxs, h'.accs.trans h.accs⟩

theorem touch (core : Nat) (cx : Ctx) (va : Nat) (write : Bool) (hint : Nat) : Untouched s (s.touch core cx va write hint) :=
  ⟨(Traffic.touch _ _ _ _ _).toSameUnits, (Traffic.touch _ _ _ _ _).ctxs, touch_keeps State.accs (fun _ _ _ _ _ => Eq.refl _) _ _ _ _ _ _⟩

theorem atomWrite (core : Nat) (cx : Ctx) (va n x : Nat) : Untouched s (s.atomWrite core cx va n x) := by
  unfold State.atomWrite
  split
  · exact ⟨⟨Eq.refl _, Eq.refl _, Eq.refl _⟩, Eq.refl _, Eq.refl _⟩
  · split
    · exact ⟨(Traffic.physWrite _ _ _ _).toSameUnits, (Traffic.physWrite _ _ _ _).ctxs, physWrite_accs _ _ _ _ _⟩
    · exact rfl

end Untouched

section
variable {core tid m : Nat} {cx : Ctx} (hm : m ≠ 0xA1)

/-- The state in which an atomic reads its location: ACC and DIRTY are set. -/
def State.atomTouch (s : State) (core : Nat) (cx : Ctx) (a : Nat) : State := if inAperture a then s else s.touch core cx a true

include hm

/-- Outside the scratchpad an atomic reads, computes and writes. -/
theorem atomApply_eq (a : Nat) (x : AtomArgs) : s.atomApply core cx tid m w a x =
    ((atomEval m w x ((s.atomTouch core cx a).atomRead core cx a w.width.bytes)).2,
     match (atomEval m w x ((s.atomTouch core cx a).atomRead core cx a w.width.bytes)).1 with
      | some y => (s.atomTouch core cx a).atomWrite core cx a w.width.bytes y
      | none => s.atomTouch core cx a) := by
  unfold State.atomApply
  rw [if_neg (by simpa using hm)]
  rfl

theorem atomApply_untouched (a : Nat) (x : AtomArgs) : Untouched s (s.atomApply core cx tid m w a x).2 := by
  have htouch : Untouched s (s.atomTouch core cx a) := by
    unfold State.atomTouch
    split
    · exact .rfl
    · exact .touch _ _ _ _ _
  rw [atomApply_eq hm]
  dsimp only
  split
  · exact htouch.trans (.atomWrite _ _ _ _ _)
  · exact htouch

theorem atomLanes_untouched (os : List (Nat × Nat × AtomArgs)) (s : State) : Untouched s (s.atomLanes core cx tid m w os).2 := by
  induction os generalizing s with
  | nil => exact .rfl
  | cons o os ih =>
    rw [atomLanes_cons]
    exact (atomApply_untouched hm _ _).trans (ih _)

/-- An atomic changes the bytes that `atomBytes` names for it. -/
theorem Stored.atomApply (l a : Nat) (x : AtomArgs) :
    Stored s (s.atomApply core cx tid m w a x).2 (s.atomBytes core cx tid m w [(l, a, x)]) := by
  simp only [atomApply_eq hm, State.atomBytes, List.append_nil]
  cases hap : inAperture a with
  | true =>
    have hmem (y : Nat) : SameMem s (s.atomWrite core cx a w.width.bytes y) := by
      rw [State.atomWrite, if_pos hap]
      exact .rfl
    rw [State.atomTouch, if_pos hap]
    split
    · exact .of_sameMem (hmem _)
    · exact .refl
  | false =>
    have htouch : s.atomTouch core cx a = s.touch core cx a true := by simp [State.atomTouch, hap]
    have hphys (mt pa : Nat) : (s.touch core cx a true).physBytes mt pa w.width.bytes = s.physBytes mt pa w.width.bytes :=
      touch_keeps (State.physBytes · mt pa w.width.bytes) (fun _ _ _ _ _ => rfl) s core cx a true 2
    have hwrite (y : Nat) : Stored (s.touch core cx a true) ((s.touch core cx a true).atomWrite core cx a w.width.bytes y)
        (match (s.touch core cx a true).xl core cx a .atomic with
          | .ok pa mt => s.physBytes mt pa w.width.bytes
          | _ => []) := by
      unfold State.atomWrite
      simp only [hap, Bool.false_eq_true, if_false]
      cases (s.touch core cx a true).xl core cx a .atomic with
      | ok pa mt =>
        dsimp only
        rw [← hphys]
        exact .physWrite _ _ _ _ _
      | fault _ _ => exact .refl
      | prot _ => exact .refl
    rw [htouch]
    simp only [Bool.false_eq_true, if_false]
    split
    · exact (Stored.touch s a 2).trans (hwrite _)
    · exact (Stored.touch s a 2).trans .refl

theorem Stored.atomLanes (os : List (Nat × Nat × AtomArgs)) (s : State) :
    Stored s (s.atomLanes core cx tid m w os).2 (s.atomBytes core cx tid m w os) := by
  induction os generalizing s with
  | nil => exact .refl
  | cons o os ih =>
    obtain ⟨l, a, x⟩ := o
    have hbytes : s.atomBytes core cx tid m w ((l, a, x) :: os) = s.atomBytes core cx tid m w [(l, a, x)] ++
        (s.atomApply core cx tid m w a x).2.atomBytes core cx tid m w os := by
      simp only [State.atomBytes, List.append_nil]
    rw [atomLanes_cons, hbytes]
    exact (Stored.atomApply hm l a x).trans (ih _)

/-- A single lane's location in HBM holds what its operation writes. -/
theorem readLE_atomLanes {l a pa mt y : Nat} {x : AtomArgs} (hap : inAperture a = false)
    (hx : (s.touch core cx a true).xl core cx a .atomic = .ok pa mt) (hmt : mt < 2)
    (hy : (atomEval m w x (readLE (s.touch core cx a true).mem pa w.width.bytes)).1 = some y) :
    readLE (s.atomLanes core cx tid m w [(l, a, x)]).2.mem pa w.width.bytes = y % 256 ^ w.width.bytes := by
  have htouch : s.atomTouch core cx a = s.touch core cx a true := by simp [State.atomTouch, hap]
  have hread : (s.touch core cx a true).atomRead core cx a w.width.bytes = readLE (s.touch core cx a true).mem pa w.width.bytes := by
    simp only [State.atomRead, hap, hx, State.physRead, hmt, Bool.false_eq_true, if_false, if_true]
  rw [atomLanes_cons, atomLanes_nil, atomApply_eq hm]
  simp only [htouch, hread, hy, State.atomWrite, hap, hx, State.physWrite, hmt, Bool.false_eq_true, if_false, if_true]
  exact readLE_writeLE _ _ _ _

end

/-! ## The end of an atomic -/

theorem Frame.deliverAs (dst : Opnd) (wd : Width) (vals : List (Nat × Nat)) (load : Bool) :
    Frame h s (s.deliver h dst wd vals load) p := by
  unfold State.deliver
  split
  · exact .addPend _
  · exact .rfl

/-- A delivery adds to the groups' outstanding writes alone. -/
theorem deliver_rest (s : State) (dst : Opnd) (wd : Width) (vals : List (Nat × Nat)) (load : Bool) :
    s.deliver h dst wd vals load = s.withHere (s.deliver h dst wd vals load).groups s.frags := by
  unfold State.deliver
  split <;> rfl

/-- What is delivered depends on the fragments and the groups alone. -/
theorem deliverAs_groups (hu : SameUnits s u) (dst : Opnd) (wd : Width) (vals : List (Nat × Nat)) (load : Bool) :
    (u.deliver h dst wd vals load).groups = (s.deliver h dst wd vals load).groups := by
  unfold State.deliver State.addPend
  rw [hu.frags]
  split
  · rw [State.modGroup_groups, State.modGroup_groups, hu.groups]
  · exact hu.groups

section
variable {m : Nat} (hm : m ≠ 0xA1) (hr : Runs i h s) {ls : List Nat}
include hm hr

/-- The lanes have performed, and then only a group has changed: the row goes on. -/
theorem Runs.atomics (hu : (s.atomLanes h.core h.cx h.tid m w (h.atomOps w ls)).2 = u) {gs : SMap Group}
    (hrest : t = u.withHere gs u.frags) (hframe : Frame h u t noReg) :
    WentOn i h (t.finish h i) ∧ Machine.Atomics h s (t.finish h i) w m ls := by
  have hsame : Untouched s u := hu ▸ atomLanes_untouched hm _ s
  have hframe' : Frame h u (t.finish h i) noReg := hframe.trans (.finish i)
  have hmem : (t.finish h i).mem = u.mem := by
    rw [State.finish_rest, hrest]
    rfl
  have hobjs : (t.finish h i).objs = u.objs := by
    rw [State.finish_rest, hrest]
    rfl
  refine ⟨hr.wentOn ((congrArg State.frags hrest).trans hsame.frags), ?_⟩
  subst hu
  refine ⟨hmem, hobjs, (Stored.atomLanes hm _ s).sameMem hframe'.mem, fun l pa mt y hl hap hx hmt hy => ?_, fun k g hk => ?_,
    hframe'.ctxs.trans hsame.ctxs, hframe'.accs.trans hsame.accs⟩
  · rw [hmem, hl]
    exact readLE_atomLanes hm hap hx hmt hy
  · exact hframe'.regs k g (hsame.groups ▸ hk)

/-- What the lanes have read is on its way. -/
theorem Runs.returning (hu : (s.atomLanes h.core h.cx h.tid m w (h.atomOps w ls)).2 = u) (vals : List (Nat × Nat)) :
    Returning h s ((u.deliver h w.dst w.width vals false).finish h i) w vals := by
  have hsame : Untouched s u := hu ▸ atomLanes_untouched hm _ s
  obtain ⟨-, -, hgroup, -⟩ := here_spec hr.here
  obtain ⟨g', hg', -⟩ := (Frame.deliverAs (h := h) (s := s) (p := noReg) w.dst w.width vals false).regs _ _ hgroup
  have hpend := finish_keeps (s := u.deliver h w.dst w.width vals false) (h := h) Group.pend (fun _ _ => rfl) i h.gid
  rw [deliverAs_groups hsame.toSameUnits, hg'] at hpend
  obtain ⟨g, hg, hgp⟩ := Option.map_eq_some_iff.mp hpend
  exact ⟨g, g', hg, hg', hgp⟩

end

/-! ## Atomics that have passed their checks -/

section
variable {m : Nat} {ls : List Nat} {ea : Nat → Nat}

theorem atomIssue_performs (hlog : s.logBusy h = false) {os : List (Nat × Nat × AtomArgs)}
    (hos : (ls.map fun l => (l, ea l, h.atomArgs w l)) = os) : s.atomIssue h m w ls ea =
      .done ((s.atomLanes h.core h.cx h.tid m w os).2.deliver h w.dst w.width (s.atomLanes h.core h.cx h.tid m w os).1 false) := by
  subst hos
  simp only [State.atomIssue, hlog, Bool.false_eq_true, if_false]

variable (hlog : s.logBusy h = true) {pend : Option Nat} (hpend : (if Opnd.isReg w.dst then some h.g.nextPend else none) = pend)
include hlog hpend

/-- Behind the group's stores an atomic enters the log, with its outstanding write. -/
theorem atomIssue_logged (hu : s.sideAdd h (ls.map fun l => (l, ea l)) 0
      (fun ls => .atom m w pend (ls.map fun l => (l, ea l, h.atomArgs w l))) = some u) : s.atomIssue h m w ls ea =
    .done (if pend.isNone then u else u.addPend h.gid
      { frag := h.fid, regs := dataRegs w.width w.dst, parts := (linesOf (ls.map ea)).length }) := by
  simp only [State.atomIssue, hlog, hpend, hu, if_true]

theorem atomIssue_full (hu : s.sideAdd h (ls.map fun l => (l, ea l)) 0
      (fun ls => .atom m w pend (ls.map fun l => (l, ea l, h.atomArgs w l))) = none) : s.atomIssue h m w ls ea = .stall := by
  simp only [State.atomIssue, hlog, hpend, hu, if_true]

end

theorem lanes_of_maskOf {ls : List Nat} {q : Nat → Prop} (hq : ∀ l ∈ ls, q l) : ∀ l ∈ lanesOf (maskOf fun l => ls.contains l), q l :=
  fun l hl => hq l (List.contains_iff_mem.mp (mem_lanesOf_maskOf hl))

/-! ## The rows of the global atomics -/

section
variable {m : Nat} {cell hostOk : Bool} (hpeer : h.peerBusy = false)
include hpeer

theorem globalAtomic_trap {r : RecInfo} (hp : pickTrap (failing (maskOf fun l => (h.atomActive w).contains l) fun l =>
    s.laneAtomic h (h.atomEa w l) w.width.bytes cell hostOk) = some r) :
    globalAtomic m w cell hostOk h s = .trap (if w.dst.isS then { r with lanes := h.f.mask.toNat } else r) := by
  simp only [globalAtomic, hpeer, hp, Bool.false_eq_true, if_false]

theorem globalAtomic_issues (hp : ∀ l ∈ h.atomActive w, s.laneAtomic h (h.atomEa w l) w.width.bytes cell hostOk = none)
    (hc : ∀ l ∈ h.atomActive w, s.atomPoison h.core h.cx (h.atomEa w l) w.width.bytes = false) :
    globalAtomic m w cell hostOk h s = s.atomIssue h m w (h.atomActive w) (h.atomEa w) := by
  simp only [globalAtomic, hpeer, pickTrap_failing_none (lanes_of_maskOf hp), any_eq_false_of hc, Bool.false_eq_true, if_false]

end

/-- A RED whose lanes all pass their checks performs them all. -/
theorem redSlot_performs (hb : s.sideBusy h = false) (hok : ∀ l ∈ lanesOf (h.active w.g w.gn),
      s.laneRed h (h.atomEa w l) w.width.bytes (hostAtom w) = none ∧ s.vPoison h.core h.cx (h.atomEa w l) w.width.bytes .atomic = false) :
    redSlot w h s = .done ((s.atomLanes h.core h.cx h.tid 0xA5 w (h.atomOps w (lanesOf (h.active w.g w.gn)))).2.noteLostLanes h
      (lanesOf (h.active w.g w.gn)) (h.atomEa w)) := by
  obtain ⟨hlog, hpeer⟩ := idle_of_sideBusy hb
  have hbad : (failing (h.active w.g w.gn) fun l => s.laneRed h (h.atomEa w l) w.width.bytes (hostAtom w)) = [] :=
    failing_eq_nil fun l hl => (hok l hl).1
  have hall : onlyXlate [] = true := rfl
  have hnow : ((lanesOf (h.active w.g w.gn)).filter fun l => !([] : List Nat).contains l) = lanesOf (h.active w.g w.gn) :=
    List.filter_eq_self.mpr fun _ _ => rfl
  simp only [redSlot, hb, hpeer, hlog, hbad, hall, List.map_nil, hnow, any_eq_false_of fun l hl => (hok l hl).2, sideAdd_nil, Bool.and_false,
    Bool.or_false, Bool.not_true, Bool.false_eq_true, if_false]
  rfl

/-- An atomic waits at issue while a load of its group waits at a peer. -/
theorem Runs.atomic_stalls (hr : Runs i h s) (hi : i ∈ [Instr.atom w, .bins w, .bffcs w, .bpls w, .red w, .atoms w])
    (hpeer : h.peerBusy = true) : Stalls i h s := by
  have hglobal (m : Nat) (cell hostOk : Bool) : globalAtomic m w cell hostOk h s = .stall := if_pos hpeer
  simp only [List.mem_cons, List.not_mem_nil, or_false] at hi
  obtain rfl | rfl | rfl | rfl | rfl | rfl := hi
  · exact hr.stalls rfl (hglobal 0xA0 true (hostAtom w))
  · exact hr.stalls rfl (hglobal 0xA2 false false)
  · exact hr.stalls rfl (hglobal 0xA3 false false)
  · exact hr.stalls rfl (hglobal 0xA4 false false)
  · have hslot : redSlot w h s = .stall := if_pos (by rw [hpeer, Bool.or_true])
    exact hr.stalls rfl hslot
  · have hslot : atomsSlot w h s = .stall := if_pos hpeer
    exact hr.stalls rfl hslot

/-! ## ATOMS -/

/-- The lanes of an ATOMS on a scratchpad, in order: what each returns, and the scratchpad. -/
def Here.scrStep (h : Here) (w : MemW) (acc : List (Nat × Nat) × Team) (l : Nat) : List (Nat × Nat) × Team :=
  let x := atomEval 0xA1 w (h.atomArgs w l) (readLE acc.2.scr (h.atomOff w l) w.width.bytes)
  (acc.1 ++ [(l, x.2)], match x.1 with | some y => acc.2.scrPut (h.atomOff w l) w.width.bytes y | none => acc.2)

/-- The state holds the scratchpad, and nothing else of what a frame names has changed. -/
structure ScrOnly (h : Here) (s t : State) (x : Team) : Prop where
  team : t.teams.get? h.tid = some x
  groups : t.groups = s.groups
  frame : Frame h s t noReg

theorem ScrOnly.trans {x y : Team} (h₁ : ScrOnly h s t x) (h₂ : ScrOnly h t u y) : ScrOnly h s u y :=
  ⟨h₂.team, h₂.groups.trans h₁.groups, h₁.frame.trans h₂.frame⟩

theorem ScrOnly.put {x : Team} (lines : List Nat) : ScrOnly h s ((s.dropCopies h.tid lines).putTeam h.tid x) x := by
  refine ⟨SMap.get?_set_self _ _ _, ?_, (Frame.dropCopies _ _).trans (.putTeam _ _)⟩
  unfold State.dropCopies
  split <;> rfl

theorem atomApply_scr {x : Team} (hx : s.teams.get? h.tid = some x) (l : Nat) (vals : List (Nat × Nat)) :
    (h.scrStep w (vals, x) l).1 = vals ++ [(l, (s.atomApply h.core h.cx h.tid 0xA1 w (h.atomOff w l) (h.atomArgs w l)).1)] ∧
      ScrOnly h s (s.atomApply h.core h.cx h.tid 0xA1 w (h.atomOff w l) (h.atomArgs w l)).2 (h.scrStep w (vals, x) l).2 := by
  simp only [State.atomApply, Here.scrStep, Team.scrGet, beq_self_eq_true, if_true, hx]
  refine ⟨trivial, ?_⟩
  cases (atomEval 0xA1 w (h.atomArgs w l) (readLE x.scr (h.atomOff w l) w.width.bytes)).1 with
  | none => exact ⟨hx, rfl, .rfl⟩
  | some y => exact .put _

/-- Lane by lane an ATOMS does to the state what the steps do to the scratchpad. -/
theorem atomLanes_scr (ls : List Nat) {s : State} {x : Team} (hx : s.teams.get? h.tid = some x) (vals : List (Nat × Nat)) :
    (ls.foldl (h.scrStep w) (vals, x)).1 =
      vals ++ (s.atomLanes h.core h.cx h.tid 0xA1 w (ls.map fun l => (l, h.atomOff w l, h.atomArgs w l))).1 ∧
    ScrOnly h s (s.atomLanes h.core h.cx h.tid 0xA1 w (ls.map fun l => (l, h.atomOff w l, h.atomArgs w l))).2
      (ls.foldl (h.scrStep w) (vals, x)).2 := by
  induction ls generalizing s x vals with
  | nil => exact ⟨(List.append_nil vals).symm, hx, rfl, .rfl⟩
  | cons l ls ih =>
    obtain ⟨hval, hstep⟩ := atomApply_scr (w := w) hx l vals
    obtain ⟨hvals, hsteps⟩ := ih hstep.team (h.scrStep w (vals, x) l).1
    rw [List.map_cons, atomLanes_cons, List.foldl_cons]
    refine ⟨hvals.trans ?_, hstep.trans hsteps⟩
    rw [hval, List.append_assoc]
    rfl

section
variable (hpeer : h.peerBusy = false) (hp : ∀ l ∈ h.atomActive w, s.laneScr h.tid (h.atomOff w l) w.width.bytes true 0
  (h.quiet (h.atomActive w) (h.atomOff w) w.width.bytes) = none)
include hpeer hp

theorem atomsSlot_parks (habs : ∃ l ∈ h.atomActive w, h.t.present (h.atomOff w l) w.width.bytes = false) :
    atomsSlot w h s = .park .absent s := by
  have hany : ((h.atomActive w).any fun l => !h.t.present (h.atomOff w l) w.width.bytes) = true := by simpa using habs
  simp only [atomsSlot, hpeer, pickTrap_failing_none (lanes_of_maskOf hp), hany, Bool.false_eq_true, if_false, if_true]

theorem atomsSlot_issues (hpres : ∀ l ∈ h.atomActive w, h.t.present (h.atomOff w l) w.width.bytes = true ∧
    h.t.scrBad (h.atomOff w l) w.width.bytes = false) : atomsSlot w h s = s.atomIssue h 0xA1 w (h.atomActive w) (h.atomOff w) := by
  have habs : ((h.atomActive w).any fun l => !h.t.present (h.atomOff w l) w.width.bytes) = false :=
    any_eq_false_of fun l hl => by rw [(hpres l hl).1, Bool.not_true]
  simp only [atomsSlot, hpeer, pickTrap_failing_none (lanes_of_maskOf hp), habs, any_eq_false_of fun l hl => (hpres l hl).2,
    Bool.false_eq_true, if_false]

end

end Sys2Proof.Machine

open Sys2Proof Sys2Proof.Machine

/-- Settles O30: the lanes of a row that passes its checks are folded in order, over memory and cells or over the scratchpad; the operations
are a table. -/
theorem atomics : Obligations.Atomics := by
  unfold Obligations.Atomics
  refine ⟨fun s h w => ?rows, fun h w x old => ?table, fun s h w => ?atoms⟩
  case rows =>
    intro n ls acts fails ok runs
    have hruns {i : Instr} {m : Nat} {cell hostOk : Bool} (hm : m ≠ 0xA1)
        (he : exec i s = runSlot i (globalAtomic m w cell hostOk) s) : runs i m cell hostOk := by
      intro hr hpeer
      refine ⟨fun hok hlog => ?_, fun hok hlog => ?_, fun r hp => hr.traps he (globalAtomic_trap hpeer hp)⟩
      · obtain ⟨hp, hc⟩ := hok
        have hslot := (globalAtomic_issues (m := m) hpeer hp hc).trans (atomIssue_performs hlog rfl)
        obtain ⟨hwent, hatomics⟩ := hr.atomics hm rfl (deliver_rest _ w.dst w.width _ false) (.deliverAs _ _ _ _)
        exact ⟨_, hr.completes he hslot, hwent, hatomics, hr.returning hm rfl _⟩
      · obtain ⟨hp, hc⟩ := hok
        have hslot := globalAtomic_issues (m := m) hpeer hp hc
        intro pend
        split
        next hu => exact hr.stalls he (hslot.trans (atomIssue_full hlog rfl hu))
        next u hu =>
          refine hr.completesQuiet he (hslot.trans (atomIssue_logged hlog rfl hu)) ((Frame.sideAdd hu).trans ?_)
          split
          · exact .rfl
          · exact .addPend _
    refine ⟨hruns (by decide) rfl, hruns (by decide) rfl, hruns (by decide) rfl, hruns (by decide) rfl, fun hr hb hok => ?_,
      fun i hi hr hpeer => hr.atomic_stalls hi hpeer⟩
    have hrow : exec (.red w) s = execRed w s := rfl
    obtain ⟨hwent, hatomics⟩ := hr.atomics (m := 0xA5) (by decide) rfl (noteLostLanes_rest acts (h.atomEa w) id) (.noteLostLanes _ _ _)
    exact ⟨_, hr.completes hrow (redSlot_performs hb hok), hwent, hatomics⟩
  case table =>
    intro n int canon
    refine ⟨fun m hm hk => ?_, fun m hm hk => ?_, rfl, fun j hj hclear hset => bffcsF_lowest hj hclear hset, fun hset => bffcsF_full hset, rfl,
      fun l => ⟨rfl, fun r hr => by simp only [Here.atomArgs, hr]; rfl⟩⟩
    · rw [atomEval_atom hm]
      cases hop : w.opc with
      | cas =>
        rw [atomF_cas hop, atomNew_int hk, atomOld_int hk]
        exact Prod.ext (ite_congr rfl (fun he => congrArg some (if_pos (beq_iff_eq.mpr he))) fun _ => rfl) rfl
      | min | max =>
        rw [atomF_writes (by simp [hop]), atomNew_int hk, atomOld_int hk]
        simp only [atomInt, hop, atom_lt, decide_eq_true_eq]
        rfl
      | add | and | or | xor | exch =>
        rw [atomF_writes (by simp [hop]), atomNew_int hk, atomOld_int hk, hop]
        rfl
    · rw [atomEval_atom hm]
      cases hop : w.opc with
      | cas =>
        rw [atomF_cas hop, hk, atomNew_float]
        exact Prod.ext (ite_congr rfl (fun he => congrArg some (if_pos (beq_iff_eq.mpr he))) fun _ => rfl) rfl
      | add | min | max | and | or | xor | exch =>
        rw [atomF_writes (by simp [hop]), hk, atomNew_float, hop]
        rfl
  case atoms =>
    intro n ls off q r hr hpeer hp
    have hrow : exec (.atoms w) s = execAtoms w s := rfl
    obtain ⟨-, -, -, -, hteam, -⟩ := here_spec hr.here
    refine ⟨fun hlog hpres => ?_, fun habs => hr.exec_eq (res := .park _ _) hrow (atomsSlot_parks hpeer hp habs)⟩
    obtain ⟨hvals, hscr⟩ := atomLanes_scr (w := w) (h := h) (h.atomActive w) hteam []
    have hslot := (atomsSlot_issues hpeer hp hpres).trans (atomIssue_performs hlog rfl)
    rw [List.nil_append] at hvals
    rw [← hvals] at hslot
    exact ⟨_, hr.completesQuiet hrow hslot (hscr.frame.trans (.deliverAs _ _ _ _)), hscr.team, hscr.groups⟩

end

section
/-! What a core's engines hold, and their Hasp entries (spec/10 R209 to R211): what registers and frees entries, what accesses to memory leave
of the engines, and rows that mark leaf entries. -/

set_option Elab.async false

namespace Sys2Proof

namespace SMap

variable {α : Type} {m : SMap α} {k : Nat}

theorem has_set (m : SMap α) (k j : Nat) (v : α) : (m.set k v).has j = (j == k || m.has j) := by
  unfold has
  rw [get?_set]
  by_cases hj : j = k <;> simp [hj]

theorem has_erase (m : SMap α) (k j : Nat) : (m.erase k).has j = (j != k && m.has j) := by
  unfold has
  rw [get?_erase]
  by_cases hj : j = k <;> simp [hj]

theorem has_foldl_set (l : List (Nat × α)) (m : SMap α) (j : Nat) :
    (l.foldl (fun m e => m.set e.1 e.2) m).has j = ((l.map (·.1)).contains j || m.has j) := by
  induction l generalizing m with
  | nil => rfl
  | cons e l ih => rw [List.foldl_cons, ih, has_set, List.map_cons, List.contains_cons, ← Bool.or_assoc, Bool.or_comm (List.contains _ _)]

theorem has_foldl_erase (l : List Nat) (m : SMap α) (j : Nat) : (l.foldl erase m).has j = (!l.contains j && m.has j) := by
  induction l generalizing m with
  | nil => simp
  | cons i l ih =>
    rw [List.foldl_cons, ih, has_erase, List.contains_cons, Bool.not_or, Bool.and_left_comm, Bool.and_assoc]
    rfl

/-- Values written under consecutive keys. -/
theorem get?_foldl_set_zipIdx {l : List α} {first i : Nat} {v : α} (m : SMap α) (hv : l[i]? = some v) :
    (l.zipIdx.foldl (fun m e => m.set (first + e.2) e.1) m).get? (first + i) = some v := by
  induction l using List.reverseRecOn with
  | nil => simp at hv
  | append_singleton l x ih =>
    rw [List.zipIdx_append, List.foldl_append, List.zipIdx_singleton, List.foldl_cons, List.foldl_nil, get?_set, Nat.zero_add]
    rcases Nat.lt_trichotomy i l.length with hlt | rfl | hgt
    · rw [if_neg (by omega), ih (by rwa [List.getElem?_append_left hlt] at hv)]
    · rw [if_pos rfl]
      simpa using hv
    · rw [List.getElem?_eq_none (by rw [List.length_append, List.length_singleton]; omega)] at hv
      cases hv

/-- In canonical form every entry is what its key reads. -/
theorem get?_of_mem {e : Nat × α} (hwf : m.wf = true) (he : e ∈ m) : m.get? e.1 = some e.2 := by
  induction m with
  | nil => cases he
  | cons x m ih =>
    obtain ⟨k', v'⟩ := x
    obtain ⟨hlt, hwf⟩ := wf_cons.mp hwf
    rw [get?_cons]
    rcases List.mem_cons.mp he with rfl | he
    · exact if_pos rfl
    · rw [if_neg (Nat.ne_of_gt (hlt e he)), ih hwf he]

end SMap

namespace Machine

variable {s t u v : State} {h : Here} {p : Reg → Bool}

/-! ## Engines -/

/-- What a core's engines hold: neither its caches and TLB, nor its rays, nor its counters, nor its freeze. -/
def Core.engines (c : Core) : Core := { c with tlb := [], l1 := [], rays := [], ctrs := [], frozen := false }

/-- The engines of every core hold what they held. -/
def SameEngines (s t : State) : Prop := ∀ k, (t.core k).engines = (s.core k).engines

namespace SameEngines

theorem rfl : SameEngines s s := fun _ => Eq.refl _

theorem trans (h : SameEngines s t) (h' : SameEngines t u) : SameEngines s u := fun k => (h' k).trans (h k)

theorem foldl {α : Type} {f : State → α → State} (hf : ∀ s x, SameEngines s (f s x)) (l : List α) (s : State) :
    SameEngines s (l.foldl f s) :=
  fun k => foldl_keeps (fun s => (s.core k).engines) (fun s x => hf s x k) l s

theorem of_cores (h : t.cores = s.cores) : SameEngines s t := fun k => by rw [State.core, h, State.core]

theorem modCore {k : Nat} {f : Core → Core} (hf : ∀ c, (f c).engines = c.engines) : SameEngines s (s.modCore k f) := by
  intro j
  rw [core_modCore]
  split
  next hj => rw [hf, hj]
  · exact Eq.refl _

section
variable (he : SameEngines s t) (k : Nat)
include he

theorem hasp : (t.core k).hasp = (s.core k).hasp := (congrArg Core.hasp (he k) :)
theorem bulks : (t.core k).bulks = (s.core k).bulks := (congrArg Core.bulks (he k) :)
theorem nextId : (t.core k).nextId = (s.core k).nextId := (congrArg Core.nextId (he k) :)
theorem haspFree : (t.core k).haspFree = (s.core k).haspFree := by rw [Core.haspFree, he.hasp, Core.haspFree]

end

theorem place (core hint mt pa : Nat) : SameEngines s (s.place core hint mt pa) := by
  unfold State.place
  split
  · exact rfl
  · extract_lets v
    have hv : SameEngines s v := of_cores (Eq.refl _)
    split
    · exact hv
    · exact hv.trans (modCore fun _ => Eq.refl _)

theorem touch (core : Nat) (cx : Ctx) (va : Nat) (w : Bool) (hint : Nat) : SameEngines s (s.touch core cx va w hint) := by
  unfold State.touch
  split
  · exact rfl
  next e _ =>
    refine (place core hint (bitsN e.pte.toNat 7 6) (bitsN e.pte.toNat 51 18 * 2 ^ 18 + (va - e.va))).trans ?_
    extract_lets v old new v' add v''
    have hv : SameEngines v v' := of_cores (Eq.refl _)
    split
    · exact hv
    · have hv' : SameEngines v' v'' := modCore fun _ => Eq.refl _
      exact (hv.trans hv').trans (of_cores (Eq.refl _))

end SameEngines

/-- What looks at neither memory, nor its poison, nor the last-level cache sees no write. -/
theorem physWrite_keeps {γ : Type} (π : State → γ) (hπ : ∀ (s : State) mem hostMem domMem poison llc,
    π { s with mem := mem, hostMem := hostMem, domMem := domMem, poison := poison, llc := llc } = π s) (s : State) (mt pa n x : Nat) :
    π (s.physWrite mt pa n x) = π s := by
  have hllc (pa : Nat) : π (s.llcWrite pa n) = π s := by
    unfold State.llcWrite
    split
    · rfl
    · exact hπ s s.mem s.hostMem s.domMem s.poison _
  unfold State.physWrite
  split
  · refine (hπ _ _ _ _ _ _).trans ?_
    split
    · exact hllc pa
    · rfl
  · split
    · exact hπ s s.mem _ s.domMem s.poison s.llc
    · split
      · rfl
      · split
        · exact (hπ _ _ _ _ _ _).trans (hllc _)
        · exact hπ s s.mem s.hostMem _ s.poison s.llc

theorem physWrite_cores (s : State) (mt pa n x : Nat) : (s.physWrite mt pa n x).cores = s.cores :=
  physWrite_keeps State.cores (fun _ _ _ _ _ _ => rfl) s mt pa n x

theorem SameEngines.vstore (core : Nat) (cx : Ctx) (va n x hint : Nat) : SameEngines s (s.vstore core cx va n x hint) := by
  unfold State.vstore
  split
  · exact (touch _ _ _ _ _).trans (of_cores (physWrite_cores _ _ _ _ _))
  · exact rfl

theorem SameEngines.touches (s : State) (core : Nat) (cx : Ctx) (write : Bool) (hint : Nat) (vas : List Nat) :
    SameEngines s (vas.foldl (fun s a => s.touch core cx a write hint) s) := foldl (fun _ _ => touch _ _ _ _ _) vas s

/-! ## Hasp entries -/

section
variable {core : Nat} {xs : List Hasp} {ids : List Nat}

/-- Ranges have been registered in entries that were free, and nothing else has changed. -/
structure Registered (s t : State) (core n : Nat) (ids : List Nat) : Prop where
  rest : ∃ hasp, t = s.modCore core fun c => { c with hasp := hasp }
  length : ids.length = n
  free : ∀ i ∈ ids, (s.core core).hasp.has i = false
  held : ∀ i ∈ ids, (t.core core).hasp.has i = true

theorem haspAdd_none (hn : (s.core core).haspFree.length < xs.length) : s.haspAdd core xs = none := if_pos hn

theorem haspAdd_some (hn : xs.length ≤ (s.core core).haspFree.length) :
    ∃ ids t, s.haspAdd core xs = some (ids, t) ∧ Registered s t core xs.length ids := by
  have hlen : ((s.core core).haspFree.take xs.length).length = xs.length := by rw [List.length_take, Nat.min_eq_left hn]
  refine ⟨(s.core core).haspFree.take xs.length, _, if_neg (Nat.not_lt.mpr hn), ⟨_, rfl⟩, hlen, fun i hi => ?_, fun i hi => ?_⟩
  · simpa using (List.mem_filter.mp (List.mem_of_mem_take hi)).2
  · rw [core_modCore, if_pos rfl]
    simp only [SMap.has_foldl_set, List.map_fst_zip (Nat.le_of_eq hlen), List.contains_iff_mem.mpr hi, Bool.true_or]

namespace Registered

variable {n : Nat} (hreg : Registered s t core n ids)
include hreg

theorem frame : Frame h s t p := by
  obtain ⟨hasp, rfl⟩ := hreg.rest
  exact .of_eq .rfl rfl rfl rfl

theorem frags : t.frags = s.frags := by
  obtain ⟨hasp, rfl⟩ := hreg.rest
  rfl

theorem sameButCaches : SameButCaches s t := by
  obtain ⟨hasp, rfl⟩ := hreg.rest
  exact .l1 _ _ fun _ => rfl

end Registered

/-- Entries that are dropped are free. -/
theorem haspDrop_free {i : Nat} (hi : i ∈ ids) : ((s.haspDrop core ids).core core).hasp.has i = false := by
  rw [State.haspDrop, core_modCore, if_pos rfl, SMap.has_foldl_erase, List.contains_iff_mem.mpr hi]
  rfl

end

/-! ## Rows that mark leaf entries -/

theorem SameButCaches.sameMem (h : SameButCaches s t) : SameMem s t :=
  ⟨fun a => congrArg (memByte · a) h.mem, fun a => congrArg (memByte · a) (h.keeps State.hostMem fun _ _ _ => rfl),
    fun a => congrArg (memByte · a) (h.keeps State.domMem fun _ _ _ => rfl), h.poison⟩

/-- A row that reads or checks addresses, and then changes no memory: it has marked the leaf entries of these addresses. -/
theorem Runs.marked {i : Instr} {act : Here → State → SlotResult} {write : Bool} {vas : List Nat} (hr : Runs i h s)
    (he : exec i s = runSlot i act s) (ha : act h s = .done t) (hv : SameButCaches s v)
    (hu : vas.foldl (fun s a => s.touch h.core h.cx a write) v = u) (hframe : Frame h u t noReg) (hfrags : t.frags = u.frags) :
    Marked i h s (t.finish h i) write vas := by
  subst hu
  have hkeeps {γ : Type} (π : State → γ) (hπ : ∀ (s : State) mem tlb2 llc cores,
      π { s with mem := mem, tlb2 := tlb2, llc := llc, cores := cores } = π s) :
      π (vas.foldl (fun s a => s.touch h.core h.cx a write) v) = π s :=
    (touches_keeps v h.core h.cx write 2 vas π hπ).trans (hv.keeps π fun s llc cores => hπ s s.mem s.tlb2 llc cores)
  have hend : Frame h _ (t.finish h i) noReg := hframe.trans (.finish i)
  have hgroups := hkeeps State.groups fun _ _ _ _ _ => rfl
  exact {
    next := hr.completes he ha
    went := hr.wentOn (hfrags.trans (hkeeps State.frags fun _ _ _ _ _ => rfl))
    stored := (Stored.of_sameMem (bs := []) hv.sameMem).trans ((Stored.touches hv 2 vas).sameMem hend.mem)
    regs := fun k g hk => hend.regs k g (hgroups ▸ hk)
    ctxs := hend.ctxs.trans (hkeeps State.ctxs fun _ _ _ _ _ => rfl)
    accs := hend.accs.trans (hkeeps State.accs fun _ _ _ _ _ => rfl) }

theorem finish_cores (s : State) (h : Here) (i : Instr) : (s.finish h i).cores = s.cores := by
  rw [State.finish_rest]
  rfl

theorem finish_core (s : State) (h : Here) (i : Instr) (k : Nat) : (s.finish h i).core k = s.core k := by
  rw [State.core, finish_cores, State.core]

theorem finish_teams (s : State) (h : Here) (i : Instr) : (s.finish h i).teams = s.teams := by
  rw [State.finish_rest]
  rfl

end Machine
end Sys2Proof

end

section
/-! Per-lane copies (spec/10 R212, R213): how the row's slot ends, what its issue leaves, and what becomes of its lines as they land. -/

set_option Elab.async false

namespace Sys2Proof.Machine

variable {s t u : State} {h : Here} {w : EngW} {isOut : Bool} {p : Reg → Bool}

/-! ## How the slot ends -/

/-- Bytes of an element. -/
def cplBytes (w : EngW) : Nat := 4 * 2 ^ (w.imm.toNat % 4)

/-- The check of a lane of a CPL. -/
def State.cplCheck (s : State) (h : Here) (w : EngW) (isOut : Bool) (l : Nat) : Option LaneTrap :=
  s.cplLane h isOut (cplBytes w) (h.src64 w.a 0 l) (h.src32 w.b 0 l)

/-- The scratchpad lines of a CPL's lanes. -/
def cplLines (w : EngW) (h : Here) : List Nat := linesOf ((lanesOf (h.active w.g w.gn)).map fun l => h.src32 w.b 0 l)

/-- The ranges that a CPL of command number `id` registers. -/
def cplRanges (w : EngW) (isOut : Bool) (h : Here) (id : Nat) : List Hasp :=
  let g := span ((lanesOf (h.active w.g w.gn)).map fun l => h.src64 w.a 0 l)
  let s := span ((lanesOf (h.active w.g w.gn)).map fun l => h.src32 w.b 0 l)
  [haspRange isOut 0 (id % 256) h.cx.asid g.1 (g.2 - g.1 + cplBytes w),
    haspScrRange (!isOut) 0 (id % 256) h.cx.asid h.tid s.1 (s.2 - s.1 + cplBytes w)]

/-- A CPL of command number `id` has been issued in entries `ids`, with transfers `xs`. -/
def State.cplIssued (s : State) (h : Here) (id : Nat) (ids : List Nat) (xs : List Xfer) : State :=
  (s.modCore h.core fun c =>
    { c with
      cpls := c.cpls.set id { entries := ids }, xfers := xs.zipIdx.foldl (fun m e => m.set (id + 1 + e.2) e.1) c.xfers
      nextId := id + 1 + xs.length }).modGroup h.gid
    fun g => { g with openCpl := g.openCpl ++ (List.range xs.length).map (id + 1 + ·) }

/-- Scratchpad lines have a further transfer to wait for. -/
def State.awaitLines (s : State) (tid : Nat) (lines : List Nat) : State :=
  s.modTeam tid fun t => { t with absent := lines.foldl (fun m ln => m.setD 0 ln (m.getD 0 ln + 1)) t.absent }

/-- The transfer of command `id` on a scratchpad line, with its lanes' moves. -/
def cplXfer (w : EngW) (isOut : Bool) (h : Here) (id : Nat) (moves : Nat → List (Nat × Nat × Nat)) (ln : Nat) : Xfer :=
  { group := h.gid, frag := h.fid, report := h.report, team := h.tid, cmd := id, isIn := !isOut, line := ln, width := cplBytes w
    moves := moves ln }

/-- What the issue of a CPL makes of the state in which its addresses have been used: one transfer a line, and the lines of a CPL.in are
absent. -/
def State.cplDone (s : State) (w : EngW) (isOut : Bool) (h : Here) (id : Nat) (ids : List Nat) (moves : Nat → List (Nat × Nat × Nat)) :
    State :=
  let t := s.cplIssued h id ids ((cplLines w h).map (cplXfer w isOut h id moves))
  if isOut then t else t.awaitLines h.tid (cplLines w h)

theorem cplSlot_busy (hb : s.sideBusy h = true) : cplSlot w isOut h s = .stall := if_pos hb

section
variable (hb : s.sideBusy h = false)
include hb

theorem cplSlot_idle (hact : h.active w.g w.gn = 0) : cplSlot w isOut h s = .done s := by
  have hnil : (lanesOf 0).isEmpty = true := by decide
  simp only [cplSlot, hb, hact, hnil, Bool.false_eq_true, if_false, if_true]

variable (hact : h.active w.g w.gn ≠ 0)
include hact

theorem cplSlot_trap {r : RecInfo} (hp : pickTrap (failing (h.active w.g w.gn) (s.cplCheck h w isOut)) = some r) :
    cplSlot w isOut h s = .trap r := by
  have hne := lanesOf_ne_nil hact
  unfold State.cplCheck cplBytes at hp
  simp [cplSlot, hb, hne, Here.addr64, hp]

variable (hok : ∀ l ∈ lanesOf (h.active w.g w.gn), s.cplCheck h w isOut l = none)
include hok

/-- A line of a CPL.in that has as many transfers in flight as it may have makes it wait. -/
theorem cplSlot_lineFull (hin : isOut = false) (hfull : ∃ ln ∈ cplLines w h, 15 ≤ h.t.absent.getD 0 ln) :
    cplSlot w isOut h s = .stall := by
  have hne := lanesOf_ne_nil hact
  have hp := pickTrap_failing_none hok
  have hany : ((cplLines w h).any fun ln => decide (15 ≤ h.t.absent.getD 0 ln)) = true := by simpa using hfull
  subst hin
  unfold State.cplCheck cplBytes at hp
  unfold cplLines at hany
  simp [cplSlot, hb, hne, Here.addr64, hp, hany]

theorem cplSlot_tableFull (hfree : (s.core h.core).haspFree.length < 2) : cplSlot w isOut h s = .stall := by
  have hne := lanesOf_ne_nil hact
  have hp := pickTrap_failing_none hok
  unfold State.cplCheck cplBytes at hp
  have hnone (x y : Hasp) : s.haspAdd h.core [x, y] = none := haspAdd_none hfree
  simp [cplSlot, hb, hne, Here.addr64, hp, hnone]

/-- A CPL that finds its entries and room at its lines is issued. -/
theorem cplSlot_issues (hroom : isOut = false → ∀ ln ∈ cplLines w h, h.t.absent.getD 0 ln < 15)
    (hfree : 2 ≤ (s.core h.core).haspFree.length) :
    ∃ ids v moves, Registered s v h.core 2 ids ∧ cplSlot w isOut h s = .done
      ((((lanesOf (h.active w.g w.gn)).map fun l => h.src64 w.a 0 l).foldl (fun s a => s.touch h.core h.cx a isOut) v).cplDone
        w isOut h (s.core h.core).nextId ids moves) := by
  have hne : (lanesOf (h.active w.g w.gn)).isEmpty = false := by simpa using lanesOf_ne_nil hact
  have hp := pickTrap_failing_none hok
  have hany : (!isOut && (cplLines w h).any fun ln => decide (15 ≤ h.t.absent.getD 0 ln)) = false := by
    cases isOut with
    | true => rfl
    | false => exact any_eq_false_of fun ln hln => decide_eq_false (Nat.not_le.mpr (hroom rfl ln hln))
  obtain ⟨ids, v, hadd, hreg⟩ := haspAdd_some (xs := cplRanges w isOut h (s.core h.core).nextId) hfree
  unfold State.cplCheck cplBytes at hp
  unfold cplRanges cplBytes at hadd
  unfold cplLines at hany
  have haddr : h.addr64 w.a = fun l => h.src64 w.a 0 l := rfl
  exact ⟨ids, v, _, hreg, by
    simp only [cplSlot, haddr, hb, hne, hp, hany, hadd, Bool.false_eq_true, if_false, List.foldl_map]
    rfl⟩

end

/-! ## What the issue leaves -/

/-- Counts that are raised at different keys. -/
theorem getD_raised {l : List Nat} (hl : l.Nodup) (m : SMap Nat) (j : Nat) :
    (l.foldl (fun m k => m.setD 0 k (m.getD 0 k + 1)) m).getD 0 j = m.getD 0 j + if j ∈ l then 1 else 0 := by
  induction l generalizing m with
  | nil => simp
  | cons k l ih =>
    obtain ⟨hk, hl⟩ := List.nodup_cons.mp hl
    rw [List.foldl_cons, ih hl, SMap.getD_setD]
    by_cases hjk : j = k
    · subst hjk
      simp [hk]
    · simp [hjk]

section
variable (s w isOut h) (id : Nat) (ids : List Nat) (moves : Nat → List (Nat × Nat × Nat))

theorem cplDone_frags : (s.cplDone w isOut h id ids moves).frags = s.frags := by cases isOut <;> rfl

theorem cplDone_cores : (s.cplDone w isOut h id ids moves).cores =
    (s.cplIssued h id ids ((cplLines w h).map (cplXfer w isOut h id moves))).cores := by cases isOut <;> rfl

theorem cplDone_frame : Frame h s (s.cplDone w isOut h id ids moves) noReg := by
  have hissued (xs : List Xfer) : Frame h s (s.cplIssued h id ids xs) noReg :=
    (Frame.of_eq .rfl rfl rfl rfl : Frame h s (s.modCore h.core _) noReg).trans (.modGroup fun _ => .rfl)
  cases isOut with
  | true => exact hissued _
  | false => exact (hissued _).trans .modTeam

/-- A CPL.out raises no line's count. -/
theorem cplDone_out : (s.cplDone w true h id ids moves).teams = s.teams := rfl

/-- A CPL.in raises its lines' counts, once each. -/
theorem cplDone_in {t : Team} (ht : s.teams.get? h.tid = some t) : ∃ x, (s.cplDone w false h id ids moves).teams.get? h.tid = some x ∧
    x.scr = t.scr ∧ ∀ ln, x.absent.getD 0 ln = t.absent.getD 0 ln + if ln ∈ cplLines w h then 1 else 0 :=
  ⟨_, modTeam_team (s := s.cplIssued h id ids _) ht, rfl, getD_raised (List.nodup_dedup _) t.absent⟩

end

/-- An issued CPL has its command, with two entries that were free, and a transfer for each of its lines. -/
theorem cplDone_issued {v u : State} {id : Nat} {ids : List Nat} {moves : Nat → List (Nat × Nat × Nat)}
    (hreg : Registered s v h.core 2 ids) (hu : SameEngines v u) (ht : t.cores = (u.cplDone w isOut h id ids moves).cores) :
    (∃ c, (t.core h.core).cpls.get? id = some c ∧ c.entries.length = 2 ∧ ∀ k ∈ c.entries, (s.core h.core).hasp.has k = false ∧
      (t.core h.core).hasp.has k = true) ∧
    ∀ k ln, (cplLines w h)[k]? = some ln → ∃ x, (t.core h.core).xfers.get? (id + 1 + k) = some x ∧ x.cmd = id ∧ x.isIn = !isOut ∧
      x.line = ln ∧ x.width = cplBytes w ∧ x.team = h.tid := by
  have hcore : t.core h.core = (u.cplIssued h id ids ((cplLines w h).map (cplXfer w isOut h id moves))).core h.core := by
    rw [State.core, ht, cplDone_cores, State.core]
  rw [hcore, State.cplIssued, State.core, State.modGroup_cores, ← State.core, core_modCore, if_pos rfl]
  refine ⟨⟨_, SMap.get?_set_self _ _ _, hreg.length, fun k hk => ⟨hreg.free k hk, ?_⟩⟩, fun k ln hln => ?_⟩
  · exact (hu.hasp h.core).symm ▸ hreg.held k hk
  · exact ⟨cplXfer w isOut h id moves ln, SMap.get?_foldl_set_zipIdx _ (by rw [List.getElem?_map, hln]; rfl), rfl, rfl, rfl, rfl, rfl⟩

/-! ## A line that lands -/

section
variable (s) (tid mt pa off n : Nat)

theorem markScr_scr (t : Team) : (t.markScr off n).scr = t.scr := by
  unfold Team.markScr
  split <;> rfl

theorem markScr_absent (t : Team) : (t.markScr off n).absent = t.absent := by
  unfold Team.markScr
  split <;> rfl

/-- A move into the scratchpad changes teams and the Hinges' copies. -/
theorem copyIn_keeps {γ : Type} (π : State → γ)
    (hπ : ∀ (s : State) hinges teams, π { s with hinges := hinges, teams := teams } = π s) :
    π (s.copyIn tid mt pa off n) = π s := by
  unfold State.copyIn State.dropCopies
  split
  · exact hπ s s.hinges _
  · exact hπ s _ _

theorem copyIn_team {t : Team} (ht : s.teams.get? tid = some t) : ∃ x, (s.copyIn tid mt pa off n).teams.get? tid = some x ∧
    x.scr = writeLE t.scr off n (s.physRead mt pa n) ∧ x.absent = t.absent := by
  have hdrop : (s.dropCopies tid [off / 128]).teams.get? tid = some t := by
    unfold State.dropCopies
    split <;> exact ht
  exact ⟨_, modTeam_team hdrop, foldl_keeps Team.scr (fun t _ => markScr_scr _ _ t) _ _,
    foldl_keeps Team.absent (fun t _ => markScr_absent _ _ t) _ _⟩

theorem markPoison_keeps {γ : Type} (π : State → γ) (hπ : ∀ (s : State) poison, π { s with poison := poison } = π s) :
    π (s.markPoison mt pa n) = π s := by
  unfold State.markPoison
  split
  · rfl
  · exact hπ s _

/-- A move out of the scratchpad changes memory, its poison and the last-level cache. -/
theorem copyOut_keeps {γ : Type} (π : State → γ) (hπ : ∀ (s : State) mem hostMem domMem poison llc,
    π { s with mem := mem, hostMem := hostMem, domMem := domMem, poison := poison, llc := llc } = π s) :
    π (s.copyOut tid mt pa off n) = π s := by
  unfold State.copyOut
  split
  · rfl
  · exact (foldl_keeps π (fun s _ => markPoison_keeps s _ _ _ π fun s p => hπ s s.mem s.hostMem s.domMem p s.llc) _ _).trans
      (physWrite_keeps π hπ s mt pa n _)

theorem readLE_copyOut {t : Team} (ht : s.teams.get? tid = some t) (hmt : mt < 2) :
    readLE (s.copyOut tid mt pa off n).mem pa n = readLE t.scr off n % 256 ^ n := by
  unfold State.copyOut
  simp only [ht]
  rw [foldl_keeps State.mem (fun s _ => markPoison_keeps s _ _ _ State.mem fun _ _ => rfl)]
  unfold State.physWrite
  rw [if_pos hmt]
  exact readLE_writeLE _ _ _ _

theorem noteLostWrite_keeps {γ : Type} (π : State → γ) (hπ : ∀ (s : State) groups, π { s with groups := groups } = π s)
    (gid fid va : Nat) (r : Report) : π (s.noteLostWrite gid fid r mt pa va) = π s := by
  unfold State.noteLostWrite
  split
  · exact hπ s _
  · rfl

end

/-- One move of a transfer. -/
def State.moveBytes (s : State) (x : Xfer) (m : Nat × Nat × Nat) : State :=
  if x.isIn then s.copyIn x.team m.1 m.2.1 m.2.2 x.width
  else (s.noteLostWrite x.group x.frag x.report m.1 m.2.1 0).copyOut x.team m.1 m.2.1 m.2.2 x.width

/-- A transfer has landed: its moves are done, and it is no longer in flight. -/
def State.lineLanded (s : State) (core id : Nat) (x : Xfer) : State :=
  let s := (x.moves.foldl (fun s m => s.moveBytes x m) s).modCore core fun c => { c with xfers := c.xfers.erase id }
  if x.isIn then
    (s.modTeam x.team fun t => { t with absent := t.absent.setD 0 x.line (t.absent.getD 0 x.line - 1) }).wakeAbsent core
  else s

/-- A command has ended: its entries are free. -/
def State.cplEnded (s : State) (core cmd : Nat) : State :=
  (s.haspDrop core (match (s.core core).cpls.get? cmd with | some c => c.entries | none => [])).modCore core fun c =>
    { c with cpls := c.cpls.erase cmd }

/-- A command whose last transfer has landed ends. -/
def State.endedWhenLast (s : State) (core cmd : Nat) : State :=
  if (s.core core).xfers.any fun e => e.2.cmd == cmd then s else s.cplEnded core cmd

section
variable {core id : Nat} {x : Xfer}

theorem exec_cplLineLand {t : Team} (hx : (s.core core).xfers.get? id = some x) (ht : s.teams.get? x.team = some t)
    (hgood : x.isIn = true ∨ (t.absent.has x.line = false ∧ ∀ m ∈ x.moves, s.partPoisoned m.1 m.2.1 x.width = false)) :
    exec (.cplLineLand core id) s = .next ((s.lineLanded core id x).endedWhenLast core x.cmd) := by
  have hhere : (x.isIn || !t.absent.has x.line) = true := by
    rcases hgood with hin | ⟨habs, -⟩
    · rw [hin, Bool.true_or]
    · rw [habs, Bool.not_false, Bool.or_true]
  have hlost : (!x.isIn && x.moves.any fun m => s.partPoisoned m.1 m.2.1 x.width) = false := by
    rcases hgood with hin | ⟨-, hgood⟩
    · rw [hin, Bool.not_true, Bool.false_and]
    · rw [List.any_eq_false.mpr fun m hm => Bool.eq_false_iff.mp (hgood m hm), Bool.and_false]
  change execCplLineLand core id s = _
  simp only [execCplLineLand, hx, ht, hhere, hlost, Bool.not_true, Bool.false_eq_true, if_false]
  unfold State.endedWhenLast
  exact (apply_ite Host.Outcome.next _ _ _).symm

/-! What a landing leaves of the rest. -/

theorem endedWhenLast_keeps {γ : Type} (π : State → γ) (hπ : ∀ (s : State) cores, π { s with cores := cores } = π s) (s : State)
    (core cmd : Nat) : π (s.endedWhenLast core cmd) = π s := by
  unfold State.endedWhenLast State.cplEnded State.haspDrop State.modCore
  split
  · rfl
  · exact (hπ _ _).trans (hπ _ _)

theorem wakeAbsent_keeps {γ : Type} (π : State → γ) (hπ : ∀ (s : State) frags, π { s with frags := frags } = π s) (s : State)
    (core : Nat) :
    π (s.wakeAbsent core) = π s := foldl_keeps π (fun s _ => hπ s _) _ s

/-- A line that lands in the scratchpad changes teams, the Hinges' copies, the core and fragments that waited. -/
theorem lineLanded_in_keeps (hin : x.isIn = true) {γ : Type} (π : State → γ) (hπ : ∀ (s : State) hinges teams cores frags,
    π { s with hinges := hinges, teams := teams, cores := cores, frags := frags } = π s) : π (s.lineLanded core id x) = π s := by
  simp only [State.lineLanded, State.moveBytes, hin, if_true]
  exact ((wakeAbsent_keeps π (fun s f => hπ s s.hinges s.teams s.cores f) _ _).trans (hπ _ _ _ _ _)).trans
    ((hπ _ _ _ _ _).trans (foldl_keeps π (fun s m => copyIn_keeps s _ _ _ _ _ π fun s k t => hπ s k t s.cores s.frags) _ s))

/-- A line that lands in memory changes memory, the last-level cache, the core and what its group has lost. -/
theorem lineLanded_out_keeps (hout : x.isIn = false) {γ : Type} (π : State → γ)
    (hπ : ∀ (s : State) mem hostMem domMem poison llc cores groups, π { s with mem := mem, hostMem := hostMem, domMem := domMem
                                                                               poison := poison, llc := llc, cores := cores
                                                                               groups := groups } = π s) :
    π (s.lineLanded core id x) = π s := by
  simp only [State.lineLanded, State.moveBytes, hout, Bool.false_eq_true, if_false]
  refine (hπ _ _ _ _ _ _ _ _).trans (foldl_keeps π (fun s m => ?_) _ s)
  exact (copyOut_keeps _ _ _ _ _ _ π fun s m hm d p l => hπ s m hm d p l s.cores s.groups).trans
    (noteLostWrite_keeps _ _ _ π (fun s g => hπ s s.mem s.hostMem s.domMem s.poison s.llc s.cores g) _ _ _ _)

theorem lineLanded_core : (s.lineLanded core id x).core core = { s.core core with xfers := (s.core core).xfers.erase id } := by
  have hmoves : (x.moves.foldl (fun s m => s.moveBytes x m) s).core core = s.core core := by
    refine foldl_keeps (fun s => s.core core) (fun s m => ?_) _ s
    unfold State.moveBytes
    split
    · exact copyIn_keeps _ _ _ _ _ _ (fun s => s.core core) fun _ _ _ => rfl
    · exact (copyOut_keeps _ _ _ _ _ _ (fun s => s.core core) fun _ _ _ _ _ _ => rfl).trans
        (noteLostWrite_keeps _ _ _ (fun s => s.core core) (fun _ _ => rfl) _ _ _ _)
  unfold State.lineLanded
  extract_lets v
  have hv : v.core core = { s.core core with xfers := (s.core core).xfers.erase id } := by
    rw [core_modCore, if_pos rfl, hmoves]
  split
  · exact (wakeAbsent_keeps (fun s => s.core core) (fun _ _ => rfl) _ _).trans hv
  · exact hv

/-- The line of a move that has landed waits for one transfer fewer, and a single move's bytes are the source's. -/
theorem lineLanded_in_team {t : Team} (hin : x.isIn = true) (ht : s.teams.get? x.team = some t) :
    ∃ u, (s.lineLanded core id x).teams.get? x.team = some u ∧ u.absent.getD 0 x.line = t.absent.getD 0 x.line - 1 ∧
      ∀ m, x.moves = [m] → readLE u.scr m.2.2 x.width = s.physRead m.1 m.2.1 x.width % 256 ^ x.width := by
  have hmoves (l : List (Nat × Nat × Nat)) : ∃ u, (l.foldl (fun s m => s.moveBytes x m) s).teams.get? x.team = some u ∧
      u.absent = t.absent ∧ ∀ m, l = [m] → u.scr = writeLE t.scr m.2.2 x.width (s.physRead m.1 m.2.1 x.width) := by
    have hmove (s : State) (m) : s.moveBytes x m = s.copyIn x.team m.1 m.2.1 m.2.2 x.width := if_pos hin
    induction l using List.reverseRecOn with
    | nil => exact ⟨t, ht, rfl, fun m hm => by cases hm⟩
    | append_singleton l m ih =>
      obtain ⟨v, hv, habs, -⟩ := ih
      obtain ⟨u, hu, hscr, habs'⟩ := copyIn_team _ x.team m.1 m.2.1 m.2.2 x.width hv
      rw [List.foldl_append, List.foldl_cons, List.foldl_nil, hmove]
      refine ⟨u, hu, habs'.trans habs, fun m' hm' => ?_⟩
      obtain ⟨rfl, hm'⟩ := List.append_eq_singleton_iff.mp hm' |>.resolve_right fun h => by cases h.2
      cases hm'
      obtain rfl : t = v := Option.some.inj (ht.symm.trans hv)
      exact hscr
  obtain ⟨v, hv, habs, hscr⟩ := hmoves x.moves
  simp only [State.lineLanded, hin, if_true]
  refine ⟨_, (wakeAbsent_keeps (fun s => s.teams.get? x.team) (fun _ _ => rfl) _ _).trans (modTeam_team hv), ?_, fun m hm => ?_⟩
  · rw [SMap.getD_setD_self, habs]
  · rw [hscr m hm]
    exact readLE_writeLE _ _ _ _

theorem lineLanded_out_mem {t : Team} {m : Nat × Nat × Nat} (hout : x.isIn = false) (ht : s.teams.get? x.team = some t)
    (hm : x.moves = [m]) (hmt : m.1 < 2) : readLE (s.lineLanded core id x).mem m.2.1 x.width = readLE t.scr m.2.2 x.width % 256 ^ x.width := by
  simp only [State.lineLanded, State.moveBytes, hout, hm, Bool.false_eq_true, if_false]
  refine readLE_copyOut _ _ _ _ _ _ ?_ hmt
  exact (noteLostWrite_keeps _ _ _ (fun s => s.teams.get? x.team) (fun _ _ => rfl) _ _ _ _).trans ht

theorem endedWhenLast_xfers (s : State) (core cmd : Nat) : ((s.endedWhenLast core cmd).core core).xfers = (s.core core).xfers := by
  unfold State.endedWhenLast
  split
  · rfl
  · rw [State.cplEnded, core_modCore, if_pos rfl, State.haspDrop, core_modCore, if_pos rfl]

/-- A command has no transfer in flight but the one that lands. -/
def Core.lastXfer (c : Core) (id cmd : Nat) : Prop := ∀ k y, k ≠ id → c.xfers.get? k = some y → y.cmd ≠ cmd

/-- The last transfer of a command frees its entries. -/
theorem endedWhenLast_free {c : CplCmd} (hcore : u.core core = { s.core core with xfers := (s.core core).xfers.erase id })
    (hc : (s.core core).cpls.get? x.cmd = some c) (hlast : (s.core core).lastXfer id x.cmd) (hwf : (s.core core).xfers.wf = true) :
    ((u.endedWhenLast core x.cmd).core core).cpls.get? x.cmd = none ∧
      ∀ k ∈ c.entries, ((u.endedWhenLast core x.cmd).core core).hasp.has k = false := by
  have hnone : ((u.core core).xfers.any fun e => e.2.cmd == x.cmd) = false := by
    simp only [hcore]
    refine List.any_eq_false.mpr fun e he => ?_
    have hget := SMap.get?_of_mem (SMap.wf_erase id hwf) he
    rw [SMap.get?_erase] at hget
    split at hget
    · cases hget
    next hk => rw [beq_false_of_ne (hlast e.1 e.2 hk hget)]; exact Bool.false_ne_true
  have hcpl : (u.core core).cpls.get? x.cmd = some c := by rw [hcore, hc]
  unfold State.endedWhenLast State.cplEnded
  simp only [hnone, hcpl, Bool.false_eq_true, if_false, core_modCore, if_true]
  exact ⟨by rw [SMap.get?_erase, if_pos rfl], fun k hk => haspDrop_free hk⟩

end
/-! ## The row -/

/-- The command that a CPL issues is in flight in `t`, with two Hasp entries that were free in `s` and one transfer for each line. -/
def CplInFlight (s t : State) (w : EngW) (isOut : Bool) (h : Here) : Prop :=
  let id := (s.core h.core).nextId
  (∃ c, (t.core h.core).cpls.get? id = some c ∧ c.entries.length = 2 ∧ ∀ k ∈ c.entries, (s.core h.core).hasp.has k = false ∧
    (t.core h.core).hasp.has k = true) ∧
  ∀ k ln, (cplLines w h)[k]? = some ln → ∃ x, (t.core h.core).xfers.get? (id + 1 + k) = some x ∧ x.cmd = id ∧ x.isIn = !isOut ∧
    x.line = ln ∧ x.width = cplBytes w ∧ x.team = h.tid

/-- A CPL whose lanes pass their checks, with room at its lines and in the Hasp table, marks the entries that it uses and is in flight. -/
theorem Runs.cpl_issues {i : Instr} (hr : Runs i h s) (he : exec i s = runSlot i (cplSlot w isOut) s) (hb : s.sideBusy h = false)
    (hact : h.active w.g w.gn ≠ 0) (hok : ∀ l ∈ lanesOf (h.active w.g w.gn), s.cplCheck h w isOut l = none)
    (hroom : isOut = false → ∀ ln ∈ cplLines w h, h.t.absent.getD 0 ln < 15) (hfree : 2 ≤ (s.core h.core).haspFree.length) :
    ∃ (t u : State) (id : Nat) (ids : List Nat) (moves : Nat → List (Nat × Nat × Nat)),
      Marked i h s t isOut ((lanesOf (h.active w.g w.gn)).map fun l => h.src64 w.a 0 l) ∧ CplInFlight s t w isOut h ∧
      u.teams = s.teams ∧ t.teams = (u.cplDone w isOut h id ids moves).teams := by
  obtain ⟨ids, v, moves, hreg, hslot⟩ := cplSlot_issues hb hact hok hroom hfree
  refine ⟨_, _, _, ids, moves, hr.marked he hslot hreg.sameButCaches rfl (cplDone_frame _ _ _ _ _ _ _) (cplDone_frags _ _ _ _ _ _ _),
    cplDone_issued hreg (.touches _ _ _ _ _ _) (finish_cores _ h i), ?_, finish_teams _ h i⟩
  exact (touches_keeps v h.core h.cx isOut 2 _ State.teams fun _ _ _ _ _ => rfl).trans
    (hreg.sameButCaches.keeps State.teams fun _ _ _ => rfl)

/-- How a CPL's slot ends otherwise. -/
theorem Runs.cpl_waits_or_traps {i : Instr} (hr : Runs i h s) (he : exec i s = runSlot i (cplSlot w isOut) s) :
    (s.sideBusy h = true → Stalls i h s) ∧
    (s.sideBusy h = false → h.active w.g w.gn = 0 → CompletesQuiet i h s s noReg) ∧
    (∀ r, s.sideBusy h = false → h.active w.g w.gn ≠ 0 → pickTrap (failing (h.active w.g w.gn) (s.cplCheck h w isOut)) = some r →
      Traps i h s r) ∧
    (s.sideBusy h = false → (h.active w.g w.gn ≠ 0 ∧ ∀ l ∈ lanesOf (h.active w.g w.gn), s.cplCheck h w isOut l = none) →
      (s.core h.core).haspFree.length < 2 → Stalls i h s) :=
  ⟨fun hb => hr.stalls he (cplSlot_busy hb), fun hb hact => hr.completesQuiet he (cplSlot_idle hb hact) .rfl,
    fun _ hb hact hp => hr.traps he (cplSlot_trap hb hact hp), fun hb hok hfree => hr.stalls he (cplSlot_tableFull hb hok.1 hok.2 hfree)⟩

end Sys2Proof.Machine

open Sys2Proof Sys2Proof.Machine

/-- Settles O33: how each row's slot ends, with what its issue leaves; then, by the direction of the transfer, what its landing leaves. -/
theorem laneCopies : Obligations.LaneCopies := by
  unfold Obligations.LaneCopies
  refine ⟨fun s h w => ⟨fun e he hr => ?_, fun hr hb hok => ⟨fun hfull => ?_, fun hroom hfree => ?_⟩, fun hr hb hok hfree => ?_⟩,
    fun s core id x t hx ht hgood => ?_⟩
  · obtain rfl | rfl : e = (.cplIn w, false) ∨ e = (.cplOut w, true) := by simpa using he
    · exact hr.cpl_waits_or_traps rfl
    · exact hr.cpl_waits_or_traps rfl
  · exact hr.stalls rfl (cplSlot_lineFull hb hok.1 hok.2 rfl hfull)
  · obtain ⟨t, u, id, ids, moves, hmark, hfly, hteams, ht⟩ := hr.cpl_issues rfl hb hok.1 hok.2 (fun _ => hroom) hfree
    obtain ⟨-, -, -, -, hteam, -⟩ := here_spec hr.here
    obtain ⟨x, hx, hscr, habs⟩ := cplDone_in u h w id ids moves (hteams ▸ hteam)
    exact ⟨t, x, hmark, hfly, ht ▸ hx, hscr, habs⟩
  · obtain ⟨t, u, id, ids, moves, hmark, hfly, hteams, ht⟩ := hr.cpl_issues rfl hb hok.1 hok.2 nofun hfree
    exact ⟨t, hmark, hfly, ht.trans ((cplDone_out u h w id ids moves).trans hteams)⟩
  · have hcore : (s.lineLanded core id x).core core = { s.core core with xfers := (s.core core).xfers.erase id } := lineLanded_core
    have hkeep {γ : Type} (π : State → γ) (hπ : ∀ (s : State) cores, π { s with cores := cores } = π s) :
        π ((s.lineLanded core id x).endedWhenLast core x.cmd) = π (s.lineLanded core id x) := endedWhenLast_keeps π hπ _ _ _
    have hgone : (((s.lineLanded core id x).endedWhenLast core x.cmd).core core).xfers.get? id = none := by
      rw [endedWhenLast_xfers, hcore, SMap.get?_erase, if_pos rfl]
    have hend (c : CplCmd) (hc : (s.core core).cpls.get? x.cmd = some c) (hlast : (s.core core).lastXfer id x.cmd)
        (hwf : (s.core core).xfers.wf = true) := endedWhenLast_free hcore hc hlast hwf
    cases hdir : x.isIn with
    | true =>
      obtain ⟨u, hu, habs, hbytes⟩ := lineLanded_in_team (core := core) (id := id) hdir ht
      refine ⟨_, u, exec_cplLineLand hx ht hgood, hgone, (hkeep (fun s => s.teams.get? x.team) fun _ _ => rfl).trans hu,
        fun _ => ⟨?_, ?_, habs, hbytes⟩, nofun, hend⟩
      · exact (hkeep State.mem fun _ _ => rfl).trans (lineLanded_in_keeps hdir State.mem fun _ _ _ _ _ => rfl)
      · exact (hkeep State.hostMem fun _ _ => rfl).trans (lineLanded_in_keeps hdir State.hostMem fun _ _ _ _ _ => rfl)
    | false =>
      have hteam : (s.lineLanded core id x).teams.get? x.team = some t :=
        (lineLanded_out_keeps hdir (fun s => s.teams.get? x.team) fun _ _ _ _ _ _ _ _ => rfl).trans ht
      refine ⟨_, t, exec_cplLineLand hx ht hgood, hgone, (hkeep (fun s => s.teams.get? x.team) fun _ _ => rfl).trans hteam, nofun,
        fun _ => ⟨rfl, fun m hm hmt => ?_⟩, hend⟩
      rw [hkeep State.mem fun _ _ => rfl]
      exact lineLanded_out_mem hdir ht hm hmt

end

section
/-! Seals and bulk copies (spec/10 R214, R223, R224): the batch that a CPSEAL makes and its stamp, how a BCPY's slot ends, and what
becomes of the copy when it is whole. -/

set_option Elab.async false

namespace Sys2Proof.Machine

variable {s t u v : State} {h : Here} {w : EngW} {r : RecInfo}

/-! ## Seals -/

/-- The group's unsealed copies are a batch. -/
def State.sealed (s : State) (h : Here) (w : EngW) : State :=
  (s.modCore h.core fun c =>
    { c with
      seals := c.seals.set c.nextId { group := h.gid, ctx := h.t.ctx, xfers := h.g.openCpl, addr := (h.srcS w.a).toNat, value := h.srcS w.b,
                                      scope := w.imm.toNat % 8 }
      nextId := c.nextId + 1 }).modGroup h.gid fun g => { g with openCpl := [] }

/-- How a CPSEAL's slot ends. -/
def sealSlot (w : EngW) (h : Here) (s : State) : SlotResult :=
  if s.sideBusy h then .stall
  else match s.stampTrap h (h.srcS w.a).toNat with
  | some r => .trap r
  | none => .done (s.sealed h w)

theorem exec_cpseal (w : EngW) (s : State) : exec (.cpseal w) s = runSlot (.cpseal w) (sealSlot w) s := rfl

theorem sealSlot_trap (hb : s.sideBusy h = false) (ht : s.stampTrap h (h.srcS w.a).toNat = some r) : sealSlot w h s = .trap r := by
  simp only [sealSlot, hb, ht, Bool.false_eq_true, if_false]

theorem sealSlot_done (hb : s.sideBusy h = false) (ht : s.stampTrap h (h.srcS w.a).toNat = none) :
    sealSlot w h s = .done (s.sealed h w) := by
  simp only [sealSlot, hb, ht, Bool.false_eq_true, if_false]

theorem sealed_frame (s : State) (h : Here) (w : EngW) : Frame h s (s.sealed h w) noReg :=
  (Frame.of_eq .rfl rfl rfl rfl : Frame h s (s.modCore h.core _) noReg).trans (.modGroup fun _ => .rfl)

/-- The group's copies are in a new batch. -/
theorem sealed_batch (s : State) (h : Here) (w : EngW) : ((s.sealed h w).core h.core).seals.get? (s.core h.core).nextId =
    some { group := h.gid, ctx := h.t.ctx, xfers := h.g.openCpl, addr := (h.srcS w.a).toNat, value := h.srcS w.b
           scope := w.imm.toNat % 8 } := by
  rw [State.sealed, State.core, State.modGroup_cores, ← State.core, core_modCore, if_pos rfl]
  exact SMap.get?_set_self _ _ _

section
variable {core : Nat} {c : Ctx}

theorem stampAt_ok {cx va : Nat} {x : W64} {l : Option Nat} (hc : s.ctxs.get? cx = some c) (hf : s.stampFault core c va = none) :
    s.stampAt core cx va x l = .ok (s.vstore core c va 8 x.toNat) := by
  simp only [State.stampAt, hc, hf]
  rfl

/-- A batch that is ready is stamped, and is no batch any more. -/
theorem exec_cpsealStampWrite {id : Nat} {b : SealBatch} (hb : (s.core core).seals.get? id = some b)
    (hready : (s.core core).sealReady id b = true) (hc : s.ctxs.get? b.ctx = some c) (hf : s.stampFault core c b.addr = none) : exec (.cpsealStampWrite core id) s =
      .next ((s.vstore core c b.addr 8 b.value.toNat).modCore core fun c => { c with seals := c.seals.erase id }) := by
  change execCpsealStampWrite core id s = _
  simp only [execCpsealStampWrite, hb, hready, stampAt_ok hc hf, Bool.not_true, Bool.false_eq_true, if_false]

end

/-! ## How a bulk copy's slot ends -/

/-- A descriptor that is refused as RI. -/
def bcpyBad (d : Nat) : Bool :=
  bitsN d 63 56 != 0 || bitsN d 127 120 != 0 || bitsN d 319 312 != 0 || bitsN d 511 387 != 0 || decide (6 ≤ bitsN d 386 384) ||
    (decide (1 < bitsN d 191 160) && decide (bitsN d 255 224 < bitsN d 159 128))

/-- Does a descriptor name any byte? -/
def bcpyMoves (d : Nat) : Bool := bitsN d 191 160 != 0 && bitsN d 159 128 != 0

/-- Bytes from the first to the last of its source, or of its destination: by the field of the pitch. -/
def bcpySpan (d hi lo : Nat) : Nat := (bitsN d 191 160 - 1) * bitsN d hi lo + bitsN d 159 128

/-- Do its two ranges meet? -/
def bcpyMeet (d : Nat) : Bool :=
  bcpyMoves d && decide (bitsN d 55 0 < bitsN d 119 64 + bcpySpan d 255 224) && decide (bitsN d 119 64 < bitsN d 55 0 + bcpySpan d 223 192)

/-- The ranges that a bulk copy of number `id` registers. -/
def bcpyRanges (h : Here) (id d : Nat) : List Hasp :=
  if bcpyMoves d then [haspRange false 1 (id % 256) h.cx.asid (bitsN d 55 0) (bcpySpan d 223 192),
    haspRange true 1 (id % 256) h.cx.asid (bitsN d 119 64) (bcpySpan d 255 224)] else []

/-- A bulk copy as it is queued. -/
def bcpyBulk (h : Here) (d : Nat) (ids : List Nat) : Bulk :=
  { group := h.gid, frag := h.fid, report := h.report, ctx := h.t.ctx, desc := BitVec.ofNat 512 d, entries := ids }

/-- A bulk copy has been queued under number `id`. -/
def State.bulkQueued (s : State) (core id : Nat) (b : Bulk) : State :=
  s.modCore core fun c => { c with bulks := c.bulks.set id b, nextId := id + 1 }

/-- The rest of the slot, once descriptor `d` has been read and `s1` is the state after. -/
def bcpyRest (h : Here) (s s1 : State) (d : Nat) : SlotResult :=
  if bcpyBad d then .trap (h.decodeTrap .ri 5)
  else if bcpyMeet d then .trap { cause := .hasp, detail := 3, lanes := h.f.mask.toNat, addr := bitsN d 55 0 }
  else match s.stampTrap h (bitsN d 311 256) with
  | some r => .trap r
  | none =>
    if bcpyMoves d && meetsAperture (bitsN d 55 0) (bcpySpan d 223 192) then .trap (h.aperTrap (bitsN d 55 0))
    else if bcpyMoves d && meetsAperture (bitsN d 119 64) (bcpySpan d 255 224) then .trap (h.aperTrap (bitsN d 119 64))
    else match s1.haspAdd h.core (bcpyRanges h (s1.core h.core).nextId d) with
    | none => .stall
    | some (ids, u) => .done (u.bulkQueued h.core (s1.core h.core).nextId (bcpyBulk h d ids))

/-- The descriptor of an engine command has been read. -/
def State.descRead (s : State) (h : Here) (va : Nat) : State := s.touch h.core h.cx va false

/-- What it reads. -/
def State.descBits (s : State) (h : Here) (va : Nat) : Nat := (s.descRead h va).vload h.core h.cx va 64

theorem readDesc_ok {va : Nat} (hl : s.laneGlobal h va 64 .read = none) :
    s.readDesc h va = .ok (BitVec.ofNat 512 (s.descBits h va), s.descRead h va) := by
  unfold State.readDesc
  rw [hl]
  rfl

theorem bcpySlot_eq (hb : s.sideBusy h = false) (hl : s.laneGlobal h (h.srcS w.a).toNat 64 .read = none)
    (hp : s.vPoison h.core h.cx (h.srcS w.a).toNat 64 .read = false) :
    bcpySlot w h s = bcpyRest h s (s.descRead h (h.srcS w.a).toNat) (s.descBits h (h.srcS w.a).toNat) := by
  unfold bcpySlot
  simp only [hb, readDesc_ok hl, hp, Bool.false_eq_true, if_false]
  generalize s.descBits h (h.srcS w.a).toNat = d
  simp only [bitsN_ofNat, Nat.reduceLT]
  rfl

/-! The rest of the slot, by what the descriptor says. -/

section
variable {d : Nat}

theorem bcpyBad_iff : bcpyBad d = true ↔ bitsN d 63 56 ≠ 0 ∨ bitsN d 127 120 ≠ 0 ∨ bitsN d 319 312 ≠ 0 ∨
    bitsN d 511 387 ≠ 0 ∨ 6 ≤ bitsN d 386 384 ∨ (1 < bitsN d 191 160 ∧ bitsN d 255 224 < bitsN d 159 128) := by
  simp only [bcpyBad, Bool.or_eq_true, Bool.and_eq_true, bne_iff_ne, decide_eq_true_eq, or_assoc]

theorem bcpyBad_eq_false_iff : bcpyBad d = false ↔ ¬ (bitsN d 63 56 ≠ 0 ∨ bitsN d 127 120 ≠ 0 ∨ bitsN d 319 312 ≠ 0 ∨
    bitsN d 511 387 ≠ 0 ∨ 6 ≤ bitsN d 386 384 ∨ (1 < bitsN d 191 160 ∧ bitsN d 255 224 < bitsN d 159 128)) := by
  rw [← bcpyBad_iff, Bool.not_eq_true]

theorem bcpyMoves_iff : bcpyMoves d = true ↔ bitsN d 191 160 ≠ 0 ∧ bitsN d 159 128 ≠ 0 := by
  simp only [bcpyMoves, Bool.and_eq_true, bne_iff_ne]

theorem bcpyMeet_eq_false_iff : bcpyMeet d = false ↔ bitsN d 191 160 = 0 ∨ bitsN d 159 128 = 0 ∨
    bitsN d 119 64 + bcpySpan d 255 224 ≤ bitsN d 55 0 ∨ bitsN d 55 0 + bcpySpan d 223 192 ≤ bitsN d 119 64 := by
  simp only [bcpyMeet, bcpyMoves, Bool.and_eq_false_iff, bne_eq_false_iff_eq, decide_eq_false_iff_not, Nat.not_lt, or_assoc]

variable {s1 : State}

theorem bcpyRest_bad (hbad : bcpyBad d = true) : bcpyRest h s s1 d = .trap (h.decodeTrap .ri 5) := if_pos hbad

variable (hbad : bcpyBad d = false)
include hbad

theorem bcpyRest_meet (hm : bcpyMeet d = true) :
    bcpyRest h s s1 d = .trap { cause := .hasp, detail := 3, lanes := h.f.mask.toNat, addr := bitsN d 55 0 } := by
  simp only [bcpyRest, hbad, hm, Bool.false_eq_true, if_false, if_true]

variable (hm : bcpyMeet d = false)
include hm

theorem bcpyRest_stampTrap (ht : s.stampTrap h (bitsN d 311 256) = some r) : bcpyRest h s s1 d = .trap r := by
  simp only [bcpyRest, hbad, hm, ht, Bool.false_eq_true, if_false]

variable (ht : s.stampTrap h (bitsN d 311 256) = none)
include ht

theorem bcpyRest_srcAperture (hmv : bcpyMoves d = true) (hs : meetsAperture (bitsN d 55 0) (bcpySpan d 223 192) = true) :
    bcpyRest h s s1 d = .trap (h.aperTrap (bitsN d 55 0)) := by
  simp only [bcpyRest, hbad, hm, ht, hmv, hs, Bool.true_and, Bool.false_eq_true, if_false, if_true]

theorem bcpyRest_dstAperture (hmv : bcpyMoves d = true) (hs : meetsAperture (bitsN d 55 0) (bcpySpan d 223 192) = false)
    (hd : meetsAperture (bitsN d 119 64) (bcpySpan d 255 224) = true) : bcpyRest h s s1 d = .trap (h.aperTrap (bitsN d 119 64)) := by
  simp only [bcpyRest, hbad, hm, ht, hmv, hs, hd, Bool.true_and, Bool.false_eq_true, if_false, if_true]

variable (hclear : bcpyMoves d = true → meetsAperture (bitsN d 55 0) (bcpySpan d 223 192) = false ∧
  meetsAperture (bitsN d 119 64) (bcpySpan d 255 224) = false)
include hclear

theorem bcpyRest_clear : bcpyRest h s s1 d = match s1.haspAdd h.core (bcpyRanges h (s1.core h.core).nextId d) with
    | none => .stall
    | some (ids, u) => .done (u.bulkQueued h.core (s1.core h.core).nextId (bcpyBulk h d ids)) := by
  cases hmv : bcpyMoves d with
  | false => simp only [bcpyRest, hbad, hm, ht, hmv, Bool.false_and, Bool.false_eq_true, if_false]
  | true =>
    obtain ⟨hs, hd⟩ := hclear hmv
    simp only [bcpyRest, hbad, hm, ht, hmv, hs, hd, Bool.true_and, Bool.false_eq_true, if_false]

theorem bcpyRest_tableFull (hmv : bcpyMoves d = true) (hfree : (s1.core h.core).haspFree.length < 2) : bcpyRest h s s1 d = .stall := by
  rw [bcpyRest_clear hbad hm ht hclear, bcpyRanges, if_pos hmv, haspAdd_none hfree]

theorem bcpyRest_queued (hfree : 2 ≤ (s1.core h.core).haspFree.length) : ∃ n ids u, Registered s1 u h.core n ids ∧
    bcpyRest h s s1 d = .done (u.bulkQueued h.core (s1.core h.core).nextId (bcpyBulk h d ids)) := by
  have hlen : (bcpyRanges h (s1.core h.core).nextId d).length ≤ 2 := by
    unfold bcpyRanges
    split
    · exact Nat.le_refl 2
    · exact Nat.zero_le 2
  obtain ⟨ids, u, hadd, hreg⟩ := haspAdd_some (Nat.le_trans hlen hfree)
  refine ⟨_, ids, u, hreg, ?_⟩
  rw [bcpyRest_clear hbad hm ht hclear, hadd]

end

/-! ## The row -/

theorem descRead_engines (s : State) (h : Here) (va : Nat) : SameEngines s (s.descRead h va) := .touch _ _ _ _ _

/-- A bulk copy that nothing refuses, and that finds its entries free, is queued. -/
theorem Runs.bcpy_queues (hr : Runs (.bcpy w) h s) {d : Nat} {ids : List Nat} {n : Nat}
    (hslot : bcpySlot w h s = .done (u.bulkQueued h.core ((s.descRead h (h.srcS w.a).toNat).core h.core).nextId (bcpyBulk h d ids)))
    (hreg : Registered (s.descRead h (h.srcS w.a).toNat) u h.core n ids) : ∃ t b, Marked (.bcpy w) h s t false [(h.srcS w.a).toNat] ∧
      (t.core h.core).bulks.get? (s.core h.core).nextId = some b ∧ b.desc = BitVec.ofNat 512 d ∧ b.group = h.gid ∧ b.ready = false ∧
      b.copied = 0 := by
  rw [(descRead_engines s h _).nextId] at hslot
  have hmark := hr.marked rfl hslot (v := s) (vas := [(h.srcS w.a).toNat]) (write := false) .refl rfl
    (hreg.frame.trans (.of_eq .rfl rfl rfl rfl)) hreg.frags
  refine ⟨_, bcpyBulk h d ids, hmark, ?_, rfl, rfl, rfl, rfl⟩
  rw [finish_core, State.bulkQueued, core_modCore, if_pos rfl]
  exact SMap.get?_set_self _ _ _

/-! ## A copy that is whole -/

theorem enterRing_cores (s : State) (cx : Nat) (c : Ctx) (b : BitVec 512) : (s.enterRing cx c b).cores = s.cores := by
  unfold State.enterRing
  extract_lets seq full v
  exact (State.modCtx_cores _ _ _).trans (physWrite_cores _ _ _ _ _)

theorem postBits_cores (s : State) (cx : Nat) (b : BitVec 512) : (s.postBits cx b).cores = s.cores := by
  unfold State.postBits
  split
  · rfl
  · split
    · rfl
    · exact enterRing_cores _ _ _ _

/-- A stamp leaves the engines as they were, written or not. -/
theorem stampAt_engines (s : State) (core cx va : Nat) (x : W64) (l : Option Nat) :
    (∀ u, s.stampAt core cx va x l = .ok u → SameEngines s u) ∧ ∀ u, s.stampAt core cx va x l = .error u → SameEngines s u := by
  unfold State.stampAt
  split
  · exact ⟨fun u hu => by cases hu; exact .rfl, nofun⟩
  · split
    · exact ⟨fun u hu => by cases hu; exact .vstore _ _ _ _ _ _, nofun⟩
    · simp only []
      split
      · exact ⟨nofun, fun u hu => by cases hu; exact .of_cores rfl⟩
      · exact ⟨fun u hu => by cases hu; exact .of_cores (postBits_cores _ _ _), nofun⟩

/-- Nothing of a core's engines has changed but that some bulk copies are gone. -/
structure FewerBulks (s t : State) (core : Nat) : Prop where
  hasp : (t.core core).hasp = (s.core core).hasp
  bulks : ∀ id b, (t.core core).bulks.get? id = some b → (s.core core).bulks.get? id = some b

namespace FewerBulks

variable {core : Nat}

theorem of_engines (he : SameEngines s t) : FewerBulks s t core := ⟨he.hasp core, fun _ _ hb => he.bulks core ▸ hb⟩

theorem trans (h : FewerBulks s t core) (h' : FewerBulks t u core) : FewerBulks s u core :=
  ⟨h'.hasp.trans h.hasp, fun id b hb => h.bulks id b (h'.bulks id b hb)⟩

theorem erase (s : State) (id : Nat) : FewerBulks s (s.modCore core fun c => { c with bulks := c.bulks.erase id }) core := by
  refine ⟨?_, fun j b hb => ?_⟩
  · rw [core_modCore, if_pos rfl]
  · rw [core_modCore, if_pos rfl, SMap.get?_erase] at hb
    split at hb
    · cases hb
    · exact hb

theorem stampBulks (ids : List Nat) (s : State) : FewerBulks s (s.stampBulks core ids) core := by
  unfold State.stampBulks
  induction ids generalizing s with
  | nil => exact of_engines .rfl
  | cons id ids ih =>
    rw [List.foldl_cons]
    refine FewerBulks.trans ?_ (ih _)
    split
    · exact of_engines .rfl
    next b _ =>
      split
      · exact of_engines .rfl
      · split
        · exact erase s id
        · obtain ⟨hok, herr⟩ := stampAt_engines s core b.ctx (bitsN b.desc.toNat 311 256)
            (BitVec.ofNat 64 (bitsN b.desc.toNat 383 320)) none
          split
          next u hu => exact (of_engines (hok u hu)).trans (erase u id)
          next u hu => exact of_engines (herr u hu)

end FewerBulks

/-- A bulk copy whose bytes have all been copied is whole, and its entries are free. -/
def State.bulkWhole (s : State) (core id n : Nat) (ids : List Nat) : State :=
  (s.haspDrop core ids).modCore core fun c =>
    { c with bulks := c.bulks.modify id fun b => { b with ready := true, copied := n, entries := [] } }

section
variable {core id k : Nat} {b : Bulk} {cx : Ctx} (hb : (s.core core).bulks.get? id = some b) (hready : b.ready = false)
  (hpark : b.parked = none) (hlock : b.locked = true) (hcx : s.ctxs.get? b.ctx = some cx) (hlost : ∀ va, s.storeLost core cx va = false)
  (hcopy : copyBulk core cx b.desc (bitsN b.desc.toNat 159 128 * bitsN b.desc.toNat 191 160) b.copied s = (u, k, none))
include hb hready hpark hlock hcx hlost hcopy

theorem exec_bcpyComplete_whole : exec (.bcpyComplete core id) s = .next
    ((u.bulkWhole core id (bitsN b.desc.toNat 159 128 * bitsN b.desc.toNat 191 160) b.entries).stampBulks core
      ((s.core core).bulks.map (·.1))) := by
  have hnone (l : List Nat) (dest : Nat → Nat) : l.find? (fun i => s.storeLost core cx (dest i)) = none :=
    List.find?_eq_none.mpr fun i _ => by rw [hlost]; exact Bool.false_ne_true
  change execBcpyComplete core id s = _
  simp only [execBcpyComplete, hb, hready, hpark, hlock, hcx, hnone, hcopy, Option.isSome_none, Bool.not_true, Bool.or_self,
    Bool.false_eq_true, if_false]
  rfl

end

/-- The copy that is whole has no entry, and those that it had are free. -/
theorem bulkWhole_spec (s : State) (core id n : Nat) (ids : List Nat) :
    (∀ e ∈ ids, ((s.bulkWhole core id n ids).core core).hasp.has e = false) ∧
      ∀ b, ((s.bulkWhole core id n ids).core core).bulks.get? id = some b → b.ready = true ∧ b.entries = [] := by
  unfold State.bulkWhole
  rw [core_modCore, if_pos rfl]
  refine ⟨fun e he => haspDrop_free he, fun b hb => ?_⟩
  rw [SMap.get?_modify, if_pos rfl] at hb
  obtain ⟨b', -, rfl⟩ := Option.map_eq_some_iff.mp hb
  exact ⟨rfl, rfl⟩

end Sys2Proof.Machine

open Sys2Proof Sys2Proof.Machine

/-- Settles O34: a CPSEAL and its stamp; a BCPY's slot by what its descriptor says; the copy that is whole; and a Hinge's copy. -/
theorem sealsAndBulkCopies : Obligations.SealsAndBulkCopies := by
  unfold Obligations.SealsAndBulkCopies
  refine ⟨fun s h w hr => ⟨fun hb => hr.stalls (exec_cpseal w s) (if_pos hb),
      fun r hb ht => hr.traps (exec_cpseal w s) (sealSlot_trap hb ht), fun hb ht => ?_⟩, fun s core id b c hb hready hc hf => ?_, fun s h w => ?_,
    fun s u core id k b cx hb hready hpark hlock hcx hlost hcopy => ?_, fun s hinge line => ?_⟩
  · obtain ⟨-, -, hg, -⟩ := here_spec hr.here
    exact ⟨_, _, hr.completesQuiet (exec_cpseal w s) (sealSlot_done hb ht) (sealed_frame s h w), modGroup_group hg, rfl,
      _, sealed_batch s h w, rfl, rfl, rfl, rfl, rfl, rfl⟩
  · refine ⟨_, exec_cpsealStampWrite hb hready hc hf, ?_, (Traffic.vstore _ _ _ _ _ _).groups,
      (Stored.vstore .refl b.addr b.value.toNat 2).sameMem .rfl, fun pa mt hx hmt => ?_⟩
    · rw [core_modCore, if_pos rfl, SMap.get?_erase, if_pos rfl]
    · exact (readLE_vstore hx hmt).trans (Nat.mod_eq_of_lt b.value.isLt)
  · intro va d f
    simp only []
    intro hr hb hl hp
    have hslot := bcpySlot_eq (w := w) hb hl hp
    have hfree : ((s.descRead h va).core h.core).haspFree = (s.core h.core).haspFree := (descRead_engines s h va).haspFree h.core
    have hgood (hbad) : bcpyBad (s.descBits h va) = false := bcpyBad_eq_false_iff.mpr hbad
    have hapart (hap) : bcpyMeet (s.descBits h va) = false := bcpyMeet_eq_false_iff.mpr hap
    have hmoves (hrows) (hrowb) : bcpyMoves (s.descBits h va) = true := bcpyMoves_iff.mpr ⟨hrows, hrowb⟩
    refine ⟨fun hbad => ?_, fun hbad hmeet => ?_, fun r hbad hap ht => ?_, fun hbad hap ht hrows hrowb hsrc => ?_,
      fun hbad hap ht hrows hrowb hsrc hdst => ?_, fun hbad hap ht hclear => ⟨fun hrows hrowb hfull => ?_, fun hroom => ?_⟩⟩
    · exact hr.traps rfl (hslot.trans (bcpyRest_bad (bcpyBad_iff.mpr hbad)))
    · have hm : bcpyMeet (s.descBits h va) = true := (Bool.not_eq_false _).mp fun hm => hmeet (bcpyMeet_eq_false_iff.mp hm)
      exact hr.traps rfl (hslot.trans (bcpyRest_meet (hgood hbad) hm))
    · exact hr.traps rfl (hslot.trans (bcpyRest_stampTrap (hgood hbad) (hapart hap) ht))
    · exact hr.traps rfl (hslot.trans (bcpyRest_srcAperture (hgood hbad) (hapart hap) ht (hmoves hrows hrowb) hsrc))
    · exact hr.traps rfl (hslot.trans (bcpyRest_dstAperture (hgood hbad) (hapart hap) ht (hmoves hrows hrowb) hsrc hdst))
    · exact hr.stalls rfl (hslot.trans (bcpyRest_tableFull (hgood hbad) (hapart hap) ht (fun _ => hclear hrows hrowb) (hmoves hrows hrowb)
        (hfree ▸ hfull)))
    · obtain ⟨n, ids, u, hreg, hrest⟩ := bcpyRest_queued (hgood hbad) (hapart hap) ht
        (fun hmv => hclear (bcpyMoves_iff.mp hmv).1 (bcpyMoves_iff.mp hmv).2) (hfree.symm ▸ hroom)
      exact hr.bcpy_queues (hslot.trans hrest) hreg
  · obtain ⟨hhasp, hbulks⟩ := FewerBulks.stampBulks (core := core) ((s.core core).bulks.map (·.1))
      (u.bulkWhole core id (bitsN b.desc.toNat 159 128 * bitsN b.desc.toNat 191 160) b.entries)
    obtain ⟨hfreed, hwhole⟩ := bulkWhole_spec u core id (bitsN b.desc.toNat 159 128 * bitsN b.desc.toNat 191 160) b.entries
    exact ⟨_, exec_bcpyComplete_whole hb hready hpark hlock hcx hlost hcopy, fun e he => hhasp ▸ hfreed e he,
      fun b' hb' => hwhole b' (hbulks id b' hb')⟩
  · refine ⟨_, rfl, .rfl, rfl, fun e => ?_⟩
    rw [List.mem_filter, Bool.not_eq_true', ← Bool.not_eq_true, Bool.and_eq_true, beq_iff_eq, beq_iff_eq]

end

section
/-! Stream engines (spec/10 R215, R222): a state in which a SEPROG that loads its record moves its own fragment on twice. Its map of
fragments, which need not be canonical in a `State`, names the executing fragment a second time as waiting at the ring of the engine;
loading the record makes the waiters look again, the second entry is answered under the executing fragment's number, and the SEPROG
then completes as well. -/

set_option Elab.async false

namespace Sys2Proof.Machine

/-- A drain record (R216): a row of 256 n8 elements at 0x40000 in tiles of 128, with a ring of one 128-byte slot. -/
def drainRecord : Nat := 2 ^ 4 + 2 ^ 8 + 128 * 2 ^ 32 + 128 * 2 ^ 64 + 0x40000 * 2 ^ 96 + 256 * 2 ^ 160 + 127 * 2 ^ 320

/-- Page tables that map 0x40000 to itself, readable and writable, and the record at 0x50000. -/
def ringMem : SMap Byte :=
  [(0x10000, 8, 0x14001), (0x14000, 8, 0x15001), (0x15000, 8, 0x16001), (0x16008, 8, 0x4003F), (0x50000, 64, drainRecord)].foldl
    (fun m e => writeLE m e.1 e.2.1 e.2.2) []

def ringCtx : Ctx := { root := 0x10000, asid := 0, fn := 0, frsz := 6, rrsz := 6, fring := 0x20000, rring := 0x30000 }
def ringTeam : Team := { core := 0, ctx := 0, launch := 0, fixedLen := 4096, acc := 2 }
def ringGroup : Group := { team := 0, idx := 0, blocks := 2, laneSet := 3, s := [(0, 0x50000)] }
def ringFrag : Frag := { group := 0, line := 0x40000, mask := 3, st := .issuing }

/-- The executing fragment issues at slot 0, and is listed again as a waiter for slot 0 of the ring of engine 0. -/
def ringTwice : State :=
  { State.reset with
    mem := ringMem, ctxs := [(0, ringCtx)], teams := [(0, ringTeam)], groups := [(0, ringGroup)], cur := some 0
    frags := [(0, ringFrag), (0, { ringFrag with st := .parked (.ring 0 0) })] }

def ringHere : Here := { fid := 0, gid := 0, tid := 0, f := ringFrag, g := ringGroup, t := ringTeam, cx := ringCtx }

/-- SEPROG of engine 0 by the record that s0 points at, its flag to c1. -/
def ringLoad : EngW := { dst := .c 1, a := .s 0 }

/-- The slot at which a fragment stands after an outcome. -/
def slotAfter (o : Host.Outcome State Fault Refusal) (fid : Nat) : Option Nat :=
  match o with
  | .next u => (u.frags.get? fid).map fun f => f.slot.val
  | _ => none

theorem ringTwice_runs : Runs (.seprog ringLoad) ringHere ringTwice where
  here := rfl
  st := rfl
  checks := by decide +kernel
  free := by decide +kernel
  good := by decide +kernel

theorem ringTwice_slot : slotAfter (exec (.seprog ringLoad) ringTwice) 0 = some 2 := by decide +kernel

/-- It finds a record that loads: nothing to wait for, a readable record, and an engine that is free. -/
theorem ringTwice_loads : ringTwice.sideBusy ringHere = false ∧ ringTwice.laneGlobal ringHere 0x50000 64 .read = none ∧
    ringTwice.vPoison 0 ringCtx 0x50000 64 .read = false ∧ (ringTwice.stream 0 0).owner = none ∧ (ringTwice.stream 0 0).st = 0 := by
  decide +kernel

theorem ringTwice_record : (ringTwice.touch 0 ringCtx 0x50000 false).vload 0 ringCtx 0x50000 64 = drainRecord := by decide +kernel

theorem drainRecord_accepted : Tlr.refuse { bits := BitVec.ofNat 512 drainRecord } 4096 = none ∧
    meetsAperture (Tlr.extent { bits := BitVec.ofNat 512 drainRecord }).1 (Tlr.extent { bits := BitVec.ofNat 512 drainRecord }).2 = false := by
  decide +kernel

end Sys2Proof.Machine

open Sys2Proof Sys2Proof.Machine

/-- Refutes O35: its clause on a SEPROG that loads says that the fragment goes on at the next slot in every state, and in `ringTwice` it
goes on two slots. Only the part of the clause after `noRingWait` excludes a second entry of the executing fragment among the waiters. -/
theorem not_streamEngines : ¬ Obligations.StreamEngines := by
  unfold Obligations.StreamEngines
  rintro ⟨hinstr, -⟩
  obtain ⟨hseprog, -⟩ := hinstr ringTwice ringHere ringLoad
  obtain ⟨hbusy, hlane, hgood, howner, hst⟩ := ringTwice_loads
  obtain ⟨-, -, hload⟩ := hseprog ringTwice_runs hbusy hlane hgood
  have hfree : ¬ (((ringTwice.stream 0 0).owner ≠ none ∧ ¬ (ringTwice.stream 0 0).owner = some 0) ∨ (ringTwice.stream 0 0).st = 2 ∨
      (ringTwice.stream 0 0).st = 3) := by
    simp [howner, hst]
  obtain ⟨hrefuse, haper⟩ := drainRecord_accepted
  rw [← ringTwice_record] at hrefuse haper
  obtain ⟨u, hnext, ⟨f, hf, -, -, -, -, -, hslot⟩, -⟩ := hload hfree hrefuse (.inr haper)
  have hone : slotAfter (.next u) 0 = some 1 := (congrArg (Option.map fun f : Frag => f.slot.val) hf).trans (congrArg some hslot)
  rw [← hnext, ringTwice_slot] at hone
  exact absurd hone (by decide)

end

section
/-! Matrix rows (spec/11 R231, R235 to R238, R244 to R246): their checks, whose turn a quad's staging is, what the acceptance of an
operation leaves, and how the slots of MMA, MLOOP and MLOOPM end. -/

set_option Elab.async false

namespace Sys2Proof

/-- An entry that is filtered out is gone. -/
theorem SMap.get?_filterE_of_drop {α : Type} {m : SMap α} {k : Nat} {q : Nat → α → Bool} (hq : ∀ v, q k v = false) :
    (m.filterE q).get? k = none := by
  induction m with
  | nil => rfl
  | cons e m ih =>
    obtain ⟨k', v⟩ := e
    unfold filterE at ih ⊢
    rw [List.filter_cons]
    split
    next hk =>
      have hne : k ≠ k' := by
        rintro rfl
        rw [hq v] at hk
        cases hk
      rw [get?_cons, if_neg hne, ih]
    · exact ih

namespace Machine

variable {s t u v : State} {h : Here} {w : EngW} {i : Instr} {act : Here → State → SlotResult} {kind : MKind} {hasp : List Hasp}
  {batch : Bool} {n : Nat}

theorem acc_putAcc (s : State) (k j : Nat) (a : Acc) : (s.putAcc k a).acc j = if j = k then a else s.acc j :=
  SMap.getD_setD _ _ _ _ _

/-! ## Checks of the operands (R231, R233, R236) -/

theorem firstTrap_eq_none {l : List (Option RecInfo)} : firstTrap l = none ↔ ∀ x ∈ l, x = none := List.findSome?_eq_none_iff

theorem accName_beyond (hn : h.t.acc ≤ n) : h.accName n = some { cause := .spad, lanes := h.f.mask.toNat, info := n } := if_pos hn

theorem accName_within (hn : n < h.t.acc) : h.accName n = none := if_neg (Nat.not_le.mpr hn)

theorem comboTrap_illegal {ta tb : Ty} (hc : matCombo ta tb = false) :
    h.comboTrap ta tb = some { cause := .combo, lanes := h.f.mask.toNat } := by
  rw [Here.comboTrap, hc]
  rfl

theorem comboTrap_legal {ta tb : Ty} (hc : matCombo ta tb = true) : h.comboTrap ta tb = none := by
  rw [Here.comboTrap, hc]
  rfl

theorem matAlign_none {al : Nat} {o : Nat × Nat} (ho : o.1 % al = 0 ∧ o.2 % al = 0) : h.matAlign al o = none := by
  obtain ⟨hoff, hstr⟩ := ho
  simp [Here.matAlign, hoff, hstr]

theorem matAlign_base {al off : Nat} (ho : off % al = 0) : h.matAlign al (off, 0) = none := matAlign_none ⟨ho, Nat.zero_mod al⟩

theorem matRange_none {r : MatRange} (hr : r.firstBad h.t.fixedLen = none) : h.matRange r = none := by
  rw [Here.matRange, hr]
  rfl

/-! ## Acceptance (R237, R238) -/

/-- What a matrix row may have done by the time its operation is accepted: accumulators aside, nothing. -/
structure Accepting (h : Here) (s v : State) : Prop where
  mem : SameMem s v
  regs : RegFrame h s v noReg
  ctxs : v.ctxs = s.ctxs
  cores : v.cores = s.cores
  frags : v.frags = s.frags

theorem Accepting.rfl : Accepting h s s :=
  ⟨.rfl, fun _ g hg => ⟨g, hg, .rfl⟩, Eq.refl _, Eq.refl _, Eq.refl _⟩

theorem Accepting.putAcc (k : Nat) (a : Acc) : Accepting h s (s.putAcc k a) :=
  ⟨.rfl, fun _ g hg => ⟨g, hg, .rfl⟩, Eq.refl _, Eq.refl _, Eq.refl _⟩

/-- The sequencer has taken an operation, its ranges standing in the Hasp table. -/
structure Sequenced (h : Here) (s t : State) (kind : MKind) : Prop where
  frame : Frame h s t noReg
  frags : t.frags = s.frags
  op : ∃ m, (t.core h.core).mops.get? (s.core h.core).nextId = some m ∧
    m.kind = kind ∧ m.group = h.gid ∧ m.team = h.tid ∧ m.next = 0

/-- The sequencer of the executing group's core has taken operation `id`. -/
def State.sequenced (s : State) (h : Here) (id : Nat) (m : MOp) : State :=
  s.modCore h.core fun c => { c with mops := c.mops.set id m, nextId := id + 1 }

/-- The group has operation `id` open for its next batch (R240). -/
def State.opened (s : State) (h : Here) (id : Nat) : State := s.modGroup h.gid fun g => { g with openOps := g.openOps ++ [id] }

/-- The scratchpad as an operation that reads it keeps it (spec/13 R268). -/
def Here.scrImage (h : Here) (hasp : List Hasp) : Option ScrImage :=
  if hasp.any fun x => !x.wlock then some { bytes := h.t.scr, poison := h.t.scrPoison, absent := h.t.absent } else none

/-- An operation that finds room is taken, and is open in its group where it counts for a batch. -/
theorem acceptMat_room (hroom : s.matRoom h n) (hn : hasp.length ≤ n) :
    ∃ ids x, Registered s x h.core hasp.length ids ∧ s.acceptMat h kind hasp batch =
      let t := x.sequenced h (s.core h.core).nextId
        { group := h.gid, team := h.tid, kind := kind, entries := ids, image := h.scrImage hasp }
      some (if batch then t.opened h (s.core h.core).nextId else t) := by
  obtain ⟨hlen, hfree⟩ := hroom
  obtain ⟨ids, x, hadd, hreg⟩ := haspAdd_some (s := s) (core := h.core)
    (xs := hasp.map fun x => { x with tag := (s.core h.core).nextId % 256 }) (by rw [List.length_map]; exact hn.trans hfree)
  rw [List.length_map] at hreg
  refine ⟨ids, x, hreg, ?_⟩
  simp only [State.acceptMat, if_neg (Nat.not_le.mpr hlen), hadd]
  rfl

theorem Registered.sequenced {ids : List Nat} {m : MOp} (hreg : Registered s u h.core n ids) (hg : m.group = h.gid) (ht : m.team = h.tid)
    (hnext : m.next = 0) : Sequenced h s (u.sequenced h (s.core h.core).nextId m) m.kind := by
  refine ⟨hreg.frame.trans (.of_eq .rfl rfl rfl rfl), hreg.frags, m, ?_, rfl, hg, ht, hnext⟩
  rw [State.sequenced, core_modCore, if_pos rfl]
  exact SMap.get?_set_self _ _ _

theorem Sequenced.opened (hs : Sequenced h s t kind) (id : Nat) : Sequenced h s (t.opened h id) kind :=
  ⟨hs.frame.trans (.modGroup fun _ => .rfl), hs.frags, hs.op⟩

theorem acceptOr_room (hroom : s.matRoom h n) (hn : hasp.length ≤ n) :
    ∃ t, h.acceptOr s kind hasp batch = .done t ∧ Sequenced h s t kind := by
  obtain ⟨ids, x, hreg, ht⟩ := acceptMat_room (kind := kind) (batch := batch) hroom hn
  have hs := hreg.sequenced (m := { group := h.gid, team := h.tid, kind := kind, entries := ids, image := h.scrImage hasp }) rfl rfl rfl
  refine ⟨_, by rw [Here.acceptOr, ht], ?_⟩
  cases batch with
  | false => exact hs
  | true => exact hs.opened _

/-- A row whose slot ends with an acceptance, in a state that its own effect has reached, and that finds room. -/
theorem Runs.accepted (hr : Runs i h s) (he : exec i s = runSlot i act s) (hv : Accepting h s v)
    (ha : act h s = h.acceptOr v kind hasp batch) (hroom : s.matRoom h n) (hn : hasp.length ≤ n) :
    ∃ t, Accepted i h s (t.finish h i) kind ∧ Sequenced h v t kind := by
  have hcore : v.core h.core = s.core h.core := by rw [State.core, hv.cores, State.core]
  have hroom' : v.matRoom h n := by rwa [State.matRoom, hcore]
  obtain ⟨t, ht, hseq⟩ := acceptOr_room (kind := kind) (batch := batch) hroom' hn
  have hframe : Frame h v (t.finish h i) noReg := hseq.frame.trans (.finish i)
  refine ⟨t, ⟨hr.completes he (ha.trans ht), hr.wentOn (hseq.frags.trans hv.frags), hv.mem.trans hframe.mem, fun k g hg => ?_,
    hframe.ctxs.trans hv.ctxs, ?_⟩, hseq⟩
  · obtain ⟨g', hg', hsame⟩ := hv.regs k g hg
    obtain ⟨g'', hg'', hsame'⟩ := hframe.regs k g' hg'
    exact ⟨g'', hg'', hsame.trans hsame'⟩
  · rw [finish_core, ← hcore]
    exact hseq.op

theorem Sequenced.finish_accs (hs : Sequenced h v t kind) : (t.finish h i).accs = v.accs :=
  (hs.frame.trans (Frame.finish i)).accs

/-! ## Quads (R235) -/

/-- It is the fragment's turn at its quad: none waits there, or it is the first that does. -/
def State.quadTurn (s : State) (h : Here) : Prop :=
  s.quadWaiters h.tid (h.g.idx / 4) = [] ∨ (s.quadWaiters h.tid (h.g.idx / 4)).head? = some h.fid

/-- The staging of the executing group's quad has been consumed, its fragment waiting no longer. -/
def State.quadConsumed (s : State) (h : Here) : State :=
  s.putAcc h.tid { s.acc h.tid with
    stage := (s.acc h.tid).stage.filterE fun k _ => k / 4 != h.g.idx / 4, waiters := (s.acc h.tid).waiters.filter (· != h.fid) }

/-- The fragment stands among those that wait for their quads. -/
def State.quadAwaited (s : State) (h : Here) : State :=
  s.putAcc h.tid { s.acc h.tid with
    waiters := if (s.acc h.tid).waiters.contains h.fid then (s.acc h.tid).waiters else (s.acc h.tid).waiters ++ [h.fid] }

section
variable {tb : Ty} {go : List Quarter → State → SlotResult} {l : List Quarter}

/-- Not all quarters are staged, or it is another's turn. -/
theorem withQuad_waits (hw : (s.acc h.tid).quad h.g.idx = none ∨ ¬ s.quadTurn h) :
    h.withQuad s tb go = .park .quad (s.quadAwaited h) := by
  unfold State.quadTurn at hw
  cases hq : (s.acc h.tid).quad h.g.idx with
  | none => simp only [Here.withQuad, hq]; rfl
  | some l =>
    cases hl : s.quadWaiters h.tid (h.g.idx / 4) with
    | nil => simp [hq, hl] at hw
    | cons k ks =>
      have hk : (k == h.fid) = false := by simpa [hq, hl] using hw
      simp only [Here.withQuad, hq, hl, hk]
      rfl

/-- All quarters are staged, and it is the fragment's turn: its B type decides. -/
theorem withQuad_turn (hq : (s.acc h.tid).quad h.g.idx = some l) (hturn : s.quadTurn h) :
    h.withQuad s tb go = if l.any fun x => x.ty != tb then
      .placed (((s.dropWaiter h.tid h.fid).wakeQuad h.tid (h.g.idx / 4)).takeTrap h
        { cause := .combo, detail := 1, lanes := h.f.mask.toNat })
    else go l (s.quadConsumed h) := by
  unfold State.quadTurn at hturn
  cases hl : s.quadWaiters h.tid (h.g.idx / 4) with
  | nil => simp only [Here.withQuad, hq, hl]; rfl
  | cons k ks =>
    have hk : (k == h.fid) = true := by simpa [hl] using hturn
    simp only [Here.withQuad, hq, hl, hk]
    rfl

theorem withQuad_mixed (hq : (s.acc h.tid).quad h.g.idx = some l) (hturn : s.quadTurn h) (hx : ∃ x ∈ l, x.ty ≠ tb) :
    h.withQuad s tb go = .placed (((s.dropWaiter h.tid h.fid).wakeQuad h.tid (h.g.idx / 4)).takeTrap h
      { cause := .combo, detail := 1, lanes := h.f.mask.toNat }) := by
  rw [withQuad_turn hq hturn, if_pos (by simpa using hx)]

theorem withQuad_consumes (hq : (s.acc h.tid).quad h.g.idx = some l) (hturn : s.quadTurn h) (hx : ∀ x ∈ l, x.ty = tb) :
    h.withQuad s tb go = go l (s.quadConsumed h) := by
  rw [withQuad_turn hq hturn, if_neg (by simpa using hx)]

end

theorem quadAwaited_waiters (s : State) (h : Here) : h.fid ∈ ((s.quadAwaited h).acc h.tid).waiters := by
  rw [State.quadAwaited, acc_putAcc, if_pos rfl]
  dsimp only
  split
  next hc => exact List.contains_iff_mem.mp hc
  · exact List.mem_append_right _ List.mem_cons_self

theorem quad_eq_none {a : Acc} {idx : Nat} (hs : a.stage.get? (idx / 4 * 4) = none) : a.quad idx = none := by
  unfold Acc.quad
  rw [List.range_succ_eq_map, List.map_cons, List.foldr_cons, Nat.add_zero, hs]

theorem quadConsumed_quad (s : State) (h : Here) : ((s.quadConsumed h).acc h.tid).quad h.g.idx = none := by
  refine quad_eq_none ?_
  rw [State.quadConsumed, acc_putAcc, if_pos rfl]
  dsimp only
  refine SMap.get?_filterE_of_drop fun _ => ?_
  rw [Nat.mul_div_cancel _ (by decide), bne_self_eq_false]

theorem quadConsumed_tiles (s : State) (h : Here) : ((s.quadConsumed h).acc h.tid).tiles = (s.acc h.tid).tiles := by
  rw [State.quadConsumed, acc_putAcc, if_pos rfl]

section
variable {tb : Ty} {go : List Quarter → State → SlotResult} {kinds : List Quarter → MKind} {l : List Quarter} (hr : Runs i h s)
  (he : exec i s = runSlot i act s)
include hr he

theorem Runs.quad_waits (ha : act h s = h.withQuad s tb go) (hw : (s.acc h.tid).quad h.g.idx = none ∨ ¬ s.quadTurn h) :
    ∃ u, Parks i h s u .quad ∧ SameMem s u ∧ u.groups = s.groups ∧ h.fid ∈ (u.acc h.tid).waiters :=
  ⟨s.quadAwaited h, hr.exec_eq he (ha.trans (withQuad_waits hw)), .rfl, rfl, quadAwaited_waiters s h⟩

theorem Runs.quad_mixed (ha : act h s = h.withQuad s tb go) (hq : (s.acc h.tid).quad h.g.idx = some l) (hturn : s.quadTurn h)
    (hx : ∃ x ∈ l, x.ty ≠ tb) : exec i s = .next (((s.dropWaiter h.tid h.fid).wakeQuad h.tid (h.g.idx / 4)).takeTrap h
      { cause := .combo, detail := 1, lanes := h.f.mask.toNat }) :=
  hr.exec_eq he (ha.trans (withQuad_mixed hq hturn hx))

/-- The operation is accepted with the staged quarters, and the staging is clear. -/
theorem Runs.quad_accepted (ha : act h s = h.withQuad s tb fun l u => h.acceptOr u (kinds l) hasp batch)
    (hq : (s.acc h.tid).quad h.g.idx = some l) (hturn : s.quadTurn h) (hx : ∀ x ∈ l, x.ty = tb) (hroom : s.matRoom h n)
    (hn : hasp.length ≤ n) : ∃ t, Accepted i h s t (kinds l) ∧ (t.acc h.tid).quad h.g.idx = none ∧
      (t.acc h.tid).tiles = (s.acc h.tid).tiles := by
  obtain ⟨t, hacc, hseq⟩ := hr.accepted he (.putAcc _ _) (ha.trans (withQuad_consumes hq hturn hx)) hroom hn
  have hsame : (t.finish h i).acc h.tid = (s.quadConsumed h).acc h.tid := by
    rw [State.acc, hseq.finish_accs]
    rfl
  exact ⟨_, hacc, hsame ▸ quadConsumed_quad s h, hsame ▸ quadConsumed_tiles s h⟩

end

/-! ## MMA (R244) -/

/-- The rows of a scratchpad operand of one step. -/
def matRows (o : Nat × Nat) : MatRange := { off := o.1, str := o.2 }

/-- The checks of an MMA, in the order in which it makes them. -/
def mmaChecks (w : EngW) (h : Here) : List (Option RecInfo) :=
  [h.accName (immF w.imm 3 0), h.comboTrap (immTy w.imm 7 4) (immTy w.imm 11 8), h.matAlign 32 (matOpnd (h.srcS w.a))] ++
    (if w.b.isZr then [] else [h.matAlign 32 (matOpnd (h.srcS w.b))]) ++ [h.matRange (matRows (matOpnd (h.srcS w.a)))] ++
    (if w.b.isZr then [] else [h.matRange (matRows (matOpnd (h.srcS w.b)))])

/-- Its operation, with the words of a latched B and B's scale words. -/
def State.mmaOp (s : State) (w : EngW) (h : Here) (latch scales : SMap W32) : MKind :=
  .steps (immTy w.imm 7 4) (immTy w.imm 11 8) [(s.acc h.tid).tileOf (immF w.imm 3 0)] (matOpnd (h.srcS w.a)).1 (matOpnd (h.srcS w.a)).2 0
    w.b.isZr (matOpnd (h.srcS w.b)).1 (matOpnd (h.srcS w.b)).2 0 latch (immF w.imm 13 12) false 0 0 0 0 (h.lanesOf w.c 32) scales

/-- B's scale words in the register after A's (R232). -/
def Here.nextScales (h : Here) (o : Opnd) : SMap W32 :=
  match o with
  | .v r => h.lanesOf (.v (r + 1)) 32
  | _ => []

/-- The entries of its ranges. -/
def mmaHasp (w : EngW) (h : Here) : List Hasp :=
  h.matHasp false (matRows (matOpnd (h.srcS w.a))) :: (if w.b.isZr then [] else [h.matHasp false (matRows (matOpnd (h.srcS w.b)))])

theorem mmaChecks_pass (hname : immF w.imm 3 0 < h.t.acc) (hty : matCombo (immTy w.imm 7 4) (immTy w.imm 11 8) = true)
    (ha : (matOpnd (h.srcS w.a)).1 % 32 = 0 ∧ (matOpnd (h.srcS w.a)).2 % 32 = 0)
    (hfa : (matRows (matOpnd (h.srcS w.a))).firstBad h.t.fixedLen = none)
    (hb : w.b.isZr = false → ((matOpnd (h.srcS w.b)).1 % 32 = 0 ∧ (matOpnd (h.srcS w.b)).2 % 32 = 0) ∧
      (matRows (matOpnd (h.srcS w.b))).firstBad h.t.fixedLen = none) : firstTrap (mmaChecks w h) = none := by
  unfold mmaChecks
  rw [accName_within hname, comboTrap_legal hty, matAlign_none ha, matRange_none hfa]
  cases hz : w.b.isZr with
  | true => rfl
  | false =>
    obtain ⟨halign, hfit⟩ := hb hz
    rw [matAlign_none halign, matRange_none hfit]
    rfl

theorem mmaChecks_beyond (hname : h.t.acc ≤ immF w.imm 3 0) :
    firstTrap (mmaChecks w h) = some { cause := .spad, lanes := h.f.mask.toNat, info := immF w.imm 3 0 } := by
  unfold mmaChecks
  rw [accName_beyond hname]
  rfl

theorem mmaChecks_illegal (hname : immF w.imm 3 0 < h.t.acc) (hty : matCombo (immTy w.imm 7 4) (immTy w.imm 11 8) = false) :
    firstTrap (mmaChecks w h) = some { cause := .combo, lanes := h.f.mask.toNat } := by
  unfold mmaChecks
  rw [accName_within hname, comboTrap_illegal hty]
  rfl

theorem mmaSlot_trap {r : RecInfo} (ht : firstTrap (mmaChecks w h) = some r) : mmaSlot w h s = .trap r := by
  unfold mmaSlot
  change (match firstTrap (mmaChecks w h) with | some r => _ | none => _) = _
  rw [ht]

section
variable (hb : s.sideBusy h = false) (hok : firstTrap (mmaChecks w h) = none)
include hb hok

theorem mmaSlot_scratch (hz : w.b.isZr = false) :
    mmaSlot w h s = h.acceptOr s (s.mmaOp w h [] (h.nextScales w.c)) (mmaHasp w h) true := by
  unfold mmaSlot
  change (match firstTrap (mmaChecks w h) with | some r => _ | none => _) = _
  rw [hok]
  exact (if_neg (Bool.eq_false_iff.mp hb)).trans (if_neg (Bool.eq_false_iff.mp hz))

theorem mmaSlot_quad (hz : w.b.isZr = true) : mmaSlot w h s = h.withQuad s (immTy w.imm 11 8) fun l u =>
    h.acceptOr u (s.mmaOp w h (quadWords l) (quadScales l)) (mmaHasp w h) true := by
  unfold mmaSlot
  change (match firstTrap (mmaChecks w h) with | some r => _ | none => _) = _
  rw [hok]
  exact (if_neg (Bool.eq_false_iff.mp hb)).trans (if_pos hz)

end

/-! ## MLOOP and MLOOPM (R245, R246) -/

/-- An increment of a loop. -/
def loopInc (w : EngW) (h : Here) (k : Nat) : Nat := (h.srcS w.c).toNat / 2 ^ (16 * k) % 65536

/-- The offsets of the scale streams of A and B. -/
def loopBases (w : EngW) (h : Here) : Nat × Nat :=
  let d : Nat := match w.dst with | .s r => (h.sreg r.val).toNat | _ => 0
  (d % 2 ^ 32, d / 2 ^ 32)

/-- The number of steps. -/
def loopSteps (w : EngW) (multi : Bool) : Nat := if multi then immF w.imm 15 12 + 1 else immF w.imm 23 12 + 1

/-- The rows of a scratchpad operand, and the words of a scale stream, over all steps. -/
def loopRows (w : EngW) (multi : Bool) (h : Here) (o : Nat × Nat) (k : Nat) : MatRange :=
  { off := o.1, str := o.2, inc := loopInc w h k, n := loopSteps w multi }

def loopScales (w : EngW) (multi : Bool) (h : Here) (off k : Nat) : MatRange :=
  { off := off, inc := loopInc w h k, n := loopSteps w multi, rows := 1, width := 128 }

/-- The ranges that the steps read: A, B unless it is latched, and their scale streams. -/
def loopRanges (w : EngW) (multi : Bool) (h : Here) : List MatRange :=
  [loopRows w multi h (matOpnd (h.srcS w.a)) 0] ++ (if multi then [] else [loopRows w multi h (matOpnd (h.srcS w.b)) 1]) ++
    (if w.dst.isS then [loopScales w multi h (loopBases w h).1 2] else []) ++
    (if w.dst.isS && !multi then [loopScales w multi h (loopBases w h).2 3] else [])

/-- The increments that are checked. -/
def loopIncs (w : EngW) (multi : Bool) : List Nat := if multi then (if w.dst.isS then [0, 2] else [0]) else [0, 1, 2, 3]

/-- The checks of a loop, in the order in which it makes them. -/
def loopChecks (w : EngW) (multi : Bool) (h : Here) : List (Option RecInfo) :=
  ((List.range (if multi then loopSteps w multi else 1)).map fun m => h.accName (immF w.imm 3 0 + m)) ++
    [h.comboTrap (immTy w.imm 7 4) (immTy w.imm 11 8), h.matAlign 32 (matOpnd (h.srcS w.a))] ++
    (if multi then [] else [h.matAlign 32 (matOpnd (h.srcS w.b))]) ++
    (if w.dst.isS then [h.matAlign 4 ((loopBases w h).1, 0)] else []) ++
    (if w.dst.isS && !multi then [h.matAlign 4 ((loopBases w h).2, 0)] else []) ++
    [h.incTrap (h.srcS w.c).toNat (loopIncs w multi)] ++ (loopRanges w multi h).map h.matRange

/-- Its operation, on one tile or on the tiles of consecutive names. -/
def State.loopOp (s : State) (w : EngW) (multi : Bool) (h : Here) (latch scales : SMap W32) : MKind :=
  .steps (immTy w.imm 7 4) (immTy w.imm 11 8)
    ((List.range (loopSteps w multi)).map fun m => (s.acc h.tid).tileOf (if multi then immF w.imm 3 0 + m else immF w.imm 3 0))
    (matOpnd (h.srcS w.a)).1 (matOpnd (h.srcS w.a)).2 (loopInc w h 0) multi (matOpnd (h.srcS w.b)).1 (matOpnd (h.srcS w.b)).2
    (loopInc w h 1) latch 0 w.dst.isS (loopBases w h).1 (loopInc w h 2) (loopBases w h).2 (loopInc w h 3) [] scales

/-- What a loop's names, types, operands and increments must be, for its checks to pass. -/
theorem loopChecks_pass {multi : Bool} (hname : ∀ m < if multi then loopSteps w multi else 1, immF w.imm 3 0 + m < h.t.acc)
    (hty : matCombo (immTy w.imm 7 4) (immTy w.imm 11 8) = true)
    (ha : (matOpnd (h.srcS w.a)).1 % 32 = 0 ∧ (matOpnd (h.srcS w.a)).2 % 32 = 0)
    (hb : multi = false → (matOpnd (h.srcS w.b)).1 % 32 = 0 ∧ (matOpnd (h.srcS w.b)).2 % 32 = 0)
    (hsa : w.dst.isS = true → (loopBases w h).1 % 4 = 0) (hsb : w.dst.isS = true → multi = false → (loopBases w h).2 % 4 = 0)
    (hinc : ∀ k ∈ loopIncs w multi, loopInc w h k % (if k < 2 then 32 else 4) = 0)
    (hfit : ∀ r ∈ loopRanges w multi h, r.firstBad h.t.fixedLen = none) : firstTrap (loopChecks w multi h) = none := by
  have hincs : h.incTrap (h.srcS w.c).toNat (loopIncs w multi) = none :=
    List.findSome?_eq_none_iff.mpr fun k hk => if_neg (by simpa [loopInc] using hinc k hk)
  refine firstTrap_eq_none.mpr fun x hx => ?_
  simp only [loopChecks, List.mem_append, List.mem_map, List.mem_range, or_assoc] at hx
  rcases hx with ⟨m, hm, rfl⟩ | hx | hx | hx | hx | hx | ⟨r, hr, rfl⟩
  · exact accName_within (hname m hm)
  · rw [comboTrap_legal hty, matAlign_none ha] at hx
    simpa using hx
  · split at hx
    · cases hx
    next hm =>
      rw [matAlign_none (hb (Bool.not_eq_true _ ▸ hm))] at hx
      simpa using hx
  · split at hx
    next hs =>
      rw [matAlign_base (hsa hs)] at hx
      simpa using hx
    · cases hx
  · split at hx
    next hs =>
      rw [Bool.and_eq_true, Bool.not_eq_true'] at hs
      rw [matAlign_base (hsb hs.1 hs.2)] at hx
      simpa using hx
    · cases hx
  · rw [hincs] at hx
    simpa using hx
  · exact matRange_none (hfit r hr)

/-- An MLOOP's checks pass (R245). -/
theorem mloopChecks_pass (hname : immF w.imm 3 0 < h.t.acc) (hty : matCombo (immTy w.imm 7 4) (immTy w.imm 11 8) = true)
    (ha : (matOpnd (h.srcS w.a)).1 % 32 = 0 ∧ (matOpnd (h.srcS w.a)).2 % 32 = 0)
    (hb : (matOpnd (h.srcS w.b)).1 % 32 = 0 ∧ (matOpnd (h.srcS w.b)).2 % 32 = 0)
    (hinc : ∀ k, k < 4 → loopInc w h k % (if k < 2 then 32 else 4) = 0)
    (hs : w.dst.isS = true → (loopBases w h).1 % 4 = 0 ∧ (loopBases w h).2 % 4 = 0)
    (hfit : ∀ r ∈ loopRanges w false h, r.firstBad h.t.fixedLen = none) : firstTrap (loopChecks w false h) = none := by
  refine loopChecks_pass (fun m hm => ?_) hty ha (fun _ => hb) (fun hd => (hs hd).1) (fun hd _ => (hs hd).2) (fun k hk => hinc k ?_) hfit
  · have hm : m < 1 := hm
    omega
  · have hk : k ∈ [0, 1, 2, 3] := hk
    simp only [List.mem_cons, List.not_mem_nil, or_false] at hk
    omega

/-- An MLOOPM's checks pass (R246). -/
theorem mloopmChecks_pass (hname : immF w.imm 3 0 + immF w.imm 15 12 < h.t.acc)
    (hty : matCombo (immTy w.imm 7 4) (immTy w.imm 11 8) = true)
    (ha : (matOpnd (h.srcS w.a)).1 % 32 = 0 ∧ (matOpnd (h.srcS w.a)).2 % 32 = 0) (hinc : loopInc w h 0 % 32 = 0)
    (hs : w.dst.isS = true → (loopBases w h).1 % 4 = 0 ∧ loopInc w h 2 % 4 = 0)
    (hfit : ∀ r ∈ loopRanges w true h, r.firstBad h.t.fixedLen = none) : firstTrap (loopChecks w true h) = none := by
  refine loopChecks_pass (fun m hm => ?_) hty ha nofun (fun hd => (hs hd).1) nofun (fun k hk => ?_) hfit
  · have hm : m < immF w.imm 15 12 + 1 := hm
    omega
  · cases hd : w.dst.isS with
    | false =>
      obtain rfl : k = 0 := by simpa [loopIncs, hd] using hk
      exact hinc
    | true =>
      obtain rfl | rfl : k = 0 ∨ k = 2 := by simpa [loopIncs, hd] using hk
      · exact hinc
      · exact (hs hd).2

theorem mloopRanges_fit {size : Nat} (ha : (loopRows w false h (matOpnd (h.srcS w.a)) 0).firstBad size = none)
    (hb : (loopRows w false h (matOpnd (h.srcS w.b)) 1).firstBad size = none)
    (hs : w.dst.isS = true → (loopScales w false h (loopBases w h).1 2).firstBad size = none ∧
      (loopScales w false h (loopBases w h).2 3).firstBad size = none) : ∀ r ∈ loopRanges w false h, r.firstBad size = none := by
  cases hd : w.dst.isS with
  | false => simp [loopRanges, hd, ha, hb]
  | true => simp [loopRanges, hd, ha, hb, hs hd]

theorem mloopmRanges_fit {size : Nat} (ha : (loopRows w true h (matOpnd (h.srcS w.a)) 0).firstBad size = none)
    (hs : w.dst.isS = true → (loopScales w true h (loopBases w h).1 2).firstBad size = none) :
    ∀ r ∈ loopRanges w true h, r.firstBad size = none := by
  cases hd : w.dst.isS with
  | false => simp [loopRanges, hd, ha]
  | true => simp [loopRanges, hd, ha, hs hd]

theorem mloopChecks_beyond (hname : h.t.acc ≤ immF w.imm 3 0) :
    firstTrap (loopChecks w false h) = some { cause := .spad, lanes := h.f.mask.toNat, info := immF w.imm 3 0 } := by
  change firstTrap (h.accName (immF w.imm 3 0) :: _) = _
  rw [accName_beyond hname]
  rfl

theorem mloopChecks_illegal (hname : immF w.imm 3 0 < h.t.acc) (hty : matCombo (immTy w.imm 7 4) (immTy w.imm 11 8) = false) :
    firstTrap (loopChecks w false h) = some { cause := .combo, lanes := h.f.mask.toNat } := by
  change firstTrap (h.accName (immF w.imm 3 0) :: h.comboTrap (immTy w.imm 7 4) (immTy w.imm 11 8) :: _) = _
  rw [accName_within hname, comboTrap_illegal hty]
  rfl

theorem loopRanges_length (w : EngW) (multi : Bool) (h : Here) : (loopRanges w multi h).length ≤ if multi then 2 else 4 := by
  unfold loopRanges
  cases multi <;> cases w.dst.isS <;> simp

theorem loopSlot_trap {multi : Bool} {r : RecInfo} (ht : firstTrap (loopChecks w multi h) = some r) :
    loopSlot w multi h s = .trap r := by
  unfold loopSlot
  change (match firstTrap (loopChecks w multi h) with | some r => _ | none => _) = _
  rw [ht]

section
variable (hb : s.sideBusy h = false)
include hb

theorem loopSlot_scratch (hok : firstTrap (loopChecks w false h) = none) :
    loopSlot w false h s = h.acceptOr s (s.loopOp w false h [] []) ((loopRanges w false h).map (h.matHasp false)) true := by
  unfold loopSlot
  change (match firstTrap (loopChecks w false h) with | some r => _ | none => _) = _
  rw [hok]
  exact if_neg (Bool.eq_false_iff.mp hb)

theorem loopSlot_quad (hok : firstTrap (loopChecks w true h) = none) :
    loopSlot w true h s = h.withQuad s (immTy w.imm 11 8) fun l u =>
      h.acceptOr u (s.loopOp w true h (quadWords l) (quadScales l)) ((loopRanges w true h).map (h.matHasp false)) true := by
  unfold loopSlot
  change (match firstTrap (loopChecks w true h) with | some r => _ | none => _) = _
  rw [hok]
  exact if_neg (Bool.eq_false_iff.mp hb)

end

end Machine
end Sys2Proof

open Sys2Proof Sys2Proof.Machine

/-- Settles O36: for each row its checks are passed or the first that fails is named; past them, an operand in scratchpad leads to an
acceptance, and one from the quad to the three ends that its turn and its staged types decide. -/
theorem matrixIssue : Obligations.MatrixIssue := by
  unfold Obligations.MatrixIssue
  intro s h w
  simp only []
  refine ⟨fun i hi hr hn => ?_, fun i hi hr hn hc => ?_, fun hn hc ha hb => ⟨fun hr hfa => ⟨fun hz hob hfb hroom => ?_,
    fun l hz hq hturn hx hroom => ?_, fun hz => ?_⟩, fun hr hob hinc hfa hfb hst hroom => ?_, fun hr hnm hinc hfa hst => ?_⟩⟩
  · obtain rfl | rfl : i = .mma w ∨ i = .mloop w := by simpa using hi
    · exact hr.traps rfl (mmaSlot_trap (mmaChecks_beyond hn))
    · exact hr.traps rfl (loopSlot_trap (mloopChecks_beyond hn))
  · obtain rfl | rfl : i = .mma w ∨ i = .mloop w := by simpa using hi
    · exact hr.traps rfl (mmaSlot_trap (mmaChecks_illegal hn hc))
    · exact hr.traps rfl (loopSlot_trap (mloopChecks_illegal hn hc))
  · have hok : firstTrap (mmaChecks w h) = none := mmaChecks_pass hn hc ha hfa fun _ => ⟨hob, hfb⟩
    obtain ⟨t, hacc, hseq⟩ := hr.accepted rfl .rfl (mmaSlot_scratch hb hok hz) hroom (by simp [mmaHasp, hz])
    rw [State.mmaOp, hz] at hacc
    exact ⟨_, hseq.finish_accs, hacc⟩
  · have hok : firstTrap (mmaChecks w h) = none := mmaChecks_pass hn hc ha hfa (by simp [hz])
    obtain ⟨t, hacc, hend⟩ := hr.quad_accepted rfl (mmaSlot_quad hb hok hz) hq hturn hx hroom (by simp [mmaHasp, hz])
    rw [State.mmaOp, hz] at hacc
    exact ⟨_, hacc, hend⟩
  · have hslot := mmaSlot_quad hb (mmaChecks_pass hn hc ha hfa (by simp [hz])) hz
    exact ⟨hr.quad_waits rfl hslot, fun l hq hturn hx => hr.quad_mixed rfl hslot hq hturn hx⟩
  · have hok := mloopChecks_pass hn hc ha hob hinc (fun hd => ⟨(hst hd).1, (hst hd).2.1⟩)
      (mloopRanges_fit hfa hfb fun hd => (hst hd).2.2)
    obtain ⟨t, hacc, hseq⟩ := hr.accepted rfl .rfl (loopSlot_scratch hb hok) hroom
      (by rw [List.length_map]; exact loopRanges_length w false h)
    exact ⟨_, hseq.finish_accs, hacc⟩
  · have hok := mloopmChecks_pass hnm hc ha hinc (fun hd => ⟨(hst hd).1, (hst hd).2.1⟩) (mloopmRanges_fit hfa fun hd => (hst hd).2.2)
    have hslot := loopSlot_quad (s := s) hb hok
    refine ⟨hr.quad_waits rfl hslot, fun l hq hturn hx => hr.quad_mixed rfl hslot hq hturn hx, fun l hq hturn hx hroom => ?_⟩
    obtain ⟨t, hacc, hend, -⟩ := hr.quad_accepted rfl hslot hq hturn hx hroom
      (by rw [List.length_map]; exact loopRanges_length w true h)
    exact ⟨_, hacc, hend⟩

end

section
/-! Matrix batches (spec/11 R240, R248): a state in which an MFENCE moves its own fragment on twice. Its map of fragments, which need not
be canonical in a `State`, names the executing fragment a second time as waiting for batch 1; the MFENCE closes batch 1 without an
operation, so that it completes at once, the second entry is released under the executing fragment's number, and the MFENCE then completes
as well. -/

set_option Elab.async false

namespace Sys2Proof.Machine

/-- The executing fragment issues at slot 0, and is listed again as a waiter for batch 1 of its group, which has closed none. -/
def fenceTwice : State :=
  { State.reset with
    ctxs := [(0, ringCtx)], teams := [(0, ringTeam)], groups := [(0, ringGroup)], cur := some 0
    frags := [(0, ringFrag), (0, { ringFrag with st := .parked (.batch 1) })] }

/-- MFENCE that returns its number in s1. -/
def fenceRow : EngW := { dst := .s 1 }

theorem fenceTwice_runs : Runs (.mfence fenceRow) ringHere fenceTwice where
  here := rfl
  st := rfl
  checks := by decide +kernel
  free := by decide +kernel
  good := by decide +kernel

theorem fenceTwice_slot : slotAfter (exec (.mfence fenceRow) fenceTwice) 0 = some 2 := by decide +kernel

/-- A row that has gone on from slot 0 stands at slot 1. -/
theorem slotAfter_wentOn {i : Instr} {h : Here} {t : State} (ht : WentOn i h t) (hslot : h.f.slot = 0) :
    slotAfter (.next t) h.fid = some 1 := by
  obtain ⟨f, hf, -, -, -, -, -, hf1⟩ := ht
  rw [slotAfter, hf, Option.map_some, hf1, hslot]
  rfl

end Sys2Proof.Machine

open Sys2Proof Sys2Proof.Machine

/-- Refutes O37: its clause on MFENCE says that the fragment goes on at the next slot in every state, and in `fenceTwice` it goes on two
slots. No premise of the clause excludes a second entry of the executing fragment among the waiters of the batch that it closes. -/
theorem not_accumulatorsAndBatches : ¬ Obligations.AccumulatorsAndBatches := by
  unfold Obligations.AccumulatorsAndBatches
  rintro ⟨-, hbatches, -⟩
  obtain ⟨hfence, -⟩ := hbatches fenceTwice ringHere fenceRow
  obtain ⟨-, t, g, hnext, hwent, -⟩ := hfence fenceTwice_runs
  have hone : slotAfter (.next t) 0 = some 1 := slotAfter_wentOn hwent rfl
  rw [← hnext, fenceTwice_slot] at hone
  exact absurd hone (by decide)

end

section
/-! Steps of the matrix engine (spec/11 R228, R229, R237 to R242, R251, R253; spec/13 R268): what is read of an accumulator after a write,
of a scratchpad as an operation keeps it, what a step leaves unchanged, and what the operation's last step frees. -/

set_option Elab.async false

namespace Sys2Proof

namespace SMap

variable {α : Type} {m l : SMap α} {k : Nat}

/-- Values written under a key that all agree. -/
theorem getD_foldl_setD_of_forall [DecidableEq α] {d v : α} {l : List (Nat × α)} (hmem : ∃ e ∈ l, e.1 = k)
    (hval : ∀ e ∈ l, e.1 = k → e.2 = v) (m : SMap α) : (l.foldl (fun m e => m.setD d e.1 e.2) m).getD d k = v := by
  rw [getD_foldl_setD]
  cases hf : l.reverse.find? fun e => e.1 == k with
  | none =>
    obtain ⟨e, he, hk⟩ := hmem
    exact absurd (beq_iff_eq.mpr hk) (List.find?_eq_none.mp hf e (List.mem_reverse.mpr he))
  | some e =>
    have he : e ∈ l := List.mem_reverse.mp (List.mem_of_find?_eq_some hf)
    exact hval e he (by simpa using List.find?_some hf)

/-- The entries of a canonical map, written over another. -/
theorem get?_foldl_set_wf (hl : l.wf = true) (m : SMap α) :
    (l.foldl (fun m e => m.set e.1 e.2) m).get? k = (get? l k).or (m.get? k) := by
  induction l generalizing m with
  | nil => rfl
  | cons e l ih =>
    obtain ⟨k', v⟩ := e
    obtain ⟨hlt, hl⟩ := wf_cons.mp hl
    rw [List.foldl_cons, ih hl, get?_cons, get?_set]
    split
    next hk =>
      have hnone : get? l k = none := by
        cases hg : get? l k with
        | none => rfl
        | some x => exact absurd (hlt _ (mem_of_get? hg)) (by simp [hk])
      rw [hnone]
      rfl
    · rfl

theorem get?_filterE_key (q : Nat → Bool) : (m.filterE fun k _ => q k).get? k = if q k then m.get? k else none := by
  split
  next hq =>
    cases hm : m.get? k with
    | none => exact get?_filterE_of_none hm
    | some v => exact get?_filterE_of_keep hm hq
  next hq => exact get?_filterE_of_drop fun _ => Bool.eq_false_iff.mpr hq

theorem get?_modify_self {v : α} {f : α → α} (hv : m.get? k = some v) : (m.modify k f).get? k = some (f v) := by
  rw [get?_modify, if_pos rfl, hv]
  rfl

end SMap

namespace Machine

variable {s t u : State} {m : MOp} {x : Team} {a : Acc} {tile : Nat}

/-! ## The scratchpad of an operation -/

/-- A byte is read as it stood at the acceptance, or where its line was absent then, as it stands. -/
theorem memByte_view {i : ScrImage} (hi : m.image = some i) (hwf : Memory.wf x.scr = true) (b : Nat) :
    memByte (m.view x).scr b = if i.absent.has (b / 128) then memByte x.scr b else memByte i.bytes b := by
  have hlanded : SMap.wf (x.scr.filterE fun k _ => i.absent.has (k / 128)) = true :=
    (SMap.wfD_iff.mp (SMap.wfD_filterE hwf)).1
  have hview : (m.view x).scr = (x.scr.filterE fun k _ => i.absent.has (k / 128)).foldl (fun y e => y.set e.1 e.2)
      (i.bytes.filterE fun k _ => !i.absent.has (k / 128)) := by
    unfold MOp.view
    rw [hi]
    rfl
  unfold memByte SMap.getD
  rw [hview, SMap.get?_foldl_set_wf hlanded, SMap.get?_filterE_key fun k => i.absent.has (k / 128),
    SMap.get?_filterE_key fun k => !i.absent.has (k / 128)]
  cases i.absent.has (b / 128) with
  | true => simp
  | false => simp

/-! ## Elements of an accumulator -/

theorem elem_putElems_ne {k : Nat} (hk : k ≠ tile) (es : List (Nat × W32)) (i j : Nat) :
    (a.putElems tile es).elem k i j = a.elem k i j := by
  unfold Acc.elem Acc.putElems
  rw [SMap.getD_setD_ne _ _ _ hk]

/-- The element that is written, by values that agree. -/
theorem elem_putElems {es : List (Nat × W32)} {i j : Nat} {v : W32} (hmem : ∃ e ∈ es, e.1 = 32 * i + j)
    (hval : ∀ e ∈ es, e.1 = 32 * i + j → e.2 = v) : (a.putElems tile es).elem tile i j = v := by
  unfold Acc.elem Acc.putElems
  rw [SMap.getD_setD_self]
  exact SMap.getD_foldl_setD_of_forall hmem hval _

/-- A whole tile is written, element by element. -/
theorem elem_putElems_all {f : Nat → W32} {i j : Nat} (hi : i < 32) (hj : j < 32) :
    (a.putElems tile ((List.range 1024).map fun y => (y, f y))).elem tile i j = f (32 * i + j) := by
  refine elem_putElems ⟨_, List.mem_map.mpr ⟨32 * i + j, List.mem_range.mpr (by omega), rfl⟩, rfl⟩ fun e he hk => ?_
  obtain ⟨y, -, rfl⟩ := List.mem_map.mp he
  exact congrArg f hk

theorem elem_step {flt : Bool} {rows cols : List (List MVal)} {i j : Nat} {r c : List MVal} (hcols : cols.length = 32)
    (hr : rows[i]? = some r) (hc : cols[j]? = some c) : (a.step tile flt rows cols).elem tile i j = matCell flt (a.elem tile i j) r c := by
  have hlt {k : Nat} {y : List MVal} (hy : cols[k]? = some y) : k < 32 := by
    obtain ⟨hk, -⟩ := List.getElem?_eq_some_iff.mp hy
    omega
  refine elem_putElems ⟨_, List.mem_flatMap.mpr ⟨(r, i), List.mk_mem_zipIdx_iff_getElem?.mpr hr,
    List.mem_map.mpr ⟨(c, j), List.mk_mem_zipIdx_iff_getElem?.mpr hc, rfl⟩⟩, rfl⟩ fun e he hk => ?_
  obtain ⟨⟨r', i'⟩, hr', he⟩ := List.mem_flatMap.mp he
  obtain ⟨⟨c', j'⟩, hc', rfl⟩ := List.mem_map.mp he
  have hr' := List.mk_mem_zipIdx_iff_getElem?.mp hr'
  have hc' := List.mk_mem_zipIdx_iff_getElem?.mp hc'
  have hj := hlt hc
  have hj' := hlt hc'
  dsimp only at hk
  obtain rfl : i' = i := by omega
  obtain rfl : j' = j := by omega
  obtain rfl : r' = r := by simpa [hr] using hr'.symm
  obtain rfl : c' = c := by simpa [hc] using hc'.symm
  rfl

theorem elem_step_ne {flt : Bool} {rows cols : List (List MVal)} {k : Nat} (hk : k ≠ tile) (i j : Nat) :
    (a.step tile flt rows cols).elem k i j = a.elem k i j := elem_putElems_ne hk _ i j

/-- The value of an integer step. -/
theorem ofNat_wrapN (n : Nat) (y : Int) : BitVec.ofNat n (wrapN n y) = BitVec.ofInt n y := by
  refine BitVec.eq_of_toNat_eq ?_
  have hpos : (0 : Int) < 2 ^ n := by positivity
  have hlt : wrapN n y < 2 ^ n := by
    rw [wrapN, Int.toNat_lt (Int.emod_nonneg _ hpos.ne')]
    exact_mod_cast Int.emod_lt_of_pos y hpos
  rw [BitVec.toNat_ofInt, BitVec.toNat_ofNat, Nat.mod_eq_of_lt hlt, wrapN]
  norm_cast

theorem foldl_add_products (l : List (Int × Int)) (c : Int) :
    l.foldl (fun b p => b + p.1 * p.2) c = c + (l.map fun p => p.1 * p.2).sum := by
  induction l generalizing c with
  | nil => simp
  | cons p l ih => rw [List.foldl_cons, ih, List.map_cons, List.sum_cons, Int.add_assoc]

theorem matCell_int (c : W32) (l : List (Int × Int)) : matCell false c (l.map fun p => .int p.1) (l.map fun p => .int p.2) =
    c + BitVec.ofInt 32 (l.map fun p => p.1 * p.2).sum := by
  have hfold := foldl_add_products l c.toNat
  simp only [matCell, Bool.false_eq_true, if_false, List.zip_map', List.foldl_map]
  rw [ofNat_wrapN, hfold, BitVec.ofInt_add, BitVec.ofInt_natCast, BitVec.ofNat_toNat]
  simp

/-! ## What a step leaves unchanged -/

/-- What sees neither counters, nor accumulators, nor teams, nor the Hinges' copies, nor groups, sees no step. -/
theorem matPerform_keeps {γ : Type} (π : State → γ) (hcount : ∀ (s : State) core code n, π (s.countEv core code n) = π s)
    (hπ : ∀ (s : State) accs teams hinges groups, π { s with accs := accs, teams := teams, hinges := hinges, groups := groups } = π s)
    (s : State) (m : MOp) (x : Team) : π (s.matPerform m x) = π s := by
  have hacc (s : State) (k : Nat) (a : Acc) : π (s.putAcc k a) = π s := hπ s _ s.teams s.hinges s.groups
  have hteam (s : State) (k : Nat) (φ : Team → Team) : π (s.modTeam k φ) = π s := hπ s s.accs _ s.hinges s.groups
  have hdrop (s : State) (tid : Nat) (lines : List Nat) : π (s.dropCopies tid lines) = π s := by
    unfold State.dropCopies
    split
    · rfl
    · exact hπ s s.accs s.teams _ s.groups
  unfold State.matPerform
  extract_lets y a
  split
  · exact (hacc _ _ _).trans (hcount _ _ _ _)
  · exact hacc _ _ _
  · exact (hdrop _ _ _).trans (foldl_keeps π (fun s _ => hteam s _ _) _ s)
  · exact hπ s s.accs s.teams s.hinges _
  · exact hacc _ _ _

theorem matPerform_frags (s : State) (m : MOp) (x : Team) : (s.matPerform m x).frags = s.frags :=
  matPerform_keeps State.frags (fun _ _ _ _ => rfl) (fun _ _ _ _ _ => rfl) s m x

theorem matPerform_sameMem (s : State) (m : MOp) (x : Team) : SameMem s (s.matPerform m x) := by
  have hkeep {γ : Type} (π : State → γ) := matPerform_keeps (γ := γ) π
  have hmem := hkeep State.mem (fun _ _ _ _ => rfl) (fun _ _ _ _ _ => rfl) s m x
  have hhost := hkeep State.hostMem (fun _ _ _ _ => rfl) (fun _ _ _ _ _ => rfl) s m x
  have hdom := hkeep State.domMem (fun _ _ _ _ => rfl) (fun _ _ _ _ _ => rfl) s m x
  have hpoison := hkeep State.poison (fun _ _ _ _ => rfl) (fun _ _ _ _ _ => rfl) s m x
  exact ⟨fun b => by rw [hmem], fun b => by rw [hhost], fun b => by rw [hdom], hpoison⟩

theorem cleared_elem (k i j : Nat) : (a.cleared m).elem k i j = a.elem k i j := by
  unfold Acc.cleared
  split <;> rfl

/-- A step that writes no element clears no mark. -/
theorem cleared_of_reads (hm : m.elems.2.2 = []) : a.cleared m = a := by
  unfold Acc.cleared
  generalize m.elems = e at hm
  obtain ⟨tile, rd, wr⟩ := e
  obtain rfl : wr = [] := hm
  split <;> rfl

/-- A load copies the scratchpad's words. -/
theorem matPerform_load {off str i j : Nat} (hk : m.kind = .load tile off str) (hi : i < 32) (hj : j < 32) :
    ((s.matPerform m x).acc m.team).elem tile i j = BitVec.ofNat 32 (readLE (m.view x).scr (off + i * str + 4 * j) 4) := by
  unfold State.matPerform
  rw [hk]
  dsimp only
  rw [acc_putAcc, if_pos rfl, elem_putElems_all hi hj, Nat.mul_add_div (by decide), Nat.div_eq_of_lt hj, Nat.mul_add_mod,
    Nat.mod_eq_of_lt hj]
  rfl

/-- A read makes the outstanding write of its registers ready. -/
theorem matPerform_read_pend {pend first n reg : Nat} {col : Bool} {lanes : W32} (hk : m.kind = .read tile pend first n col reg lanes)
    {g : Group} {p : Pend} (hg : s.groups.get? m.group = some g) (hp : g.pend.get? pend = some p) :
    ∃ g' p', (s.matPerform m x).groups.get? m.group = some g' ∧ g'.pend.get? pend = some p' ∧ p'.ready = true ∧ p'.regs = p.regs := by
  unfold State.matPerform
  rw [hk]
  exact ⟨_, _, modGroup_group hg, SMap.get?_modify_self hp, rfl, rfl⟩

/-! ## The steps of an operation -/

theorem core_modGroup (s : State) (k j : Nat) (φ : Group → Group) : (s.modGroup k φ).core j = s.core j := rfl

/-- The number of steps of an operation. -/
def MOp.stepCount (m : MOp) : Nat := match m.kind with | .steps _ _ tiles .. => tiles.length | _ => 1

/-- A step has been performed, and its pairs that it wrote whole bear no mark. -/
def State.matStepped (s : State) (m : MOp) (x : Team) : State :=
  (s.matPerform m x).putAcc m.team (((s.matPerform m x).acc m.team).cleared m)

/-- The operation stands at its next step, or has left the sequencer after its last. -/
def State.matAdvanced (s : State) (core id : Nat) (m : MOp) : State :=
  if m.next + 1 < m.stepCount then s.modCore core fun c => { c with mops := c.mops.set id { m with next := m.next + 1 } }
  else s.dropMop core id m

section
variable {core id : Nat} (hm : (s.core core).mops.get? id = some m) (hx : s.teams.get? m.team = some x)
  (hready : (s.core core).matReady x id m = true)
include hm hx hready

theorem exec_matrixStep_scrBad (hbad : (m.needs.any fun r => (m.view x).scrBad r.1 r.2) = true) :
    exec (.matrixStep core id) s = .next (s.mopError core id m 3) := by
  change execMatrixStep core id s = _
  simp only [execMatrixStep, hm, hx, hready, hbad]
  rfl

variable (hgood : (m.needs.any fun r => (m.view x).scrBad r.1 r.2) = false)
include hgood

theorem exec_matrixStep_consumes (hbad : (s.acc m.team).consumes m = true) :
    exec (.matrixStep core id) s = .next (s.mopError core id m 4) := by
  change execMatrixStep core id s = _
  simp only [execMatrixStep, hm, hx, hready, hgood, hbad]
  rfl

theorem exec_matrixStep_performs (hclean : (s.acc m.team).consumes m = false) :
    exec (.matrixStep core id) s = .next ((s.matStepped m x).matAdvanced core id m) := by
  have hsplit : (Host.Outcome.next ((s.matStepped m x).matAdvanced core id m) : Host.Outcome State Fault Refusal) =
      if m.next + 1 < m.stepCount then
        .next ((s.matStepped m x).modCore core fun c => { c with mops := c.mops.set id { m with next := m.next + 1 } })
      else .next ((s.matStepped m x).dropMop core id m) := apply_ite _ _ _ _
  change execMatrixStep core id s = _
  rw [hsplit]
  simp only [execMatrixStep, hm, hx, hready, hgood, hclean]
  rfl

end

section
variable (s m) (core id : Nat)

/-- Going on to the next step, or leaving, concerns the core and the group alone. -/
theorem matAdvanced_keeps {γ : Type} (π : State → γ)
    (hπ : ∀ (s : State) cores groups, π { s with cores := cores, groups := groups } = π s) : π (s.matAdvanced core id m) = π s := by
  have hcore (s : State) (k : Nat) (φ : Core → Core) : π (s.modCore k φ) = π s := hπ s _ s.groups
  have hgroup (s : State) (k : Nat) (φ : Group → Group) : π (s.modGroup k φ) = π s := hπ s s.cores _
  unfold State.matAdvanced State.dropMop State.haspDrop
  split
  · exact hcore _ _ _
  · exact (hgroup _ _ _).trans ((hcore _ _ _).trans (hcore _ _ _))

theorem matAdvanced_sameMem : SameMem s (s.matAdvanced core id m) :=
  ⟨fun b => congrArg (memByte · b) (matAdvanced_keeps s m core id State.mem fun _ _ _ => rfl),
    fun b => congrArg (memByte · b) (matAdvanced_keeps s m core id State.hostMem fun _ _ _ => rfl),
    fun b => congrArg (memByte · b) (matAdvanced_keeps s m core id State.domMem fun _ _ _ => rfl),
    matAdvanced_keeps s m core id State.poison fun _ _ _ => rfl⟩

variable {m}

theorem matAdvanced_next (hn : m.next + 1 < m.stepCount) :
    ((s.matAdvanced core id m).core core).mops.get? id = some { m with next := m.next + 1 } := by
  rw [State.matAdvanced, if_pos hn, core_modCore, if_pos rfl]
  exact SMap.get?_set_self _ _ _

/-- After its last step the operation is out of the sequencer, its entries are free, and its group has it open no more. -/
theorem matAdvanced_last (hn : m.stepCount ≤ m.next + 1) : ((s.matAdvanced core id m).core core).mops.get? id = none ∧
    (∀ k ∈ m.entries, ((s.matAdvanced core id m).core core).hasp.has k = false) ∧
    ∀ g, (s.matAdvanced core id m).groups.get? m.group = some g → id ∉ g.openOps := by
  have hcore : (s.matAdvanced core id m).core core =
      { (s.haspDrop core m.entries).core core with mops := ((s.haspDrop core m.entries).core core).mops.erase id } := by
    rw [State.matAdvanced, if_neg (Nat.not_lt.mpr hn), State.dropMop, core_modGroup, core_modCore, if_pos rfl]
  refine ⟨?_, fun k hk => ?_, fun g hg => ?_⟩
  · rw [hcore]
    exact (SMap.get?_erase _ _ _).trans (if_pos rfl)
  · rw [hcore]
    exact haspDrop_free hk
  · rw [State.matAdvanced, if_neg (Nat.not_lt.mpr hn), State.dropMop, State.modGroup_groups, SMap.get?_modify, if_pos rfl] at hg
    obtain ⟨g', -, rfl⟩ := Option.map_eq_some_iff.mp hg
    simp

end

section
variable (core id : Nat)

theorem matStepped_accs : ((s.matStepped m x).matAdvanced core id m).accs = (s.matStepped m x).accs :=
  matAdvanced_keeps _ m core id State.accs fun _ _ _ => rfl

/-- What the team's accumulators hold at the end is what the step's last write left. -/
theorem matStepped_acc (k : Nat) : ((s.matStepped m x).matAdvanced core id m).acc k =
    if k = m.team then ((s.matPerform m x).acc m.team).cleared m else (s.matPerform m x).acc k := by
  rw [State.acc, matStepped_accs]
  exact acc_putAcc _ _ _ _

theorem matStepped_load {off str i j : Nat} (hk : m.kind = .load tile off str) (hi : i < 32) (hj : j < 32) :
    (((s.matStepped m x).matAdvanced core id m).acc m.team).elem tile i j =
      BitVec.ofNat 32 (readLE (m.view x).scr (off + i * str + 4 * j) 4) := by
  rw [matStepped_acc, if_pos rfl, cleared_elem, matPerform_load hk hi hj]

section
variable {pend first n reg : Nat} {col : Bool} {lanes : W32} (hk : m.kind = .read tile pend first n col reg lanes)
include hk

/-- A read leaves every accumulator. -/
theorem matStepped_read_acc (k : Nat) : ((s.matStepped m x).matAdvanced core id m).acc k = s.acc k := by
  have hsame (j : Nat) : (s.matPerform m x).acc j = s.acc j := by
    unfold State.matPerform
    rw [hk]
    rfl
  have hnone : m.elems.2.2 = [] := by
    unfold MOp.elems
    rw [hk]
  rw [matStepped_acc, cleared_of_reads hnone, hsame, hsame]
  split
  next hj => rw [hj]
  · rfl

theorem matStepped_read_pend {g : Group} {p : Pend} (hg : s.groups.get? m.group = some g) (hp : g.pend.get? pend = some p) :
    ∃ g' p', ((s.matStepped m x).matAdvanced core id m).groups.get? m.group = some g' ∧ g'.pend.get? pend = some p' ∧
      p'.ready = true ∧ p'.regs = p.regs := by
  have hcount : m.stepCount = 1 := by
    unfold MOp.stepCount
    rw [hk]
  obtain ⟨g', p', hg', hp', hready⟩ := matPerform_read_pend hk hg hp
  rw [State.matAdvanced, if_neg (by omega), State.dropMop]
  exact ⟨_, p', modGroup_group hg', hp', hready⟩

end

end

end Machine
end Sys2Proof

open Sys2Proof Sys2Proof.Machine

/-- Settles O38: a step that finds no error performs and then advances its operation, so that what it changes is read off the two in turn;
the scratchpad it reads and the element it writes are each given by a fold of writes. -/
theorem matrixSteps : Obligations.MatrixSteps := by
  unfold Obligations.MatrixSteps
  refine ⟨fun s core id m t hm ht hready => ⟨exec_matrixStep_scrBad hm ht hready, exec_matrixStep_consumes hm ht hready,
    fun hgood hclean => ?_⟩, fun m t i a hi _ hwf => memByte_view hi hwf a, fun a tile flt rows cols _ hcols =>
    ⟨fun i j r c hr hc => elem_step hcols hr hc, fun k i j hk => elem_step_ne hk i j⟩, matCell_int⟩
  have hframe := matAdvanced_sameMem (s.matStepped m t) m core id
  refine ⟨_, exec_matrixStep_performs hm ht hready hgood hclean, (matPerform_sameMem s m t).trans hframe, matStepped_accs core id, ?_, ?_,
    matAdvanced_next _ core id, matAdvanced_last _ core id, fun tile off str hk i j hi hj => matStepped_load core id hk hi hj,
    fun tile pend first c col reg lanes hk => ⟨matStepped_read_acc core id hk, fun g p => matStepped_read_pend core id hk⟩⟩
  · exact matAdvanced_keeps _ m core id State.teams fun _ _ _ => rfl
  · exact (matAdvanced_keeps _ m core id State.frags fun _ _ _ => rfl).trans (matPerform_frags s m t)

end
